-- ==== Sys2Proof/Word.lean ====
section
/-! DEFINITION. The words of the machine and their plainest arithmetic: 64-bit workspace words (R257),
32-bit instruction words (R242) and bytes, little-endian (R4). -/

namespace Sys2Proof

/-- A workspace word, an effective address or a control-register value (R257). -/
abbrev Word := BitVec 64

/-- One byte of storage. -/
abbrev Byte := BitVec 8

/-- An instruction word (R242). -/
abbrev IWord := BitVec 32

end Sys2Proof
end

