-- ==== Sys2Proof/Config.lean ====
section
/-! DEFINITION. What the spec leaves to an implementation or leaves open: constants without a body, so that no
proof can see their values (log 5). -/

namespace Sys2Proof

/-- A free value, read at a counter that the step advances (log 5). -/
opaque Config.freeValue : Nat → Word

/-- What of the SPDM responder's answers the spec does not give (R417): the device's certificate chain, its signature over what
has been said up to a message, and its key share for an exchange. -/
opaque Config.deviceChain : List Byte
opaque Config.deviceSign : (transcript msg : List Byte) → List Byte
opaque Config.keyShare : (transcript msg : List Byte) → List Byte

/-- Does a request, which comes in its order and offers what the responder needs, verify in all else (R417)? -/
opaque Config.spdmAccepts : (msg transcript : List Byte) → Bool

/-- The secret of the session that a key exchange opens, and the key and the nonce of the host's messages under it (R417). -/
opaque Config.spdmSecret : (msg transcript : List Byte) → Nat
opaque Config.sessionKey : (secret : Nat) → List Byte
opaque Config.sessionNonce : (secret : Nat) → Nat

/-- The digest of the boot ROM (R417). -/
opaque Config.romDigest : BitVec 384

/-- The payload of a control flit that says a thing of a kind (R425 to R427), and what one that arrives says: kind and value; its
layout is not in the spec. -/
opaque Config.controlPayload : (kind val : Nat) → Nat
opaque Config.controlKind : (payload : Nat) → Nat
opaque Config.controlVal : (payload : Nat) → Nat

/-- The way and direction that each of the six spare fibres serves: 2 × direction, plus 1 for the transmit way (R426). -/
opaque Config.spareServes : Nat → Nat

/-- Where the hand-over record stands in HBM, and its bytes (R418): area and layout are not in the spec. -/
opaque Config.handoverBase : Nat
opaque Config.handoverBytes : (contents : List Nat) → List Byte

/-- The address at which the body of a firmware image stands when the threads enter it (R416, R418). -/
opaque Config.fwBase : Nat

/-- The fused key hashes and whether each is revoked (R416). -/
opaque Config.fusedKeyHash : Nat → BitVec 384
opaque Config.keyRevoked : Nat → Bool

/-- Time-outs given in microseconds and milliseconds against core cycles at 1.8 GHz (R3). -/
def Config.cyclesPerUs : Nat := 1800

end Sys2Proof
end

