-- ==== Sys2Proof/Syntax.lean ====
section
/-! DEFINITION. The abstract syntax: one constructor of `Instr` per row of the opcode table. Rows that a
32-bit word encodes carry the word's fields, already read as names and numbers (R239, R242); rows that no
word encodes are steps of the hardware, and carry the number of the hart, entry, register or message concerned. -/

namespace Sys2Proof

/-- The element types of R97, codes 0 to 11. -/
inductive ElemType where
  | i8 | i16 | i32 | i64 | n8 | n16 | n32 | n64 | bf16 | fp16 | fp32 | lg6
  deriving DecidableEq, Repr

/-- The sync modes 0 to 5 of R88. -/
inductive SyncMode where
  | plain | wfull | take | fill | put | probe
  deriving DecidableEq, Repr

/-- The order codes of R202. -/
inductive Order where
  | acq | rel | acqrel | sc
  deriving DecidableEq, Repr

/-- The scope codes of R202. -/
inductive Scope where
  | hart | core | cluster | device | group
  deriving DecidableEq, Repr

/-- The table kinds of R128. -/
inductive TblKind where
  | sub | sgn | trn
  deriving DecidableEq, Repr

/-- The STYPE keywords of TBUILD (R252). -/
inductive SrcType where
  | bf16 | fp16 | fp32 | i8
  deriving DecidableEq, Repr

/-- The weight forms of MMT (R132). -/
inductive Form where
  | w1 | w2t | w2 | w3 | w4 | t5
  deriving DecidableEq, Repr

/-- The operand types of MMD (R252). -/
inductive MmdType where
  | bf16 | fp16 | lg6
  deriving DecidableEq, Repr

/-- The barrier kinds of BARW (R192). -/
inductive BarKind where
  | row | col | rect
  deriving DecidableEq, Repr

/-- The operations of VOTE (R194). -/
inductive VoteOp where
  | all | any | sum | max
  deriving DecidableEq, Repr

/-- The NM field of FMT (R113): the hart's NANMODE, or one of the two values. -/
inductive NmSel where
  | hart | zero | one
  deriving DecidableEq, Repr

/-- A stream field of format V: the pointer's number and its post-increment bit (R242). -/
structure SRef where
  ptr : Fin 8
  inc : Bool
  deriving DecidableEq, Repr

/-- The ordering role of an atomic: absent with OE 0, else ORDER and SCOPE (R250). -/
abbrev Role := Option (Order × Scope)

/-- The register blocks that a Control Port or Trestle access names (R407). -/
inductive RegSpace where
  | cluster (n : Nat) | keystone | trestle
  deriving DecidableEq, Repr

/-- Why a target refuses an access: the REASON codes of R223. -/
inductive RefuseReason where
  | absent | noStorage | cacheMode
  deriving DecidableEq, Repr

/-- One entry of a batch manifest (R65): its kind and its non-U regions as physical tiles with W rights or not. -/
inductive EntryKind where
  | txn | void | marker (group : Bool) | gangStart
  deriving DecidableEq, Repr

/-- A tile request: the physical tile number and whether it is exclusive (R51). -/
structure TileReq where
  tile : Nat
  excl : Bool
  push : Bool
  deriving DecidableEq, Repr

/-- A manifest entry (R65). -/
structure ManifestEntry where
  kind : EntryKind
  reqs : List TileReq
  deriving DecidableEq, Repr

/-- The instructions and steps: one constructor per row of the opcode table. `sw` is the switch marker (bit 31). -/
inductive Instr where
  -- majors 0x01 to 0x04 (R263)
  | add (sw : Bool) (d a b : Fin 32) | sub (sw : Bool) (d a b : Fin 32)
  | and (sw : Bool) (d a b : Fin 32) | or (sw : Bool) (d a b : Fin 32)
  | xor (sw : Bool) (d a b : Fin 32) | andn (sw : Bool) (d a b : Fin 32)
  | addsat (sw : Bool) (d a b : Fin 32) | subsat (sw : Bool) (d a b : Fin 32)
  | sll (sw : Bool) (d a b : Fin 32) | srl (sw : Bool) (d a b : Fin 32)
  | sra (sw : Bool) (d a b : Fin 32) | rol (sw : Bool) (d a b : Fin 32)
  | ror (sw : Bool) (d a b : Fin 32)
  | clz (sw : Bool) (d a : Fin 32) | ctz (sw : Bool) (d a : Fin 32) | popc (sw : Bool) (d a : Fin 32)
  | brev (sw : Bool) (d a : Fin 32) | bswap (sw : Bool) (d a : Fin 32)
  | mul (sw : Bool) (d a b : Fin 32) | mulh (sw : Bool) (d a b : Fin 32)
  | mulhn (sw : Bool) (d a b : Fin 32) | div (sw : Bool) (d a b : Fin 32)
  | divn (sw : Bool) (d a b : Fin 32) | rem (sw : Bool) (d a b : Fin 32)
  | remn (sw : Bool) (d a b : Fin 32)
  | slt (sw : Bool) (d a b : Fin 32) | sltn (sw : Bool) (d a b : Fin 32)
  | seq (sw : Bool) (d a b : Fin 32) | min (sw : Bool) (d a b : Fin 32)
  | max (sw : Bool) (d a b : Fin 32) | minn (sw : Bool) (d a b : Fin 32)
  | maxn (sw : Bool) (d a b : Fin 32)
  -- majors 0x05 to 0x0C (R265, R266)
  | addi (sw : Bool) (d a : Fin 32) (imm : BitVec 15) | andi (sw : Bool) (d a : Fin 32) (imm : BitVec 15)
  | ori (sw : Bool) (d a : Fin 32) (imm : BitVec 15) | xori (sw : Bool) (d a : Fin 32) (imm : BitVec 15)
  | slti (sw : Bool) (d a : Fin 32) (imm : BitVec 15) | sltin (sw : Bool) (d a : Fin 32) (imm : BitVec 15)
  | lapc (sw : Bool) (d : Fin 32) (imm : BitVec 15)
  | slli (sw : Bool) (d a : Fin 32) (n : Fin 64) | srli (sw : Bool) (d a : Fin 32) (n : Fin 64)
  | srai (sw : Bool) (d a : Fin 32) (n : Fin 64) | rori (sw : Bool) (d a : Fin 32) (n : Fin 64)
  -- majors 0x10 to 0x17 (R268 to R271)
  | beq (sw : Bool) (a b : Fin 32) (off : BitVec 15) | bne (sw : Bool) (a b : Fin 32) (off : BitVec 15)
  | blt (sw : Bool) (a b : Fin 32) (off : BitVec 15) | bge (sw : Bool) (a b : Fin 32) (off : BitVec 15)
  | bltn (sw : Bool) (a b : Fin 32) (off : BitVec 15) | bgen (sw : Bool) (a b : Fin 32) (off : BitVec 15)
  | jal (sw : Bool) (off : BitVec 25)
  | jalr (sw : Bool) (d a : Fin 32) | jtb (sw : Bool) (d a b : Fin 32)
  -- majors 0x18 to 0x1C (R272 to R278)
  | ld (sw : Bool) (d a : Fin 32) (imm : BitVec 15)
  | st (sw : Bool) (base data : Fin 32) (imm : BitVec 15)
  | lxb (sw : Bool) (d a b : Fin 32) (m : SyncMode) | lxbn (sw : Bool) (d a b : Fin 32) (m : SyncMode)
  | lxh (sw : Bool) (d a b : Fin 32) (m : SyncMode) | lxhn (sw : Bool) (d a b : Fin 32) (m : SyncMode)
  | lxw (sw : Bool) (d a b : Fin 32) (m : SyncMode) | lxwn (sw : Bool) (d a b : Fin 32) (m : SyncMode)
  | lxd (sw : Bool) (d a b : Fin 32) (m : SyncMode)
  | lxdRemote (sw : Bool) (slot : Fin 16) (a b : Fin 32) (m : SyncMode)
  | sxb (sw : Bool) (d a b : Fin 32) (m : SyncMode) | sxh (sw : Bool) (d a b : Fin 32) (m : SyncMode)
  | sxw (sw : Bool) (d a b : Fin 32) (m : SyncMode) | sxd (sw : Bool) (d a b : Fin 32) (m : SyncMode)
  | ldm (sw : Bool) (a b c : Fin 32) (m : SyncMode) | stm (sw : Bool) (a b c : Fin 32) (m : SyncMode)
  -- majors 0x1D and 0x1E (R279 to R282)
  | aswap (sw : Bool) (a b c : Fin 32) (r : Role) | aadd (sw : Bool) (a b c : Fin 32) (r : Role)
  | aand (sw : Bool) (a b c : Fin 32) (r : Role) | aor (sw : Bool) (a b c : Fin 32) (r : Role)
  | axor (sw : Bool) (a b c : Fin 32) (r : Role) | amin (sw : Bool) (a b c : Fin 32) (r : Role)
  | amax (sw : Bool) (a b c : Fin 32) (r : Role) | aminn (sw : Bool) (a b c : Fin 32) (r : Role)
  | amaxn (sw : Bool) (a b c : Fin 32) (r : Role) | acas (sw : Bool) (a b c : Fin 32) (r : Role)
  | fence (sw : Bool) (o : Order) (sc : Scope)
  | ldsc (sw : Bool) (a b : Fin 32) (sc : Scope) | stsc (sw : Bool) (a b : Fin 32) (sc : Scope)
  -- majors 0x20 to 0x28 (R293)
  | vadd (sw : Bool) (d a b : SRef) (t : ElemType) | vsub (sw : Bool) (d a b : SRef) (t : ElemType)
  | vmul (sw : Bool) (d a b : SRef) (t : ElemType) | vdiv (sw : Bool) (d a b : SRef) (t : ElemType)
  | vmin (sw : Bool) (d a b : SRef) (t : ElemType) | vmax (sw : Bool) (d a b : SRef) (t : ElemType)
  | vabs (sw : Bool) (d a : SRef) (t : ElemType) | vneg (sw : Bool) (d a : SRef) (t : ElemType)
  | vsqrt (sw : Bool) (d a : SRef) (t : ElemType)
  | vfma (sw : Bool) (d a b c : SRef) (t : ElemType) | vfms (sw : Bool) (d a b c : SRef) (t : ElemType)
  | vfnma (sw : Bool) (d a b c : SRef) (t : ElemType) | vfnms (sw : Bool) (d a b c : SRef) (t : ElemType)
  | vand (sw : Bool) (d a b : SRef) (t : ElemType) | vor (sw : Bool) (d a b : SRef) (t : ElemType)
  | vxor (sw : Bool) (d a b : SRef) (t : ElemType) | vandn (sw : Bool) (d a b : SRef) (t : ElemType)
  | vnot (sw : Bool) (d a : SRef) (t : ElemType)
  | vshl (sw : Bool) (d a b : SRef) (t : ElemType) | vshr (sw : Bool) (d a b : SRef) (t : ElemType)
  | vshra (sw : Bool) (d a b : SRef) (t : ElemType)
  | vceq (sw : Bool) (d a b : SRef) (t : ElemType) | vcne (sw : Bool) (d a b : SRef) (t : ElemType)
  | vclt (sw : Bool) (d a b : SRef) (t : ElemType) | vcle (sw : Bool) (d a b : SRef) (t : ElemType)
  | vsel (sw : Bool) (d a b c : SRef) (t : ElemType)
  | vcvt (sw : Bool) (d a : SRef) (dt st : ElemType)
  | vpack6 (sw : Bool) (d a b : SRef) (t : ElemType) | vunpk6 (sw : Bool) (d a b : SRef) (t : ElemType)
  | vperm (sw : Bool) (d a b c : SRef) (t : ElemType)
  | vbcast (sw : Bool) (d a : SRef) (t : ElemType) | vrot (sw : Bool) (d a b : SRef) (t : ElemType)
  | vzip (sw : Bool) (d a b : SRef) (t : ElemType) | vunzip (sw : Bool) (d a : SRef) (t : ElemType)
  | vrsum (sw : Bool) (d a b : SRef) (t : ElemType) | vrmax (sw : Bool) (d a b : SRef) (t : ElemType)
  | vrmin (sw : Bool) (d a b : SRef) (t : ElemType) | vrdot (sw : Bool) (d a b c : SRef) (t : ElemType)
  | vmov (sw : Bool) (d a : SRef) (t : ElemType) | vzero (sw : Bool) (d : SRef) (t : ElemType)
  -- majors 0x30 to 0x34 (R315 to R324)
  | lease (sw : Bool) (a b c : Fin 32) | unlease (sw : Bool) | unleaseDiscard (sw : Bool)
  | acswap (sw : Bool) (acc : Fin 4) | acswapZero (sw : Bool) (acc : Fin 4)
  | tbspill (sw : Bool) (tb : Fin 8) | tbfill (sw : Bool) (tb : Fin 8)
  | tbuild (sw : Bool) (tb : Fin 8) (b c : Fin 32) (kind : TblKind) (st : SrcType) (mc : Bool)
  | tbuildRcv (sw : Bool) (tb : Fin 8)
  | mmt (sw : Bool) (acc : Fin 4) (b c : Fin 32) (form : Form) (signed last : Bool) (tb : Fin 8)
  | mmd (sw : Bool) (acc : Fin 4) (b c : Fin 32) (ta tb : MmdType)
  | acrd (sw : Bool) (acc : Fin 4) (b : Fin 32) | acrdWorking (sw : Bool) (acc : Fin 4) (b : Fin 32)
  -- majors 0x35 and 0x36 (R325, R326)
  | mskld (sw : Bool) (ctx : Fin 4) (b : Fin 32) | mskcls (sw : Bool) (ctx : Fin 4) (a b : Fin 32)
  | mskel (sw : Bool) (ctx : Fin 4) (a b c : Fin 32) | mskcnt (sw : Bool) (ctx : Fin 4) (a : Fin 32) (clr : Bool)
  | kvcommit (sw : Bool) (a b : Fin 32)
  -- majors 0x38 and 0x39 (R327 to R330)
  | copy (sw : Bool) (a : Fin 32) | gather (sw : Bool) (a : Fin 32) | scatter (sw : Bool) (a : Fin 32)
  | scadd (sw : Bool) (a : Fin 32) | idem (sw : Bool) | idemClose (sw : Bool)
  | evwait (sw : Bool) (a line l : Fin 32)
  | wlpush (sw : Bool) (list : Fin 4) (b : Fin 32) | wlins (sw : Bool) (list : Fin 4) (a b : Fin 32)
  | wlpopb (sw : Bool) (list : Fin 4) (a : Fin 32) (nm1 : Fin 16) (l : Fin 32)
  -- major 0x3C (R335 to R344)
  | txsub (sw : Bool) (a b : Fin 32) | txscout (sw : Bool) (b : Fin 32) | txchk (sw : Bool) (b c : Fin 32)
  | txend (sw : Bool) | inbox (sw : Bool) (a : Fin 32) | done (sw : Bool) (a : Fin 32)
  -- major 0x3D (R345 to R349)
  | send (sw : Bool) (a b : Fin 32) | recv (sw : Bool) (a : Fin 32) (slot : Fin 16)
  | qpush (sw : Bool) (a b l : Fin 32) | qpop (sw : Bool) (a b l : Fin 32)
  | barw (sw : Bool) (kind : BarKind) (l : Fin 32) | vote (sw : Bool) (a b : Fin 32) (op : VoteOp) (l : Fin 32)
  -- major 0x3E (R350 to R358)
  | rett (sw : Bool) (a : Fin 32) | ctlr (sw : Bool) (a : Fin 32) (n : Fin 1024)
  | ctlw (sw : Bool) (a : Fin 32) (n : Fin 1024) | wpsw (sw : Bool) (a : Fin 32) | idle (sw : Bool)
  | tlball (sw : Bool) | tlbasid (sw : Bool) (a : Fin 32) | tlbpage (sw : Bool) (a b : Fin 32)
  | icinv (sw : Bool) | dcinv (sw : Bool) | trap (sw : Bool) (code : Fin 256) (a : Fin 32)
  -- major 0x3F (R113, R254)
  | fmt (st dt : Option ElemType) (nm : NmSel) (ftz sat : Bool)
  | rep (count : BitVec 16) | lix (hi : BitVec 22)
  -- harts: results, parks, interrupts and asynchronous traps, words of no instruction (R10 to R21, R215 to R224, R256);
  -- `h` is a hart number, `i` an index into the list of accesses in flight unless said otherwise
  | resultReturn (h i : Nat) | forcedPark (core : Nat) | interruptEntry (h : Nat) | asyncTrapEntry (h : Nat)
  | cancelAnswer (h : Nat) | timerInterrupt (h : Nat) | unassignedEncoding (w : IWord)
  -- messages, accesses at their targets, memory controllers and banks (R81, R83, R90, R91, R183, R184, R201, R223, R224, R233, R262)
  | messageArrival (i : Nat) | messageResend (i : Nat) | remoteLoadReply (i : Nat) | remoteLoadRefusal (i : Nat)
  | postedStoreAck (i : Nat) | postedStoreRefusal (i : Nat) | loadRefusal (i : Nat) | remoteAccessArrival (i : Nat)
  | syncAccessArrival (i : Nat) | accessResend (i : Nat) | bankModeChangeDone (cl b : Nat)
  | fifoAccessResume (cl b : Nat)
  -- deadlock probes, bounds, barriers and votes (R188 to R196)
  | deadlockProbe (h : Nat) | probeReceive (i : Nat) | victimNotice (i : Nat) | waitBoundExpiry (h : Nat)
  | leaseTimeout (h : Nat) | barrierRelease (gang : Nat) (kind : BarKind) (dom : Nat) | voteResult (gang : Nat)
  -- Keystone and the abutments (R24, R29, R39, R50 to R56)
  | lockRequest (ab : Nat) | lockRelease (i : Nat) | grantArrival (i : Nat) | dispatch (stage : Nat)
  | gangDispatch (stage : Nat) | gangReservation (stage : Nat) | stageMove (core : Nat)
  -- cuts, resumption, launch ends (R32 to R36, R69, R228 to R234, R337, R403)
  | hartCut (h : Nat) | saveRecordWrite (h : Nat) | sealedBudgetExpiry (h : Nat) | hartResume (i core slot : Nat)
  | gangResume (gang deck x y : Nat) | markerArrival (unit input : Nat) | doneTreeReport (tag core : Nat)
  | launchEndMarker (tag : Nat) | launchCompletion (tag : Nat)
  -- lookup array, mask unit and copy engine of cluster `cl`; `i` indexes the unit's command or job list
  | leaseGrant (cl : Nat) | leasePeriodExpiry (cl : Nat) | leaseIdleExpiry (cl : Nat)
  | tableBuildComplete (cl i : Nat) | mmtComplete (cl i : Nat) | mmdComplete (cl i : Nat)
  | accumulatorExchange (cl i : Nat) | multicastCopyArrival (cl i : Nat) | staleNotice (cl i : Nat)
  | kvcommitTakePerformed (cl i : Nat) | jobStart (cl i : Nat) | jobFinish (cl i : Nat)
  -- packets of queue `q`, and Trestle (R393, R396 to R404)
  | nop (q : Nat) | launch (q : Nat) | close (q : Nat) | wait (q : Nat) | write (q : Nat) | indirect (q : Nat)
  | wake (q : Nat) | regwrite (q : Nat) | cut (q : Nat) | stage (q : Nat) | switch (q : Nat) | graph (q : Nat)
  | waitConditionRead (q : Nat) | waitSliceExpiry (q : Nat) | trestleInstruction (t : Nat)
  -- fetch faults; timers of Keystone, the Causeway and the caches (R28, R47, R65 to R67, R190, R201, R208, R209, R216, R428, R429)
  -- `pa` of a group SC frame: the physical address in bits 51..0, the key slot of its translation above (R209, R413)
  | fetchFault | scWindowClose | batchCloseTimer | tokenHold
  | manifestReceive (pos batch : Nat) (es : List ManifestEntry)
  | groupScFrame (module core slot pa : Nat) (store : Option Word) | tokenLoss (pos : Nat)
  | groupFormation (pos n trot b0 : Nat) (mods : List Nat) | groupReform (pos : Nat) | stageGovernorEvaluation | pushpoolResize
  | dataCacheLineExpiry (core i : Nat) | clusterCacheLineExpiry (cl i : Nat)
  -- the Control Port and Trestle's registers (R394, R395, R401 to R405)
  | controlPortWrite (pa : Nat) (data : List Byte) | controlPortRead (pa : Nat) | waitDeadlock
  | graphTrigger (v : Word) | qwptrWrite (q : Nat) (v : Word) | qwakeWrite (q : Nat) | qfaultResume (q : Nat)
  | qfaultSkip (q : Nat)
  -- register writes with rows of their own; `cp` says that the Control Port makes the write
  | monsend (cp : Bool) (v : Word) | wakesend (v : Word) | tlbinvAll (cp : Bool) | tlbinvAsid (cp : Bool) (asid : Nat)
  | tlbinvPage (cp : Bool) (asid va : Nat) | keycmdLoad (cp : Bool) (slot : Nat)
  | keycmdClear (cp : Bool) (slot : Nat) | keySlotInstalled | fwhbOk (cp : Bool) | fwhbRefuse (cp : Bool)
  | fwhbTimeout | csbmodeWrite (cl : Nat) (v : Word) | fifocntWrite (cl b : Nat) | evlineWrite (cl e : Nat)
  | wlrecWrite (cl l : Nat) (v : Word) | qrecWrite (q : Nat) (v : Word) | sgthrWrite (st : Nat) (v : Word)
  | pushpoolWrite (v : Word) | counterClear (sp : RegSpace) (off : Nat)
  | registerWrite (cp : Bool) (sp : RegSpace) (off : Nat) (v : Word)
  -- firmware, boot and the management channel (R416 to R419, R433)
  | firmwareUpdate | svnfloorRaise (v : Nat) | reset | secureBoot | getVersion (msg : List Byte)
  | getCapabilities (msg : List Byte) | negotiateAlgorithms (msg : List Byte) | getDigests (msg : List Byte)
  | getCertificate (msg : List Byte) | challenge (msg : List Byte) | getMeasurements (msg : List Byte)
  | keyExchange (msg : List Byte) | finish (msg : List Byte)
  | securedMessage (key : Bool) (n : Nat) (data : List Byte)
  -- links of direction `dir` and strand `st` (R422, R424 to R427), power and heat (R431, R432), starting harts (R27)
  | linkTraining (dir : Nat) (umpel : Bool) | flitReceive (dir st : Nat) (flit : BitVec 256)
  | replayRequest (dir st good : Nat) | flitAcknowledge (dir st upto : Nat)
  | bitmapAcknowledge (dir st : Nat) (map : BitVec 64) | retrainComplete (dir st wl : Nat)
  | routingTableFailedMark (module dir : Nat) | powerCapCheck (watts temp inlet flow : Nat)
  | thermalThrottle (temp : Nat) | thermalTrip (temp : Nat) | thermalResume (temp : Nat)
  | residentLoopStart (h : Nat) (pc : Word) (wp : Nat) (hsw : Word)
  deriving DecidableEq, Repr

end Sys2Proof
end

