-- ==== Sys2Proof/WellFormed.lean ====
section
/-! DEFINITION. Which instructions have an encoding: the conditions between the fields of one word that
R243, R246, R249 to R254 and R293 state. Every violation makes the word illegal (R256). -/

namespace Sys2Proof

/-- The element types 0 to 10: all but lg6 (R293). -/
def ElemType.isArith : ElemType → Bool
  | .lg6 => false
  | _ => true

/-- The float element types 8 to 10 (R293). -/
def ElemType.isFloat : ElemType → Bool
  | .bf16 | .fp16 | .fp32 => true
  | _ => false

/-- The integer element types 0 to 7 (R293). -/
def ElemType.isInt : ElemType → Bool
  | .bf16 | .fp16 | .fp32 | .lg6 => false
  | _ => true

/-- Element size in bytes (R97). -/
def ElemType.size : ElemType → Nat
  | .i8 | .n8 | .lg6 => 1
  | .i16 | .n16 | .bf16 | .fp16 => 2
  | .i32 | .n32 | .fp32 => 4
  | .i64 | .n64 => 8

/-- Scopes an SC operation may name (R207). -/
def Scope.scOk : Scope → Bool
  | .device | .group => true
  | _ => false

/-- The forms that `signed` may go with (R252). -/
def Form.hasSigned : Form → Bool
  | .w2 | .w3 | .w4 => true
  | _ => false

/-- SYNC 5 of an indexed load writes D and D + 1, so D is 1 to 30 (R273). -/
def probeDestOk (d : Fin 32) (m : SyncMode) : Bool :=
  m ≠ .probe || (1 ≤ d.val && d.val ≤ 30)

/-- The field conditions of every encoded form; steps that no word encodes have none. -/
def Instr.wf : Instr → Bool
  | .lxb _ d _ _ m | .lxbn _ d _ _ m | .lxh _ d _ _ m | .lxhn _ d _ _ m
  | .lxw _ d _ _ m | .lxwn _ d _ _ m | .lxd _ d _ _ m => probeDestOk d m
  | .lxdRemote _ _ _ _ m | .sxb _ _ _ _ m | .sxh _ _ _ _ m | .sxw _ _ _ _ m | .sxd _ _ _ _ m => m ≠ .probe
  | .ldm _ _ b c m | .stm _ _ b c m => m ≠ .probe && b.val + c.val + 1 ≤ 32
  | .fence _ o sc => o ≠ .sc || sc.scOk
  | .ldsc _ _ _ sc | .stsc _ _ _ sc => sc.scOk
  | .vadd _ _ _ _ t | .vsub _ _ _ _ t | .vmul _ _ _ _ t | .vdiv _ _ _ _ t | .vmin _ _ _ _ t | .vmax _ _ _ _ t
  | .vabs _ _ _ t | .vneg _ _ _ t | .vfma _ _ _ _ _ t | .vfms _ _ _ _ _ t | .vfnma _ _ _ _ _ t
  | .vfnms _ _ _ _ _ t | .vceq _ _ _ _ t | .vcne _ _ _ _ t | .vclt _ _ _ _ t | .vcle _ _ _ _ t
  | .vrsum _ _ _ _ t | .vrmax _ _ _ _ t | .vrmin _ _ _ _ t | .vrdot _ _ _ _ _ t => t.isArith
  | .vsqrt _ _ _ t | .vpack6 _ _ _ _ t | .vunpk6 _ _ _ _ t => t.isFloat
  | .vshl _ _ _ _ t | .vshr _ _ _ _ t | .vshra _ _ _ _ t => t.isInt
  | .vcvt _ _ _ dt su => dt.isArith && su.isArith
  | .mmt _ _ _ c form signed _ _ => c.val ≤ 30 && (!signed || form.hasSigned)
  | .mmd _ _ _ _ ta tb => (ta = .lg6) = (tb = .lg6)
  | .mskcnt _ _ a _ => 1 ≤ a.val && a.val ≤ 28
  | .wlpopb _ _ a nm1 _ => a.val + nm1.val + 1 ≤ 31
  | .inbox _ a => 1 ≤ a.val && a.val ≤ 24
  | .qpop _ a _ _ | .vote _ a _ _ _ => a.val ≠ 0
  | .rep count => count ≠ 0
  | _ => true

end Sys2Proof
end

