-- ==== Sys2Proof/Decode.lean ====
section
/-! DEFINITION. The decoder of R242 to R256 over any bytes, and the encoder written from the same tables.
A word that no table assigns is rejected by the name of what is wrong with it; the machine then takes
ILLEGAL_INSTRUCTION (R256). -/

namespace Sys2Proof

/-- Why a word is no instruction (R256). -/
inductive DecodeError where
  /-- MAJOR is unassigned (R247). -/
  | unassignedMajor
  /-- A FUNC, OP, CLASS, PFXOP, KIND or FORM outside its table (R248 to R254). -/
  | unassignedFunction
  /-- A reserved bit, or a field the form does not use, is nonzero (R243). -/
  | reservedField
  /-- An element type of 12 to 15, or one the function cannot take (R246). -/
  | badType
  /-- A register or resource field outside the range its form gives (R243, R273, R277, R343). -/
  | badField
  /-- A sync mode, order or scope that the instruction cannot take (R88, R202, R207). -/
  | badSync
  /-- S set in a prefix word, REP COUNT 0, or a bad FMT payload (R113, R240, R254). -/
  | badPrefix
  /-- Fewer than four bytes were given. -/
  | short
  deriving DecidableEq, Repr

/-! Codes of the enumerated fields. -/

/-- R97. -/
def ElemType.code : ElemType → Nat
  | .i8 => 0 | .i16 => 1 | .i32 => 2 | .i64 => 3 | .n8 => 4 | .n16 => 5 | .n32 => 6 | .n64 => 7
  | .bf16 => 8 | .fp16 => 9 | .fp32 => 10 | .lg6 => 11

/-- R97: codes 12 to 15 name no type. -/
def ElemType.ofCode : Nat → Option ElemType
  | 0 => some .i8 | 1 => some .i16 | 2 => some .i32 | 3 => some .i64 | 4 => some .n8 | 5 => some .n16
  | 6 => some .n32 | 7 => some .n64 | 8 => some .bf16 | 9 => some .fp16 | 10 => some .fp32 | 11 => some .lg6
  | _ => none

/-- R88. -/
def SyncMode.code : SyncMode → Nat
  | .plain => 0 | .wfull => 1 | .take => 2 | .fill => 3 | .put => 4 | .probe => 5

/-- R88: encodings 6 and 7 are illegal. -/
def SyncMode.ofCode : Nat → Option SyncMode
  | 0 => some .plain | 1 => some .wfull | 2 => some .take | 3 => some .fill | 4 => some .put | 5 => some .probe
  | _ => none

/-- R202. -/
def Order.code : Order → Nat
  | .acq => 0 | .rel => 1 | .acqrel => 2 | .sc => 3

/-- R202. -/
def Order.ofCode : Nat → Order
  | 0 => .acq | 1 => .rel | 2 => .acqrel | _ => .sc

/-- R202. -/
def Scope.code : Scope → Nat
  | .hart => 0 | .core => 1 | .cluster => 2 | .device => 3 | .group => 4

/-- R202: scope codes 5 to 7 are illegal. -/
def Scope.ofCode : Nat → Option Scope
  | 0 => some .hart | 1 => some .core | 2 => some .cluster | 3 => some .device | 4 => some .group
  | _ => none

/-- R252. -/
def TblKind.code : TblKind → Nat
  | .sub => 0 | .sgn => 1 | .trn => 2

/-- R252. -/
def TblKind.ofCode : Nat → Option TblKind
  | 0 => some .sub | 1 => some .sgn | 2 => some .trn
  | _ => none

/-- R252. -/
def SrcType.code : SrcType → Nat
  | .bf16 => 0 | .fp16 => 1 | .fp32 => 2 | .i8 => 3

/-- R252. -/
def SrcType.ofCode : Nat → SrcType
  | 0 => .bf16 | 1 => .fp16 | 2 => .fp32 | _ => .i8

/-- R252. -/
def Form.code : Form → Nat
  | .w1 => 0 | .w2t => 1 | .w2 => 2 | .w3 => 3 | .w4 => 4 | .t5 => 5

/-- R252. -/
def Form.ofCode : Nat → Option Form
  | 0 => some .w1 | 1 => some .w2t | 2 => some .w2 | 3 => some .w3 | 4 => some .w4 | 5 => some .t5
  | _ => none

/-- R252. -/
def MmdType.code : MmdType → Nat
  | .bf16 => 0 | .fp16 => 1 | .lg6 => 2

/-- R252. -/
def MmdType.ofCode : Nat → Option MmdType
  | 0 => some .bf16 | 1 => some .fp16 | 2 => some .lg6
  | _ => none

/-- R253. -/
def BarKind.code : BarKind → Nat
  | .row => 0 | .col => 1 | .rect => 2

/-- R253. -/
def BarKind.ofCode : Nat → Option BarKind
  | 0 => some .row | 1 => some .col | 2 => some .rect
  | _ => none

/-- R253. -/
def VoteOp.code : VoteOp → Nat
  | .all => 0 | .any => 1 | .sum => 2 | .max => 3

/-- R253. -/
def VoteOp.ofCode : Nat → VoteOp
  | 0 => .all | 1 => .any | 2 => .sum | _ => .max

/-- R113. -/
def NmSel.code : NmSel → Nat
  | .hart => 0 | .zero => 1 | .one => 2

/-- R113: NM 3 is reserved. -/
def NmSel.ofCode : Nat → Option NmSel
  | 0 => some .hart | 1 => some .zero | 2 => some .one
  | _ => none

/-! Fields of a word (R242). -/

/-- Bits `lo + n - 1 .. lo` of a word. -/
def bits (w lo n : Nat) : Nat := w / 2 ^ lo % 2 ^ n

/-- A field read as a number below `k`. -/
def fin (k : Nat) [NeZero k] (v : Nat) : Fin k := Fin.ofNat k v

/-- A flag bit. -/
def flag (w lo : Nat) : Bool := bits w lo 1 == 1

/-- A flag as the number it contributes. -/
def b2n : Bool → Nat
  | true => 1
  | false => 0

/-! The formats, as sums of fields (R242, R257). -/

/-- Format R and E: S, MAJOR, bits 24..20, 19..15, 14..10, FUNC. -/
def fmtR (mj fn : Nat) (s : Bool) (d a b : Nat) : Nat :=
  b2n s * 2 ^ 31 + mj * 2 ^ 25 + d * 2 ^ 20 + a * 2 ^ 15 + b * 2 ^ 10 + fn

/-- Formats I, S and B: two register fields and a 15-bit field. -/
def fmtI (mj : Nat) (s : Bool) (d a : Nat) (imm : Nat) : Nat :=
  b2n s * 2 ^ 31 + mj * 2 ^ 25 + d * 2 ^ 20 + a * 2 ^ 15 + imm

/-- Format J. -/
def fmtJ (mj : Nat) (s : Bool) (off : Nat) : Nat := b2n s * 2 ^ 31 + mj * 2 ^ 25 + off

/-- Format V: SD, SA, SB, SC, ET, ID, IA, IB, IC, OP. -/
def fmtV (mj op : Nat) (s : Bool) (d a b c : SRef) (et : Nat) : Nat :=
  b2n s * 2 ^ 31 + mj * 2 ^ 25 + d.ptr.val * 2 ^ 22 + a.ptr.val * 2 ^ 19 + b.ptr.val * 2 ^ 16
    + c.ptr.val * 2 ^ 13 + et * 2 ^ 9 + b2n d.inc * 2 ^ 8 + b2n a.inc * 2 ^ 7 + b2n b.inc * 2 ^ 6
    + b2n c.inc * 2 ^ 5 + op

/-- The stream field that a function does not read: zero (R251). -/
def noRef : SRef := ⟨0, false⟩

/-- The FUNC of 0x1A and 0x1B: SYNC in bits 9..7, SIZE in 6..5, SGN or SLOT below (R249). -/
def fnMem (m : SyncMode) (low : Nat) : Nat := m.code * 2 ^ 7 + low

/-- The FUNC of 0x1D (R250). -/
def fnAtomic (op : Nat) : Role → Nat
  | none => op * 2 ^ 6
  | some (o, sc) => op * 2 ^ 6 + 2 ^ 5 + o.code * 2 ^ 3 + sc.code

/-- A valid bit and its type code in FMT (R113). -/
def optType : Option ElemType → Nat × Nat
  | none => (0, 0)
  | some t => (1, t.code)

/-- The word of a well-formed instruction as a number below 2^32; a step that no word encodes gives the
all-zero word, which is no instruction (R247). -/
def encodeNat : Instr → Nat
  | .add sw d a b => fmtR 1 0 sw d.val a.val b.val
  | .sub sw d a b => fmtR 1 1 sw d.val a.val b.val
  | .and sw d a b => fmtR 1 2 sw d.val a.val b.val
  | .or sw d a b => fmtR 1 3 sw d.val a.val b.val
  | .xor sw d a b => fmtR 1 4 sw d.val a.val b.val
  | .andn sw d a b => fmtR 1 5 sw d.val a.val b.val
  | .addsat sw d a b => fmtR 1 6 sw d.val a.val b.val
  | .subsat sw d a b => fmtR 1 7 sw d.val a.val b.val
  | .sll sw d a b => fmtR 2 0 sw d.val a.val b.val
  | .srl sw d a b => fmtR 2 1 sw d.val a.val b.val
  | .sra sw d a b => fmtR 2 2 sw d.val a.val b.val
  | .rol sw d a b => fmtR 2 3 sw d.val a.val b.val
  | .ror sw d a b => fmtR 2 4 sw d.val a.val b.val
  | .clz sw d a => fmtR 2 5 sw d.val a.val 0
  | .ctz sw d a => fmtR 2 6 sw d.val a.val 0
  | .popc sw d a => fmtR 2 7 sw d.val a.val 0
  | .brev sw d a => fmtR 2 8 sw d.val a.val 0
  | .bswap sw d a => fmtR 2 9 sw d.val a.val 0
  | .mul sw d a b => fmtR 3 0 sw d.val a.val b.val
  | .mulh sw d a b => fmtR 3 1 sw d.val a.val b.val
  | .mulhn sw d a b => fmtR 3 2 sw d.val a.val b.val
  | .div sw d a b => fmtR 3 3 sw d.val a.val b.val
  | .divn sw d a b => fmtR 3 4 sw d.val a.val b.val
  | .rem sw d a b => fmtR 3 5 sw d.val a.val b.val
  | .remn sw d a b => fmtR 3 6 sw d.val a.val b.val
  | .slt sw d a b => fmtR 4 0 sw d.val a.val b.val
  | .sltn sw d a b => fmtR 4 1 sw d.val a.val b.val
  | .seq sw d a b => fmtR 4 2 sw d.val a.val b.val
  | .min sw d a b => fmtR 4 3 sw d.val a.val b.val
  | .max sw d a b => fmtR 4 4 sw d.val a.val b.val
  | .minn sw d a b => fmtR 4 5 sw d.val a.val b.val
  | .maxn sw d a b => fmtR 4 6 sw d.val a.val b.val
  | .addi sw d a imm => fmtI 5 sw d.val a.val imm.toNat
  | .andi sw d a imm => fmtI 6 sw d.val a.val imm.toNat
  | .ori sw d a imm => fmtI 7 sw d.val a.val imm.toNat
  | .xori sw d a imm => fmtI 8 sw d.val a.val imm.toNat
  | .slti sw d a imm => fmtI 9 sw d.val a.val imm.toNat
  | .sltin sw d a imm => fmtI 10 sw d.val a.val imm.toNat
  | .lapc sw d imm => fmtI 11 sw d.val 0 imm.toNat
  | .slli sw d a n => fmtI 12 sw d.val a.val (0 * 2 ^ 12 + n.val)
  | .srli sw d a n => fmtI 12 sw d.val a.val (1 * 2 ^ 12 + n.val)
  | .srai sw d a n => fmtI 12 sw d.val a.val (2 * 2 ^ 12 + n.val)
  | .rori sw d a n => fmtI 12 sw d.val a.val (3 * 2 ^ 12 + n.val)
  | .beq sw a b off => fmtI 16 sw a.val b.val off.toNat
  | .bne sw a b off => fmtI 17 sw a.val b.val off.toNat
  | .blt sw a b off => fmtI 18 sw a.val b.val off.toNat
  | .bge sw a b off => fmtI 19 sw a.val b.val off.toNat
  | .bltn sw a b off => fmtI 20 sw a.val b.val off.toNat
  | .bgen sw a b off => fmtI 21 sw a.val b.val off.toNat
  | .jal sw off => fmtJ 22 sw off.toNat
  | .jalr sw d a => fmtR 23 0 sw d.val a.val 0
  | .jtb sw d a b => fmtR 23 1 sw d.val a.val b.val
  | .ld sw d a imm => fmtI 24 sw d.val a.val imm.toNat
  | .st sw base data imm => fmtI 25 sw base.val data.val imm.toNat
  | .lxb sw d a b m => fmtR 26 (fnMem m 16) sw d.val a.val b.val
  | .lxbn sw d a b m => fmtR 26 (fnMem m 0) sw d.val a.val b.val
  | .lxh sw d a b m => fmtR 26 (fnMem m 48) sw d.val a.val b.val
  | .lxhn sw d a b m => fmtR 26 (fnMem m 32) sw d.val a.val b.val
  | .lxw sw d a b m => fmtR 26 (fnMem m 80) sw d.val a.val b.val
  | .lxwn sw d a b m => fmtR 26 (fnMem m 64) sw d.val a.val b.val
  | .lxd sw d a b m => fmtR 26 (fnMem m 96) sw d.val a.val b.val
  | .lxdRemote sw slot a b m => fmtR 26 (fnMem m 104) sw slot.val a.val b.val
  | .sxb sw d a b m => fmtR 27 (fnMem m 0) sw d.val a.val b.val
  | .sxh sw d a b m => fmtR 27 (fnMem m 32) sw d.val a.val b.val
  | .sxw sw d a b m => fmtR 27 (fnMem m 64) sw d.val a.val b.val
  | .sxd sw d a b m => fmtR 27 (fnMem m 96) sw d.val a.val b.val
  | .ldm sw a b c m => fmtR 28 (fnMem m 0) sw a.val b.val c.val
  | .stm sw a b c m => fmtR 28 (fnMem m 1) sw a.val b.val c.val
  | .aswap sw a b c r => fmtR 29 (fnAtomic 0 r) sw a.val b.val c.val
  | .aadd sw a b c r => fmtR 29 (fnAtomic 1 r) sw a.val b.val c.val
  | .aand sw a b c r => fmtR 29 (fnAtomic 2 r) sw a.val b.val c.val
  | .aor sw a b c r => fmtR 29 (fnAtomic 3 r) sw a.val b.val c.val
  | .axor sw a b c r => fmtR 29 (fnAtomic 4 r) sw a.val b.val c.val
  | .amin sw a b c r => fmtR 29 (fnAtomic 5 r) sw a.val b.val c.val
  | .amax sw a b c r => fmtR 29 (fnAtomic 6 r) sw a.val b.val c.val
  | .aminn sw a b c r => fmtR 29 (fnAtomic 7 r) sw a.val b.val c.val
  | .amaxn sw a b c r => fmtR 29 (fnAtomic 8 r) sw a.val b.val c.val
  | .acas sw a b c r => fmtR 29 (fnAtomic 9 r) sw a.val b.val c.val
  | .fence sw o sc => fmtR 30 (o.code * 2 ^ 3 + sc.code) sw 0 0 0
  | .ldsc sw a b sc => fmtR 30 (1 * 2 ^ 5 + 3 * 2 ^ 3 + sc.code) sw a.val b.val 0
  | .stsc sw a b sc => fmtR 30 (2 * 2 ^ 5 + 3 * 2 ^ 3 + sc.code) sw a.val b.val 0
  | .vadd sw d a b t => fmtV 32 0 sw d a b noRef t.code
  | .vsub sw d a b t => fmtV 32 1 sw d a b noRef t.code
  | .vmul sw d a b t => fmtV 32 2 sw d a b noRef t.code
  | .vdiv sw d a b t => fmtV 32 3 sw d a b noRef t.code
  | .vmin sw d a b t => fmtV 32 4 sw d a b noRef t.code
  | .vmax sw d a b t => fmtV 32 5 sw d a b noRef t.code
  | .vabs sw d a t => fmtV 32 6 sw d a noRef noRef t.code
  | .vneg sw d a t => fmtV 32 7 sw d a noRef noRef t.code
  | .vsqrt sw d a t => fmtV 32 8 sw d a noRef noRef t.code
  | .vfma sw d a b c t => fmtV 33 0 sw d a b c t.code
  | .vfms sw d a b c t => fmtV 33 1 sw d a b c t.code
  | .vfnma sw d a b c t => fmtV 33 2 sw d a b c t.code
  | .vfnms sw d a b c t => fmtV 33 3 sw d a b c t.code
  | .vand sw d a b t => fmtV 34 0 sw d a b noRef t.code
  | .vor sw d a b t => fmtV 34 1 sw d a b noRef t.code
  | .vxor sw d a b t => fmtV 34 2 sw d a b noRef t.code
  | .vandn sw d a b t => fmtV 34 3 sw d a b noRef t.code
  | .vnot sw d a t => fmtV 34 4 sw d a noRef noRef t.code
  | .vshl sw d a b t => fmtV 34 5 sw d a b noRef t.code
  | .vshr sw d a b t => fmtV 34 6 sw d a b noRef t.code
  | .vshra sw d a b t => fmtV 34 7 sw d a b noRef t.code
  | .vceq sw d a b t => fmtV 35 0 sw d a b noRef t.code
  | .vcne sw d a b t => fmtV 35 1 sw d a b noRef t.code
  | .vclt sw d a b t => fmtV 35 2 sw d a b noRef t.code
  | .vcle sw d a b t => fmtV 35 3 sw d a b noRef t.code
  | .vsel sw d a b c t => fmtV 36 0 sw d a b c t.code
  | .vcvt sw d a dt st => fmtV 37 st.code sw d a noRef noRef dt.code
  | .vpack6 sw d a b t => fmtV 37 16 sw d a b noRef t.code
  | .vunpk6 sw d a b t => fmtV 37 17 sw d a b noRef t.code
  | .vperm sw d a b c t => fmtV 38 0 sw d a b c t.code
  | .vbcast sw d a t => fmtV 38 1 sw d a noRef noRef t.code
  | .vrot sw d a b t => fmtV 38 2 sw d a b noRef t.code
  | .vzip sw d a b t => fmtV 38 3 sw d a b noRef t.code
  | .vunzip sw d a t => fmtV 38 4 sw d a noRef noRef t.code
  | .vrsum sw d a b t => fmtV 39 0 sw d a b noRef t.code
  | .vrmax sw d a b t => fmtV 39 1 sw d a b noRef t.code
  | .vrmin sw d a b t => fmtV 39 2 sw d a b noRef t.code
  | .vrdot sw d a b c t => fmtV 39 3 sw d a b c t.code
  | .vmov sw d a t => fmtV 40 0 sw d a noRef noRef t.code
  | .vzero sw d t => fmtV 40 1 sw d noRef noRef noRef t.code
  | .lease sw a b c => fmtR 48 0 sw a.val b.val c.val
  | .unlease sw => fmtR 48 1 sw 0 0 0
  | .unleaseDiscard sw => fmtR 48 2 sw 0 0 0
  | .acswap sw acc => fmtR 48 3 sw acc.val 0 0
  | .acswapZero sw acc => fmtR 48 4 sw acc.val 0 0
  | .tbspill sw tb => fmtR 48 5 sw tb.val 0 0
  | .tbfill sw tb => fmtR 48 6 sw tb.val 0 0
  | .tbuild sw tb b c kind st mc => fmtR 49 (kind.code * 2 ^ 8 + st.code * 2 ^ 6 + b2n mc * 2 ^ 5) sw tb.val b.val c.val
  | .tbuildRcv sw tb => fmtR 49 (2 ^ 4) sw tb.val 0 0
  | .mmt sw acc b c form signed last tb => fmtR 50 (form.code * 2 ^ 7 + b2n signed * 2 ^ 6 + b2n last * 2 ^ 5 + tb.val * 2 ^ 2) sw acc.val b.val c.val
  | .mmd sw acc b c ta tb => fmtR 51 (ta.code * 2 ^ 8 + tb.code * 2 ^ 6) sw acc.val b.val c.val
  | .acrd sw acc b => fmtR 52 0 sw acc.val b.val 0
  | .acrdWorking sw acc b => fmtR 52 1 sw acc.val b.val 0
  | .mskld sw ctx b => fmtR 53 (ctx.val * 2 ^ 8) sw 0 b.val 0
  | .mskcls sw ctx a b => fmtR 53 (ctx.val * 2 ^ 8 + 1) sw a.val b.val 0
  | .mskel sw ctx a b c => fmtR 53 (ctx.val * 2 ^ 8 + 2) sw a.val b.val c.val
  | .mskcnt sw ctx a clr => fmtR 53 (ctx.val * 2 ^ 8 + b2n clr * 2 ^ 4 + 3) sw a.val 0 0
  | .kvcommit sw a b => fmtR 54 0 sw a.val b.val 0
  | .copy sw a => fmtR 56 0 sw a.val 0 0
  | .gather sw a => fmtR 56 1 sw a.val 0 0
  | .scatter sw a => fmtR 56 2 sw a.val 0 0
  | .scadd sw a => fmtR 56 3 sw a.val 0 0
  | .idem sw => fmtR 56 4 sw 0 0 0
  | .idemClose sw => fmtR 56 5 sw 0 0 0
  | .evwait sw a line l => fmtR 56 6 sw a.val line.val l.val
  | .wlpush sw list b => fmtR 57 (list.val * 2 ^ 8) sw 0 b.val 0
  | .wlins sw list a b => fmtR 57 (list.val * 2 ^ 8 + 1) sw a.val b.val 0
  | .wlpopb sw list a nm1 l => fmtR 57 (list.val * 2 ^ 8 + nm1.val * 2 ^ 4 + 2) sw a.val 0 l.val
  | .txsub sw a b => fmtR 60 0 sw a.val b.val 0
  | .txscout sw b => fmtR 60 1 sw 0 b.val 0
  | .txchk sw b c => fmtR 60 2 sw 0 b.val c.val
  | .txend sw => fmtR 60 3 sw 0 0 0
  | .inbox sw a => fmtR 60 4 sw a.val 0 0
  | .done sw a => fmtR 60 5 sw a.val 0 0
  | .send sw a b => fmtR 61 0 sw a.val b.val 0
  | .recv sw a slot => fmtR 61 1 sw a.val slot.val 0
  | .qpush sw a b l => fmtR 61 2 sw a.val b.val l.val
  | .qpop sw a b l => fmtR 61 3 sw a.val b.val l.val
  | .barw sw kind l => fmtR 61 4 sw 0 kind.code l.val
  | .vote sw a b op l => fmtR 61 (op.code * 2 ^ 8 + 5) sw a.val b.val l.val
  | .rett sw a => fmtR 62 0 sw a.val 0 0
  | .ctlr sw a n => fmtI 62 sw a.val 0 (n.val * 2 ^ 10 + 1)
  | .ctlw sw a n => fmtI 62 sw a.val 0 (n.val * 2 ^ 10 + 2)
  | .wpsw sw a => fmtR 62 3 sw a.val 0 0
  | .idle sw => fmtR 62 4 sw 0 0 0
  | .tlball sw => fmtR 62 5 sw 0 0 0
  | .tlbasid sw a => fmtR 62 6 sw a.val 0 0
  | .tlbpage sw a b => fmtR 62 7 sw a.val b.val 0
  | .icinv sw => fmtR 62 8 sw 0 0 0
  | .dcinv sw => fmtR 62 9 sw 0 0 0
  | .trap sw code a => fmtR 62 (3 * 2 ^ 8 + code.val) sw a.val 0 0
  | .fmt st dt nm ftz sat => 63 * 2 ^ 25 + (optType st).1 * 2 ^ 21 + (optType st).2 * 2 ^ 17 + (optType dt).1 * 2 ^ 16
    + (optType dt).2 * 2 ^ 12 + nm.code * 2 ^ 10 + b2n ftz * 2 ^ 9 + b2n sat * 2 ^ 8
  | .rep count => 63 * 2 ^ 25 + 2 ^ 22 + count.toNat
  | .lix hi => 63 * 2 ^ 25 + 2 * 2 ^ 22 + hi.toNat
  | _ => 0

/-- The steps that a word encodes: rows 0 to 174 of the opcode table. -/
def Instr.isWord (i : Instr) : Bool := encodeNat i != 0

/-- The instruction's word (R242). -/
def encode (i : Instr) : IWord := BitVec.ofNat 32 (encodeNat i)

/-- The word's four bytes in memory, lowest address first (R4). -/
def wordBytes (w : Nat) : List Byte :=
  [BitVec.ofNat 8 w, BitVec.ofNat 8 (w / 2 ^ 8), BitVec.ofNat 8 (w / 2 ^ 16), BitVec.ofNat 8 (w / 2 ^ 24)]

/-! The decoder. -/

/-- Reject with the given reason unless the condition holds. -/
def need (c : Bool) (e : DecodeError) (k : Except DecodeError Instr) : Except DecodeError Instr :=
  if c then k else .error e

/-- Read a coded field, or reject. -/
def coded {α : Type} (o : Option α) (e : DecodeError) (k : α → Except DecodeError Instr) : Except DecodeError Instr :=
  match o with
  | some x => k x
  | none => .error e

/-- Majors 0x01 to 0x04, R248. -/
def decodeAlu (mj w : Nat) : Except DecodeError Instr :=
  let s := flag w 31
  let d := fin 32 (bits w 20 5)
  let a := fin 32 (bits w 15 5)
  let b := fin 32 (bits w 10 5)
  let z := fun (i : Instr) => need (bits w 10 5 == 0) .reservedField (.ok i)
  match mj, bits w 0 10 with
  | 1, 0 => .ok (.add s d a b) | 1, 1 => .ok (.sub s d a b) | 1, 2 => .ok (.and s d a b)
  | 1, 3 => .ok (.or s d a b) | 1, 4 => .ok (.xor s d a b) | 1, 5 => .ok (.andn s d a b)
  | 1, 6 => .ok (.addsat s d a b) | 1, 7 => .ok (.subsat s d a b)
  | 2, 0 => .ok (.sll s d a b) | 2, 1 => .ok (.srl s d a b) | 2, 2 => .ok (.sra s d a b)
  | 2, 3 => .ok (.rol s d a b) | 2, 4 => .ok (.ror s d a b)
  | 2, 5 => z (.clz s d a) | 2, 6 => z (.ctz s d a) | 2, 7 => z (.popc s d a)
  | 2, 8 => z (.brev s d a) | 2, 9 => z (.bswap s d a)
  | 3, 0 => .ok (.mul s d a b) | 3, 1 => .ok (.mulh s d a b) | 3, 2 => .ok (.mulhn s d a b)
  | 3, 3 => .ok (.div s d a b) | 3, 4 => .ok (.divn s d a b) | 3, 5 => .ok (.rem s d a b)
  | 3, 6 => .ok (.remn s d a b)
  | 4, 0 => .ok (.slt s d a b) | 4, 1 => .ok (.sltn s d a b) | 4, 2 => .ok (.seq s d a b)
  | 4, 3 => .ok (.min s d a b) | 4, 4 => .ok (.max s d a b) | 4, 5 => .ok (.minn s d a b)
  | 4, 6 => .ok (.maxn s d a b)
  | _, _ => .error .unassignedFunction

/-- Majors 0x05 to 0x0C, R248 and R266. -/
def decodeImm (mj w : Nat) : Except DecodeError Instr :=
  let s := flag w 31
  let d := fin 32 (bits w 20 5)
  let a := fin 32 (bits w 15 5)
  let x := BitVec.ofNat 15 (bits w 0 15)
  let n := fin 64 (bits w 0 6)
  match mj with
  | 5 => .ok (.addi s d a x) | 6 => .ok (.andi s d a x) | 7 => .ok (.ori s d a x)
  | 8 => .ok (.xori s d a x) | 9 => .ok (.slti s d a x) | 10 => .ok (.sltin s d a x)
  | 11 => need (bits w 15 5 == 0) .reservedField (.ok (.lapc s d x))
  | _ =>
    match bits w 12 3 with
    | 0 => need (bits w 6 6 == 0) .reservedField (.ok (.slli s d a n))
    | 1 => need (bits w 6 6 == 0) .reservedField (.ok (.srli s d a n))
    | 2 => need (bits w 6 6 == 0) .reservedField (.ok (.srai s d a n))
    | 3 => need (bits w 6 6 == 0) .reservedField (.ok (.rori s d a n))
    | _ => .error .unassignedFunction

/-- Majors 0x10 to 0x19, R248 and R249. -/
def decodeCtl (mj w : Nat) : Except DecodeError Instr :=
  let s := flag w 31
  let p := fin 32 (bits w 20 5)
  let q := fin 32 (bits w 15 5)
  let r := fin 32 (bits w 10 5)
  let x := BitVec.ofNat 15 (bits w 0 15)
  match mj with
  | 16 => .ok (.beq s p q x) | 17 => .ok (.bne s p q x) | 18 => .ok (.blt s p q x)
  | 19 => .ok (.bge s p q x) | 20 => .ok (.bltn s p q x) | 21 => .ok (.bgen s p q x)
  | 22 => .ok (.jal s (BitVec.ofNat 25 (bits w 0 25)))
  | 23 =>
    match bits w 0 10 with
    | 0 => need (bits w 10 5 == 0) .reservedField (.ok (.jalr s p q))
    | 1 => .ok (.jtb s p q r)
    | _ => .error .unassignedFunction
  | 24 => .ok (.ld s p q x)
  | _ => .ok (.st s p q x)

/-- Majors 0x1A to 0x1C, R249. -/
def decodeMem (mj w : Nat) : Except DecodeError Instr :=
  let s := flag w 31
  let p := fin 32 (bits w 20 5)
  let q := fin 32 (bits w 15 5)
  let r := fin 32 (bits w 10 5)
  coded (SyncMode.ofCode (bits w 7 3)) .badSync fun m =>
  let lx := fun (i : Instr) => need (probeDestOk p m) .badField (.ok i)
  let sx := fun (i : Instr) => need (m ≠ .probe) .badSync (.ok i)
  match mj, bits w 0 7 with
  | 26, 0x10 => lx (.lxb s p q r m) | 26, 0x00 => lx (.lxbn s p q r m)
  | 26, 0x30 => lx (.lxh s p q r m) | 26, 0x20 => lx (.lxhn s p q r m)
  | 26, 0x50 => lx (.lxw s p q r m) | 26, 0x40 => lx (.lxwn s p q r m)
  | 26, 0x60 => lx (.lxd s p q r m)
  | 26, 0x68 => need (bits w 24 1 == 0) .badField (sx (.lxdRemote s (fin 16 (bits w 20 4)) q r m))
  | 27, 0x00 => sx (.sxb s p q r m) | 27, 0x20 => sx (.sxh s p q r m)
  | 27, 0x40 => sx (.sxw s p q r m) | 27, 0x60 => sx (.sxd s p q r m)
  | 28, 0 => need (q.val + r.val + 1 ≤ 32) .badField (sx (.ldm s p q r m))
  | 28, 1 => need (q.val + r.val + 1 ≤ 32) .badField (sx (.stm s p q r m))
  | _, _ => .error .unassignedFunction

/-- The ordering role of 0x1D: OE 0 needs ORDER and SCOPE zero (R250). -/
def decodeRole (w : Nat) (k : Role → Except DecodeError Instr) : Except DecodeError Instr :=
  if flag w 5 then coded (Scope.ofCode (bits w 0 3)) .badSync fun sc => k (some (Order.ofCode (bits w 3 2), sc))
  else need (bits w 0 5 == 0) .badSync (k none)

/-- Majors 0x1D and 0x1E, R250. -/
def decodeSync (mj w : Nat) : Except DecodeError Instr :=
  let s := flag w 31
  let p := fin 32 (bits w 20 5)
  let q := fin 32 (bits w 15 5)
  let r := fin 32 (bits w 10 5)
  if mj == 29 then
    match bits w 6 4 with
    | 0 => decodeRole w fun o => .ok (.aswap s p q r o)
    | 1 => decodeRole w fun o => .ok (.aadd s p q r o)
    | 2 => decodeRole w fun o => .ok (.aand s p q r o)
    | 3 => decodeRole w fun o => .ok (.aor s p q r o)
    | 4 => decodeRole w fun o => .ok (.axor s p q r o)
    | 5 => decodeRole w fun o => .ok (.amin s p q r o)
    | 6 => decodeRole w fun o => .ok (.amax s p q r o)
    | 7 => decodeRole w fun o => .ok (.aminn s p q r o)
    | 8 => decodeRole w fun o => .ok (.amaxn s p q r o)
    | 9 => decodeRole w fun o => .ok (.acas s p q r o)
    | _ => .error .unassignedFunction
  else
    coded (Scope.ofCode (bits w 0 3)) .badSync fun sc =>
    let o := Order.ofCode (bits w 3 2)
    match bits w 5 5 with
    | 0 => need (bits w 10 15 == 0) .reservedField (need (o ≠ .sc || sc.scOk) .badSync (.ok (.fence s o sc)))
    | 1 => need (bits w 10 5 == 0) .reservedField (need (o = .sc && sc.scOk) .badSync (.ok (.ldsc s p q sc)))
    | 2 => need (bits w 10 5 == 0) .reservedField (need (o = .sc && sc.scOk) .badSync (.ok (.stsc s p q sc)))
    | _ => .error .unassignedFunction

/-- Majors 0x20 to 0x28, R251 and R293. -/
def decodeVec (mj w : Nat) : Except DecodeError Instr :=
  let s := flag w 31
  let d : SRef := ⟨fin 8 (bits w 22 3), flag w 8⟩
  let a : SRef := ⟨fin 8 (bits w 19 3), flag w 7⟩
  let b : SRef := ⟨fin 8 (bits w 16 3), flag w 6⟩
  let c : SRef := ⟨fin 8 (bits w 13 3), flag w 5⟩
  coded (ElemType.ofCode (bits w 9 4)) .badType fun t =>
  let v1 := fun (ok : Bool) (i : Instr) =>
    need (a = noRef && b = noRef && c = noRef) .reservedField (need ok .badType (.ok i))
  let v2 := fun (ok : Bool) (i : Instr) => need (b = noRef && c = noRef) .reservedField (need ok .badType (.ok i))
  let v3 := fun (ok : Bool) (i : Instr) => need (c = noRef) .reservedField (need ok .badType (.ok i))
  let v4 := fun (ok : Bool) (i : Instr) => need ok .badType (.ok i)
  match mj, bits w 0 5 with
  | 32, 0 => v3 t.isArith (.vadd s d a b t) | 32, 1 => v3 t.isArith (.vsub s d a b t)
  | 32, 2 => v3 t.isArith (.vmul s d a b t) | 32, 3 => v3 t.isArith (.vdiv s d a b t)
  | 32, 4 => v3 t.isArith (.vmin s d a b t) | 32, 5 => v3 t.isArith (.vmax s d a b t)
  | 32, 6 => v2 t.isArith (.vabs s d a t) | 32, 7 => v2 t.isArith (.vneg s d a t)
  | 32, 8 => v2 t.isFloat (.vsqrt s d a t)
  | 33, 0 => v4 t.isArith (.vfma s d a b c t) | 33, 1 => v4 t.isArith (.vfms s d a b c t)
  | 33, 2 => v4 t.isArith (.vfnma s d a b c t) | 33, 3 => v4 t.isArith (.vfnms s d a b c t)
  | 34, 0 => v3 true (.vand s d a b t) | 34, 1 => v3 true (.vor s d a b t)
  | 34, 2 => v3 true (.vxor s d a b t) | 34, 3 => v3 true (.vandn s d a b t)
  | 34, 4 => v2 true (.vnot s d a t)
  | 34, 5 => v3 t.isInt (.vshl s d a b t) | 34, 6 => v3 t.isInt (.vshr s d a b t)
  | 34, 7 => v3 t.isInt (.vshra s d a b t)
  | 35, 0 => v3 t.isArith (.vceq s d a b t) | 35, 1 => v3 t.isArith (.vcne s d a b t)
  | 35, 2 => v3 t.isArith (.vclt s d a b t) | 35, 3 => v3 t.isArith (.vcle s d a b t)
  | 36, 0 => v4 true (.vsel s d a b c t)
  | 37, 16 => v3 t.isFloat (.vpack6 s d a b t) | 37, 17 => v3 t.isFloat (.vunpk6 s d a b t)
  | 37, n =>
    if n < 16 then
      coded (ElemType.ofCode n) .unassignedFunction fun u => v2 (t.isArith && u.isArith) (.vcvt s d a t u)
    else .error .unassignedFunction
  | 38, 0 => v4 true (.vperm s d a b c t) | 38, 1 => v2 true (.vbcast s d a t)
  | 38, 2 => v3 true (.vrot s d a b t) | 38, 3 => v3 true (.vzip s d a b t) | 38, 4 => v2 true (.vunzip s d a t)
  | 39, 0 => v3 t.isArith (.vrsum s d a b t) | 39, 1 => v3 t.isArith (.vrmax s d a b t)
  | 39, 2 => v3 t.isArith (.vrmin s d a b t) | 39, 3 => v4 t.isArith (.vrdot s d a b c t)
  | 40, 0 => v2 true (.vmov s d a t) | 40, 1 => v1 true (.vzero s d t)
  | _, _ => .error .unassignedFunction

/-- Majors 0x30 to 0x34, R252. -/
def decodeArray (mj w : Nat) : Except DecodeError Instr :=
  let s := flag w 31
  let p := fin 32 (bits w 20 5)
  let q := fin 32 (bits w 15 5)
  let r := fin 32 (bits w 10 5)
  let acc := fin 4 (bits w 20 2)
  let tb := fin 8 (bits w 20 3)
  let accOk := fun (k : Except DecodeError Instr) => need (bits w 22 3 == 0) .badField k
  let tbOk := fun (k : Except DecodeError Instr) => need (bits w 23 2 == 0) .badField k
  let bcZero := fun (k : Except DecodeError Instr) => need (bits w 10 10 == 0) .reservedField k
  match mj with
  | 48 =>
    match bits w 0 10 with
    | 0 => .ok (.lease s p q r)
    | 1 => need (bits w 10 15 == 0) .reservedField (.ok (.unlease s))
    | 2 => need (bits w 10 15 == 0) .reservedField (.ok (.unleaseDiscard s))
    | 3 => accOk (bcZero (.ok (.acswap s acc)))
    | 4 => accOk (bcZero (.ok (.acswapZero s acc)))
    | 5 => tbOk (bcZero (.ok (.tbspill s tb)))
    | 6 => tbOk (bcZero (.ok (.tbfill s tb)))
    | _ => .error .unassignedFunction
  | 49 =>
    tbOk (need (bits w 0 4 == 0) .reservedField
      (if flag w 4 then need (bits w 5 15 == 0) .reservedField (.ok (.tbuildRcv s tb))
       else coded (TblKind.ofCode (bits w 8 2)) .unassignedFunction fun k =>
         .ok (.tbuild s tb q r k (SrcType.ofCode (bits w 6 2)) (flag w 5))))
  | 50 =>
    accOk (need (bits w 0 2 == 0) .reservedField
      (coded (Form.ofCode (bits w 7 3)) .unassignedFunction fun f =>
        need (!flag w 6 || f.hasSigned) .unassignedFunction
          (need (r.val ≤ 30) .badField (.ok (.mmt s acc q r f (flag w 6) (flag w 5) (fin 8 (bits w 2 3)))))))
  | 51 =>
    accOk (need (bits w 0 6 == 0) .reservedField
      (coded (MmdType.ofCode (bits w 8 2)) .unassignedFunction fun ta =>
        coded (MmdType.ofCode (bits w 6 2)) .unassignedFunction fun tb' =>
          need ((ta = .lg6) = (tb' = .lg6)) .unassignedFunction (.ok (.mmd s acc q r ta tb'))))
  | _ =>
    accOk (need (bits w 10 5 == 0) .reservedField
      (match bits w 0 10 with
       | 0 => .ok (.acrd s acc q)
       | 1 => .ok (.acrdWorking s acc q)
       | _ => .error .unassignedFunction))

/-- Majors 0x35 to 0x39, R252. -/
def decodeUnit (mj w : Nat) : Except DecodeError Instr :=
  let s := flag w 31
  let p := fin 32 (bits w 20 5)
  let q := fin 32 (bits w 15 5)
  let r := fin 32 (bits w 10 5)
  let hi := fin 4 (bits w 8 2)
  let zA := fun (k : Except DecodeError Instr) => need (bits w 20 5 == 0) .reservedField k
  let zB := fun (k : Except DecodeError Instr) => need (bits w 15 5 == 0) .reservedField k
  let zC := fun (k : Except DecodeError Instr) => need (bits w 10 5 == 0) .reservedField k
  match mj with
  | 53 =>
    need (bits w 5 3 == 0) .reservedField
      (match bits w 0 4 with
       | 0 => need (!flag w 4) .unassignedFunction (zA (zC (.ok (.mskld s hi q))))
       | 1 => need (!flag w 4) .unassignedFunction (zC (.ok (.mskcls s hi p q)))
       | 2 => need (!flag w 4) .unassignedFunction (.ok (.mskel s hi p q r))
       | 3 => zB (zC (need (1 ≤ p.val && p.val ≤ 28) .badField (.ok (.mskcnt s hi p (flag w 4)))))
       | _ => .error .unassignedFunction)
  | 54 =>
    match bits w 0 10 with
    | 0 => zC (.ok (.kvcommit s p q))
    | _ => .error .unassignedFunction
  | 56 =>
    match bits w 0 10 with
    | 0 => zB (zC (.ok (.copy s p))) | 1 => zB (zC (.ok (.gather s p)))
    | 2 => zB (zC (.ok (.scatter s p))) | 3 => zB (zC (.ok (.scadd s p)))
    | 4 => zA (zB (zC (.ok (.idem s)))) | 5 => zA (zB (zC (.ok (.idemClose s))))
    | 6 => .ok (.evwait s p q r)
    | _ => .error .unassignedFunction
  | _ =>
    let nmZero := fun (k : Except DecodeError Instr) => need (bits w 4 4 == 0) .reservedField k
    match bits w 0 4 with
    | 0 => nmZero (zA (zC (.ok (.wlpush s hi q))))
    | 1 => nmZero (zC (.ok (.wlins s hi p q)))
    | 2 => zB (need (p.val + bits w 4 4 + 1 ≤ 31) .badField (.ok (.wlpopb s hi p (fin 16 (bits w 4 4)) r)))
    | _ => .error .unassignedFunction

/-- Majors 0x3C to 0x3E, R253. -/
def decodeSys (mj w : Nat) : Except DecodeError Instr :=
  let s := flag w 31
  let p := fin 32 (bits w 20 5)
  let q := fin 32 (bits w 15 5)
  let r := fin 32 (bits w 10 5)
  let n := fin 1024 (bits w 10 10)
  let zA := fun (k : Except DecodeError Instr) => need (bits w 20 5 == 0) .reservedField k
  let zB := fun (k : Except DecodeError Instr) => need (bits w 15 5 == 0) .reservedField k
  let zC := fun (k : Except DecodeError Instr) => need (bits w 10 5 == 0) .reservedField k
  match mj with
  | 60 =>
    match bits w 0 10 with
    | 0 => zC (.ok (.txsub s p q)) | 1 => zA (zC (.ok (.txscout s q))) | 2 => zA (.ok (.txchk s q r))
    | 3 => zA (zB (zC (.ok (.txend s))))
    | 4 => zB (zC (need (1 ≤ p.val && p.val ≤ 24) .badField (.ok (.inbox s p))))
    | 5 => zB (zC (.ok (.done s p)))
    | _ => .error .unassignedFunction
  | 61 =>
    need (bits w 4 4 == 0) .reservedField
      (let z8 := fun (k : Except DecodeError Instr) => need (bits w 8 2 == 0) .reservedField k
       match bits w 0 4 with
       | 0 => z8 (zC (.ok (.send s p q)))
       | 1 => z8 (zC (need (bits w 19 1 == 0) .badField (.ok (.recv s p (fin 16 (bits w 15 4))))))
       | 2 => z8 (.ok (.qpush s p q r))
       | 3 => z8 (need (p.val ≠ 0) .badField (.ok (.qpop s p q r)))
       | 4 => z8 (zA (coded (BarKind.ofCode (bits w 15 5)) .badField fun k => .ok (.barw s k r)))
       | 5 => need (p.val ≠ 0) .badField (.ok (.vote s p q (VoteOp.ofCode (bits w 8 2)) r))
       | _ => .error .unassignedFunction)
  | _ =>
    match bits w 8 2 with
    | 0 =>
      match bits w 0 8 with
      | 0 => zB (zC (.ok (.rett s p))) | 1 => .ok (.ctlr s p n) | 2 => .ok (.ctlw s p n)
      | 3 => zB (zC (.ok (.wpsw s p))) | 4 => zA (zB (zC (.ok (.idle s))))
      | 5 => zA (zB (zC (.ok (.tlball s)))) | 6 => zB (zC (.ok (.tlbasid s p))) | 7 => zC (.ok (.tlbpage s p q))
      | 8 => zA (zB (zC (.ok (.icinv s)))) | 9 => zA (zB (zC (.ok (.dcinv s))))
      | _ => .error .unassignedFunction
    | 3 => zB (zC (.ok (.trap s (fin 256 (bits w 0 8)) p)))
    | _ => .error .unassignedFunction

/-- A valid bit with its type code (R113). -/
def decodeOptType (v : Bool) (c : Nat) (k : Option ElemType → Except DecodeError Instr) : Except DecodeError Instr :=
  if v then coded (ElemType.ofCode c) .badType fun t => k (some t) else need (c == 0) .badPrefix (k none)

/-- Major 0x3F, R113 and R254. -/
def decodePfx (w : Nat) : Except DecodeError Instr :=
  need (!flag w 31) .badPrefix
    (match bits w 22 3 with
     | 0 =>
       need (bits w 0 8 == 0) .reservedField
         (decodeOptType (flag w 21) (bits w 17 4) fun st =>
          decodeOptType (flag w 16) (bits w 12 4) fun dt =>
          coded (NmSel.ofCode (bits w 10 2)) .badPrefix fun nm => .ok (.fmt st dt nm (flag w 9) (flag w 8)))
     | 1 =>
       need (bits w 16 6 == 0) .reservedField
         (need (bits w 0 16 ≠ 0) .badPrefix (.ok (.rep (BitVec.ofNat 16 (bits w 0 16)))))
     | 2 => .ok (.lix (BitVec.ofNat 22 (bits w 0 22)))
     | _ => .error .unassignedFunction)

/-- The instruction of a 32-bit word, by MAJOR (R247). -/
def decodeWord (w : Nat) : Except DecodeError Instr :=
  let mj := bits w 25 6
  if mj == 0 then .error .unassignedMajor
  else if mj ≤ 4 then decodeAlu mj w
  else if mj ≤ 12 then decodeImm mj w
  else if mj ≤ 15 then .error .unassignedMajor
  else if mj ≤ 25 then decodeCtl mj w
  else if mj ≤ 28 then decodeMem mj w
  else if mj ≤ 30 then decodeSync mj w
  else if mj == 31 then .error .unassignedMajor
  else if mj ≤ 40 then decodeVec mj w
  else if mj ≤ 47 then .error .unassignedMajor
  else if mj ≤ 52 then decodeArray mj w
  else if mj ≤ 57 && mj ≠ 55 then decodeUnit mj w
  else if mj ≤ 59 then .error .unassignedMajor
  else if mj ≤ 62 then decodeSys mj w
  else decodePfx w

/-- The number of the little-endian bytes (R4). -/
def leNat : List Byte → Nat
  | [] => 0
  | b :: bs => b.toNat + 256 * leNat bs

/-- Decode the first instruction of a byte list: the instruction and the bytes after it (R242). -/
def decode : List Byte → Except DecodeError (Instr × List Byte)
  | b0 :: b1 :: b2 :: b3 :: rest =>
    match decodeWord (leNat [b0, b1, b2, b3]) with
    | .ok i => .ok (i, rest)
    | .error e => .error e
  | _ => .error .short

/-- The instruction the decoder reads from a word whose bits are numbered as the opcode table numbers them. -/
def decodeTableWord (_nbits w : Nat) : Option Instr :=
  match decode (wordBytes w) with
  | .ok (i, _) => some i
  | .error _ => none

end Sys2Proof
end

