-- ==== Sys2Proof/Machine/Crypto.lean ====
section
/-! DEFINITION. The algorithms that the spec names: AES-256 in XTS (R413) and GCM (R417) modes, SHA-384 and the verification of
ECDSA P-384 signatures (R416, R417). What they compute is not in the spec: it is that of their public standards (log 110). -/

namespace Sys2Proof.Machine

/-! Byte strings. -/

/-- The `n` low bytes of a number, little-endian. -/
def leBytes : Nat → Nat → List Byte
  | 0, _ => []
  | n + 1, v => BitVec.ofNat 8 v :: leBytes n (v / 256)

/-- The number of big-endian bytes, and its `n` low bytes. -/
def beNat (bs : List Byte) : Nat := bs.foldl (fun n b => n * 256 + b.toNat) 0
def beBytes (n v : Nat) : List Byte := (leBytes n v).reverse

/-- A byte string cut into pieces of `n` bytes, the last one as it is. -/
def pieces (n : Nat) : Nat → List Byte → List (List Byte)
  | 0, _ => []
  | fuel + 1, bs => if bs.isEmpty then [] else bs.take n :: pieces n fuel (bs.drop n)

/-! AES-256: the state is a list of sixteen byte values, column by column. -/

/-- The substitution box and its inverse, sixty-four bytes to a number, the first in its low eight bits. -/
def aesBox : List Nat :=
  [0x75B227EBE28012079A059618C323C7041531D871F1E5A534CCF73F362693FDB7C072A49CAFA2D4ADF04759FA7DC982CA76ABD7FE2B670130C56F6BF27B777C63,
   0xD2F3FF1021DAB6BCF5389D928F40A351A89F3C507F02F94585334D43FBAAEFD0CF584C4A39BECB6A5BB1FC20ED00D153842FE329B3D63B52A05A6E1B1A2C8309,
   0x8AE7A65EAF4566CA94ED58D6D37C8E779E4959162ACD3C25C2406490A3A32E0DB0B5EDE14B8EE4688902A22DC4F816073195D643D7EA7C41744975FEC130CCD,
   0x16BB54B00F2D99416842E6BF0D89A18CDF2855CEE9871E9B948ED9691198F8E19E1DC186B95735610EF6034866B53E708A8BBD4B1F74DDE8C6B4A61C2E2578BA]
def aesUnbox : List Nat :=
  [0x25D18B6D49A25B76B224D92866A12E084EC3FA420B954CEE3D23C2A632947B54CBE9DEC444438E3487FF2F9B8239E37CFBD7F3819EA340BF38A53630D56A0952,
   0x6B8A130103BDAFC1020F3FCA8F1E2CD00645B3B80558E4F70AD3BC8C00ABD890849D8DA75746155EDAB9EDFD5048706C92B6655DCC5CA4D41698688664F6F872,
   0xF45ACD78FEC0DB9A2079D2C64B3E56FC1BBE18AA0E62B76F89C5291D711AF1476EDF751CE837F9E28535ADE72274AC9673E6B4F0CECFF297EADC674F4111913A,
   0x7D0C2155631469E126D677BA7E042B17619953833CBBEBC8B0F52AAE4D3BE0A0EF9CC9939F7AE52D0D4AB519A97F51605FEC8027591012B131C7078833A8DD1F]

/-- A byte through the box, and back. -/
def aesSub (x : Nat) : Nat := bits (aesBox.getD (x / 64) 0) (8 * (x % 64)) 8
def aesUnsub (x : Nat) : Nat := bits (aesUnbox.getD (x / 64) 0) (8 * (x % 64)) 8

/-- Multiplication in the field of AES by a factor below 16. -/
def aesMul (k x : Nat) : Nat :=
  let dbl := fun (a : Nat) => if a < 128 then 2 * a else 2 * a ^^^ 0x11B
  (if k.testBit 0 then x else 0) ^^^ (if k.testBit 1 then dbl x else 0) ^^^ (if k.testBit 2 then dbl (dbl x) else 0) ^^^
    (if k.testBit 3 then dbl (dbl (dbl x)) else 0)

/-- Two lists of bytes added in the field. -/
def xorAll (a b : List Nat) : List Nat := (a.zip b).map fun p => p.1 ^^^ p.2

/-- The key schedule of AES-256: word `i` on, with the words before it, the latest first. -/
def aesExpand : Nat → Nat → List (List Nat) → List (List Nat)
  | 0, _, l => l
  | n + 1, i, l =>
    let t := l.headD []
    let t :=
      if i % 8 = 0 then xorAll ((t.drop 1 ++ t.take 1).map aesSub) [2 ^ (i / 8 - 1), 0, 0, 0]
      else if i % 8 = 4 then t.map aesSub
      else t
    aesExpand n (i + 1) (xorAll (l.getD 7 []) t :: l)

/-- The fifteen round keys of a 32-byte key. -/
def aesKeys (key : List Byte) : List (List Nat) :=
  let first := (pieces 4 8 key).map fun w => w.map BitVec.toNat
  let ws := (aesExpand 52 8 first.reverse).reverse
  (List.range 15).map fun r => ((ws.drop (4 * r)).take 4).flatten

/-- Rows shifted by `d` columns: 1 in encryption, 3 in decryption. -/
def aesShift (d : Nat) (x : List Nat) : List Nat :=
  (List.range 16).map fun i => x.getD (4 * ((i / 4 + d * (i % 4)) % 4) + i % 4) 0

/-- Columns mixed by a circulant of factors. -/
def aesMix (m : List Nat) (x : List Nat) : List Nat :=
  (List.range 16).map fun i =>
    (List.range 4).foldl (fun v k => v ^^^ aesMul (m.getD ((k + 4 - i % 4) % 4) 0) (x.getD (4 * (i / 4) + k) 0)) 0

/-- A block encrypted, and decrypted, under round keys. -/
def aesEnc (ks : List (List Nat)) (x : List Nat) : List Nat :=
  let x := xorAll x (ks.headD [])
  let x := ((ks.drop 1).take 13).foldl (fun x k => xorAll (aesMix [2, 3, 1, 1] (aesShift 1 (x.map aesSub))) k) x
  xorAll (aesShift 1 (x.map aesSub)) (ks.getD 14 [])
def aesDec (ks : List (List Nat)) (x : List Nat) : List Nat :=
  let x := xorAll x (ks.getD 14 [])
  let x := ((ks.drop 1).take 13).reverse.foldl
    (fun x k => aesMix [14, 11, 13, 9] (xorAll ((aesShift 3 x).map aesUnsub) k)) x
  xorAll ((aesShift 3 x).map aesUnsub) (ks.headD [])

/-- A block as a little-endian number, and back. -/
def blockNat (x : List Nat) : Nat := x.foldr (fun b n => b + 256 * n) 0
def natBlock (v : Nat) : List Nat := (List.range 16).map fun i => bits v (8 * i) 8

/-! AES-XTS-256 of a 32-byte sector (R413): the data key stands in the low 256 bits of the key material, the tweak key above it. -/

/-- The tweaks of a sector's two blocks. -/
def xtsTweaks (keys sector : Nat) : List Nat :=
  let t := blockNat (aesEnc (aesKeys (leBytes 32 (keys / 2 ^ 256))) (natBlock sector))
  [t, if t < 2 ^ 127 then 2 * t else 2 * t % 2 ^ 128 ^^^ 0x87]

/-- A sector through the cipher in one direction. -/
def xtsSector (f : List (List Nat) → List Nat → List Nat) (keys sector : Nat) (bs : List Byte) : List Byte :=
  let ks := aesKeys (leBytes 32 keys)
  ((pieces 16 2 bs).zip (xtsTweaks keys sector)).flatMap fun p =>
    leBytes 16 (blockNat (f ks (xorAll (p.1.map BitVec.toNat) (natBlock p.2))) ^^^ p.2)

/-- Byte `k` of a sector whose plaintext under the keys `stored` is `plain`, as it reads under the keys `seen` (R413, R414): 0 for
data in clear, else one more than the key material. -/
def recryptByte (stored seen sector : Nat) (plain : List Byte) (k : Nat) : Byte :=
  let kept := if stored = 0 then plain else xtsSector aesEnc (stored - 1) sector plain
  (if seen = 0 then kept else xtsSector aesDec (seen - 1) sector kept).getD k 0

/-! AES-256-GCM (R417). -/

/-- Multiplication in the field of GCM, on big-endian numbers. -/
def gcmMul (x y : Nat) : Nat :=
  ((List.range 128).foldl (fun (z, v) i =>
    (if x.testBit (127 - i) then z ^^^ v else z, if v % 2 = 1 then v / 2 ^^^ 0xE1 * 2 ^ 120 else v / 2)) (0, y)).1

/-- GHASH of the padded associated data and text. -/
def gcmHash (h : Nat) (aad text : List Byte) : Nat :=
  let blocks := fun (bs : List Byte) => (pieces 16 (bs.length / 16 + 1) bs).map fun b => beNat b * 256 ^ (16 - b.length)
  (blocks aad ++ blocks text ++ [8 * aad.length * 2 ^ 64 + 8 * text.length]).foldl (fun y x => gcmMul (y ^^^ x) h) 0

/-- A sealed text with its 16-byte tag, opened under a 32-byte key and a 12-byte nonce: none if the tag is not its own. -/
def gcmOpen (key nonce aad sealedText : List Byte) : Option (List Byte) :=
  let ks := aesKeys key
  let enc := fun (v : Nat) => beNat ((aesEnc ks ((beBytes 16 v).map BitVec.toNat)).map (BitVec.ofNat 8))
  let n := sealedText.length - 16
  let text := sealedText.take n
  let j := beNat nonce * 2 ^ 32 + 1
  if sealedText.length < 16 || beNat (sealedText.drop n) ≠ enc j ^^^ gcmHash (enc 0) aad text then none
  else
    let bs := pieces 16 (n / 16 + 1) text
    some ((bs.zip (List.range bs.length)).flatMap fun p =>
      let pad := beBytes 16 (enc (j + 1 + p.2))
      (p.1.zip pad).map fun e => e.1 ^^^ e.2)

/-! SHA-384. -/

/-- The eighty constants of the rounds, eight to a number, the first in its low 64 bits. -/
def shaTable : List Nat :=
  [0xAB1C5ED5DA6D8118923F82A4AF194F9B59F111F1B605D0193956C25BF348B538E9B5DBA58189DBBCB5C0FBCFEC4D3B2F7137449123EF65CD428A2F98D728AE22,
   0xC19BF174CF6926949BDC06A725C7123580DEB1FE3B1696B172BE5D74F27B896F550C7DC3D5FFB4E2243185BE4EE4B28C12835B0145706FBED807AA98A3030242,
   0x76F988DA831153B55CB0A9DCBD41FBD44A7484AA6EA6E4832DE92C6F592B0275240CA1CC77AC9C650FC19DC68B8CD5B5EFBE4786384F25E3E49B69C19EF14AD2,
   0x142929670A0E6E7006CA6351E003826FD5A79147930AA725C6E00BF33DA88FC2BF597FC7BEEF0EE4B00327C898FB213FA831C66D2DB43210983E5152EE66DFAB,
   0x92722C851482353B81C2C92E47EDAEE6766A0ABB3C77B2A8650A73548BAF63DE53380D139D95B3DF4D2C6DFC5AC42AED2E1B21385C26C92627B70A8546D22FFC,
   0x106AA07032BBD1B8F40E35855771202AD69906245565A910D192E819D6EF5218C76C51A30654BE30C24B8B70D0F89791A81A664BBC423001A2BFE8A14CF10364,
   0x682E6FF3D6B2B8A35B9CCA4F7763E3734ED8AA4AE3418ACB391C0CB3C5C95A6334B0BCB5E19B48A82748774CDF8EEB991E376C085141AB5319A4C116B8D2D0C8,
   0xC67178F2E372532BBEF9A3F7B2C67915A4506CEBDE82BDE990BEFFFA23631E288CC702081A6439EC84C87814A1F0AB7278A5636F43172F60748F82EE5DEFB2FC,
   0x1B710B35131C471B113F9804BEF90DAE0A637DC5A2C898A606F067AA72176FBAF57D4F7FEE6ED178EADA7DD6CDE0EB1ED186B8C721C0C207CA273ECEEA26619C,
   0x6C44198C4A4758175FCB6FAB3AD6FAEC597F299CFC657E2A4CC5D4BECB3E42B6431D67C49C100D4C3C9EBE0A15C9BEBC32CAAB7B40C7249328DB77F523047D84]

/-- The initial value. -/
def shaInit : List Nat :=
  [0xCBBB9D5DC1059ED8, 0x629A292A367CD507, 0x9159015A3070DD17, 0x152FECD8F70E5939,
   0x67332667FFC00B31, 0x8EB44A8768581511, 0xDB0C2E0D64F98FA7, 0x47B5481DBEFA4FA4]

/-- Rotation and the mixing functions of 64-bit words. -/
def shaRot (n x : Nat) : Nat := (x / 2 ^ n + x * 2 ^ (64 - n)) % 2 ^ 64
def shaMix (a b c x : Nat) : Nat := shaRot a x ^^^ shaRot b x ^^^ shaRot c x
def shaPick (e f g : Nat) : Nat := (e &&& f) ^^^ ((2 ^ 64 - 1 - e) &&& g)
def shaMost (a b c : Nat) : Nat := (a &&& b) ^^^ (a &&& c) ^^^ (b &&& c)

/-- The message schedule of a block: the words so far, the latest first. -/
def shaWords : Nat → List Nat → List Nat
  | 0, l => l
  | n + 1, l =>
    let x := l.getD 14 0
    let y := l.getD 1 0
    let w := (shaRot 19 y ^^^ shaRot 61 y ^^^ y / 2 ^ 6) + l.getD 6 0 + (shaRot 1 x ^^^ shaRot 8 x ^^^ x / 2 ^ 7) + l.getD 15 0
    shaWords n (w % 2 ^ 64 :: l)

/-- A round. -/
def shaRound (v : List Nat) (k w : Nat) : List Nat :=
  match v with
  | [a, b, c, d, e, f, g, h] =>
    let t1 := h + shaMix 14 18 41 e + shaPick e f g + k + w
    let t2 := shaMix 28 34 39 a + shaMost a b c
    [(t1 + t2) % 2 ^ 64, a, b, c, (d + t1) % 2 ^ 64, e, f, g]
  | _ => v

/-- A 128-byte block taken into the hash. -/
def shaBlock (h : List Nat) (block : List Byte) : List Nat :=
  let ws := (shaWords 64 ((pieces 8 16 block).map beNat).reverse).reverse
  let v := (ws.zip (List.range 80)).foldl (fun v p => shaRound v (bits (shaTable.getD (p.2 / 8) 0) (64 * (p.2 % 8)) 64) p.1) h
  (h.zip v).map fun p => (p.1 + p.2) % 2 ^ 64

/-- SHA-384 of a byte string: the 48 bytes of the digest. -/
def sha384 (bs : List Byte) : List Byte :=
  let pad := (240 - (bs.length + 1) % 128) % 128
  let m := bs ++ 0x80 :: List.replicate pad 0 ++ beBytes 16 (8 * bs.length)
  (((pieces 128 (m.length / 128) m).foldl shaBlock shaInit).take 6).flatMap (beBytes 8)

/-! ECDSA P-384. -/

/-- The curve: its prime, its coefficient b, its base point and the order of that point. -/
def p384P : Nat := 2 ^ 384 - 2 ^ 128 - 2 ^ 96 + 2 ^ 32 - 1
def p384B : Nat :=
  0xB3312FA7E23EE7E4988E056BE3F82D19181D9C6EFE8141120314088F5013875AC656398D8A2ED19D2A85C8EDD3EC2AEF
def p384G : Nat × Nat :=
  (0xAA87CA22BE8B05378EB1C71EF320AD746E1D3B628BA79B9859F741E082542A385502F25DBF55296C3A545E3872760AB7,
   0x3617DE4A96262C6F5D9E98BF9292DC29F8F41DBD289A147CE9DA3113B5F0B8C00A60B1CE1D7E819D7A431D7C90EA0E5F)
def p384N : Nat :=
  0xFFFFFFFFFFFFFFFFFFFFFFFFFFFFFFFFFFFFFFFFFFFFFFFFC7634D81F4372DDF581A0DB248B0A77AECEC196ACCC52973

/-- A power modulo a prime, its exponent read over `n` bits; and the inverse. -/
def powMod (m : Nat) : Nat → Nat → Nat → Nat
  | 0, _, _ => 1
  | n + 1, b, e => (if e % 2 = 1 then b else 1) * powMod m n (b * b % m) (e / 2) % m
def invMod (m x : Nat) : Nat := powMod m 384 x (m - 2)

/-- The sum of two points, none being the point at infinity. -/
def p384Add : Option (Nat × Nat) → Option (Nat × Nat) → Option (Nat × Nat)
  | none, q => q
  | p, none => p
  | some (x1, y1), some (x2, y2) =>
    let p := p384P
    let on := fun (l : Nat) =>
      let x := (l * l + 2 * p - x1 - x2) % p
      some (x, (l * (x1 + p - x) + p - y1) % p)
    if x1 ≠ x2 then on ((y2 + p - y1) * invMod p ((x2 + p - x1) % p) % p)
    else if y1 ≠ y2 || y1 = 0 then none
    else on ((3 * x1 * x1 + p - 3) * invMod p (2 * y1 % p) % p)

/-- A multiple of a point, its factor read over `n` bits. -/
def p384Times : Nat → Nat → Option (Nat × Nat) → Option (Nat × Nat)
  | 0, _, _ => none
  | n + 1, k, q =>
    let r := p384Times n (k / 2) (p384Add q q)
    if k % 2 = 1 then p384Add q r else r

/-- Is a signature, r then s, of a digest one by a public key in uncompressed SEC1 form (R416)? -/
def ecdsaVerify (key digest sig : List Byte) : Bool :=
  let x := beNat ((key.drop 1).take 48)
  let y := beNat (key.drop 49)
  let r := beNat (sig.take 48)
  let v := beNat (sig.drop 48)
  let w := invMod p384N v
  key.length = 97 && sig.length = 96 && key.headD 0 = 4 && decide (x < p384P) && decide (y < p384P) &&
  decide (y * y % p384P = (x * x * x + (p384P - 3) * x + p384B) % p384P) &&
  decide (0 < r) && decide (r < p384N) && decide (0 < v) && decide (v < p384N) &&
  (match p384Add (p384Times 384 (beNat digest * w % p384N) (some p384G)) (p384Times 384 (r * w % p384N) (some (x, y))) with
   | none => false
   | some (a, _) => a % p384N = r)

end Sys2Proof.Machine
end

