-- ==== Sys2Proof/Machine/State.lean ====
section
/-! DEFINITION. The state of one module as plain data: harts, cores, clusters with their units, the module's
memory, Keystone, Trestle, links, and the model's own schedule (log 2). Absent table entries have the reset
value that the accessors of `Machine/Ops.lean` name. -/

namespace Sys2Proof.Machine

/-- A table by number, kept in rising order of its keys; an absent key has a default that the reader names. -/
abbrev Tbl (α : Type) := List (Nat × α)

/-! Traps (R215). -/

/-- The causes of R215. -/
inductive TrapKind where
  | illegal | misaligned | pageFault | accessFault | poison | software | accBusy | tableStale | tableIndexRange
  | maskProgram | queueTimeout | deadlockVictim | barrierTimeout | leaseTimeout | remoteStoreRefused
  | formatMismatch | txFootprint | txCheckLate | idemViolation | wake | timer | monitor
  deriving DecidableEq, Repr

/-- A trap or interrupt about to be entered: its cause, sub-code, ASYNC bit and trap value (R215). -/
structure Trap where
  kind  : TrapKind
  sub   : Nat
  async : Bool
  value : Word
  deriving DecidableEq, Repr

/-! Harts and slots (R10, R20, R225). -/

/-- What a parked hart waits for besides its outstanding results (R16, R183, R204, R233, R368). -/
inductive Need where
  /-- Only the outstanding results. -/
  | results
  /-- Every write of the hart acknowledged (R204). -/
  | writes
  /-- Every write of the task acknowledged, its engine jobs included (R57, R342). -/
  | task
  /-- Room for this many entries in the frame's posted-store journal (R183, R289). -/
  | journal (n : Nat)
  /-- The reply to an earlier remote load into this message slot (R233). -/
  | reply (slot : Nat)
  /-- Nothing of this core may be waiting at the array or running in it (R123). -/
  | arrayIdle
  /-- The hart's stores acknowledged, no unfinished command of this core that names one of these tables or this
  accumulator (R126), and, for a command of the period, none of another core's that an ended period accepted (R121). -/
  | array (tbs : List Nat) (acc : Option Nat) (period : Bool)
  /-- The multicast copy of this table to arrive (R144). -/
  | copy (tb : Nat)
  /-- Every earlier engine job of this hart finished (R176, R328). -/
  | jobs
  /-- Room for one more job (R168). -/
  | jobRoom (line : Nat)
  /-- No unfinished job of the hart overlaps these bytes as R175 states. -/
  | clear (lo n : Nat) (write : Bool)
  /-- The bank's mode change to finish (R83). -/
  | bank (b : Nat)
  /-- No table of the cluster is still being built, so that a register can be had (R137). -/
  | builds
  /-- No KVCOMMIT of the cluster whose take has been performed is still to be served (R161). -/
  | take
  /-- Free slots of a FIFO for a write, or filled ones for a read (R81). -/
  | fifo (cl b k : Nat) (write : Bool)
  /-- Every engine job, array and mask command of the module that translated an affected page finished (R236). -/
  | inval (asid va : Option Nat) (before : Nat)
  /-- For a KEYCMD to be over: an access needs the key slot (R414). -/
  | key
  /-- The unit or Keystone to answer: the event that answers ends the park. -/
  | answer
  /-- A cut: the hart stays until its save record is written (R228). -/
  | cut
  deriving DecidableEq, Repr

/-- The waits of R20 other than a park. -/
inductive Wait where
  | message (slot : Nat)
  | queuePush (q : Nat) | queuePop (q : Nat)
  /-- A sync-mode access or a FIFO access in flight, by its number (R82). -/
  | memory (uid : Nat)
  | barrier (k : BarKind) | vote
  | lease | arrayPeriod
  | event (line : Nat) | list (l : Nat)
  | inbox | idle
  deriving DecidableEq, Repr

/-- The states of R10. A parked hart may hold the trap that it enters once its results have returned (R218). -/
inductive SlotSt where
  | free | ready | issuing
  | parked (n : Need) (tr : Option (Trap × Word))
  | waiting (w : Wait)
  deriving DecidableEq, Repr

/-- An outstanding result (R16, R17): the bytes it still has to write, each with its index in the value, and the
value once it is there. `src` is the access that brings it. -/
structure Outst where
  dest : List (Nat × Nat)
  val  : Option (List Byte)
  psn  : Bool
  src  : Option Nat
  /-- A narrow load's size and sign, applied to the bytes that come (R273). -/
  ext  : Option (Nat × Bool) := none
  /-- Made by an execution of the REP sequence that goes on (R295). -/
  rep  : Bool := false
  /-- A vector word that it writes to storage, by its place among the accesses of the machine: such a write is pending for
  its hart's releases (R204, R289). -/
  mem  : Option Nat := none
  /-- Its place among the accesses of the machine by issue: a younger write supersedes it (R17). -/
  seq  : Nat := 0
  /-- The vector execution whose result it is, while that still waits for its sources (R289). -/
  vec  : Option Nat := none
  deriving DecidableEq, Repr

/-- A vector execution whose result waits for source words that are on their way (R289): its number, the instruction and
the hart status word that governs it, of each source word the access that brings it or the bytes that were there with their
poison, and its posted writes with the bytes of the result that they carry. -/
structure VPend where
  uid  : Nat
  ins  : Instr
  hsw  : Word
  srcs : List (List (Option Nat × List Byte × List Bool))
  writes : List (Nat × List Nat)
  deriving DecidableEq, Repr

/-- One hart slot. -/
structure Slot where
  st      : SlotSt := .free
  pc      : Word := 0
  wp      : Nat := 0
  /-- The live hart status word (R245). -/
  hsw     : Word := 0
  ktvec   : Word := 0
  asid    : Nat := 0
  timecmp : Word := BitVec.allOnes 64
  timDone : Bool := false
  wakeval : Word := 0
  monword : Word := 0
  ksaddr  : Word := 0
  /-- SCOUT (R338). -/
  scout   : Bool := false
  sret    : Word := 0
  /-- slot.LOOP: WP, PC, KTVEC (R27, R343). -/
  loop    : Option (Nat × Word × Word) := none
  /-- The bound transaction, by its submission number (R333). -/
  bound   : Option Nat := none
  /-- The point of the open idempotent region (R176). -/
  region  : Option Word := none
  /-- The ACCESS_FAULT at a task's entry: PC and trap value (R56). -/
  entryFault : Option (Word × Word) := none
  /-- An execution of the pending REP has been made (R228). -/
  repped  : Bool := false
  outs    : List Outst := []
  /-- The vector executions whose sources are on their way (R289). -/
  vpend   : List VPend := []
  /-- The instruction at the PC has begun: its operand values, kept over its park or met wait. -/
  inside  : Bool := false
  latch   : List Word := []
  /-- The operand words that were poisoned at issue, kept with the latched values (R311). -/
  lpsn    : List Nat := []
  /-- What the instruction at the PC has read from FIFO ports for a record or table: address, bytes and poison (R81). -/
  kept    : List (Nat × List Byte × Bool) := []
  /-- The wait epoch (R196) and the cycle at which the wait, or the turn of issue, began. -/
  epoch   : Nat := 0
  since   : Nat := 0
  /-- The cycle since which this wait has an edge and has sent no deadlock probe (R196). -/
  edgeAt  : Option Nat := none
  /-- The bound of the wait in cycles, if it has one (R188). -/
  limit   : Option Nat := none
  /-- The cycle of the hart's last acquire at device or group scope (R203). -/
  acqAt   : Option Nat := none
  /-- An answer that a unit has delivered: the words to be written by the parked instruction. -/
  answer  : Option (List Word) := none
  /-- The hart has sent a cancel for its waiting access (R21). -/
  cancel  : Bool := false
  /-- The instruction at the PC is an array command that its core, ACTIVE, has not had accepted or trapped (R121). -/
  arrCmd  : Bool := false
  /-- The event lines of the jobs that the hart's cut abandoned (R177). -/
  rerun   : List Nat := []
  deriving DecidableEq, Repr

/-! Memory-side agents. -/

/-- The atomic operations of R279. -/
inductive AtomOp where
  | swap | add | and | or | xor | min | max | minn | maxn | cas
  deriving DecidableEq, Repr

/-- What an access does at its target. -/
inductive AccOp where
  | load
  | store (data : List Byte)
  | atomic (op : AtomOp) (c cmp : Word)
  | sync (m : SyncMode) (data : Option Word)
  /-- A SEND: destination core, frame, slot, value, NANMODE, pod-wide sender (R183). -/
  | send (core frame slot : Nat) (v : Word) (nan : Bool) (sender : Nat)
  deriving DecidableEq, Repr

/-- Where the outcome of an access goes. -/
inductive AccDest where
  /-- An outstanding result of the hart. -/
  | result
  /-- A waiting hart: the workspace words it writes (value, and the bit for a probe). -/
  | wait (d : Nat) (sw : Bool)
  /-- A word of a waiting LDM or STM (R278). -/
  | multi (d n : Nat) (sw : Bool)
  /-- An entry of the frame's journal, in a core's pool (R223). -/
  | journal (pool frame entry : Nat)
  /-- A message slot, with the NANMODE of the load (R276). -/
  | slot (frame n : Nat) (nan : Bool)
  /-- The take of a KVCOMMIT (R163). -/
  | kvTake
  /-- A source word of a vector execution (R289). -/
  | vec
  | nothing
  deriving DecidableEq, Repr

/-- Where an access is on its way. -/
inductive AccSt where
  | flying
  /-- The write of a vector execution whose result is not there yet (R289). -/
  | unready
  /-- In its controller's retry list, or waiting at a FIFO, since this arrival number (R90, R81). -/
  | retry (since : Nat)
  /-- Refused by a full retry list or a full holding buffer at this cycle, to be sent again 64 cycles later (R91, R184). -/
  | resend (since : Nat)
  | done (val : List Byte) (psn : Bool)
  /-- Performed; the reply, refused by a full holding buffer at this cycle, is sent again 64 cycles later (R184). -/
  | again (val : List Byte) (psn : Bool) (since : Nat)
  | refused (why : RefuseReason)
  deriving DecidableEq, Repr

/-- An access in flight (R201, R212): its bytes by physical address, in order. -/
structure Access where
  uid   : Nat
  hart  : Nat
  va    : Word
  pas   : List Nat
  key   : Nat
  cache : Bool
  op    : AccOp
  psn   : Bool
  dest  : AccDest
  st    : AccSt
  /-- The scope of the acquire that takes effect when it is performed (R203, R206). -/
  acq   : Option Scope := none
  /-- The LDM or STM it is a word of, by the number of that instruction's first access (R262). -/
  grp   : Option Nat := none
  /-- For an access that crosses a page: its bytes in the first page, and the key slot of the rest (R260, R413). -/
  past  : Option (Nat × Nat) := none
  /-- A narrow load's size and sign, for a load that its hart waits for (R273). -/
  ext   : Option (Nat × Bool) := none
  /-- An SC load or store (R207). -/
  sc    : Bool := false
  /-- Of an access that is not one aligned word: the bytes performed so far, what they read, and its poison (R197). -/
  part  : Nat := 0
  got   : List Byte := []
  gotPsn : Bool := false
  /-- A word of a clean vector write that covers its whole HBM sector (R95, R291). -/
  wide  : Bool := false
  /-- The launch of the task that made it (R35). -/
  tag   : Option Nat := none
  deriving DecidableEq, Repr

/-- A cache line (R80, R84): base address, the key it was filled under, bytes, the poisoned sectors among them by
address, the cycle of its fill, and the cycle at which its bytes were read at the home slice. -/
structure Line where
  base   : Nat
  key    : Nat
  bytes  : List Byte
  psn    : List Nat
  filled : Nat
  age    : Nat
  deriving DecidableEq, Repr

/-- A TLB entry (R235, R411): address space, page or block number, the leaf entry. -/
structure TlbEnt where
  asid : Nat
  big  : Bool
  vpn  : Nat
  pte  : Word
  deriving DecidableEq, Repr

/-- A posted-store journal entry of a frame (R223), and the core that holds the frame: it stays in its pool when the frame
moves (R225, R232). -/
structure JEnt where
  frame   : Nat
  core    : Nat
  entry   : Nat
  send    : Bool
  addr    : Nat
  hart    : Nat
  /-- The transaction of the task that took it (R344). -/
  task    : Option Nat
  refused : Option RefuseReason
  /-- Writes under this entry that have not been answered: the words of a vector chunk (R197, R289). -/
  left    : Nat := 1
  /-- Its place among the accesses of the machine: the oldest is reported first (R223). -/
  age     : Nat := 0
  deriving DecidableEq, Repr

/-- A fault with ASYNC set that is pending for a frame: the trap, and the LDM or STM that reports it (R224, R262). -/
structure Late where
  frame : Nat
  trap  : Trap
  grp   : Option Nat := none
  deriving DecidableEq, Repr

/-- A message held for a full slot (R184, R276). -/
structure Held where
  frame  : Nat
  slot   : Nat
  v      : Word
  nan    : Bool
  sender : Option Nat
  psn    : Bool
  deriving DecidableEq, Repr

/-- A task record in an inbox entry (R26, R385). -/
structure InboxEnt where
  ent   : Nat
  txn   : Nat
  words : List Word
  /-- The first address of a push area that was not in scratchpad mode (R56). -/
  bad   : Option Word := none
  deriving DecidableEq, Repr

/-! The lookup array (R119 to R146). -/

/-- The lease states of R120. -/
inductive LeaseSt where
  | idle | requesting | active | suspended
  deriving DecidableEq, Repr

/-- The table states. -/
inductive TabSt where
  | empty | expected | building | resident | spilled | lost
  deriving DecidableEq, Repr

/-- Why a table is stale (R136). -/
inductive StaleCause where
  | written | remoded | lost | notice
  deriving DecidableEq, Repr

/-- A virtual table (R119): its descriptor; `vals` are its entries in the layout of R130 while it is resident. -/
structure Table where
  st     : TabSt := .empty
  stale  : Option (StaleCause × Nat) := none
  kind   : TblKind := .sub
  ty     : ElemType := .bf16
  rows   : Nat := 0
  groups : Nat := 0
  gbase  : Nat := 0
  /-- The watch span: storage unit base, first and last byte (R131). -/
  watch  : Option (Nat × Nat × Nat) := none
  vals   : List (BitVec 32) := []
  psn    : Bool := false
  reg    : Option Nat := none
  /-- The member cores that hold a copy, and the leader's core of a table that is a copy (R145). -/
  copies : List Nat := []
  leader : Option Nat := none
  deriving DecidableEq, Repr

/-- The array state of one core in one of its two array contexts (R119, R231). -/
structure ArrCtx where
  lease  : LeaseSt := .idle
  /-- The request has been granted since the core was IDLE: its claims are held (R120). -/
  granted : Bool := false
  saved  : Bool := false
  mask   : Nat := 0
  bound  : Nat := 0
  /-- The record address, hart and rights of the LEASE that made the request (R315). -/
  recAt  : Nat := 0
  req    : Nat := 0
  priv   : Bool := false
  spill  : Nat := 0
  nmem   : Nat := 0
  mem    : List Nat := []
  asid   : Nat := 0
  tabs   : Tbl Table := []
  deriving DecidableEq, Repr

/-- A core. -/
structure Core where
  stage    : Nat := 0
  /-- A marked move: the new stage (R29). -/
  move     : Option Nat := none
  /-- The cycle from which it takes records (R29). -/
  openAt   : Nat := 0
  inbox    : List InboxEnt := []
  lastSlot : Nat := 3
  served   : Nat := 3
  accs     : Tbl Word := []
  journal  : List JEnt := []
  /-- Pending asynchronous faults of the core's frames other than refused journal entries (R224, R262). -/
  late     : List Late := []
  held     : List Held := []
  /-- The LDM or STM of a frame that stands between its words, by the frame and its PC: the number that its words go under
(R262, R278). -/
  groups   : List (Nat × Word × Nat) := []
  /-- Forwarding table: old frame, new core, the launch that the entry lasts for (R232). -/
  fwd      : List (Nat × Nat × Nat) := []
  dcache   : List Line := []
  icache   : List Line := []
  /-- The cycle of the core's last ICINV, for its fetches through the cluster cache (R358). -/
  icAt     : Option Nat := none
  mtvec    : Word := 0
  actx     : Nat := 0
  /-- The two array contexts (R231). -/
  arr      : Tbl ArrCtx := []
  cnt      : Tbl Word := []
  deriving DecidableEq, Repr

/-- A bank of an accumulator: its nonzero elements by 128 × row + column, and its poison (R142). -/
structure Bank where
  v   : Tbl (BitVec 32) := []
  psn : Bool := false
  deriving DecidableEq, Repr

/-- An accumulator (R119). -/
structure Acc where
  work   : Bank := {}
  vis    : Bank := {}
  part   : Tbl (BitVec 32) := []
  /-- The open block: M, N, opener's hart and sequence number (R134). -/
  opn    : Option (Nat × Nat × Nat × Nat) := none
  deriving DecidableEq, Repr

/-- The numbers of an accepted MMT (R132): its table steps, codes and scales as fetched. -/
structure MmtCmd where
  acc    : Nat
  tb     : Nat
  /-- It opens the block: partials start at +0. -/
  opens  : Bool
  form   : Form
  signed : Bool
  last   : Bool
  tabs   : List Table
  g0     : Nat
  ng     : Nat
  m      : Nat
  n      : Nat
  codes  : List (List Byte)
  scales : List (BitVec 32)
  psn    : Bool
  deriving DecidableEq, Repr

/-- An accepted MMD (R140, R141): the physical addresses of its elements and scales, with their keys. -/
structure MmdCmd where
  acc : Nat
  ta  : ElemType
  tb  : ElemType
  nan : Bool
  ftz : Bool
  sat : Bool
  m   : Nat
  n   : Nat
  k   : Nat
  aPas : List (Nat × Nat)
  bPas : List (Nat × Nat)
  saPas : List (Nat × Nat)
  sbPas : List (Nat × Nat)
  deriving DecidableEq, Repr

/-- An accepted TBUILD (R319): source elements by address, number types and options. -/
structure BuildCmd where
  core : Nat
  ctx  : Nat
  tb   : Nat
  kind : TblKind
  src  : ElemType
  ty   : ElemType
  ftz  : Bool
  sat  : Bool
  rows : Nat
  x    : Nat
  gbase : Nat
  pas  : List (Nat × Nat)
  mc   : Bool
  deriving DecidableEq, Repr

/-- An array command accepted and not finished (R126). -/
inductive ArrOp where
  | mmt (c : MmtCmd) | mmd (c : MmdCmd) | swap (acc : Nat) (zero : Bool) | build (c : BuildCmd)
  deriving DecidableEq, Repr

/-- A queued array command with its sequence number, core and issuing hart. -/
structure ArrCmd where
  seq  : Nat
  core : Nat
  ctx  : Nat
  hart : Nat
  /-- The address space and the virtual pages that it translated (R236). -/
  asid : Nat
  pages : List Nat
  op   : ArrOp
  /-- Its place among the accesses of the machine: it starts once earlier stores of its hart are acknowledged (R126). -/
  after : Nat
  deriving DecidableEq, Repr

/-- A multicast copy on its way: leader's core and cluster, member core, table number and contents (R144). -/
structure McCopy where
  leader : Nat
  dst    : Nat
  tb     : Nat
  tab    : Table
  deriving DecidableEq, Repr

/-- The lookup array of a cluster. -/
structure Arr where
  accs    : Tbl Acc := []
  /-- Who holds each physical register, core × 16 + context × 8 + table, and the sequence of its last use (R137). -/
  regs    : Tbl (Nat × Nat) := []
  seq     : Nat := 0
  cmds    : List ArrCmd := []
  /-- Claims: accumulator to core (0 to 15) × 2 + context. -/
  claims  : Tbl Nat := []
  holder  : Nat := 0
  active  : Bool := false
  begun   : Nat := 0
  taken   : Nat := 0
  lastCmd : Nat := 0
  copies  : List McCopy := []
  /-- Stale notices on their way: leader core, member core and table (R145). -/
  notices : List (Nat × Nat × Nat) := []
  deriving DecidableEq, Repr

/-! The mask unit (R148 to R165). -/

/-- A mask context (R148). -/
structure MaskCtx where
  prog   : List (BitVec 16) := []
  consts : List (BitVec 32) := []
  segs   : List (Nat × Nat) := []
  tree   : List Nat := []
  limit  : Nat := 0
  tbase  : Nat := 0
  gen    : BitVec 32 := 0
  full   : Word := 0
  part   : Word := 0
  empty  : Word := 0
  forced : Word := 0
  psn    : Bool := false
  deriving DecidableEq, Repr

/-! The copy engine and the work-lists (R166 to R181). -/

/-- A job (R166) with the physical image of its regions as translated at acceptance (R236). -/
structure Job where
  /-- Its place among the accesses of the machine, by issue. -/
  uid    : Nat
  hart   : Nat
  opc    : Nat
  et     : ElemType
  iw     : Nat
  evt    : Nat
  count  : Nat
  elen   : Nat
  src    : Nat
  dst    : Nat
  idx    : Nat
  rbound : Nat
  wbound : Nat
  /-- The address space, and page images: virtual page to physical page and key (R236). -/
  asid   : Nat
  pages  : List (Nat × Nat × Nat)
  /-- The declared regions as physical ranges: start, length, written (R167, R175). -/
  regions : List (Nat × Nat × Bool)
  core   : Nat
  started : Bool
  /-- The next element to be finished (R82, R169). -/
  next   : Nat
  /-- The index word of that element, once it has been read, and its poison (R171). -/
  ix     : Option (Nat × Bool) := none
  /-- Bytes that an overlapping COPY has behind it before its present 64-byte chunk (R169). -/
  pos    : Nat := 0
  /-- The source bytes read of the element, or of the chunk, and how many of them are behind the job (R213). -/
  buf    : List Byte := []
  wr     : Nat := 0
  /-- The elements being moved that have read poison (R170), and those of an overlapping COPY that were refused. -/
  hot    : List Nat := []
  skip   : List Nat := []
  /-- The bank it waits at, by cluster and number, for writing or reading, since this arrival number (R81, R83). -/
  stand  : Option (Nat × Nat × Bool × Nat)
  errs   : Nat
  bad    : Option Nat
  /-- Issued inside an open idempotent region, since this region point (R177). -/
  region : Bool
  /-- The launch that its hart's task belongs to (R35). -/
  tag    : Option Nat
  /-- The command message that the combining node compares, the cycle it was issued, and the other harts whose messages
  have been merged into it, each with the place of its command among the accesses of the machine (R311, R377). -/
  msg    : List Nat
  issued : Nat
  more   : List (Nat × Nat)
  /-- The row pointers that a WALK has read, and whether one was poisoned (R172). -/
  rows    : List Nat
  rowsPsn : Bool
  deriving DecidableEq, Repr

/-- An event line (R173): PEND, ERR bits 32 to 37 of the status word, FIRSTBAD. -/
structure EvLine where
  pend : Nat := 0
  err  : Nat := 0
  bad  : Option Nat := none
  deriving DecidableEq, Repr

/-- A work-list (R179). -/
structure WorkList where
  record : Word := 0
  ok     : Bool := false
  ring   : Nat := 0
  cap    : Nat := 0
  bitmap : Nat := 0
  keys   : Nat := 0
  clrpop : Bool := false
  head   : Nat := 0
  tail   : Nat := 0
  items  : List (Word × Bool) := []
  /-- Page images of ring and bitmap (R179), and the harts that wait, in arrival order. -/
  pages  : List (Nat × Nat × Nat) := []
  poppers : List Nat := []
  asid   : Nat := 0
  deriving DecidableEq, Repr

/-- A FIFO-mode bank's counters (R79, R81). -/
structure Fifo where
  head : Nat := 0
  tail : Nat := 0
  fill : Nat := 0
  deriving DecidableEq, Repr

/-- A cluster. -/
structure Cluster where
  csbmode : Word := 0
  csbpend : Nat := 0
  csbnext : Word := 0
  fifos   : Tbl Fifo := []
  ccache  : List Line := []
  tlb     : List TlbEnt := []
  cnt     : Tbl Word := []
  arr     : Arr := {}
  mctx    : Tbl MaskCtx := []
  lines   : Tbl EvLine := []
  jobs    : List Job := []
  wls     : Tbl WorkList := []
  deriving DecidableEq, Repr

/-! Keystone (R41 to R70, R186 to R196). -/

/-- The states of R22. -/
inductive TxSt where
  | submitted | numbered | granting | ready | dispatched | running | ending | retired | void
  deriving DecidableEq, Repr

/-- A transaction (R42). `uid` is its submission number, `num` its transaction number once it has one. -/
structure Txn where
  uid     : Nat
  num     : Option Nat
  st      : TxSt
  stage   : Nat
  checked : Bool
  sealed  : Bool
  budget  : Nat
  entry   : Word
  arg     : Word
  /-- Lock requests of the footprint in use and of the fallback: physical tile, exclusive, push. -/
  foot    : List TileReq
  back    : List TileReq
  /-- RP regions of the footprint in use and of the fallback, in footprint order: ranges by page, as (physical
  address, length, key). -/
  push    : List (List (Nat × Nat × Nat))
  pushBack : List (List (Nat × Nat × Nat))
  restart : Nat
  onBack  : Bool
  /-- Gang number, member index, width and height. -/
  gang    : Option (Nat × Nat × Nat × Nat)
  held    : List TileReq
  /-- Pushed bytes by source address, and the poisoned source sectors (R54, R55). -/
  pushBuf : List Host.Cell
  pushPsn : List Nat
  /-- The push has its space in the pool (R55). -/
  pooled  : Bool
  tag     : Nat
  asid    : Nat
  core    : Option Nat
  ent     : Nat
  started : Nat
  passed  : Bool
  wroteW  : Bool
  ended   : Bool
  /-- The number of the void that this submission restarts, until it is numbered (R64). -/
  voidOf  : Option Nat
  /-- Extra workspace granules of the task, read at dispatch (R229, R381). -/
  gran    : Nat
  deriving DecidableEq, Repr

/-- An entry of a batch: a transaction by submission number, a void, or a cut marker (R47). -/
inductive BatchEnt where
  | txn (uid : Nat) | void | marker (group : Bool)
  deriving DecidableEq, Repr

/-- A lock-table entry (R50). -/
structure LockEnt where
  num   : Nat
  excl  : Bool
  push  : Bool
  got   : Bool
  deriving DecidableEq, Repr

/-- A request, an end mark or a cut marker on an abutment's channel (R50, R69). -/
inductive ChanEnt where
  | req (num tile : Nat) (excl push : Bool) | endMark | marker
  deriving DecidableEq, Repr

/-- A gang in flight (R39, R191 to R194): member transactions, rectangle, lane, arrivals and votes by member. -/
structure Gang where
  id     : Nat
  w      : Nat
  h      : Nat
  stage  : Nat
  uids   : List Nat
  place  : Option (Nat × Nat × Nat)
  lane   : Nat
  /-- Members standing at a barrier, by kind: 0 row, 1 col, 2 rect. -/
  arr    : List (Nat × Nat)
  /-- Votes: member, operation, contribution. -/
  votes  : List (Nat × VoteOp × Word)
  /-- The cycle from which it has been the oldest READY unit of its stage (R39). -/
  since  : Option Nat
  reserved : Option (Nat × Nat × Nat)
  /-- Members whose records a pre-emption returned untaken (R31, R32). -/
  recs   : List Nat
  deriving DecidableEq, Repr

/-- A data queue (R186). -/
structure DQueue where
  record : Word := 0
  ok     : Bool := false
  ring   : Nat := 0
  cap    : Nat := 0
  asid   : Nat := 0
  head   : BitVec 32 := 0
  tail   : BitVec 32 := 0
  /-- Waiting pushes and pops in arrival order: pod-wide hart, item. -/
  pushers : List (Nat × Word × Bool) := []
  poppers : List Nat := []
  lastPush : Option Nat := none
  lastPop  : Option Nat := none
  pages  : List (Nat × Nat × Nat) := []
  deriving DecidableEq, Repr

/-- A launch (R403, R337). -/
structure Launch where
  tag    : Nat
  /-- The queue that caused it, or the graph trigger; the word index of its packet. -/
  queue  : Option Nat
  whr    : Nat
  /-- The address space of the launch, and that of the queue for CTX and DONE. -/
  asid   : Nat
  qasid  : Nat
  ctx    : Nat
  doneAt : Nat
  notify : Bool
  /-- Transactions accepted and not yet retired, and the highest number among them (R337, R405). -/
  live   : Nat
  last   : Nat
  /-- Trestle has sent the end marker; Keystone has forwarded it; what each node has passed up (R35). -/
  ended  : Bool
  marked : Bool
  reports : List (Nat × Word)
  /-- The descriptors still to be submitted: their array, or a graph's copy, how many there are, and the next (R403). -/
  desc   : Nat
  copy   : List Word
  ndesc  : Nat
  next   : Nat
  deriving DecidableEq, Repr

/-- A hart saved by a cut (R229): its position in its launch's ring, the words written there, and where it must resume.
The hart comes back from the ring and the frame alone (R225, R234). -/
structure Saved where
  tag   : Nat
  pos   : Nat
  words : List Word
  /-- The ring did not take the record: it does not translate for a write. -/
  kept  : Bool
  wp    : Nat
  hart  : Nat
  txn   : Option Nat
  ctx   : Option Nat
  rerun : Bool
  gang  : Option Nat
  stage : Nat
  /-- The lines whose jobs the cut abandoned (R177). -/
  lines : List Nat
  /-- slot.LOOP of the slot that it was cut in, for a slot that has none (R27). -/
  loop  : Option (Nat × Word × Word)
  /-- The ACCESS_FAULT that is still to be raised at its entry (R56). -/
  bad   : Option (Word × Word)
  /-- The cycle of its last acquire: its reads find no older line (R203). -/
  acqAt : Option Nat
  deriving DecidableEq, Repr

/-- A deadlock probe (R196). -/
structure Probe where
  dst    : Nat
  origin : Nat
  oepoch : Nat
  hops   : Nat
  high   : Nat
  hepoch : Nat
  deriving DecidableEq, Repr

/-- A victim notice (R196): the victim, its recorded epoch, the hop count and the originator. -/
structure Notice where
  dst    : Nat
  epoch  : Nat
  hops   : Nat
  origin : Nat
  deriving DecidableEq, Repr

/-- An SC operation announced in the current window (R208). -/
structure ScOp where
  hart : Nat
  /-- The number of its outstanding result. -/
  uid  : Nat
  acc  : Option Access
  scope : Scope
  cycle : Nat
  /-- Of another member of the group (R209). -/
  foreign : Bool := false
  deriving DecidableEq, Repr

/-- The Causeway group of the module (R65, R428, R429): its position, size, rotation period, the module of each
position, the batch it sends next, the last manifest received, the departed positions, and the beginning of its last
hold. -/
structure Group where
  pos   : Nat
  n     : Nat
  trot  : Nat
  mods  : List Nat
  next  : Nat
  last  : Option (Nat × Nat)
  gone  : List Nat
  heldAt : Option Nat
  /-- The cycle of the last frame or regeneration of the token (R429). -/
  heard  : Nat
  /-- Group-scope SC operations in the order of S, waiting for a hold (R209). -/
  frames : List ScOp
  deriving DecidableEq, Repr

/-- What a unit records in a cut (R69). -/
inductive CutRec where
  | keystone (openB : List BatchEnt) (closed : List (List BatchEnt)) (restarts : List (Nat × Nat)) (voids : List Nat)
  | abutment (n : Nat) (locks : List (Nat × List LockEnt))
  | frontEnd (held : List (Nat × List TileReq)) (pool : List (Nat × List Host.Cell × List Nat))
  | core (n : Nat) (inbox : List InboxEnt) (harts : List Nat)
  | engine (n : Nat) (jobs : List Job)
  deriving DecidableEq, Repr

/-- A message that a unit logs during a cut (R69): a submission, a manifest, a lock request, a release, a grant with the
bytes that it pushes, a task record, an engine command. -/
inductive CutMsg where
  | submission (l : List Txn) | manifest (pos batch : Nat) (es : List ManifestEntry)
  | request (num tile : Nat) (excl push : Bool) | release (num tile : Nat)
  | grant (num tile : Nat) (push : List Host.Cell) (psn : List Nat)
  | record (e : InboxEnt) | command (j : Job)
  deriving DecidableEq, Repr

/-- A cut (R68, R69): its marker's number, the inputs whose marker has arrived, the messages logged by unit and input,
the records, and the harts still to be cut. -/
structure CutSt where
  num    : Nat
  seen   : List (Nat × Nat)
  log    : List (Nat × Nat × CutMsg)
  recs   : List CutRec
  harts  : List Nat
  deriving DecidableEq, Repr

/-- Keystone. -/
structure Keystone where
  next    : Nat := 0
  openB   : List BatchEnt := []
  openAt  : Nat := 0
  closed  : List (List BatchEnt) := []
  batch   : Nat := 0
  txns    : List Txn := []
  voids   : List Nat := []
  chans   : Tbl (List ChanEnt) := []
  locks   : Tbl (List LockEnt) := []
  /-- Grants and releases on their way: transaction number, tile (R54, R57). -/
  grants  : List (Nat × Nat) := []
  relq    : List (Nat × Nat) := []
  poolUsed : Nat := 0
  poolNew : Option Nat := none
  ready   : Tbl (List Nat) := []
  gangs   : List Gang := []
  queues  : Tbl DQueue := []
  regs    : Tbl Word := []
  launches : List Launch := []
  saved   : List Saved := []
  victims : List (Nat × Nat) := []
  probes  : List Probe := []
  notices : List Notice := []
  sc      : List ScOp := []
  /-- Launch completions posted and not yet taken by Trestle, in arrival order (R36, R418): tag and word. -/
  posts   : List (Nat × Word) := []
  group   : Option Group := none
  /-- The cuts whose markers have their numbers, the oldest first (R68). -/
  cutSt   : List CutSt := []
  governed : Nat := 0
  /-- A switch in progress: cores still to be vacated, the stage each will serve, and the array context that it saved
(R30, R31, R231). -/
  switching : List (Nat × Nat × Option Nat) := []
  /-- The open batch is to close as soon as there is room for its manifest: an explicit close or a marker came while four
were kept (R47, R49). -/
  closeDue : Bool := false
  deriving DecidableEq, Repr

/-! Trestle (R393 to R406, R415 to R419). -/

/-- The states of a command queue (R394). -/
inductive QSt where
  | idle | runnable | mapped | waiting | faulted
  deriving DecidableEq, Repr

/-- The packet that a thread is blocked at (R400, R402 to R404): a WAIT, a LAUNCH or a GRAPH. Until its effect has begun the
thread stands before it, at its header (R401, R402). -/
structure Pend where
  typ   : Nat
  flags : Nat
  whr   : Nat
  words : List (BitVec 32)
  begun : Bool
  deriving DecidableEq, Repr

/-- An indirect buffer being parsed (R399): the next word's address, the words left, the word index of the outermost
INDIRECT, and whether the end of the buffer is notified. -/
structure Buf where
  va     : Nat
  left   : Nat
  whr    : Nat
  notify : Bool
  deriving DecidableEq, Repr

/-- A command queue (R394 to R402). -/
structure CmdQueue where
  base   : Nat := 0
  cfg    : Word := 0
  wptr   : Nat := 0
  rptr   : Nat := 0
  latch  : Bool := false
  st     : QSt := .idle
  thread : Nat := 0
  fault  : Nat := 0
  faultAt : Nat := 0
  /-- Indirect buffers, innermost first (R399). -/
  stack  : List Buf := []
  pend   : Option Pend := none
  /-- The cycle at which the wait began. -/
  waitAt : Nat := 0
  /-- The thread has blocked, or has just been bound, since it last began to parse (R401). -/
  blocked : Bool := false
  /-- A QCFG value with EN clear that waits for the next packet boundary (R394). -/
  cfgNext : Option Word := none
  deriving DecidableEq, Repr

/-- A packet whose effect is under way while its thread goes on, and whose completion is to be notified (R396): the queue, the
type and word index, the access of a WRITE, the cores of a STAGE or SWITCH. -/
structure Owed where
  queue : Nat
  typ   : Nat
  whr   : Nat
  uid   : Option Nat
  cores : List Nat
  deriving DecidableEq, Repr

/-- A journal entry that waits for the end of a trial (R405, R419): KIND, QUEUE, STATUS, WHERE and its data. -/
structure JLine where
  kind   : Nat
  queue  : Nat
  status : Nat
  whr    : Nat
  d0     : Word
  d1     : Word
  deriving DecidableEq, Repr

/-- A Trestle thread (R393): x1 to x31, pc, CSRs by number, User mode. Its reservation stands in `State.lrs`. -/
structure Thread where
  x    : Tbl Word := []
  pc   : Word := 0
  csr  : Tbl Word := []
  user : Bool := false
  deriving DecidableEq, Repr

/-- A graph slot (R404): its node descriptors, the address space it was loaded under, and the tag of a trigger that is
still submitting from it. -/
structure GSlot where
  nodes  : List (List Word)
  asid   : Nat
  busy   : Option Nat
  deriving DecidableEq, Repr

/-- The algorithms of the responder (R417). -/
inductive SpdmAlg where
  | ecdsaP384 | sha384 | aes256Gcm
  deriving DecidableEq, Repr

/-- An answer of the SPDM responder by its contents (R417): the version, what it supports, the algorithms chosen, the digest
and the certificates of slot 0, the measurements by index, signatures and key shares, or an error. -/
inductive SpdmAnswer where
  | version (major minor : Nat)
  | capabilities (certificates challenge measurements keyExchange secured : Bool)
  | algorithms (sign hash aead : SpdmAlg)
  | digests (slot0 : BitVec 384)
  | certificate (chain : List Byte)
  | challengeAuth (sig : List Byte)
  | measurements (blocks : List (Nat × List Byte)) (sig : List Byte)
  | keyExchange (share sig : List Byte)
  | finish
  | error
  deriving DecidableEq, Repr

/-- What the module sends over the Control Port: notifications (R396, R402, R432), read data (R405), and messages of the
management channel (R417). -/
inductive CpMsg where
  | notify (q whr : Nat) | deadlock (q : Nat) | thermal | data (pa : Nat) (bs : List Byte) | answer (a : SpdmAnswer)
  deriving DecidableEq, Repr

/-- The firmware slots and the boot state (R416 to R419). -/
inductive FwSt where
  | running | trial | recovery
  deriving DecidableEq, Repr

/-- The SPDM responder's negotiation state (R417). -/
inductive SpdmSt where
  | start | version | caps | algs | session | ready
  deriving DecidableEq, Repr

/-- Trestle. -/
structure Trestle where
  /-- Stored registers by offset. -/
  regs    : Tbl Word := []
  seq     : Nat := 1
  /-- The SEQ of the journal entry last read over the Control Port (R405). -/
  readSeq : Nat := 0
  cqs     : Tbl CmdQueue := []
  runlist : List Nat := []
  threads : Tbl Thread := []
  /-- The thread that issues next (R393). -/
  turn    : Nat := 0
  graphs  : Tbl GSlot := []
  gstat   : Word := 0
  cpOut   : List CpMsg := []
  flash   : Tbl (List Byte) := []
  fw      : FwSt := .running
  active  : Nat := 0
  svn     : Nat := 0
  trialAt : Nat := 0
  /-- The version of the hand-over record, and whether an update has completed (R418, R419). -/
  handover : Option Nat := none
  updated : Bool := false
  /-- The boot ROM has run since reset (R416). -/
  booted  : Bool := false
  spdm    : SpdmSt := .start
  /-- The secret of the session (R417). -/
  secret  : Nat := 0
  /-- The secured messages opened in it: the next one's number in its nonce (R417). -/
  secSeq  : Nat := 0
  transcript : List Byte := []
  keys    : Tbl (List Word) := []
  /-- A KEYCMD in progress: the slot and its new keys (R414). -/
  keyCmd  : Option (Nat × List Word) := none
  /-- Invalidations by TLBINV that may still be waiting: ASID and address, absent for all, and the number of the first access
that came after (R236, R415). -/
  tlbWait : List (Option Nat × Option Nat × Nat) := []
  /-- Completions still to be notified (R396), and journal entries held during a trial (R419). -/
  owed    : List Owed := []
  jheld   : List JLine := []
  quiesce : Bool := false
  /-- The cycle of the last WAIT_DEADLOCK report (R402). -/
  watch   : Nat := 0
  deriving DecidableEq, Repr

/-! Links, power and heat (R420 to R432). -/

/-- One strand of a link direction (R424 to R427), both ways. -/
structure Strand where
  /-- The transmit way: the SEQ to be sent next, the flits sent and not acknowledged, and those that wait to be sent, by type and
payload (R424, R425). -/
  sent    : Nat := 0
  held    : List (Nat × BitVec 256) := []
  queue   : List (Nat × Nat) := []
  /-- Its wavelengths that the receiver takes back, and those that rejoin, each from a SEQ on (R426). -/
  away    : List (Nat × Nat) := []
  home    : List (Nat × Nat) := []
  /-- The receive way: the SEQ expected next; whether a replay has been asked for; the failed copies, each with the SEQ whose
resent copy it is compared with (R425, R426). -/
  expect  : Nat := 0
  asked   : Bool := false
  failed  : List (Nat × BitVec 256) := []
  /-- The flits out of order that an Umpel link holds, the first SEQ that its bitmaps have not yet acknowledged (R427), and the
flits delivered. -/
  window  : List (Nat × BitVec 256) := []
  base    : Nat := 0
  got     : List (BitVec 256) := []
  /-- The cycles of each wavelength's charges and retrainings; those that leave from a SEQ on, those being retrained since a
cycle, those that rejoin from a SEQ on, and those retired (R426). -/
  charges : Tbl (List Nat) := []
  trained : Tbl (List Nat) := []
  leaving : List (Nat × Nat) := []
  retrain : List (Nat × Nat) := []
  joining : List (Nat × Nat) := []
  retired : List Nat := []
  deriving DecidableEq, Repr

/-- A link direction (R427). -/
structure Link where
  trained : Bool := false
  umpel   : Bool := false
  strands : Tbl Strand := []
  deriving DecidableEq, Repr

/-- Fabric and fleet state. -/
structure Fabric where
  links    : Tbl Link := []
  routes   : List (Nat × Nat) := []
  /-- The spare fibres in use (R426, R430). -/
  spares   : List Nat := []
  /-- What the sensors measured last: power, hottest junction, coolant flow and inlet temperature (R430). -/
  power    : Nat := 0
  temp     : Nat := 0
  flow     : Nat := 0
  inlet    : Nat := 0
  /-- The issue duty of the arrays, the vector units and all issue in sixteenths, and the cycle of the last check
  (R431); the thermal stop (R432). -/
  dutyArr  : Nat := 16
  dutyVec  : Nat := 16
  dutyAll  : Nat := 16
  checked  : Nat := 0
  /-- The cycle up to which throttled time has been counted, while it lasts, and the cycles counted short of a µs (R430). -/
  throtAt  : Option Nat := none
  throtOdd : Nat := 0
  stopped  : Bool := false
  deriving DecidableEq, Repr

/-- A soft error (R94): a parity error in a line of a core's data or instruction cache or of a cluster cache; an error
in a word of scratchpad or cluster SRAM, or in a sector of L2 or of an HBM stack, that cannot be corrected if `bad`. -/
inductive MemErr where
  | dcache (core i : Nat) | icache (core i : Nat) | ccache (cl i : Nat)
  | word (pa : Nat) (bad : Bool) | l2 (pa : Nat) (bad : Bool) | hbm (pa stack : Nat) (bad : Bool)
  deriving DecidableEq, Repr

/-- The model's own schedule (log 2): events to perform first, cores to issue next, cycles lost, open choices. -/
structure Sched where
  agenda  : List Instr := []
  turns   : List Nat := []
  stalls  : List Nat := []
  choices : List Bool := []
  /-- The rank of the last ordered step of the present cycle (R336, R363). -/
  phase   : Nat := 0
  /-- The counter that free values are read at (log 5). -/
  fresh   : Nat := 0
  /-- The soft errors of the steps to come, the next step's first (R94). -/
  errors  : List (Option MemErr) := []
  deriving DecidableEq, Repr

/-- An entry of a slice's all-zero flag cache (R92): the lock tile, and its VALID and ZERO bits. -/
structure FlagEnt where
  tile  : Nat
  valid : Bool
  zero  : Bool
  deriving DecidableEq, Repr

/-- The module. -/
structure State where
  module    : Nat := 0
  populated : List Nat := [0]
  cycle     : Nat := 0
  /-- The hart whose instruction is executed. -/
  cur       : Nat := 0
  mem       : List Host.Cell := []
  poison    : List Nat := []
  /-- The 8-byte words of poisoned HBM sectors that clean vector writes of the whole sector have written since (R95, R291). -/
  washed    : List Nat := []
  empty     : List Nat := []
  /-- The keys, as one 512-bit number, under which a sector other than a KEY 0 one was written (R413). -/
  keytag    : Tbl Nat := []
  /-- The all-zero flag cache of each slice, the most recently used entry first (R92). -/
  flags     : Tbl (List FlagEnt) := []
  /-- The reads of whole lock tiles in progress that no write to the tile has met: the job and the tile (R92). -/
  tileReads : List (Nat × Nat) := []
  /-- The 8-byte words that Trestle's threads hold reserved, by thread (R393). -/
  lrs       : Tbl Nat := []
  flight    : List Access := []
  uid       : Nat := 0
  slots     : Tbl Slot := []
  cores     : Tbl Core := []
  clusters  : Tbl Cluster := []
  ks        : Keystone := {}
  tr        : Trestle := {}
  fab       : Fabric := {}
  sched     : Sched := {}
  deriving DecidableEq, Repr

/-- Why a step stops as a fault. No meaning raises one: every rule of the spec leaves the machine going on. -/
inductive Fault where
  /-- A core that the thermal trip has stopped and that no event restarts (R432). Raised by no meaning; safe. -/
  | halted
  deriving DecidableEq, Repr

/-- Why a step is refused. -/
inductive Refusal where
  /-- The instruction has no meaning in the model yet. Raised only by an arm of `exec`; safe. -/
  | notModelled (mnemonic : String)
  deriving DecidableEq, Repr

/-- The module right after reset: every hart slot FREE, every cache and unit empty, memory zero, full and clean
(R10, R78, R88, R199, R353, R433). Values the spec does not give are those of log 3. -/
def State.reset : State := {}

end Sys2Proof.Machine
end

