-- ==== Sys2Proof/Machine/Mem.lean ====
section
/-! DEFINITION. Tables, bit fields, the module's memory (bytes, poison, full/empty bits, key tags, watch spans),
and workspace words as scratchpad bytes (R11, R12, R75, R88, R94 to R96, R135, R407, R413). -/

namespace Sys2Proof.Machine

/-! Tables. -/

/-- The value at a key, or the default. -/
def tget {α : Type} (d : α) : Tbl α → Nat → α
  | [], _ => d
  | (k', v) :: t, k => if k' = k then v else tget d t k

/-- The table with a value at a key. -/
def tput {α : Type} (k : Nat) (v : α) : Tbl α → Tbl α
  | [] => [(k, v)]
  | (k', v') :: t =>
    if k < k' then (k, v) :: (k', v') :: t else if k = k' then (k, v) :: t else (k', v') :: tput k v t

/-- The table without a key. -/
def tdel {α : Type} (k : Nat) (t : Tbl α) : Tbl α := t.filter (fun e => e.1 ≠ k)

/-- The value at a key, if it is listed. -/
def tfind {α : Type} (t : Tbl α) (k : Nat) : Option α := (t.find? (fun e => e.1 == k)).map (·.2)

/-- Change the value at a key. -/
def tmod {α : Type} (d : α) (k : Nat) (f : α → α) (t : Tbl α) : Tbl α := tput k (f (tget d t k)) t

/-- A number put into a rising list. -/
def sIns (k : Nat) : List Nat → List Nat
  | [] => [k]
  | a :: t => if k < a then k :: a :: t else if k = a then a :: t else a :: sIns k t

/-- A number taken out of a list. -/
def sDel (k : Nat) (l : List Nat) : List Nat := l.filter (· ≠ k)

/-! Bit fields (R4). -/

/-- The field `hi..lo` of a word. -/
def fld (w : Word) (hi lo : Nat) : Nat := bits w.toNat lo (hi - lo + 1)

/-- One bit of a word. -/
def bit (w : Word) (i : Nat) : Bool := w.getLsbD i

/-- The word with its field `hi..lo` replaced. -/
def setFld (w : Word) (hi lo v : Nat) : Word :=
  BitVec.ofNat 64 (w.toNat - fld w hi lo * 2 ^ lo + v % 2 ^ (hi - lo + 1) * 2 ^ lo)

/-- The word with one bit replaced. -/
def setBit (w : Word) (i : Nat) (b : Bool) : Word := setFld w i i (b2n b)

/-- A number as a 64-bit word. -/
def wd (n : Nat) : Word := BitVec.ofNat 64 n

/-- A number below 2^k read as signed. -/
def sint (k n : Nat) : Int := if n < 2 ^ (k - 1) then (n : Int) else (n : Int) - 2 ^ k

/-- The eight bytes of a word. -/
def wBytes (w : Word) : List Byte := leBytes 8 w.toNat

/-- The word of little-endian bytes. -/
def ofBytes (bs : List Byte) : Word := wd (leNat bs)

/-! Harts, cores and clusters (R14). -/

/-- The slot of a hart number. -/
def getSlot (s : State) (h : Nat) : Slot := tget {} s.slots h

/-- Change the slot of a hart number. -/
def modSlot (s : State) (h : Nat) (f : Slot → Slot) : State :=
  { s with slots := tput h (f (getSlot s h)) s.slots }

/-- The core of a number. -/
def getCore (s : State) (c : Nat) : Core := tget {} s.cores c

/-- Change a core. -/
def modCore (s : State) (c : Nat) (f : Core → Core) : State :=
  { s with cores := tput c (f (getCore s c)) s.cores }

/-- The cluster of a number. -/
def getCluster (s : State) (c : Nat) : Cluster := tget {} s.clusters c

/-- Change a cluster. -/
def modCluster (s : State) (c : Nat) (f : Cluster → Cluster) : State :=
  { s with clusters := tput c (f (getCluster s c)) s.clusters }

/-- Change Keystone. -/
def modKs (s : State) (f : Keystone → Keystone) : State := { s with ks := f s.ks }

/-- Change Trestle. -/
def modTr (s : State) (f : Trestle → Trestle) : State := { s with tr := f s.tr }

/-- A hart number is core × 4 + slot (R14). -/
def coreOf (h : Nat) : Nat := h / 4

/-- The cluster of a core (R14). -/
def clusterOf (c : Nat) : Nat := c / 16

/-- The pod-wide hart number of R182. -/
def podHart (s : State) (h : Nat) : Nat := s.module * 8192 + h

/-- Add one to a counter of a cluster's register block. -/
def bumpCl (s : State) (cl off n : Nat) : State :=
  modCluster s cl fun c => { c with cnt := tmod 0 off (· + wd n) c.cnt }

/-- Add one to a counter of the Keystone block (R190). -/
def bumpKs (s : State) (off : Nat) : State :=
  modKs s fun k => { k with regs := tmod 0 off (· + 1) k.regs }

/-- Add one to a counter of the Trestle block (R394). -/
def bumpTr (s : State) (off : Nat) : State :=
  modTr s fun t => { t with regs := tmod 0 off (· + 1) t.regs }

/-! The physical map (R75, R407). -/

/-- What an offset within a module is. -/
inductive Target where
  | hbm | scratch (core : Nat) | sram (cl : Nat) | clBlock (cl : Nat) | ksBlock | trBlock | gap
  deriving DecidableEq, Repr

/-- The start of the scratchpads (R407). -/
def scratch0 : Nat := 0x10000000000
/-- The start of cluster SRAM (R407). -/
def sram0 : Nat := 0x10100000000

/-- The target of a 41-bit offset (R407). -/
def targetOf (o : Nat) : Target :=
  if o < 0x9000000000 then .hbm
  else if scratch0 ≤ o && o < scratch0 + 0x20000000 then
    if (o - scratch0) % 0x40000 < 0x30000 then .scratch ((o - scratch0) / 0x40000) else .gap
  else if sram0 ≤ o && o < sram0 + 0x20000000 then .sram ((o - sram0) / 0x400000)
  else if 0x1F000000000 ≤ o && o < 0x1F000800000 then .clBlock ((o - 0x1F000000000) / 0x10000)
  else if 0x1F100000000 ≤ o && o < 0x1F100010000 then .ksBlock
  else if 0x1F200000000 ≤ o && o < 0x1F200020000 then .trBlock
  else .gap

/-- The module of a physical address (R75). -/
def moduleOf (pa : Nat) : Nat := pa / 2 ^ 41
/-- The offset within its module (R75). -/
def offsetOf (pa : Nat) : Nat := pa % 2 ^ 41

/-- Is the address in HBM? -/
def isHbm (pa : Nat) : Bool := targetOf (offsetOf pa) == .hbm

/-- The physical address of byte `o` of a core's scratchpad. -/
def scratchPa (s : State) (core o : Nat) : Nat := s.module * 2 ^ 41 + scratch0 + core * 0x40000 + o

/-- The physical address of byte `o` of a cluster's SRAM. -/
def sramPa (s : State) (cl o : Nat) : Nat := s.module * 2 ^ 41 + sram0 + cl * 0x400000 + o

/-- The home slice of an HBM address, deck × 64 + slice (R75). -/
def sliceOf (pa : Nat) : Nat :=
  let o := offsetOf pa
  let d := if o < 0x4800000000 then 0 else 1
  let t := (o - d * 0x4800000000) / 4096
  d * 64 + (bits t 0 6 ^^^ bits t 6 6 ^^^ bits t 12 6 ^^^ bits t 18 6 ^^^ bits t 24 3)

/-- The lock tile of a physical address (R41). -/
def tileOf (pa : Nat) : Nat := pa / 4096

/-! Memory as a list of cells in one canonical form: rising addresses, no byte that an unlisted address reads as.
An unlisted byte is zero: HBM by R88, cluster SRAM by R78, scratchpads by R199. -/

/-- What an unlisted address reads as. -/
def unlisted : Byte := 0

/-- The byte at an address. -/
def memGet : List Host.Cell → Nat → Byte
  | [], _ => unlisted
  | (k, b) :: m, a => if k = a then b else memGet m a

/-- The memory with a byte written. -/
def memSet (a : Nat) (b : Byte) : List Host.Cell → List Host.Cell
  | [] => if b = unlisted then [] else [(a, b)]
  | (k, c) :: m =>
    if a < k then (if b = unlisted then (k, c) :: m else (a, b) :: (k, c) :: m)
    else if a = k then (if b = unlisted then m else (a, b) :: m)
    else (k, c) :: memSet a b m

/-- Several bytes written, in order. -/
def memSetAll : List (Nat × Byte) → List Host.Cell → List Host.Cell
  | [], m => m
  | (a, b) :: t, m => memSetAll t (memSet a b m)

/-- Are the addresses above `lo` and rising, with no unlisted value? -/
def memWfFrom : Option Nat → List Host.Cell → Bool
  | _, [] => true
  | lo, (k, b) :: m => (match lo with | none => true | some a => decide (a < k)) && b != unlisted && memWfFrom (some k) m

/-- The canonical form of memory. -/
def Memory.wf (m : List Host.Cell) : Bool := memWfFrom none m

/-- The addresses `a .. a + n - 1`. -/
def span : Nat → Nat → List Nat
  | _, 0 => []
  | a, n + 1 => a :: span (a + 1) n

/-! Keys (R413): a sector's tag is 0 for KEY 0, else one more than the 512-bit number of the slot's two keys. -/

/-- The tag of a key slot: a slot never loaded holds all-zero keys. -/
def keyMat (s : State) (k : Nat) : Nat :=
  if k = 0 then 0 else 1 + leNat ((tget (List.replicate 8 (0 : Word)) s.tr.keys k).flatMap wBytes)

/-- The byte at an address as it reads under a key slot (R413, R414). -/
def rdByte (s : State) (key pa : Nat) : Byte :=
  let sec := pa / 32
  let tag := tget 0 s.keytag sec
  if isHbm pa && tag ≠ keyMat s key then
    recryptByte tag (keyMat s key) sec ((span (sec * 32) 32).map (memGet s.mem)) (pa % 32)
  else memGet s.mem pa

/-- Several bytes under one key. -/
def rdBytes (s : State) (key : Nat) (pas : List Nat) : List Byte := pas.map (rdByte s key)

/-- A 64-bit word in clear (page tables, records under KEY 0, window storage). -/
def rd64 (s : State) (pa : Nat) : Word := ofBytes ((span pa 8).map (rdByte s 0))

/-- Bring a sector under another key before part of it is written: its bytes become what they read as (R413). -/
def retag (s : State) (key pa : Nat) : State :=
  let sec := pa / 32
  if isHbm pa && tget 0 s.keytag sec ≠ keyMat s key then
    let bs := (span (sec * 32) 32).map (rdByte s key)
    { s with mem := memSetAll ((span (sec * 32) 32).zip bs) s.mem,
             keytag := if keyMat s key = 0 then tdel sec s.keytag else tput sec (keyMat s key) s.keytag }
  else s

/-! Poison and full/empty bits (R88, R94, R95). -/

/-- The first byte and the length of the unit of poison that holds an address: 32 bytes of HBM, 8 elsewhere. -/
def granule (pa : Nat) : Nat × Nat := if isHbm pa then (pa / 32 * 32, 32) else (pa / 8 * 8, 8)

/-- Does a module answer: is it populated, and reachable, its table entry and its links not all marked failed (R262, R412, R422)? -/
def answers (s : State) (m : Nat) : Bool :=
  s.populated.contains m && (m == s.module ||
    !(s.fab.routes.contains (m, 8) || (span 0 8).all fun d => s.fab.routes.contains (m, d)))

/-- Has a page storage: a populated offset of a module that answers (R407)? -/
def pageStored (s : State) (pa : Nat) : Bool :=
  answers s (moduleOf pa) && (match targetOf (offsetOf pa) with
    | .hbm | .scratch _ | .sram _ => true
    | _ => false)

/-- Is the address's word or sector poisoned? -/
def isPsn (s : State) (pa : Nat) : Bool := s.poison.contains (granule pa).1

/-- Is any of the addresses poisoned? -/
def anyPsn (s : State) (pas : List Nat) : Bool := pas.any (isPsn s)

/-- Poison after a write of these bytes: a poisoned write marks, a clean write of a whole unit clears (R95). -/
def poisonAfter (pas : List Nat) (psn : Bool) (p : List Nat) : List Nat :=
  pas.foldl (fun p a =>
    let g := granule a
    if psn then sIns g.1 p
    else if p.contains g.1 && (span g.1 g.2).all (pas.contains ·) then sDel g.1 p else p) p

/-- The words washed of a sector after a write of these bytes: a poisoned write to it undoes them (R95). -/
def washAfter (pas : List Nat) (psn : Bool) (l : List Nat) : List Nat :=
  if l.isEmpty || !psn then l else l.filter fun w => !(pas.any fun a => isHbm a && decide (a / 32 = w / 4))

/-- A word of a clean write that covers its whole HBM sector, word by word, has been written: with the last of the four the
sector is clean (R95, R291). -/
def wash (s : State) (pa : Nat) : State :=
  if !isPsn s pa || !isHbm pa then s
  else
    let l := sIns (pa / 8) s.washed
    if (span (pa / 32 * 4) 4).all (l.contains ·) then
      { s with poison := sDel (pa / 32 * 32) s.poison, washed := l.filter (· / 4 ≠ pa / 32) }
    else { s with washed := l }

/-- Is the word's full/empty bit full? -/
def isFull (s : State) (pa : Nat) : Bool := !s.empty.contains (pa / 8)

/-! All-zero flags (R92, R93). -/

/-- The flag caches after a write to HBM: the tile's VALID bit is clear (R93). -/
def clearFlag (pa : Nat) (t : Tbl (List FlagEnt)) : Tbl (List FlagEnt) :=
  if isHbm pa && (tget [] t (sliceOf pa)).any (fun e => e.tile = tileOf pa && e.valid) then
    tmod [] (sliceOf pa) (fun l => l.map fun e => if e.tile = tileOf pa then { e with valid := false } else e) t
  else t

/-- The flag caches after a write of these bytes. -/
def clearFlags (pas : List Nat) (t : Tbl (List FlagEnt)) : Tbl (List FlagEnt) :=
  if t.isEmpty then t else pas.foldl (fun t a => clearFlag a t) t

/-- The reads of whole tiles in progress that a write of these bytes does not meet (R92). -/
def clearReads (pas : List Nat) (l : List (Nat × Nat)) : List (Nat × Nat) :=
  if l.isEmpty then l else l.filter fun e => !(pas.any fun a => isHbm a && decide (tileOf a = e.2))

/-- How many entries a slice's flag cache has (R92). -/
def flagCap : Nat := 16384

/-- A whole tile of these bytes has been read: its entry is made VALID, most recently used first (R92). -/
def setFlag (s : State) (tile : Nat) (zero : Bool) : State :=
  let pa := tile * 4096
  { s with flags := tmod [] (sliceOf pa) (fun l => (⟨tile, true, zero⟩ :: l.filter (·.tile ≠ tile)).take flagCap) s.flags }

/-- An entry that is used becomes the most recently used (R92). -/
def touchFlag (s : State) (tile : Nat) : State :=
  { s with flags := tmod [] (sliceOf (tile * 4096)) (fun l =>
      l.filter (·.tile = tile) ++ l.filter (·.tile ≠ tile)) s.flags }

/-- Is the tile's entry VALID with ZERO set: may a read of it be skipped (R92)? -/
def flagZero (s : State) (tile : Nat) : Bool :=
  (tget [] s.flags (sliceOf (tile * 4096))).any fun e => e.tile = tile && e.valid && e.zero

/-- Set the word's full/empty bit; a change clears the VALID bit of its tile (R88, R93). -/
def setFull (s : State) (pa : Nat) (full : Bool) : State :=
  { s with empty := if full then sDel (pa / 8) s.empty else sIns (pa / 8) s.empty
           flags := if isFull s pa = full then s.flags else clearFlags [pa] s.flags
           tileReads := if isFull s pa = full then s.tileReads else clearReads [pa] s.tileReads }

/-! Watch spans (R131, R135, R136, R145). -/

/-- Does a write overlap the watch of a table? The offset of the write in the watched unit if so (R136): of its first
byte there, or, for more bytes than one access has, of the first byte in the aligned word that overlaps (R197). -/
def watchHit (t : Table) (pas : List Nat) : Option Nat :=
  match t.watch with
  | none => none
  | some (u, lo, hi) =>
    (pas.find? fun a => u + lo ≤ a && a ≤ u + hi).map fun b =>
      ((pas.find? fun a => u ≤ a && (decide (pas.length ≤ 8) || a / 8 = b / 8)).getD b) - u

/-- Mark a table stale unless it is already (R136). -/
def staleTable (c : StaleCause) (o : Nat) (t : Table) : Table :=
  if t.stale.isSome then t else { t with stale := some (c, o) }

/-- The tables of a core, both contexts, that a write marks: context, table number, offset. -/
def watchHits (pas : List Nat) (c : Core) : List (Nat × Nat × Nat) :=
  c.arr.flatMap fun (x, a) => a.tabs.filterMap fun (v, t) =>
    if t.stale.isSome then none else (watchHit t pas).map fun o => (x, v, o)

/-- Change one table of a core. -/
def modTab (s : State) (core ctx v : Nat) (f : Table → Table) : State :=
  modCore s core fun c => { c with arr := tmod {} ctx (fun a => { a with tabs := tmod {} v f a.tabs }) c.arr }

/-- Mark one table stale, count it in ARRSTALE, and send notices to the holders of its copies (R136, R145). -/
def markOne (s : State) (core ctx v : Nat) (c : StaleCause) (o : Nat) : State :=
  let t := tget {} (tget {} (getCore s core).arr ctx).tabs v
  if t.stale.isSome then s
  else
    let s := bumpCl (modTab s core ctx v (staleTable c o)) (clusterOf core) 0x240 1
    modCluster s (clusterOf core) fun k =>
      { k with arr := { k.arr with notices := k.arr.notices ++ t.copies.map fun m => (core, m, v) } }

/-- Mark every table of the cluster whose watch a write overlaps (R135). -/
def markStale (s : State) (pas : List Nat) : State :=
  s.cores.foldl (fun s (n, c) => (watchHits pas c).foldl (fun s (x, v, o) => markOne s n x v .written o) s) s

/-! Writing. -/

/-- Write bytes at their point of coherence under a key: bytes, key tags, poison, reservations, all-zero flags,
watches (R93, R95, R135, R393, R413). -/
def putBytes (s : State) (key : Nat) (cells : List (Nat × Byte)) (psn : Bool) : State :=
  let pas := cells.map (·.1)
  let s := pas.foldl (fun s a => retag s key a) s
  let s := { s with mem := memSetAll cells s.mem, poison := poisonAfter pas psn s.poison, washed := washAfter pas psn s.washed
                    lrs := s.lrs.filter fun e => !(pas.any fun a => a / 8 = e.2)
                    flags := clearFlags pas s.flags, tileReads := clearReads pas s.tileReads }
  markStale s pas

/-- Write a word at an address in clear. -/
def put64 (s : State) (pa : Nat) (v : Word) (psn : Bool) : State :=
  putBytes s 0 ((span pa 8).zip (wBytes v)) psn

/-! Soft errors (R94, R430). -/

/-- Mark the word or sector of an address poisoned, if its error could not be corrected. -/
def markBad (s : State) (pa : Nat) (bad : Bool) : State :=
  if bad then { s with poison := poisonAfter [pa] true s.poison } else s

/-- A soft error is detected: a cache line leaves and will be fetched again; in storage the data is corrected, or the word
or sector is poisoned; the unit's counter rises (R94, R430). -/
def softError (s : State) (e : MemErr) : State :=
  let up := fun (s : State) (off : Nat) (bad : Bool) => bumpTr s (off + 8 * b2n bad)
  match e with
  | .dcache c i => bumpTr (modCore s c fun x => { x with dcache := x.dcache.eraseIdx i }) 0x200
  | .icache c i => bumpTr (modCore s c fun x => { x with icache := x.icache.eraseIdx i }) 0x200
  | .ccache c i => bumpTr (modCluster s c fun x => { x with ccache := x.ccache.eraseIdx i }) 0x200
  | .word pa bad =>
    if moduleOf pa ≠ s.module then s
    else
      match targetOf (offsetOf pa) with
      | .scratch _ => up (markBad s pa bad) 0x208 bad
      | .sram _ => up (markBad s pa bad) 0x218 bad
      | _ => s
  | .l2 pa bad => if moduleOf pa = s.module && isHbm pa then up (markBad s pa bad) 0x228 bad else s
  | .hbm pa k bad =>
    if moduleOf pa = s.module && isHbm pa && k < 12 then up (markBad s pa bad) (0x240 + 16 * k) bad else s

/-! Workspace words (R11, R12, R244). -/

/-- The physical address of workspace word `n` of a hart's installed frame. -/
def regPa (s : State) (h n : Nat) : Nat := scratchPa s (coreOf h) ((getSlot s h).wp + 8 * n)

/-- Workspace word `n`, w0 reading zero (R257). -/
def readReg (s : State) (h n : Nat) : Word := if n = 0 then 0 else rd64 s (regPa s h n)

/-- Is the word poisoned? w0 never is. -/
def regPsn (s : State) (h n : Nat) : Bool := n ≠ 0 && isPsn s (regPa s h n)

/-- A younger write discards what older outstanding results of the hart would write there (R17). -/
def dropOuts (s : State) (h : Nat) (pas : List Nat) : State :=
  if (getSlot s h).outs.all (fun o => o.dest.all (fun d => !pas.contains d.1)) then s
  else modSlot s h fun x => { x with outs := x.outs.map fun o => { o with dest := o.dest.filter (fun d => !pas.contains d.1) } }

/-- Write workspace word `n` of a hart, discarding writes to w0 (R257). -/
def writeReg (s : State) (h n : Nat) (v : Word) (psn : Bool) : State :=
  if n = 0 then s
  else dropOuts (put64 s (regPa s h n) v psn) h (span (regPa s h n) 8)

/-- Write a word of a hart's frame that no register rule governs (words 56 to 63). -/
def writeWs (s : State) (h n : Nat) (v : Word) : State := writeReg s h n v false

/-- Write several workspace words from `n` on. -/
def writeRegs (s : State) (h : Nat) : Nat → List Word → State
  | _, [] => s
  | n, v :: vs => writeRegs (writeReg s h n v false) h (n + 1) vs

/-! The hart status word (R245). -/

/-- MODE. -/
def modeOf (s : State) (h : Nat) : Nat := fld (getSlot s h).hsw 1 0
/-- Kernel or Monitor mode (R311). -/
def privOf (s : State) (h : Nat) : Bool := 1 ≤ modeOf s h
/-- TH. -/
def thOf (s : State) (h : Nat) : Bool := bit (getSlot s h).hsw 4
/-- NANMODE. -/
def nanOf (s : State) (h : Nat) : Bool := bit (getSlot s h).hsw 5
/-- PTE. -/
def pteOf (s : State) (h : Nat) : Bool := bit (getSlot s h).hsw 6
/-- PFX. -/
def pfxOf (s : State) (h : Nat) : Bool := bit (getSlot s h).hsw 40
/-- PFXK: the pending prefix is LIX. -/
def pfxLix (s : State) (h : Nat) : Bool := bit (getSlot s h).hsw 41
/-- PAYLOAD. -/
def payload (s : State) (h : Nat) : Nat := fld (getSlot s h).hsw 39 18
/-- REPCNT. -/
def repcnt (s : State) (h : Nat) : Nat := fld (getSlot s h).hsw 63 48
/-- MRES. -/
def mres (s : State) (h : Nat) : Bool := bit (getSlot s h).hsw 42
/-- A pending REP: REPCNT not zero with MRES clear (R245). -/
def repOn (s : State) (h : Nat) : Bool := repcnt s h ≠ 0 && !mres s h

/-- Change the live hart status word. -/
def modHsw (s : State) (h : Nat) (f : Word → Word) : State := modSlot s h fun x => { x with hsw := f x.hsw }

/-- Clear PFX, PFXK and PAYLOAD (R114, R254). -/
def clearPfx (w : Word) : Word := setFld w 41 18 0

/-- A status word with its reserved bits zero (R5, R245). -/
def hswClean (w : Word) : Word := setFld (setFld (setBit w 2 false) 17 11 0) 47 43 0

/-- Set the sticky POISONED bit (R96). -/
def setPoisoned (s : State) (h : Nat) : State := modHsw s h fun w => setBit w 7 true

end Sys2Proof.Machine
end

