-- ==== Sys2Proof/Machine/Task.lean ====
section
/-! DEFINITION. What ends a task: Trestle's journal (R405), status words (R34, R334), pending writes (R204, R342),
the release of locks (R53, R57), and the end of a task by DONE, a void or an unhandled trap (R58, R217, R344). -/

namespace Sys2Proof.Machine

/-! Trestle's registers and journal. -/

/-- The reset value of a Trestle register (R394, R430). -/
def trReset (off : Nat) : Word := if off = 0x20 then 1000000 else if off = 0x3A8 then 3400 else 0

/-- A stored Trestle register (R394, R415). -/
def trReg (s : State) (off : Nat) : Word := tget (trReset off) s.tr.regs off

/-- Write a stored Trestle register. -/
def setTrReg (s : State) (off : Nat) (v : Word) : State := modTr s fun t => { t with regs := tput off v t.regs }

/-- Write an entry of the journal: it is written whole, then JHEAD advances (R405). With JCFG.EN clear there is no ring and
nothing is written; at a JBASE that is no storage the entry is lost (R407; log 6). -/
def jwrite (s : State) (l : JLine) : State :=
  let cfg := trReg s 0x8
  if !bit cfg 8 then s
  else
    let n := 2 ^ fld cfg 4 0
    let seq := s.tr.seq
    let base := (trReg s 0).toNat + 32 * (seq % n)
    let w1 := wd (l.kind * 2 ^ 56 + l.queue % 256 * 2 ^ 48 + l.status % 65536 * 2 ^ 32 + l.whr % 2 ^ 32)
    let s := if n < seq && s.tr.readSeq < seq - n then bumpTr s 0x18 else s
    let s := if pageStored s base then
        put64 (put64 (put64 (put64 s base (wd seq) false) (base + 8) w1 false) (base + 16) l.d0 false) (base + 24) l.d1 false
      else s
    modTr s fun t => { t with seq := seq + 1 }

/-- Append an entry to the journal. During a trial the new image writes nothing to it: the entry waits (R419; log 111). -/
def jlog (s : State) (kind queue status whr : Nat) (d0 d1 : Word) : State :=
  let l : JLine := ⟨kind, queue, status, whr, d0, d1⟩
  if s.tr.fw = .trial then modTr s fun t => { t with jheld := t.jheld ++ [l] } else jwrite s l

/-! Status words (R34). -/

/-- The combining rule of R34: error and flag bits OR-ed, NTX added with saturation, USER added modulo 2^32. -/
def combine (a b : Word) : Word :=
  let ntx := min (fld a 55 32 + fld b 55 32) 0xFFFFFF
  let user := (fld a 31 0 + fld b 31 0) % 2 ^ 32
  wd ((fld a 63 56 ||| fld b 63 56) * 2 ^ 56 + ntx * 2 ^ 32 + user)

/-- The bits of R34. -/
def stTrapped : Word := 0x8000000000000000
def stPoisoned : Word := 0x4000000000000000
def stFallback : Word := 0x2000000000000000
def stVictim : Word := 0x1000000000000000
def stTimeout : Word := 0x0800000000000000
def stCut : Word := 0x0400000000000000

/-- Combine a word into a core's accumulator for a launch tag (R34). -/
def addAcc (s : State) (core tag : Nat) (w : Word) : State :=
  modCore s core fun c => { c with accs := tmod 0 tag (combine · w) c.accs }

/-! Transactions. -/

/-- A transaction by submission number. -/
def txnBy (s : State) (uid : Nat) : Option Txn := s.ks.txns.find? (·.uid == uid)

/-- Change a transaction. -/
def modTxn (s : State) (uid : Nat) (f : Txn → Txn) : State :=
  modKs s fun k => { k with txns := k.txns.map fun t => if t.uid = uid then f t else t }

/-- The transaction bound to a slot (R333). -/
def boundTxn (s : State) (h : Nat) : Option Txn := (getSlot s h).bound.bind (txnBy s)

/-- The launch tag of a hart's task. -/
def tagOf (s : State) (h : Nat) : Option Nat := (boundTxn s h).map (·.tag)

/-- The launch of a tag. -/
def launchBy (s : State) (tag : Nat) : Option Launch := s.ks.launches.find? (·.tag == tag)

/-- Change a launch. -/
def modLaunch (s : State) (tag : Nat) (f : Launch → Launch) : State :=
  modKs s fun k => { k with launches := k.launches.map fun l => if l.tag = tag then f l else l }

/-- The gang of a transaction. -/
def gangOf (s : State) (t : Txn) : Option Gang := t.gang.bind fun g => s.ks.gangs.find? (·.id == g.1)

/-- The gang whose member tests `p`. -/
def modGang (s : State) (id : Nat) (f : Gang → Gang) : State :=
  modKs s fun k => { k with gangs := k.gangs.map fun g => if g.id = id then f g else g }

/-- Does a transaction hold a tile, with W if asked (R45, R53)? Gang members hold their gang's entries, each until its
own TXEND has completed. -/
def holdsTile (s : State) (t : Txn) (tile : Nat) (excl : Bool) : Bool :=
  let mine := fun (l : List TileReq) => l.any fun r => r.tile = tile && (r.excl || !excl)
  match t.gang with
  | none => mine t.held
  | some g => !t.ended && s.ks.txns.any fun u => (u.gang.map (·.1)) == some g.1 && mine u.held

/-- Is the access a write for its hart's releases (R204)? -/
def Access.isWrite (a : Access) : Bool :=
  match a.op with
  | .load => false
  | .sync _ none => false
  | _ => true

/-- Has the access not been performed yet? -/
def Access.underway (a : Access) : Bool :=
  match a.st with
  | .flying | .unready | .retry _ | .resend _ => true
  | _ => false

/-- Must a release of its hart come after the access: a write that is not acknowledged, or a read that is not performed
and does not bring a message (R199, R204)? -/
def Access.before (a : Access) : Bool :=
  a.isWrite || (a.underway && (match a.dest with | .slot _ _ _ => false | _ => true))

/-- Are stale notices on their way? The write that caused one is acknowledged after every member has taken it (R145). -/
def noticesPending (s : State) : Bool := s.clusters.any fun c => !c.2.arr.notices.isEmpty

/-- Has the hart writes that are not acknowledged at their points of coherence, those of its vector executions among them
(R145, R204, R289), or reads that are not performed: whatever they return, a later release passes on (R199)? -/
def writesPending (s : State) (h : Nat) : Bool :=
  (s.flight.any fun a => a.hart = h && a.before) || noticesPending s || (getSlot s h).outs.any (·.mem.isSome)

/-- The harts whose commands a job performs, each with the place of its command (R377). -/
def Job.issuers (j : Job) : List (Nat × Nat) := (j.hart, j.uid) :: j.more

/-- Is the job one of a hart's? -/
def Job.by (j : Job) (h : Nat) : Bool := j.issuers.any (·.1 == h)

/-- Has the hart unfinished engine jobs (R57, R176)? -/
def jobsPending (s : State) (h : Nat) : Bool := (getCluster s (clusterOf (coreOf h))).jobs.any (·.by h)

/-- Everything TXEND waits for (R342). -/
def taskPending (s : State) (h : Nat) : Bool := writesPending s h || jobsPending s h

/-- Send the releases of a list of lock entries to their abutments (R57). -/
def sendReleases (s : State) (num : Nat) (ts : List TileReq) : State :=
  modKs s fun k => { k with relq := k.relq ++ ts.map fun r => (num, r.tile) }

/-- The members of a gang. -/
def gangTxns (s : State) (g : Nat) : List Txn := s.ks.txns.filter fun u => (u.gang.map (·.1)) == some g

/-- The number under which a gang's merged entries stand: its first (R53). -/
def gangFirst (s : State) (g : Nat) : Nat :=
  (((gangTxns s g).find? fun u => (u.gang.map (·.2.1)) == some 0).bind (·.num)).getD 0

/-- Release what a transaction holds: its own entries, or its gang's when its last member has ended (R53, R57). -/
def releaseTxn (s : State) (uid : Nat) : State :=
  match txnBy s uid with
  | none => s
  | some t =>
    let s := modTxn s uid fun t => { t with ended := true, st := .ending }
    match t.gang with
    | none => modTxn (sendReleases s (t.num.getD 0) t.held) uid fun t => { t with held := [] }
    | some (g, _, _, _) =>
      if (gangTxns s g).all (·.ended) then
        let ts := (((gangTxns s g).flatMap (·.held)).map fun r => { r with excl := true, push := false }).eraseDups
        modKs (sendReleases s (gangFirst s g) ts) fun k =>
          { k with txns := k.txns.map fun u => if (u.gang.map (·.1)) == some g then { u with held := [] } else u }
      else s

/-- A transaction retires: its launch has one fewer to wait for, and its inbox entry and push area are free (R33, R56,
R337). A gang's members leave Keystone together, and with them its barrier lane (R191). -/
def dropTxn (s : State) (uid : Nat) : State :=
  match txnBy s uid with
  | none => s
  | some t =>
    let s := modLaunch s t.tag fun l => { l with live := l.live - 1 }
    let s := modTxn s uid fun t => { t with st := .retired, core := none, pushBuf := [], pushPsn := [] }
    match t.gang with
    | none => modKs s fun k => { k with txns := k.txns.filter (·.uid ≠ uid) }
    | some (g, _, _, _) =>
      if (gangTxns s g).all (·.st = .retired) then
        modKs s fun k => { k with
          txns := k.txns.filter fun u => (u.gang.map (·.1)) ≠ some g
          gangs := k.gangs.filter (·.id ≠ g) }
      else s

/-- Log a message that arrives at an input whose marker has not come, at a unit that one has reached (R69). -/
def CutSt.note (c : CutSt) (unit input : Nat) (msg : CutMsg) : CutSt :=
  if c.seen.any (fun e => e.1 = unit) && !c.seen.contains (unit, input) then
    { c with log := c.log ++ [(unit, input, msg)] }
  else c

/-- Every cut in progress logs a message. -/
def cutNote (s : State) (unit input : Nat) (msg : CutMsg) : State :=
  modKs s fun k => { k with cutSt := k.cutSt.map fun c => c.note unit input msg }

/-- The trap value's address part and reason of a journal entry (R223). -/
def journalValue (e : JEnt) : Word :=
  let why := match e.refused with
    | some .noStorage => 1
    | some .cacheMode => 2
    | _ => 0
  wd (b2n e.send * 2 ^ 63 + why * 2 ^ 61 + e.entry * 2 ^ 56 + e.addr % 2 ^ 56)

/-- Change the journal pools of all cores. -/
def modPools (s : State) (f : List JEnt → List JEnt) : State :=
  { s with cores := s.cores.map fun c => (c.1, { c.2 with journal := f c.2.journal }) }

/-- Drop the refused entries of a task that ends by an unhandled trap, journaling each (R344, R405). -/
def dropRefused (s : State) (h uid num : Nat) : State :=
  let bad := s.cores.flatMap fun c => c.2.journal.filter fun e => e.task = some uid && e.refused.isSome
  let s := bad.foldl (fun s e =>
    let v := journalValue e
    jlog s 9 0 (fld v 62 61) (podHart s h) (wd (e.addr % 2 ^ 56)) (wd num)) s
  modPools s fun l => l.filter fun e => !(e.task = some uid && e.refused.isSome)

/-- Uninstall the frame: the live hart status word goes to word 57 (R226). -/
def uninstall (s : State) (h : Nat) : State := writeWs s h 57 (getSlot s h).hsw

/-- A cut marker that is to cut a hart finds its task ended (R69, R228). -/
def unmark (s : State) (h : Nat) : State :=
  modKs s fun k => { k with cutSt := k.cutSt.map fun c => { c with harts := c.harts.filter (· ≠ h) } }

/-- Give the slot back to its resident loop (R27, R344), or leave it FREE when it has none. -/
def toLoop (s : State) (h : Nat) : State :=
  let s := unmark (uninstall s h) h
  match (getSlot s h).loop with
  | none => modSlot s h fun x => { x with
    st := .free, bound := none, scout := false, region := none, entryFault := none, inside := false, latch := [], kept := [], arrCmd := false }
  | some (wp, pc, kt) =>
    let w57 := hswClean (rd64 s (scratchPa s (coreOf h) (wp + 8 * 57)))
    modSlot s h fun x => { x with
      wp := wp, pc := pc, ktvec := kt, hsw := w57, bound := none, scout := false, region := none, entryFault := none
      inside := false, latch := [], kept := [], answer := none, arrCmd := false
      st := if x.st = .issuing then .issuing else .ready }

/-- End the task of a slot as DONE ends it, TXEND applied first if it has not completed (R58, R344). -/
def endTask (s : State) (h : Nat) (operand : Word) (extra : Word) : State :=
  match boundTxn s h with
  | none => toLoop s h
  | some t =>
    let s := if t.ended then s else releaseTxn s t.uid
    let pz : Word := if bit (getSlot s h).hsw 7 then stPoisoned else 0
    let w : Word := extra ||| pz ||| wd (fld operand 57 56 * 2 ^ 56 + 1 * 2 ^ 32 + fld operand 31 0)
    let s := addAcc s (coreOf h) t.tag w
    toLoop (dropTxn s t.uid) h

/-! Traps (R215 to R219). -/

/-- The codes of R215. -/
def TrapKind.code : TrapKind → Nat
  | .illegal => 1 | .misaligned => 2 | .pageFault => 3 | .accessFault => 4 | .poison => 5 | .software => 6
  | .accBusy => 0x10 | .tableStale => 0x11 | .tableIndexRange => 0x12 | .maskProgram => 0x13 | .queueTimeout => 0x18
  | .deadlockVictim => 0x19 | .barrierTimeout => 0x1A | .leaseTimeout => 0x1B | .remoteStoreRefused => 0x20
  | .formatMismatch => 0x21 | .txFootprint => 0x22 | .txCheckLate => 0x23 | .idemViolation => 0x24
  | .wake => 1 | .timer => 2 | .monitor => 3

/-- Interrupts have INT set (R215). -/
def TrapKind.isInt : TrapKind → Bool
  | .wake | .timer | .monitor => true
  | _ => false

/-- The cause word (R215). -/
def Trap.cause (t : Trap) : Word :=
  wd (b2n t.kind.isInt * 2 ^ 63 + b2n t.async * 2 ^ 62 + t.sub % 256 * 2 ^ 8 + t.kind.code)

/-- A precise trap. -/
def trap (k : TrapKind) (sub : Nat) (v : Word) : Trap := ⟨k, sub, false, v⟩

/-- The mode a trap enters (R217). -/
def targetMode (s : State) (h : Nat) (k : TrapKind) : Nat :=
  if modeOf s h = 2 || k = .monitor then 2 else 1

/-- The vector of a mode (R217). -/
def vectorOf (s : State) (h m : Nat) : Word := if m = 2 then (getCore s (coreOf h)).mtvec else (getSlot s h).ktvec

/-- Is a trap unhandled: its vector is 0, or, for a synchronous one, TH is set (R217)? -/
def unhandled (s : State) (h : Nat) (t : Trap) : Bool :=
  vectorOf s h (targetMode s h t.kind) = 0 ||
    (thOf s h && !t.async && t.kind ≠ .remoteStoreRefused && !t.kind.isInt)

/-- The status bit that taking a trap adds to the launch's word (R334). -/
def trapBit (k : TrapKind) : Option Word :=
  match k with
  | .deadlockVictim => some stVictim
  | .queueTimeout | .barrierTimeout | .leaseTimeout => some stTimeout
  | _ => none

/-- R334: OR a bit into the accumulator of the bound transaction's launch. -/
def addBit (s : State) (h : Nat) (b : Word) : State :=
  match boundTxn s h with
  | none => s
  | some t => addAcc s (coreOf h) t.tag b

/-- An unhandled trap: Trestle journals it; the task ends, or the hart ends and its slot is FREE (R217). -/
def endUnhandled (s : State) (h : Nat) (t : Trap) (pc : Word) : State :=
  let report := fun s => jlog s 6 0 (t.sub * 256 + t.kind.code) (podHart s h) t.value pc
  match boundTxn s h with
  | none =>
    modSlot (report s) h fun x => { x with st := .free, loop := none, inside := false, latch := [], kept := [], arrCmd := false }
  | some x =>
    if taskPending s h then
      modSlot s h fun y => { y with st := .parked .task (some (t, pc)), inside := false, arrCmd := false }
    else endTask (dropRefused (report s) h x.uid (x.num.getD 0)) h 0 stTrapped

/-- The entry sequence of R218, for a hart with no outstanding result. -/
def enterHandler (s : State) (h : Nat) (t : Trap) (pc : Word) : State :=
  let m := targetMode s h t.kind
  let s := writeWs (writeWs (writeWs s h 58 t.cause) h 59 t.value) h 60 pc
  let s := writeWs s h 61 (getSlot s h).hsw
  modSlot s h fun x => { x with
    hsw := setFld (setFld (setFld (setFld (setFld (setFld x.hsw 1 0 m) 3 3 0) 4 4 1) 40 40 0) 63 48 0) 42 42 0
    pc := vectorOf s h m
    inside := false, latch := [], kept := [], answer := none, repped := false, arrCmd := false
    st := if x.st = .issuing then .issuing else .ready }

/-- Take a trap whose results have drained: the handler, or the end of the task or hart (R217, R218). -/
def enterTrap (s : State) (h : Nat) (t : Trap) (pc : Word) : State :=
  let s := match trapBit t.kind with
    | some b => addBit s h b
    | none => s
  if unhandled s h t then endUnhandled s h t pc else enterHandler s h t pc

/-- TAKING AN EXCEPTION: the hart waits until it has no outstanding result, then the trap is entered (R218). -/
def takeTrap (s : State) (h : Nat) (t : Trap) (pc : Word) : State :=
  if (getSlot s h).outs.isEmpty then enterTrap s h t pc
  else modSlot s h fun x => { x with st := .parked .results (some (t, pc)) }

/-- A precise trap of the executing hart's instruction: the trap PC is the instruction (R219). -/
def raise (s : State) (t : Trap) : State := takeTrap s s.cur t (getSlot s s.cur).pc

end Sys2Proof.Machine
end

