-- ==== Sys2Proof/Machine/Ops.lean ====
section
/-! DEFINITION. The operations every meaning is built from: issue and retirement (R16, R254, R255), parks and waits
(R20), translation (R73, R74, R259, R407 to R412), the checks of a write (R45, R59, R60, R339), and the taking of
asynchronous traps and interrupts at a boundary (R216, R217, R223). Trap entry itself is in `Task.lean`. -/

namespace Sys2Proof.Machine

/-! Free values (log 5). -/

/-- A value that the spec does not state, and the state whose next free value is another. -/
def freeWord (s : State) : Word × State :=
  (Config.freeValue s.sched.fresh, { s with sched := { s.sched with fresh := s.sched.fresh + 1 } })

/-! Issue and retirement. -/

/-- Which prefixes may govern an instruction (R255). -/
inductive Gov where
  /-- None. -/
  | none
  /-- LIX: I-format arithmetic, LD and ST. -/
  | imm
  /-- FMT, REP, and REP then FMT: the vector instructions. -/
  | vec
  /-- FMT alone: TBUILD, MMD, ACRD. -/
  | fmt
  /-- The FMT word itself: a pending REP is allowed. -/
  | fmtWord
  deriving DecidableEq, Repr

/-- Are the element types of a pending FMT's payload ones that there are (R97, R246)? The FMT word itself is refused
otherwise (R113), but software can put any payload into a saved status word. -/
def payloadOk (s : State) (h : Nat) : Bool :=
  let p := payload s h
  !(p.testBit 21 && decide (12 ≤ bits p 17 4)) && !(p.testBit 16 && decide (12 ≤ bits p 12 4))

/-- May the pending prefix state govern this kind of instruction (R255)? -/
def prefixOk (s : State) (h : Nat) : Gov → Bool
  | .none => !pfxOf s h && !repOn s h
  | .imm => !repOn s h && (!pfxOf s h || pfxLix s h)
  | .vec => !pfxOf s h || (!pfxLix s h && payloadOk s h)
  | .fmt => !repOn s h && (!pfxOf s h || (!pfxLix s h && payloadOk s h))
  | .fmtWord => !pfxOf s h

/-- The ILLEGAL_INSTRUCTION trap of an instruction: its word, zero-extended (R215). -/
def illegal (i : Instr) : Trap := trap .illegal 0 (wd (encodeNat i))

/-- Are the operands of the executing hart's instruction those that it latched at its issue (R16)? -/
def latched (s : State) : Bool := (getSlot s s.cur).inside && !(getSlot s s.cur).latch.isEmpty

/-- The poisoned words among those that an instruction can name: as they stood at its issue (R311). -/
def poisonedOps (s : State) : List Nat :=
  if latched s then (getSlot s s.cur).lpsn else (span 1 63).filter (regPsn s s.cur)

/-- Is a word poisoned as an operand of the executing hart's instruction: as it stood at its issue (R16, R311)? -/
def opPsn (s : State) (r : Nat) : Bool :=
  if latched s then (getSlot s s.cur).lpsn.contains r else regPsn s s.cur r

/-- Park the executing hart at its instruction, keeping its operands, until `n` holds; it then executes again. -/
def parkFor (s : State) (n : Need) (ops : List Word) : State :=
  let ps := poisonedOps s
  modSlot s s.cur fun x => { x with st := .parked n none, inside := true, latch := ops, lpsn := ps }

/-- Has the hart a write on its way to a word of its installed frame, sent through a range that is not its own? An
instruction that would read the frame stays behind it (R12, R74, R198). -/
def frameBusy (s : State) (h : Nat) : Bool :=
  s.flight.any fun a => a.hart = h && a.isWrite && a.pas.any fun p => decide (regPa s h 0 ≤ p) && decide (p < regPa s h 64)

/-- ISSUE: the gate of group 2 of R216, mode and prefix, before an instruction's own meaning. -/
def issue (i : Instr) (g : Gov) (mode : Nat) (s : State) (k : State → State) : State :=
  if modeOf s s.cur < mode || !prefixOk s s.cur g then raise s (illegal i)
  else if frameBusy s s.cur then parkFor s .writes (getSlot s s.cur).latch
  else k s

/-- RETIREMENT: the PC moves, a pending FMT or LIX is used up, and a marked instruction parks the hart (R16, R114). -/
def retireH (s : State) (h : Nat) (sw : Bool) (pc : Word) : State :=
  modSlot s h fun x => { x with
    pc := pc
    hsw := if bit x.hsw 40 then clearPfx x.hsw else x.hsw
    inside := false, latch := [], kept := [], answer := none, limit := none, cancel := false, repped := false
    arrCmd := false
    st := if sw then .parked .results none else x.st }

/-- The executing hart goes on at the next word. -/
def retire (s : State) (sw : Bool) : State := retireH s s.cur sw ((getSlot s s.cur).pc + 4)

/-- The executing hart goes on at a target. -/
def retireTo (s : State) (sw : Bool) (pc : Word) : State := retireH s s.cur sw pc

/-- The waits-for edge of a wait (R195): a pod-wide hart. -/
def waitEdge (s : State) (h : Nat) (w : Wait) : Option Nat :=
  match w with
  | .message _ =>
    let w := rd64 s (regPa s h 56)
    if bit w 39 then some (fld w 63 40) else none
  | .queuePop q => (tget {} s.ks.queues q).lastPush
  | .queuePush q => (tget {} s.ks.queues q).lastPop
  | _ => none

/-- The waits-for edge of a hart (R195). -/
def edgeOf (s : State) (h : Nat) : Option Nat :=
  match (getSlot s h).st with
  | .waiting w => waitEdge s h w
  | _ => none

/-- Enter a wait of R20 at the instruction, keeping its operands; a new wait has a new epoch (R196). -/
def waitFor (s : State) (w : Wait) (ops : List Word) (limit : Option Nat) : State :=
  let ps := poisonedOps s
  modSlot s s.cur fun x => { x with
    st := .waiting w, inside := false, latch := ops, lpsn := ps, limit := limit
    since := s.cycle, epoch := x.epoch + 1, edgeAt := (waitEdge s s.cur w).map fun _ => s.cycle }

/-- The operands of an instruction: read at its issue, and kept while it is parked or its met wait ends (R16). -/
def operands (s : State) (rs : List Nat) : List Word :=
  let x := getSlot s s.cur
  if x.inside && !x.latch.isEmpty then x.latch else rs.map (readReg s s.cur)

/-- The window address of workspace word `n` of a hart. -/
def regVa (s : State) (h n : Nat) : Word := wd (0x00FFFF0000000000 + (getSlot s h).wp + 8 * n)

/-- POISON in words of the frame, of which `p` tells whether each is poisoned: under PTE the trap, with the first poisoned
word's address; else the sticky bit (R96). -/
def consumeBy (s : State) (p : Nat → Bool) (rs : List Nat) (k : State → Bool → State) : State :=
  match rs.find? p with
  | none => k s false
  | some r => if pteOf s s.cur then raise s (trap .poison 0 (regVa s s.cur r)) else k (setPoisoned s s.cur) true

/-- POISON in operand words (R96, R311). -/
def consume (s : State) (rs : List Nat) (k : State → Bool → State) : State := consumeBy s (opPsn s) rs k

/-- An outstanding result whose value is there: it is written when it returns (R16, R17). -/
def addResult (s : State) (h n : Nat) (v : Word) (psn : Bool) : State :=
  if n = 0 then s
  else
    let pas := span (regPa s h n) 8
    modSlot (dropOuts s h pas) h fun x =>
      { x with outs := x.outs ++ [{ dest := pas.zip (span 0 8), val := some (wBytes v), psn := psn, src := none, seq := s.uid }] }

/-! Translation. -/

/-- How an address is used (R215). -/
inductive AccKind where
  | fetch | read | write
  deriving DecidableEq, Repr

/-- The SUB of an access (R215). -/
def AccKind.sub : AccKind → Nat
  | .fetch => 0 | .read => 1 | .write => 2

/-- The second page of an access that crosses into it (R260): the bytes before it, its key slot and its SEALED bit. -/
structure Over where
  n      : Nat
  key    : Nat
  sealed : Bool
  deriving DecidableEq, Repr

/-- A translated address: physical address, key slot, cacheable, sealed,
whether the hart's own core or cluster serves it at once (R74, R272), whether it is in the window, and the second page. -/
structure Xl where
  pa     : Nat
  key    : Nat
  cache  : Bool
  sealed : Bool
  own    : Bool
  win    : Bool
  past   : Option Over := none
  deriving DecidableEq, Repr

/-- The second page as an access in flight carries it. -/
def Xl.rest (x : Xl) : Option (Nat × Nat) := x.past.map fun o => (o.n, o.key)

/-- The bytes of an access that lie on sealed pages (R45). -/
def Xl.sealedPas (x : Xl) (pas : List Nat) : List Nat :=
  match x.past with
  | none => if x.sealed then pas else []
  | some o => (if x.sealed then pas.take o.n else []) ++ (if o.sealed then pas.drop o.n else [])

/-- Bytes read under the keys of the pages they lie on (R413). -/
def rdX (s : State) (pas : List Nat) (x : Xl) : List Byte :=
  match x.past with
  | none => rdBytes s x.key pas
  | some o => rdBytes s x.key (pas.take o.n) ++ rdBytes s o.key (pas.drop o.n)

/-- The start of the local window (R73). -/
def window0 : Nat := 0x00FFFF0000000000

/-- A window address (R73): `none` outside every range or in a mode that the table does not allow. -/
def xlWindow (s : State) (core : Nat) (priv : Bool) (o : Nat) : Option Xl :=
  let mine := fun (pa : Nat) => some ({ pa := pa, key := 0, cache := false, sealed := false, own := true, win := true } : Xl)
  let far := fun (pa : Nat) => some ({ pa := pa, key := 0, cache := false, sealed := false, own := false, win := true } : Xl)
  if o < 0x30000 then mine (scratchPa s core o)
  else if 0x1000000 ≤ o && o < 0x1400000 then mine (sramPa s (clusterOf core) (o - 0x1000000))
  else if 0x1800000 ≤ o && o < 0x1810000 then
    if priv then mine (s.module * 2 ^ 41 + 0x1F000000000 + clusterOf core * 0x10000 + (o - 0x1800000)) else none
  else if 0x2000000 ≤ o && o < 0x2400000 then
    let o := o - 0x2000000
    if o % 0x40000 < 0x30000 then far (scratchPa s (clusterOf core * 16 + o / 0x40000) (o % 0x40000)) else none
  else if 0x100000000 ≤ o && o < 0x120000000 then
    let o := o - 0x100000000
    if o % 0x40000 < 0x30000 then far (scratchPa s (o / 0x40000) (o % 0x40000)) else none
  else if 0x200000000 ≤ o && o < 0x220000000 then
    let o := o - 0x200000000
    far (sramPa s (o / 0x400000) (o % 0x400000))
  else none

/-- A table word read by a walk: the table must lie in HBM of a module that answers (R412). -/
def tableWord (s : State) (pa : Nat) : Option Word :=
  if isHbm pa && answers s (moduleOf pa) then some (rd64 s pa) else none

/-- A page or block entry whose own fields are good (R409, R410). -/
def leafOk (e : Word) (big : Bool) : Bool :=
  fld e 63 60 = 0 && fld e 54 52 = 0 && !bit e 2 && (!big || fld e 28 16 = 0)

/-- A walk (R410): the leaf entry and whether it is a block, or the fault. -/
def walk (s : State) (asid va : Nat) : Except TrapKind (Word × Bool) :=
  let at0 := trReg s 0x100
  if !bit at0 0 then .error .pageFault
  else
    match tableWord s (fld at0 51 13 * 2 ^ 13 + 8 * asid) with
    | none => .error .accessFault
    | some e0 =>
      if !bit e0 63 then .error .pageFault
      else if fld e0 62 52 ≠ 0 || fld e0 16 0 ≠ 0 then .error .accessFault
      else
        match tableWord s (fld e0 51 17 * 2 ^ 17 + 8 * bits va 42 14) with
        | none => .error .accessFault
        | some e1 =>
          if fld e1 1 0 = 0 then .error .pageFault
          else if fld e1 1 0 ≠ 1 || fld e1 63 52 ≠ 0 || fld e1 15 2 ≠ 0 then .error .accessFault
          else
            match tableWord s (fld e1 51 16 * 2 ^ 16 + 8 * bits va 29 13) with
            | none => .error .accessFault
            | some e2 =>
              if fld e2 1 0 = 0 then .error .pageFault
              else if fld e2 1 0 = 2 then (if leafOk e2 true then .ok (e2, true) else .error .accessFault)
              else if fld e2 1 0 = 3 || fld e2 63 52 ≠ 0 || fld e2 15 2 ≠ 0 then .error .accessFault
              else
                match tableWord s (fld e2 51 16 * 2 ^ 16 + 8 * bits va 16 13) with
                | none => .error .accessFault
                | some e3 =>
                  if fld e3 1 0 = 0 || fld e3 1 0 = 2 then .error .pageFault
                  else if fld e3 1 0 = 1 || !leafOk e3 false then .error .accessFault
                  else .ok (e3, false)

/-- Does an entry allow an access (R409)? -/
def pteAllows (e : Word) (priv : Bool) (k : AccKind) : Bool :=
  (priv || bit e 55) &&
    (match k with
     | .fetch => bit e 57
     | .read => true
     | .write => bit e 56)

/-- The TLB entry of an address, unless the schedule has it evicted (R235, log 2). -/
def tlbFind (s : State) (cl asid va : Nat) : Option TlbEnt :=
  if s.sched.choices.head? = some true then none
  else (getCluster s cl).tlb.find? fun e => e.asid = asid && e.vpn = va / (if e.big then 2 ^ 29 else 2 ^ 16)

/-- The translated address that an entry gives (R409). -/
def pteXl (e : Word) (big : Bool) (va : Nat) : Xl :=
  let n := if big then 29 else 16
  { pa := fld e 51 n * 2 ^ n + va % 2 ^ n, key := fld e 15 3, cache := bit e 58, sealed := bit e 59, own := false, win := false }

/-- The address space, core and rights an access is made with. -/
structure Who where
  core : Nat
  asid : Nat
  priv : Bool
  deriving DecidableEq, Repr

/-- A hart as the maker of its accesses. -/
def who (s : State) (h : Nat) : Who := ⟨coreOf h, (getSlot s h).asid, privOf s h⟩

/-- TRANSLATION of one address (R73, R74, R259, R407 to R412): the place, or the fault with this address. While ATBASE.EN is
clear no TLB entry serves either (R408). -/
def xlate (s : State) (w : Who) (va : Nat) (k : AccKind) : Except Trap Xl :=
  if 2 ^ 56 ≤ va then .error (trap .accessFault k.sub (wd va))
  else if window0 ≤ va then
    match xlWindow s w.core w.priv (va - window0) with
    | some x => .ok x
    | none => .error (trap .accessFault k.sub (wd va))
  else
    let good := fun (x : Xl) =>
      match targetOf (offsetOf x.pa) with
      | .clBlock _ | .ksBlock | .trBlock => Except.error (trap .accessFault k.sub (wd va))
      | .hbm => .ok x
      | _ => .ok { x with key := 0, cache := false }
    let slow :=
      match walk s w.asid va with
      | .error t => Except.error (trap t k.sub (wd va))
      | .ok (e, big) =>
        if pteAllows e w.priv k then good (pteXl e big va) else .error (trap .accessFault k.sub (wd va))
    match (if bit (trReg s 0x100) 0 then tlbFind s (clusterOf w.core) w.asid va else none) with
    | some e => if pteAllows e.pte w.priv k then good (pteXl e.pte e.big va) else slow
    | none => slow

/-- Keep the translation of an address in the cluster's TLB (R235). -/
def tlbFill (s : State) (w : Who) (va : Nat) : State :=
  if window0 ≤ va then s
  else
    let cl := clusterOf w.core
    match walk s w.asid va with
    | .error _ => s
    | .ok (e, big) =>
      let n : TlbEnt := ⟨w.asid, big, va / (if big then 2 ^ 29 else 2 ^ 16), e⟩
      match tlbFind s cl w.asid va with
      | some o =>
        if pteAllows o.pte w.priv .read then s
        else modCluster s cl fun c => { c with tlb := n :: c.tlb.filter (fun x => !(x.asid = n.asid && x.big = n.big && x.vpn = n.vpn)) }
      | none =>
        modCluster s cl fun c => { c with tlb := n :: c.tlb.filter (fun x => !(x.asid = n.asid && x.big = n.big && x.vpn = n.vpn)) }

/-- Two pages of one access: one that crosses is performed at the home slices of both, past the caches (log 76). -/
def Xl.join (x y : Xl) (n : Nat) : Xl :=
  { x with cache := false, own := x.own && y.own, past := some ⟨n, y.key, y.sealed⟩ }

/-- Translation of the bytes `va .. va + n - 1`: every page before any byte is touched (R260). A range that leaves
its storage unit of the window is an ACCESS_FAULT with the access's address. -/
def xlBytes (s : State) (w : Who) (va n : Nat) (k : AccKind) : Except Trap (List Nat × Xl) :=
  match xlate s w va k with
  | .error t => .error t
  | .ok x =>
    let left := 65536 - va % 65536
    if n ≤ left then
      if x.win && targetOf (offsetOf x.pa) ≠ targetOf (offsetOf (x.pa + n - 1)) then
        .error (trap .accessFault k.sub (wd va))
      else .ok (span x.pa n, x)
    else
      match xlate s w (va + left) k with
      | .error t =>
        .error (if x.win && t.kind = .accessFault then { t with value := wd va } else t)
      | .ok y =>
        if (x.win || y.win) && targetOf (offsetOf x.pa) ≠ targetOf (offsetOf y.pa) then .error (trap .accessFault k.sub (wd va))
        else .ok (span x.pa left ++ span y.pa (n - left), x.join y left)

/-- Keep the translations of both pages of an access (R235). -/
def tlbFills (s : State) (w : Who) (va : Nat) (x : Xl) : State :=
  match x.past with
  | none => tlbFill s w va
  | some o => tlbFill (tlbFill s w va) w (va + o.n)

/-- Translation page by page of a long range: the images of its pages, or the first fault (R125, R167, R277). -/
def xlPages (s : State) (w : Who) (k : AccKind) : Nat → Nat → Nat → Except Trap (List (Nat × Nat × Nat))
  | 0, _, _ => .ok []
  | fuel + 1, va, n =>
    if n = 0 then .ok []
    else
      match xlate s w va k with
      | .error t => .error t
      | .ok x =>
        let left := 65536 - va % 65536
        match xlPages s w k fuel (va + left) (n - left) with
        | .error t => .error t
        | .ok l => .ok ((va / 65536, x.pa / 65536 * 65536, x.key) :: l)

/-! Cluster SRAM banks (R79, R81, R83, R89). -/

/-- The mode of a bank: 0 scratchpad, 1 cache, 2 FIFO (R79). -/
def bankMode (s : State) (cl b : Nat) : Nat := fld (getCluster s cl).csbmode (4 * b + 1) (4 * b)

/-- The FIFO slot size of a bank (R79). -/
def bankSlot (s : State) (cl b : Nat) : Nat := 64 * 2 ^ fld (getCluster s cl).csbmode (4 * b + 3) (4 * b + 2)

/-- Must accesses to these places, each with its key slot, wait for a KEYCMD to be over: one needs the slot (R414)? -/
def keyHeld (s : State) (cells : List (Nat × Nat)) : Bool :=
  match s.tr.keyCmd with
  | none => false
  | some (k, _) => cells.any fun c => c.2 = k && isHbm c.1 && moduleOf c.1 = s.module

/-- The same of the pages of a range. -/
def pagesHeld (s : State) (pages : List (Nat × Nat × Nat)) : Bool := keyHeld s (pages.map (·.2))

/-- Is the bank's mode change in progress (R83)? -/
def bankPend (s : State) (cl b : Nat) : Bool := (getCluster s cl).csbpend.testBit b

/-- The cluster and bank of an address in cluster SRAM. -/
def bankOf (pa : Nat) : Option (Nat × Nat) :=
  match targetOf (offsetOf pa) with
  | .sram cl => some (cl, (offsetOf pa - sram0) % 0x400000 / 0x40000)
  | _ => none

/-- The counters of a bank's FIFO. -/
def fifoOf (s : State) (cl b : Nat) : Fifo := tget {} (getCluster s cl).fifos b

/-- The slots of a bank in FIFO mode (R81). -/
def fifoCap (s : State) (cl b : Nat) : Nat := 0x40000 / bankSlot s cl b

/-- The modes of the banks of this module that an access touches. -/
def bankModes (s : State) (pas : List Nat) : List Nat :=
  (pas.filter fun a => moduleOf a = s.module).filterMap fun a => (bankOf a).map fun (cl, b) => bankMode s cl b

/-- Is the address in the scratchpad of this core? -/
def inScratch (s : State) (core pa : Nat) : Bool :=
  decide (scratchPa s core 0 ≤ pa) && decide (pa < scratchPa s core 0x30000)

/-! The checks of a write (R45, R59, R60, R339). -/

/-- Is the slot's scouting state restricting writes (R339)? -/
def scouting (s : State) (h : Nat) : Bool := (getSlot s h).scout && !thOf s h

/-- Is the hart in a CHECKED transaction without a passed TXCHK (R60)? -/
def unchecked (s : State) (h : Nat) : Bool :=
  match boundTxn s h with
  | some t => t.checked && !t.passed
  | none => false

/-- TX_FOOTPRINT and TX_CHECK_LATE of a write of `va` by a hart (R45, R60, R216, R339). -/
def wrCheck (s : State) (h va : Nat) (x : Xl) (pas : List Nat) : Option Trap :=
  let home := pas.all (inScratch s (coreOf h))
  if scouting s h && !home then some (trap .txFootprint 0 (wd va))
  else
    let bad := (x.sealedPas pas).any fun a => !((boundTxn s h).map fun t => holdsTile s t (tileOf a) true).getD false
    if bad then some (trap .txFootprint 0 (wd va))
    else if unchecked s h && !home then some (trap .txCheckLate 0 (wd va))
    else none

/-- Note that a transaction has written a tile it holds with W (R60). -/
def noteWrite (s : State) (h : Nat) (pas : List Nat) : State :=
  match boundTxn s h with
  | none => s
  | some t =>
    if !t.wroteW && pas.any (fun a => holdsTile s t (tileOf a) true) then
      modTxn s t.uid fun t => { t with wroteW := true }
    else s

/-! Boundaries: asynchronous traps and interrupts (R216, R217, R223). -/

/-- The journal entries of a frame, in its core's pool and in those of the cores that it has left (R223, R225, R232). -/
def framePool (s : State) (core frame : Nat) : List JEnt :=
  ((s.cores.filter (·.1 ≠ core)).flatMap fun c => c.2.journal.filter fun e => e.core = core && e.frame = frame) ++
    (getCore s core).journal.filter fun e => e.core = core && e.frame = frame

/-- The oldest of some journal entries: the one taken first (R223). -/
def oldestEntry (l : List JEnt) : Option JEnt :=
  l.foldl (fun m e => match m with
    | none => some e
    | some f => if e.age < f.age then some e else m) none

/-- The oldest refused journal entry of a frame's hart, every write under it answered (R223). -/
def refusedEntry (s : State) (h : Nat) : Option JEnt :=
  oldestEntry ((framePool s (coreOf h) ((getSlot s h).wp / 512)).filter fun e =>
    e.core = coreOf h && e.refused.isSome && e.left = 0)

/-- The oldest pending fault of a hart's frame (R224, R262). The fault of an LDM or STM is reported once all its words
have been answered. -/
def lateFor (s : State) (h : Nat) : Option Late :=
  (getCore s (coreOf h)).late.find? fun l => l.frame = (getSlot s h).wp / 512 &&
    (l.grp.isNone || !(mres s h || s.flight.any fun a => a.grp = l.grp))

/-- The asynchronous trap that a hart takes at its next boundary, if TH allows one (R216, R217). -/
def asyncTrap (s : State) (h : Nat) : Option Trap :=
  if thOf s h then none
  else
    match refusedEntry s h with
    | some e => some ⟨.remoteStoreRefused, 0, true, journalValue e⟩
    | none => (lateFor s h).map (·.trap)

/-- Take the oldest pending fault of a hart's frame off its core's list (R224). -/
def dropLate (s : State) (h : Nat) : State :=
  match lateFor s h with
  | none => s
  | some l => modCore s (coreOf h) fun c => { c with late := c.late.erase l }

/-- A fault with ASYNC set becomes pending for the frame of a hart (R224, R262): an LDM or STM has one, for its lowest
refused word. -/
def addLate (s : State) (core frame : Nat) (t : Trap) (grp : Option Nat) : State :=
  modCore s core fun c =>
    if grp.isSome && c.late.any (fun l => l.frame = frame && l.grp = grp) then
      { c with late := c.late.map fun l =>
          if l.frame = frame && l.grp = grp && t.value.ult l.trap.value then { l with trap := t } else l }
    else { c with late := c.late ++ [⟨frame, t, grp⟩] }

/-- The interrupt that a hart takes at its next boundary: the enabled pending one of lowest code (R216, R217). -/
def pendingInt (s : State) (h : Nat) : Option TrapKind :=
  let w := (getSlot s h).hsw
  if !bit w 3 || bit w 4 then none
  else
    [(8, TrapKind.wake), (9, .timer), (10, .monitor)].findSome? fun (i, k) =>
      if bit w i && vectorOf s h (targetMode s h k) ≠ 0 then some k else none

/-- The trap value of an interrupt (R215). -/
def intValue (s : State) (h : Nat) : TrapKind → Word
  | .wake => (getSlot s h).wakeval
  | .timer => (getSlot s h).timecmp
  | _ => (getSlot s h).monword

/-! Ends of parks and waits (R16, R18, R20). -/

/-- The FULL bit of a message slot of the installed frame (R182). -/
def slotFull (s : State) (h n : Nat) : Bool := bit (rd64 s (regPa s h 56)) n

/-- The reply-table entry of a message slot (R233). -/
def replyPa (s : State) (h n : Nat) : Nat := scratchPa s (coreOf h) ((rd64 s (regPa s h 62)).toNat + 8 * n)

/-- Entries of the journal that a frame holds (R223, JRNL). -/
def frameEntries (s : State) (core frame : Nat) : Nat := (framePool s core frame).length

/-- Is there room for `n` more posted stores or messages (R183, R223, R289)? -/
def journalRooms (s : State) (h n : Nat) : Bool :=
  decide (frameEntries s (coreOf h) ((getSlot s h).wp / 512) + n ≤ 32) &&
    decide ((getCore s (coreOf h)).journal.length + n ≤ 128)

/-- Is there room for one more posted store or message (R183, R223)? -/
def journalRoom (s : State) (h : Nat) : Bool := journalRooms s h 1

/-- The array context of a core that its harts use (R231). -/
def actCtx (s : State) (core : Nat) : ArrCtx := tget {} (getCore s core).arr (getCore s core).actx

/-- The event line of a cluster. -/
def getLine (s : State) (cl e : Nat) : EvLine := tget {} (getCluster s cl).lines e

/-- Does an access overlap an unfinished job of its hart so that it must follow it (R175)? A read follows a job that
writes the bytes, a write one that reads or writes them. -/
def jobOverlap (s : State) (h : Nat) (pas : List Nat) (write : Bool) : Bool :=
  (getCluster s (clusterOf (coreOf h))).jobs.any fun j =>
    j.by h && j.regions.any fun (lo, n, wr) => (wr || write) && pas.any fun a => lo ≤ a && a < lo + n

/-- Is an earlier access of the hart to one of these 64-byte chunks still unacknowledged (R198), or an earlier acquire of the
hart still to be performed: no later access of it comes first (R203)? -/
def chunkBusy (before : List Access) (h : Nat) (pas : List Nat) : Bool :=
  before.any fun a => a.hart = h &&
    ((a.acq.isSome && a.underway) || pas.any fun p => a.pas.any fun q => p / 64 = q / 64)

/-- Is a page of an address space affected by an invalidation (R357, R415)? -/
def affected (asid va : Option Nat) (a page : Nat) : Bool :=
  (asid.map fun x => x == a).getD true && (va.map fun v => v / 2 ^ 29 == page / 2 ^ 13).getD true

/-- Does an unfinished job or array command of the module, or a KVCOMMIT at its take, use an affected translation (R236)?
The other mask commands translate and finish in one step. Those that were accepted after the invalidation, from the access
number `before` on, use the new one. -/
def translating (s : State) (asid va : Option Nat) (before : Nat) : Bool :=
  (s.clusters.any fun c =>
    (c.2.jobs.any fun j => decide (j.uid < before) && j.pages.any fun p => affected asid va j.asid p.1) ||
    (c.2.arr.cmds.any fun m => decide (m.after < before) && m.pages.any fun p => affected asid va m.asid p)) ||
  s.flight.any fun a => a.dest = .kvTake && decide (a.uid < before) &&
    affected asid va (getSlot s a.hart).asid (a.va.toNat / 65536)

/-- The tables that an array command names. -/
def ArrCmd.tables (c : ArrCmd) : List Nat :=
  match c.op with
  | .mmt m => span m.tb m.tabs.length
  | .build b => [b.tb]
  | _ => []

/-- The accumulator that an array command names. -/
def ArrCmd.accu (c : ArrCmd) : Option Nat :=
  match c.op with
  | .mmt m => some m.acc
  | .mmd m => some m.acc
  | .swap a _ => some a
  | .build _ => none

/-- Does an earlier command of the core hold back one that names these tables or this accumulator (R126)? -/
def ArrCmd.blocks (c : ArrCmd) (core ctx : Nat) (tbs : List Nat) (acc : Option Nat) : Bool :=
  c.core = core && ((c.ctx = ctx && c.tables.any (tbs.contains ·)) || (acc.isSome && c.accu = acc))

/-- Is a command a build of one of these tables of a core's context? -/
def ArrCmd.builds (c : ArrCmd) (core ctx : Nat) (tbs : List Nat) : Bool :=
  match c.op with
  | .build b => b.core = core && b.ctx = ctx && tbs.contains b.tb
  | _ => false

/-- Has no unfinished command of the core anything to do with these tables or this accumulator (R126)? -/
def arrayClear (s : State) (core : Nat) (tbs : List Nat) (acc : Option Nat) : Bool :=
  (getCluster s (clusterOf core)).arr.cmds.all fun c => !c.blocks core (getCore s core).actx tbs acc

/-- Has a KVCOMMIT of the cluster had its take performed without having been served yet (R161)? -/
def takeDone (s : State) (cl : Nat) : Bool :=
  s.flight.any fun a => a.dest = .kvTake && clusterOf (coreOf a.hart) = cl && (match a.st with
    | .done _ _ => true
    | _ => false)

/-- A table of a core's active context. -/
def actTab (s : State) (core v : Nat) : Table := tget {} (actCtx s core).tabs v

/-- Does the need of a park hold, results aside? -/
def needMet (s : State) (h : Nat) : Need → Bool
  | .results => true
  | .writes => !writesPending s h || (asyncTrap s h).isSome
  | .task => !taskPending s h || (asyncTrap s h).isSome
  | .journal n => journalRooms s h n || (asyncTrap s h).isSome
  | .reply n => !bit (rd64 s (replyPa s h n)) 63
  | .arrayIdle => ((getCluster s (clusterOf (coreOf h))).arr.cmds.all fun c => c.core ≠ coreOf h) &&
      (span (4 * coreOf h) 4).all fun k => k = h || !(getSlot s k).arrCmd
  | .array t a p => !writesPending s h && arrayClear s (coreOf h) t a &&
      (!p || (getCluster s (clusterOf (coreOf h))).arr.cmds.all fun c => c.core = coreOf h)
  | .copy v => (actTab s (coreOf h) v).st ≠ .expected
  | .jobs => !jobsPending s h
  | .jobRoom e =>
    let c := getCluster s (clusterOf (coreOf h))
    (c.jobs.filter fun j => j.issuers.any (coreOf ·.1 = coreOf h) && !j.started).length < 16 && (tget ({} : EvLine) c.lines e).pend < 65535
  | .clear lo n wr => !jobOverlap s h (span lo n) wr && !chunkBusy s.flight h (span lo n)
  | .bank b => !bankPend s (clusterOf (coreOf h)) b
  | .builds => (getCluster s (clusterOf (coreOf h))).arr.cmds.all fun c => (match c.op with
    | .build _ => false
    | _ => true)
  | .take => !takeDone s (clusterOf (coreOf h))
  | .fifo cl b k w =>
    decide (k ≤ if w then fifoCap s cl b - (fifoOf s cl b).fill else (fifoOf s cl b).fill) || bankMode s cl b ≠ 2
  | .inval a v n => !translating s a v n
  | .key => s.tr.keyCmd.isNone
  | .answer => (getSlot s h).answer.isSome
  | .cut => false

/-- May a slot take a task record: its frame must fit the scratchpad (R382)? -/
def slotTakes (slot : Nat) (e : InboxEnt) : Bool :=
  let g := fld (e.words.getD 3 0) 8 0
  let f := 512 * ((640 + 128 * g + 511) / 512)
  decide (0x800 + (slot + 1) * f ≤ 0x30000)

/-- The oldest record of a core's inbox that a slot can take (R26, R382). -/
def recordFor (s : State) (h : Nat) : Option InboxEnt := (getCore s (coreOf h)).inbox.find? (slotTakes (h % 4))

/-- The slots in rotation order after one (R18, R26). -/
def rotation (slot : Nat) : List Nat := [(slot + 1) % 4, (slot + 2) % 4, (slot + 3) % 4, slot % 4]

/-- The waiting slot that INBOX serves next (R26). -/
def inboxTurn (s : State) (core : Nat) : Option Nat :=
  ((rotation (getCore s core).served).map (core * 4 + ·)).find? fun h =>
    (getSlot s h).st = .waiting .inbox && (recordFor s h).isSome

/-- The cache effect of an acquire (R203). -/
def acquire (s : State) (h : Nat) (sc : Scope) : State :=
  match sc with
  | .hart | .core => s
  | .cluster => modCore s (coreOf h) fun c => { c with dcache := [] }
  | .device | .group =>
    modSlot (modCore s (coreOf h) fun c => { c with dcache := [] }) h fun x => { x with acqAt := some s.cycle }

/-- Give a task record to a hart at its INBOX (R26, R343): the words from `d` on, the binding, the ASID, slot.LOOP, and
the FALLBACK bit (R334). -/
def takeRecord (s : State) (h d : Nat) (e : InboxEnt) : State :=
  let c := coreOf h
  let s := modCore s c fun x => { x with inbox := x.inbox.filter (·.ent ≠ e.ent), served := h % 4 }
  let w3 := e.words.getD 3 0
  let s := writeRegs s h d e.words
  let s := modSlot s h fun x => { x with
    bound := some e.txn, asid := fld w3 18 9, loop := some (x.wp, x.pc + 4, x.ktvec), ktvec := 0
    entryFault := e.bad.map fun v => (e.words.getD 4 0, v) }
  let s := modTxn s e.txn fun t => { t with st := .running, started := s.cycle }
  let s := if bit w3 51 then addAcc s c (fld w3 63 60) stFallback else s
  acquire s h .group

/-- Give a core's records to the slots that wait for them, in rotation order (R26). -/
def giveRecords : Nat → State → Nat → State
  | 0, s, _ => s
  | n + 1, s, core =>
    match inboxTurn s core with
    | none => s
    | some h =>
      match recordFor s h with
      | none => s
      | some e =>
        let ops := (getSlot s h).latch
        let s := takeRecord s h (ops.getD 0 0).toNat e
        giveRecords n (retireH (modSlot s h fun x => { x with st := .ready }) h (ops.getD 1 0 = 1) ((getSlot s h).pc + 4)) core

/-- The members of the domain of a member (R191): all, its row, or its column. -/
def domain (g : Gang) (k : BarKind) (m : Nat) : List Nat :=
  (span 0 (g.w * g.h)).filter fun j =>
    match k with
    | .row => j / g.w = m / g.w
    | .col => j % g.w = m % g.w
    | .rect => true

/-- The code of a barrier kind. -/
def BarKind.code : BarKind → Nat
  | .row => 0 | .col => 1 | .rect => 2

/-- Has every member of a member's domain arrived at a barrier, or voted: are its members released (R192 to R194)? -/
def domainFull (g : Gang) (m : Nat) : Wait → Bool
  | .barrier k => (domain g k m).all fun j => g.arr.contains (j, k.code)
  | .vote => (domain g .rect m).all fun j => g.votes.any (·.1 == j)
  | _ => false

/-- Has the barrier or the vote that a hart waits at released it, so that nothing withdraws it any more (R193, R194)? -/
def wireReleased (s : State) (h : Nat) : Bool :=
  match (getSlot s h).st, (boundTxn s h).bind (·.gang), (boundTxn s h).bind (gangOf s) with
  | .waiting w, some (_, m, _, _), some g => domainFull g m w
  | _, _, _ => false

/-- Is the condition of a wait met (R20)? Waits that a controller ends by itself never are, here. -/
def waitMet (s : State) (h : Nat) : Wait → Bool
  | .message n => slotFull s h n
  | .lease | .arrayPeriod => (actCtx s (coreOf h)).lease = .active || (actCtx s (coreOf h)).lease = .idle
  | .idle => fld (getSlot s h).hsw 10 8 ≠ 0 && (pendingInt s h).isNone
  | _ => false

/-- End a hart's park or wait if its end has come: READY, or the pending trap (R10, R16, R218). A wait that goes on notes
when it comes to have a waits-for edge (R196). -/
def settleH (s : State) (h : Nat) : State :=
  let x := getSlot s h
  match x.st with
  | .parked n tr =>
    if x.outs.isEmpty && needMet s h n then
      match tr with
      | some (t, pc) => enterTrap s h t pc
      | none => modSlot s h fun x => { x with st := .ready }
    else s
  | .waiting w =>
    if waitMet s h w then modSlot s h fun x => { x with st := .ready, inside := true }
    else if x.edgeAt.isSome = (waitEdge s h w).isSome then s
    else modSlot s h fun x => { x with edgeAt := (waitEdge s h w).map fun _ => s.cycle }
  | _ => s

/-- End every park and wait whose end has come. -/
def settle (s : State) : State :=
  let s := (s.slots.map (·.1)).foldl settleH s
  (s.cores.map (·.1)).foldl (giveRecords 4) s

/-- Set a pending interrupt bit (R355). -/
def setPending (s : State) (h i : Nat) : State := modHsw s h fun w => setBit w i true

/-- Withdraw a hart's waiting request from its unit: nothing has been performed (R20, R188, R193). A lease request that
ends while the core holds a context with claims leaves it SUSPENDED, as it was: the model's choice (log 81). -/
def withdraw (s : State) (h : Nat) : State :=
  match (getSlot s h).st with
  | .waiting w =>
    let s := match w with
      | .queuePush q => modKs s fun k =>
          { k with queues := tmod {} q (fun d => { d with pushers := d.pushers.filter (·.1 ≠ podHart s h) }) k.queues }
      | .list l => modCluster s (clusterOf (coreOf h)) fun c =>
          { c with wls := tmod {} l (fun w => { w with poppers := w.poppers.filter (· ≠ h) }) c.wls }
      | .queuePop q => modKs s fun k =>
          { k with queues := tmod {} q (fun d => { d with poppers := d.poppers.filter (· ≠ podHart s h) }) k.queues }
      | .memory uid => { s with flight := s.flight.filter (·.uid ≠ uid) }
      | .barrier _ | .vote =>
        match (boundTxn s h).bind (·.gang) with
        | none => s
        | some (g, m, _, _) => modGang s g fun x =>
            { x with arr := x.arr.filter (·.1 ≠ m), votes := x.votes.filter (·.1 ≠ m) }
      | .lease | .arrayPeriod =>
        let c := coreOf h
        let other := (span (c * 4) 4).any fun h' => h' ≠ h &&
          ((getSlot s h').st = .waiting .lease ||
            ((actCtx s c).granted && (getSlot s h').st = .waiting .arrayPeriod))
        if other || (actCtx s c).lease ≠ .requesting then s
        else modCore s c fun x => { x with arr := tmod {} x.actx (fun a =>
          if a.granted then { a with lease := .suspended } else { a with lease := .idle, mask := 0 }) x.arr }
      | _ => s
    modSlot s h fun x => { x with inside := false, latch := [], kept := [], limit := none, cancel := false }
  | _ => s

end Sys2Proof.Machine
end

