-- ==== Sys2Proof/Machine/Regs.lean ====
section
/-! DEFINITION. The register blocks: the cluster block (R79, R146, R165, R181, R378), the Keystone block (R190) and
the Trestle block (R394, R415, R430), with the effect of a read and a write of each register. -/

namespace Sys2Proof.Machine

/-! FIFO banks (R79, R81). -/

/-- Change the counters of a bank's FIFO. -/
def modFifo (s : State) (cl b : Nat) (f : Fifo → Fifo) : State :=
  modCluster s cl fun c => { c with fifos := tmod {} b f c.fifos }

/-! The cluster block. -/

/-- Registers of the cluster block that count, and that a write of any value clears (R146, R181, R378). -/
def clCounter (off : Nat) : Bool :=
  (0x210 ≤ off && off ≤ 0x250 && off % 8 = 0) ||
  (0x500 ≤ off && off < 0x580 && (off % 32 = 0x10 || off % 32 = 0x18)) ||
  (0x580 ≤ off && off ≤ 0x5A8 && off % 8 = 0) ||
  (0x600 ≤ off && off < 0x700 && off % 8 = 0)

/-- The status word of an event line (R173). -/
def lineWord (l : EvLine) : Word :=
  wd (l.pend * 2 ^ 48 + l.err * 2 ^ 32 + (if l.err &&& 0b111101 = 0 then 0 else l.bad.getD 0))

/-- ARRHOLD (R146). -/
def arrHold (a : Arr) : Word :=
  let claim := fun i => (tfind a.claims i).getD 0 / 2
  let cv := fun i => b2n (tfind a.claims i).isSome
  wd ((claim 0 * 2 ^ 16 + claim 1 * 2 ^ 20 + claim 2 * 2 ^ 24 + claim 3 * 2 ^ 28) +
    (cv 0 * 2 ^ 12 + cv 1 * 2 ^ 13 + cv 2 * 2 ^ 14 + cv 3 * 2 ^ 15) + b2n a.active * 2 ^ 7 + a.holder % 16)

/-- A read of the cluster block (R79): offsets not listed read zero (log 7). That FIFOCNT is 0 outside FIFO mode (log 88)
and that CSBMODE reads its new value while a bank's PEND is set (log 89) are the model's choices; so are FIFOPOS of such a bank,
the counters that the bank's last change left at 0 (log 88), and HEAD and TAIL of a work-list as running counts of items (log
101). -/
def clRead (s : State) (cl off : Nat) : Word :=
  let c := getCluster s cl
  if off = 0 then c.csbnext
  else if off = 8 then wd c.csbpend
  else if 0x100 ≤ off && off < 0x180 then
    let b := (off - 0x100) / 8
    if bankMode s cl b = 2 then wd ((fifoCap s cl b - (fifoOf s cl b).fill) * 2 ^ 32 + (fifoOf s cl b).fill) else 0
  else if 0x180 ≤ off && off < 0x200 then
    let f := fifoOf s cl ((off - 0x180) / 8)
    wd (f.tail * 2 ^ 16 + f.head)
  else if off = 0x200 then wd (c.arr.seq % 2 ^ 32)
  else if off = 0x208 then arrHold c.arr
  else if 0x300 ≤ off && off < 0x380 then
    let m := tget {} c.mctx ((off - 0x300) / 32)
    match off % 32 with
    | 0 => m.full
    | 8 => m.part
    | 16 => m.empty
    | _ => m.forced
  else if 0x380 ≤ off && off < 0x3A0 then
    let m := tget {} c.mctx ((off - 0x380) / 8)
    wd (m.gen.toNat * 2 ^ 32 + b2n m.psn * 32 + m.prog.length)
  else if 0x400 ≤ off && off < 0x500 then lineWord (tget {} c.lines ((off - 0x400) / 8))
  else if 0x500 ≤ off && off < 0x580 && off % 32 = 0 then (tget {} c.wls ((off - 0x500) / 32)).record
  else if 0x500 ≤ off && off < 0x580 && off % 32 = 8 then
    let w := tget {} c.wls ((off - 0x500) / 32)
    wd (w.tail % 2 ^ 24 * 2 ^ 32 + w.head % 2 ^ 24)
  else if clCounter off then tget 0 c.cnt off
  else 0

/-- The banks whose field a CSBMODE write changes (R83). -/
def csbChanged (old new : Word) : List Nat := (span 0 16).filter fun b => fld old (4 * b + 3) (4 * b) ≠ fld new (4 * b + 3) (4 * b)

/-- Mark the tables of the cluster whose watch span lies in a re-moded bank (R135). -/
def remodeStale (s : State) (cl b : Nat) : State :=
  let lo := sramPa s cl (b * 0x40000)
  s.cores.foldl (fun s (n, c) =>
    if clusterOf n ≠ cl then s
    else c.arr.foldl (fun s (x, a) => a.tabs.foldl (fun s (v, t) =>
      match t.watch with
      | some (u, a0, a1) => if u + a0 < lo + 0x40000 && lo ≤ u + a1 then markOne s n x v .remoded 0 else s
      | none => s) s) s) s

/-- A hart takes the status of an event line at PEND 0 in one step: the word into `d`, ERR and FIRSTBAD cleared, an acquire
of the jobs' finish (R173, R175, R329). -/
def takeLine (s : State) (h d line : Nat) : State :=
  let cl := clusterOf (coreOf h)
  let s := writeReg s h d (lineWord (getLine s cl line)) false
  acquire (modCluster s cl fun c => { c with
    lines := tmod {} line (fun x => { x with err := 0, bad := none }) c.lines }) h .device

/-- The harts that wait at an event line whose PEND has reached zero are served one at a time, in ascending core and slot
number (R329). -/
def serveLine (s : State) (cl line : Nat) : State :=
  if (getLine s cl line).pend ≠ 0 then s
  else
    (span (64 * cl) 64).foldl (fun s h =>
      if (getSlot s h).st = .waiting (.event line) then
        let d := ((getSlot s h).latch.headD 0).toNat
        retireH (modSlot (takeLine s h d line) h fun x => { x with st := .ready }) h true ((getSlot s h).pc + 4)
      else s) s

/-- Finish a job at once: its line's PEND falls by its issuers and its error bits join; the counter advances as for jobs
of their own (R173, R181, R377). -/
def finishJob (s : State) (cl : Nat) (j : Job) : State :=
  let n := j.issuers.length
  let s := modCluster s cl fun c => { c with
    jobs := c.jobs.filter (·.uid ≠ j.uid)
    lines := tmod {} j.evt (fun l => { l with
      pend := l.pend - n
      err := l.err ||| j.errs
      bad := if l.err &&& 0b111101 = 0 && j.errs &&& 0b111101 ≠ 0 then j.bad else l.bad }) c.lines }
  serveLine (bumpCl { s with tileReads := s.tileReads.filter (·.1 ≠ j.uid) } cl 0x580 n) cl j.evt

/-- The accesses and jobs that wait on a FIFO leaving FIFO mode end: that of a waiting hart with a precise ACCESS_FAULT,
another's as a refused one, a job with MODE (R83). -/
def endFifoWaits (s : State) (cl b : Nat) : State :=
  let here := fun (a : Access) => a.pas.any (fun p => bankOf p = some (cl, b) && moduleOf p = s.module) &&
    (match a.st with | .retry _ => true | _ => false)
  let s := (s.flight.filter here).foldl (fun s a =>
    match a.dest with
    | .wait _ _ | .multi _ _ _ =>
      takeTrap (withdraw s a.hart) a.hart (trap .accessFault (if a.isWrite then 2 else 1) a.va) (getSlot s a.hart).pc
    | _ => { s with flight := s.flight.map fun b => if b.uid = a.uid then { b with st := .refused .cacheMode } else b }) s
  s.clusters.foldl (fun s (k, c) =>
    (c.jobs.filter fun j => match j.stand with
      | some (c, b', _, _) => c = cl && b' = b
      | none => false).foldl
      (fun s j => finishJob s k { j with errs := j.errs ||| 16, bad := some (min (j.bad.getD j.next) j.next) }) s) s

/-- A write of CSBMODE (R79, R83): MODE 3 changes nothing and is counted; else each bank whose field changes begins
its change. The configuration-error counter has no listed offset; the model keeps it at 0xFFF8 (log 7). -/
def csbWrite (s : State) (cl : Nat) (v : Word) : State :=
  if (span 0 16).any fun b => fld v (4 * b + 1) (4 * b) = 3 then bumpCl s cl 0xFFF8 1
  else
    let c := getCluster s cl
    let ch := csbChanged c.csbnext v
    let s := ch.foldl (fun s b =>
      if bankMode s cl b = 2 && fld v (4 * b + 1) (4 * b) ≠ 2 then endFifoWaits s cl b else s) s
    let s := ch.foldl (fun s b => remodeStale s cl b) s
    modCluster s cl fun c => { c with csbnext := v, csbpend := ch.foldl (fun p b => p ||| 2 ^ b) c.csbpend }

/-- The physical ranges of consecutive pages, if all translate to storage: for rings and bitmaps (R179, R186, R407; log 101). -/
def ringPages (s : State) (w : Who) (va n : Nat) : Option (List (Nat × Nat × Nat)) :=
  match xlPages s w .write (n / 65536 + 2) va n with
  | .ok l => if l.all fun p => pageStored s p.2.1 then some l else none
  | .error _ => none

/-- The physical address of a byte by page images: none outside them. -/
def imageOf (pages : List (Nat × Nat × Nat)) (va : Nat) : Option (Nat × Nat) :=
  (pages.find? fun p => p.1 = va / 65536).map fun p => (p.2.1 + va % 65536, p.2.2)

/-- The eight words of a 64-byte record (R179, R186). -/
def record8 (s : State) (w : Who) (va : Nat) : Except Trap (List Word) :=
  match xlBytes s w va 64 .read with
  | .error t => .error t
  | .ok (pas, x) => .ok ((span 0 8).map fun i => ofBytes (rdBytes s x.key ((pas.drop (8 * i)).take 8)))

/-- A write of WLREC (R179): the list is emptied, and configured if its record and ring are good. The record is
read with the writer's address space. -/
def wlrecWrite (s : State) (cl l : Nat) (w : Who) (v : Word) : State :=
  let put := fun (x : WorkList) => modCluster s cl (fun c => { c with wls := tput l x c.wls })
  let bad : WorkList := { record := v, poppers := (tget ({} : WorkList) (getCluster s cl).wls l).poppers }
  if v.toNat % 64 ≠ 0 then put bad
  else
    match record8 s w v.toNat with
    | .error _ => put bad
    | .ok r =>
      let ring := (r.getD 0 0).toNat
      let cap := (r.getD 1 0).toNat
      let bm := (r.getD 2 0).toNat
      let k := r.getD 3 0
      let okF := ring % 64 = 0 && cap % 64 = 0 && 1024 ≤ cap && cap ≤ 16777216 && bm % 8 = 0 && fld k 63 33 = 0 &&
        (r.drop 4).all (· = 0) && ring < window0
      match ringPages s w ring (8 * cap), (if bm = 0 then some [] else ringPages s w bm ((fld k 31 0 + 7) / 8)) with
      | some p1, some p2 =>
        if okF then
          put { bad with ok := true, ring := ring, cap := cap, bitmap := bm, keys := fld k 31 0, clrpop := bit k 32
                         pages := p1 ++ p2, asid := w.asid }
        else put bad
      | _, _ => put bad

/-- Clear one of the counters of a mask context (R165). -/
def clearMaskCounter (r : Nat) (m : MaskCtx) : MaskCtx :=
  match r with
  | 0 => { m with full := 0 }
  | 8 => { m with part := 0 }
  | 16 => { m with empty := 0 }
  | _ => { m with forced := 0 }

/-- A write of the cluster block by an agent with the given address space (R79, R146, R165, R181). -/
def clWrite (s : State) (cl off : Nat) (w : Who) (v : Word) : State :=
  if off = 0 then csbWrite s cl v
  else if 0x100 ≤ off && off < 0x180 then modFifo s cl ((off - 0x100) / 8) fun _ => {}
  else if 0x300 ≤ off && off < 0x380 then
    modCluster s cl fun c => { c with mctx := tmod {} ((off - 0x300) / 32) (clearMaskCounter (off % 32)) c.mctx }
  else if 0x400 ≤ off && off < 0x500 then
    modCluster s cl fun c => { c with lines := tmod {} ((off - 0x400) / 8) (fun l => { l with err := 0, bad := none }) c.lines }
  else if 0x500 ≤ off && off < 0x580 && off % 32 = 0 then wlrecWrite s cl ((off - 0x500) / 32) w v
  else if clCounter off then modCluster s cl fun c => { c with cnt := tput off 0 c.cnt }
  else s

/-! The Keystone block (R190). -/

/-- The counters of the Keystone block. -/
def ksCounter (off : Nat) : Bool :=
  (0x1100 ≤ off && off ≤ 0x1130 && off % 8 = 0) || (0x2200 ≤ off && off < 0x4000 && off % 32 = 0x10)

/-- The reset value of a stored Keystone register (R190). -/
def ksReset (off : Nat) : Word :=
  if 0x1000 ≤ off && off < 0x1080 then 0xFFFF0000 else if off = 0x1138 then 8 else 0

/-- A stored Keystone register. -/
def ksReg (s : State) (off : Nat) : Word := tget (ksReset off) s.ks.regs off

/-- The READY transactions of a stage that are not dispatched, each gang counted once per member (R189). -/
def stageOcc (s : State) (st : Nat) : Nat := (s.ks.txns.filter fun t => t.stage = st && t.st = .ready).length

/-- The cores that serve a stage: the cores not listed serve stage 0, as after reset (R190, R397). -/
def stageCores (s : State) (st : Nat) : Nat :=
  let listed := (s.cores.filter fun c => c.2.stage = st).length
  if st = 0 then 2048 - (s.cores.filter fun c => c.1 < 2048 && c.2.stage ≠ 0).length else listed

/-- A data queue. -/
def getQueue (s : State) (q : Nat) : DQueue := tget {} s.ks.queues q

/-- Is the offset a register of the Keystone block? -/
def ksListed (off : Nat) : Bool :=
  off % 8 = 0 && ((0x1000 ≤ off && off ≤ 0x1138) || (0x2200 ≤ off && off < 0x4000))

/-- A read of the Keystone block (R190); an offset that is not listed reads zero (R5, log 7). -/
def ksRead (s : State) (off : Nat) : Word :=
  if 0x1080 ≤ off && off < 0x1100 then
    let st := (off - 0x1080) / 8
    wd (stageCores s st * 2 ^ 32 + min (stageOcc s st) 0xFFFF)
  else if 0x2200 ≤ off && off < 0x4000 then
    let d := getQueue s ((off - 0x2000) / 32)
    match off % 32 with
    | 0 => d.record
    | 8 => wd (d.tail.toNat * 2 ^ 32 + d.head.toNat)
    | 16 => ksReg s off
    | _ => wd (d.pushers.length % 65536 * 2 ^ 16 + d.poppers.length % 65536)
  else if ksListed off then ksReg s off
  else 0

/-- A write of QREC (R186): the ring is translated whole, the queue emptied, waiters left waiting. The record's
address is physical when Trestle writes it and is read in clear (log 7); one that is not 64-byte aligned, or not in HBM, counts as
malformed, which R186 does not say: the model's choice (log 105). -/
def qrecWrite (s : State) (q : Nat) (v : Word) : State :=
  let put := fun (s : State) (x : DQueue) => modKs s fun k => { k with queues := tput q x k.queues }
  let old := getQueue s q
  let bad : DQueue := { old with record := v, ok := false, head := 0, tail := 0 }
  let fail := bumpKs (put s bad) 0x1128
  if v.toNat % 64 ≠ 0 || !isHbm v.toNat then fail
  else
    let r := (span 0 8).map fun i => rd64 s (v.toNat + 8 * i)
    let ring := (r.getD 0 0).toNat
    let cap := (r.getD 1 0).toNat
    let a := (r.getD 2 0).toNat
    let okF := ring % 64 = 0 && 64 ≤ cap && cap ≤ 16777216 && 2 ^ Nat.log2 cap = cap && a < 1024 && (r.drop 3).all (· = 0)
    match (if okF && ring < window0 then ringPages s ⟨0, a, true⟩ ring (8 * cap) else none) with
    | none => fail
    | some pg => put s { bad with ok := true, ring := ring, cap := cap, asid := a, pages := pg }

/-- A write of SGTHR (R190). -/
def sgthrWrite (s : State) (st : Nat) (v : Word) : State :=
  if fld v 15 0 > fld v 31 16 || fld v 43 32 > 2048 || fld v 63 44 ≠ 0 then bumpKs s 0x1128
  else modKs s fun k => { k with regs := tput (0x1000 + 8 * st) v k.regs }

/-- A write of PUSHPOOL (R190): it takes effect once no push occupies the pool. -/
def pushpoolWrite (s : State) (v : Word) : State :=
  if v.toNat < 1 || 32 < v.toNat then bumpKs s 0x1128
  else if s.ks.poolUsed = 0 then modKs s fun k => { k with regs := tput 0x1138 v k.regs, poolNew := none }
  else modKs s fun k => { k with poolNew := some v.toNat }

/-- A write of the Keystone block (R190, R353): a read-only register or an offset that is not listed changes
nothing and is counted. -/
def ksWrite (s : State) (off : Nat) (v : Word) : State :=
  if off % 8 ≠ 0 then bumpKs s 0x1128
  else if 0x1000 ≤ off && off < 0x1080 then sgthrWrite s ((off - 0x1000) / 8) v
  else if off = 0x1138 then pushpoolWrite s v
  else if 0x2200 ≤ off && off < 0x4000 && off % 32 = 0 then qrecWrite s ((off - 0x2000) / 32) v
  else if ksCounter off then modKs s fun k => { k with regs := tput off 0 k.regs }
  else bumpKs s 0x1128

end Sys2Proof.Machine
end

