-- ==== Sys2Proof/Machine/Access.lean ====
section
/-! DEFINITION. Accesses: caches (R80, R84, R198 to R203, R433), FIFO ports (R81, R82), accesses in flight and their
performance at the point of coherence (R88 to R91, R198, R201, R210 to R212), and a hart's loads and stores
(R259, R260, R272 to R275). -/

namespace Sys2Proof.Machine

/-! Caches. -/

/-- How long a data-cache line and a cluster-cache line are valid after their fill (R201). -/
def dLife : Nat := 4096
def cLife : Nat := 65536

/-- The line of a cache that holds an address under a key, if it is valid (R201). -/
def lineAt (ls : List Line) (size key now life pa : Nat) : Option Line :=
  ls.find? fun l => l.base = pa / size * size && l.key = key && now < l.filled + life

/-- The bytes of an access from lines that hold all of them, and of each whether its sector is poisoned. -/
def fromLines (find : Nat → Option Line) (pas : List Nat) : Option (List Byte × List Bool) :=
  pas.foldr (fun pa r =>
    match find pa, r with
    | some l, some (bs, ps) => some (l.bytes.getD (pa - l.base) 0 :: bs, l.psn.contains (granule pa).1 :: ps)
    | _, _ => none) (some ([], []))

/-- Put a line first and keep the most recent `ways` valid lines of its set (R433). -/
def fillLine (ls : List Line) (l : Line) (setOf : Nat → Nat) (ways now life : Nat) : List Line :=
  let rest := ls.filter fun x => !(x.base = l.base && x.key = l.key) && now < x.filled + life
  let mine := (rest.filter fun x => setOf x.base = setOf l.base).take (ways - 1)
  l :: rest.filter fun x => setOf x.base ≠ setOf l.base || mine.contains x

/-- The sets of the core caches and of the cluster cache (R80, R84). -/
def dSet (base : Nat) : Nat := base / 32 % 256
def cSet (base : Nat) : Nat := base / 256 % 1024

/-- The ways of the cluster cache: the banks in cache mode (R80). -/
def cWays (s : State) (cl : Nat) : Nat := ((span 0 16).filter fun b => bankMode s cl b = 1).length

/-- A line as its home slice holds it now: its bytes, and the poisoned sectors among them (R94). -/
def homeLine (s : State) (base size key : Nat) : Line :=
  ⟨base, key, rdBytes s key (span base size),
    ((span 0 (size / 32)).map fun i => base + 32 * i).filter (isPsn s), s.cycle, s.cycle⟩

/-- The data-cache or instruction-cache line at `base` as a cluster-cache line holds it. -/
def Line.part (l : Line) (base now : Nat) : Line :=
  ⟨base, l.key, (l.bytes.drop (base - l.base)).take 32, l.psn.filter (· = base), now, l.age⟩

/-- The line bases of a list of addresses. -/
def bases (size : Nat) (pas : List Nat) : List Nat := (pas.map (· / size * size)).eraseDups

/-- Fill the data-cache lines of an access from the home slice, and the cluster-cache lines when there is one (R85). -/
def fillFrom (s : State) (core key : Nat) (pas : List Nat) : State :=
  let cl := clusterOf core
  let s := if cWays s cl = 0 then s
    else (bases 256 pas).foldl (fun s b =>
      let l := homeLine s b 256 key
      modCluster s cl fun c => { c with ccache := fillLine c.ccache l cSet (cWays s cl) s.cycle cLife }) s
  (bases 32 pas).foldl (fun s b =>
    let l := homeLine s b 32 key
    modCore s core fun c => { c with dcache := fillLine c.dcache l dSet 4 s.cycle dLife }) s

/-- Were a line's bytes read at the home slice after an acquire at device or group scope (R203)? -/
def Line.since (after : Option Nat) (l : Line) : Bool :=
  match after with
  | none => true
  | some a => decide (a < l.age)

/-- A cluster-cache line that a hart may use: filled after its last acquire at device or group scope (R203). -/
def clLine (s : State) (cl key : Nat) (after : Option Nat) (pa : Nat) : Option Line :=
  if cWays s cl = 0 then none
  else (lineAt (getCluster s cl).ccache 256 key s.cycle cLife pa).filter (·.since after)

/-- A data-cache line that a hart may use: one that a sibling filled from a cluster-cache line is as old as that (R203). -/
def dLine (s : State) (core key : Nat) (after : Option Nat) (pa : Nat) : Option Line :=
  (lineAt (getCore s core).dcache 32 key s.cycle dLife pa).filter (·.since after)

/-- Make lines the most recently used (R433). -/
def touchLines (ls : List Line) (bs : List Nat) (key : Nat) : List Line :=
  let p := fun (l : Line) => bs.contains l.base && l.key = key
  ls.filter p ++ ls.filter (fun l => !p l)

/-- A read served by the core's data cache or the cluster cache: the bytes, the poison of each, and the caches after
(R84, R95, R201). -/
def cacheRead (s : State) (h : Nat) (key : Nat) (pas : List Nat) : Option (List Byte × List Bool × State) :=
  let core := coreOf h
  let cl := clusterOf core
  match fromLines (dLine s core key (getSlot s h).acqAt) pas with
  | some (bs, ps) =>
    some (bs, ps, modCore s core fun c => { c with dcache := touchLines c.dcache (bases 32 pas) key })
  | none =>
    match fromLines (clLine s cl key (getSlot s h).acqAt) pas with
    | none => none
    | some (bs, ps) =>
      let s := modCluster s cl fun c => { c with ccache := touchLines c.ccache (bases 256 pas) key }
      let s := (bases 32 pas).foldl (fun s b =>
        match clLine s cl key (getSlot s h).acqAt b with
        | none => s
        | some l => modCore s core fun c => { c with dcache := fillLine c.dcache (l.part b s.cycle) dSet 4 s.cycle dLife }) s
      some (bs, ps, s)

/-- A line with bytes replaced (R80, R84); a poisoned write marks its sector, a clean write of a whole one clears it
(R95). -/
def patchLine (size : Nat) (cells : List (Nat × Byte)) (psn : Bool) (l : Line) : Line :=
  let hit := cells.filter fun c => l.base ≤ c.1 && c.1 < l.base + size
  { l with
    bytes := hit.foldl (fun bs c => bs.set (c.1 - l.base) c.2) l.bytes
    psn := poisonAfter (hit.map (·.1)) psn l.psn }

/-- The copies of a cache after a store under a key: those under the key are updated and become the most recently used,
those of the line under another key leave (R84, R413, R433). -/
def storeLines (size key : Nat) (cells : List (Nat × Byte)) (psn : Bool) (ls : List Line) : List Line :=
  let bs := bases size (cells.map (·.1))
  touchLines ((ls.filter fun l => l.key = key || !bs.contains l.base).map fun l =>
    if l.key = key then patchLine size cells psn l else l) bs key

/-- A store updates the copies in its own core's data cache and its own cluster's cache (R80, R84). -/
def storeCopies (s : State) (core key : Nat) (cells : List (Nat × Byte)) (psn : Bool) : State :=
  modCluster (modCore s core fun c => { c with dcache := storeLines 32 key cells psn c.dcache }) (clusterOf core) fun c =>
    { c with ccache := storeLines 256 key cells psn c.ccache }

/-- A sync-mode access or an atomic invalidates the addressed line of its core's data cache (R275, R280). -/
def dropLine (s : State) (core pa : Nat) : State :=
  modCore s core fun c => { c with dcache := c.dcache.filter (·.base ≠ pa / 32 * 32) }

/-- The copies of these bytes leave a core's data cache and its cluster's cache: an agent of the core that reads or
writes them past the caches has observed the home slice, and its later loads must (R198, R200, R213). -/
def dropCopies (s : State) (core : Nat) (pas : List Nat) : State :=
  let s := modCore s core fun c => { c with dcache := c.dcache.filter fun l => !(bases 32 pas).contains l.base }
  modCluster s (clusterOf core) fun c => { c with ccache := c.ccache.filter fun l => !(bases 256 pas).contains l.base }

/-! FIFO ports (R81). -/

/-- Does an earlier access or job wait at the FIFO in the same direction (R81)? -/
def fifoQueue (s : State) (cl b : Nat) (write : Bool) (me : Nat) : Bool :=
  (s.flight.any fun a => (match a.st with | .retry n => decide (n < me) | _ => false) &&
    bankOf (a.pas.headD 0) = some (cl, b) && (match a.op with | .store _ => true | _ => false) = write) ||
  (s.clusters.any fun k => k.2.jobs.any fun j => match j.stand with
    | some (c, b', w, n) => c = cl && b' = b && w = write && n < me
    | none => false)

/-- Must a FIFO access wait: a write while no slot is free, a read while none is filled, or behind an earlier one (R81)?
With no slot free every write would start one, and with none filled every read. -/
def fifoBlocked (s : State) (cl b : Nat) (write : Bool) (me : Nat) : Bool :=
  let f := fifoOf s cl b
  decide (if write then fifoCap s cl b ≤ f.fill else f.fill = 0) || fifoQueue s cl b write me

/-- The arrival number of an access at its target. -/
def arrivalOf (s : State) (a : Access) : Nat :=
  match a.st with
  | .retry n => n
  | _ => s.uid

/-- The storage bytes of a FIFO access: slot TAIL for a write, slot HEAD for a read (R81). -/
def fifoPas (s : State) (cl b : Nat) (pas : List Nat) (write : Bool) : List Nat :=
  let z := bankSlot s cl b
  let k := if write then (fifoOf s cl b).tail else (fifoOf s cl b).head
  pas.map fun a => sramPa s cl (b * 0x40000 + k * z + a % z)

/-- The counters after a FIFO access: the access that covers the last byte of its slot fills or frees it (R81). -/
def fifoStep (s : State) (cl b : Nat) (pas : List Nat) (write : Bool) : State :=
  let z := bankSlot s cl b
  let cap := fifoCap s cl b
  if pas.any fun a => a % z = z - 1 then
    modFifo s cl b fun f =>
      if write then { f with fill := f.fill + 1, tail := (f.tail + 1) % cap }
      else { f with fill := f.fill - 1, head := (f.head + 1) % cap }
  else s

/-- Does an access cross a FIFO slot boundary, or leave the bank (R81)? -/
def fifoCrosses (s : State) (cl b : Nat) (pas : List Nat) : Bool :=
  match pas with
  | [] => false
  | a :: _ => pas.any fun c => bankOf c ≠ some (cl, b) || c / bankSlot s cl b ≠ a / bankSlot s cl b

/-! Performing an access at its target. -/

/-- The new value of an atomic (R279). -/
def atomNew (op : AtomOp) (old c cmp : Word) : Word :=
  match op with
  | .swap => c
  | .add => old + c
  | .and => old &&& c
  | .or => old ||| c
  | .xor => old ^^^ c
  | .min => if c.slt old then c else old
  | .max => if old.slt c then c else old
  | .minn => if c.ult old then c else old
  | .maxn => if old.ult c then c else old
  | .cas => if old = cmp then c else old

/-- The condition of a sync mode (R88). -/
def syncMet (m : SyncMode) (full : Bool) : Bool :=
  match m with
  | .wfull | .take => full
  | .fill => !full
  | _ => true

/-- The full/empty bit after a sync-mode access is performed (R88). -/
def syncBit (m : SyncMode) (full : Bool) : Bool :=
  match m with
  | .take => false
  | .fill | .put => true
  | _ => full

/-- The outcome of an attempt at the target: performed, not yet, refused, or not performed because it would bring poison
to a hart that waits for it under PTE (R96, R278). -/
inductive Outc where
  | done (val : List Byte) (psn : Bool)
  | wait
  | refused (why : RefuseReason)
  | poison
  /-- A byte of it: the rest of an access that is not one aligned word follows (R197). -/
  | part
  deriving DecidableEq, Repr

/-- Why the target of one byte of an access refuses, if it does (R81, R223, R262, R282): the module does not answer, no
storage, a bank in cache mode, a FIFO port that takes no such access. -/
def refusalAt (s : State) (a : Access) (pa : Nat) : Option RefuseReason :=
  if !answers s (moduleOf pa) then some .absent
  else
    match targetOf (offsetOf pa) with
    | .hbm | .scratch _ => none
    | .sram _ =>
      if moduleOf pa ≠ s.module then none
      else
        match bankOf pa with
        | some (cl, b) =>
          if bankMode s cl b = 1 then some .cacheMode
          else if bankMode s cl b = 2 then
            (match a.op with
             | .atomic _ _ _ | .sync _ _ => some .cacheMode
             | _ => if a.sc then some .cacheMode else if fifoCrosses s cl b a.pas then some .noStorage else none)
          else none
        | none => some .noStorage
    | _ => some .noStorage

/-- Why a target refuses an access: the reason of its first refused byte. -/
def refusal (s : State) (a : Access) : Option RefuseReason := a.pas.findSome? (refusalAt s a)

/-- A bank of cluster SRAM that an access touches while its mode changes: new accesses to it wait (R83). -/
def pendBank (s : State) (pas : List Nat) : Option Nat :=
  pas.findSome? fun a => (bankOf a).bind fun (cl, b) => if moduleOf a = s.module && bankPend s cl b then some b else none

/-- The FIFO port that an access addresses, if it does (R81). -/
def fifoPort (s : State) (pas : List Nat) : Option (Nat × Nat) :=
  (bankOf (pas.headD 0)).filter fun (cl, b) => moduleOf (pas.headD 0) = s.module && bankMode s cl b = 2

/-- Does the access only store? -/
def Access.storeOnly (a : Access) : Bool :=
  match a.op with
  | .store _ | .sync _ (some _) => true
  | _ => false

/-- Does its hart wait for the access (R20)? -/
def Access.waited (a : Access) : Bool :=
  match a.dest with
  | .wait _ _ | .multi _ _ _ | .kvTake => true
  | _ => false

/-- The bytes of storage that an access reads: at a FIFO port those of slot HEAD. -/
def readPas (s : State) (a : Access) : List Nat :=
  match fifoPort s a.pas with
  | some (cl, b) => fifoPas s cl b a.pas false
  | none => a.pas

/-- Is the condition of an access met at its target (R81, R83, R88)? -/
def accReady (s : State) (a : Access) : Bool :=
  (pendBank s a.pas).isNone &&
  (match fifoPort s a.pas with
   | some (cl, b) => !fifoBlocked s cl b a.storeOnly (arrivalOf s a)
   | none =>
     match a.op with
     | .sync m _ => syncMet m (isFull s (a.pas.headD 0))
     | _ => true)

/-- Would the access bring poison to a hart that waits for it under PTE (R96, R278)? -/
def poisonStop (s : State) (a : Access) : Bool :=
  a.waited && !a.storeOnly && pteOf s a.hart && anyPsn s (readPas s a)

/-- The rank of a scope: a wider one covers a narrower (R202). -/
def scopeRank : Scope → Nat
  | .hart => 0 | .core => 1 | .cluster => 2 | .device => 3 | .group => 4

/-- The acquire of a FENCE: it takes effect now, and again when a read of the hart that is still on its way is
performed, so that every earlier read is acquire-tailed (R203, R205). -/
def fenceAcquire (s : State) (h : Nat) (sc : Scope) : State :=
  acquire { s with flight := s.flight.map fun a =>
    if a.hart = h && a.underway && !a.storeOnly then
      { a with acq := some (match a.acq with | some t => if scopeRank t < scopeRank sc then sc else t | none => sc) }
    else a } h sc

/-- The bytes of an access as they read under its keys (R413). -/
def Access.read (s : State) (a : Access) : List Byte :=
  match a.past with
  | none => rdBytes s a.key a.pas
  | some (n, k) => rdBytes s a.key (a.pas.take n) ++ rdBytes s k (a.pas.drop n)

/-- The bytes of an access, each with its key slot. -/
def Access.keyed (a : Access) : List (Nat × Nat) :=
  match a.past with
  | none => a.pas.map fun p => (p, a.key)
  | some (n, k) => (a.pas.take n).map (fun p => (p, a.key)) ++ (a.pas.drop n).map fun p => (p, k)

/-- Write the bytes of an access under its keys. -/
def Access.put (s : State) (a : Access) (data : List Byte) (psn : Bool) : State :=
  match a.past with
  | none => putBytes s a.key (a.pas.zip data) psn
  | some (n, k) => putBytes (putBytes s a.key ((a.pas.zip data).take n) psn) k ((a.pas.zip data).drop n) psn

/-- The effect of an access at its target, its condition met: the state, the bytes it reads, and their poison (R81, R88,
R201, R210). -/
def effect (s : State) (a : Access) : State × List Byte × Bool :=
  let ps := readPas s a
  let p := anyPsn s ps
  match fifoPort s a.pas with
  | some (cl, b) =>
    match a.op with
    | .store data => (fifoStep (putBytes s 0 ((fifoPas s cl b a.pas true).zip data) a.psn) cl b a.pas true, [], false)
    | _ => (fifoStep s cl b a.pas false, rdBytes s 0 ps, p)
  | none =>
    let old := a.read s
    match a.op with
    | .load | .send _ _ _ _ _ _ => (s, old, p)
    | .store data => (a.put s data a.psn, [], false)
    | .atomic op c cmp =>
      let w := ofBytes old
      let s := if op = .cas && w ≠ cmp then s else a.put s (wBytes (atomNew op w c cmp)) (a.psn || p)
      (s, old, p)
    | .sync m data =>
      let pa := a.pas.headD 0
      let full := isFull s pa
      let s := match data with
        | some v => a.put s (wBytes v) a.psn
        | none => s
      (setFull s pa (syncBit m full), if m = .probe then old ++ wBytes (wd (b2n full)) else old, p)

/-- Is the access one aligned word of 1, 2, 4 or 8 bytes, or of a kind that always is (R197)? -/
def aligned (pas : List Nat) : Bool :=
  let n := pas.length
  (n = 1 || n = 2 || n = 4 || n = 8) && pas.headD 0 % n = 0

/-- Is the access performed whole: an aligned word, a FIFO access, or one that is neither a load nor a store? -/
def Access.whole (s : State) (a : Access) : Bool :=
  aligned a.pas || (fifoPort s a.pas).isSome || (match a.op with
    | .load | .store _ => false
    | _ => true)

/-- The next byte of an access that is performed byte by byte. -/
def Access.byte (a : Access) : Access :=
  { a with
    pas := [a.pas.getD a.part 0], past := none
    key := match a.past with
      | some (n, k) => if n ≤ a.part then k else a.key
      | none => a.key
    op := match a.op with
      | .store d => .store [d.getD a.part 0]
      | o => o }

/-- Perform an access at its target, if it can be performed (R81, R83, R88, R201, R210). An access to a bank whose mode is
changing waits for the change, and the new mode decides (R83); one that needs the key slot of a KEYCMD waits for it (R414). A load or store that is not one aligned word is performed
byte by byte, in ascending order (R197; log 100). -/
def perform (s : State) (a : Access) : State × Outc :=
  if (pendBank s a.pas).isSome || keyHeld s a.keyed then (s, .wait)
  else
    match refusal s a with
    | some r => (s, .refused r)
    | none =>
      if !accReady s a then (s, .wait)
      else if poisonStop s a then (s, .poison)
      else if a.whole s then
        let r := effect s a
        (r.1, .done r.2.1 r.2.2)
      else
        let r := effect s a.byte
        let b := { a with part := a.part + 1, got := a.got ++ r.2.1, gotPsn := a.gotPsn || r.2.2 }
        if b.part < a.pas.length then
          ({ r.1 with flight := r.1.flight.map fun c => if c.uid = a.uid then b else c }, .part)
        else (r.1, .done b.got b.gotPsn)

/-- The copies of a core and its cluster once the sector of a vector write is clean: their mark goes with it (R95, R291). -/
def cleanCopies (s : State) (a : Access) : State :=
  let g := (granule (a.pas.headD 0)).1
  if isPsn s g then s
  else
    let f := fun (ls : List Line) => ls.map fun l => if l.key = a.key then { l with psn := l.psn.filter (· ≠ g) } else l
    modCluster (modCore s (coreOf a.hart) fun c => { c with dcache := f c.dcache }) (clusterOf (coreOf a.hart)) fun c =>
      { c with ccache := f c.ccache }

/-- The copies of its core and cluster after an access is performed at its home slice: a cacheable load fills them, a
cacheable store updates them (R80, R84, R85), and whatever bypasses them has them leave (R198, R200); of one that is performed byte by byte, this byte. A store's copies
change when it is performed, so that no hart of the core reads it earlier (R199, R201). -/
def copiesAfter (s : State) (a : Access) : State :=
  let a := if a.whole s then a else a.byte
  if !isHbm (a.pas.headD 0) || 8192 ≤ a.hart then s
  else if a.cache then
    match a.op with
    | .load => fillFrom s (coreOf a.hart) a.key a.pas
    | .store data =>
      let s := storeCopies s (coreOf a.hart) a.key (a.pas.zip data) a.psn
      if a.wide then cleanCopies (wash s (a.pas.headD 0)) a else s
    | _ => dropCopies s (coreOf a.hart) a.pas
  else dropCopies (if a.wide then wash s (a.pas.headD 0) else s) (coreOf a.hart) a.pas

/-! Accesses in flight. -/

/-- Send an access on its way; its number is the answer. -/
def send (s : State) (a : Access) : State × Nat :=
  ({ s with flight := s.flight ++ [{ a with uid := s.uid, tag := tagOf s a.hart }], uid := s.uid + 1 }, s.uid)

/-- The 64-byte chunks of an access (R198). -/
def chunks (pas : List Nat) : List Nat := (pas.map (· / 64)).eraseDups

/-- Does the schedule have an access that is not one aligned word performed byte by byte among those of other agents (R197;
log 100)? -/
def splits (s : State) (pas : List Nat) : Bool := !aligned pas && s.sched.choices.head? = some true

/-- May an access of the hart to its own scratchpad or cluster SRAM be performed at issue (R83, R175, R198, R272)? -/
def atOnce (s : State) (h : Nat) (pas : List Nat) (write : Bool) : Bool :=
  !chunkBusy s.flight h pas && !jobOverlap s h pas write && (pendBank s pas).isNone && !splits s pas

/-- Change the state of an access in flight. -/
def setAcc (s : State) (uid : Nat) (st : AccSt) : State :=
  { s with flight := s.flight.map fun a => if a.uid = uid then { a with st := st } else a }

/-- Take an access out of flight. -/
def dropAcc (s : State) (uid : Nat) : State := { s with flight := s.flight.filter (·.uid ≠ uid) }

/-- Is this the journal entry that an access stands under (R223)? -/
def JEnt.of (e : JEnt) (a : Access) : Bool :=
  match a.dest with
  | .journal _ frame entry => e.core = coreOf a.hart && e.frame = frame && e.entry = entry
  | _ => false

/-- The lowest free entry number of a frame (R223). -/
def freeNumber (s : State) (core frame : Nat) : Nat :=
  ((span 0 32).find? fun n => !((framePool s core frame).any fun e => e.entry = n)).getD 31

/-- Take a journal entry for the `n` writes of a posted store or message of a hart (R183, R223, R289); the entry number
is the answer. -/
def takeEntries (s : State) (h : Nat) (isSend : Bool) (addr n : Nat) : State × Nat :=
  let c := coreOf h
  let f := (getSlot s h).wp / 512
  let e := freeNumber s c f
  (modCore s c fun x => { x with journal := x.journal ++ [⟨f, c, e, isSend, addr, h, (getSlot s h).bound, none, n, s.uid⟩] }, e)

/-- Take a journal entry for one posted store or message. -/
def takeEntry (s : State) (h : Nat) (isSend : Bool) (addr : Nat) : State × Nat := takeEntries s h isSend addr 1

/-- The waiting hart goes on after its instruction (R20, R21). -/
def completeWait (s : State) (h : Nat) (sw : Bool) : State :=
  retireH (modSlot s h fun x => { x with st := .ready }) h sw ((getSlot s h).pc + 4)

/-- Note poison that a returned value carries (R96). -/
def notePsn (s : State) (h : Nat) (psn : Bool) : State := if psn then setPoisoned s h else s

/-- The scope of a sync-mode access's ordering role (R206). -/
def syncScope (s : State) (pa : Nat) : Scope := if moduleOf pa = s.module then .device else .group

/-- The frame of a hart and its PC. -/
def here (s : State) (h : Nat) : Nat × Word := ((getSlot s h).wp / 512, (getSlot s h).pc)

/-- The LDM or STM at a hart's PC no longer stands between its words (R278). -/
def dropGroup (s : State) (h : Nat) : State :=
  let p := here s h
  if (getCore s (coreOf h)).groups.all fun g => (g.1, g.2.1) ≠ p then s
  else modCore s (coreOf h) fun c => { c with groups := c.groups.filter fun g => (g.1, g.2.1) ≠ p }

/-- One word of a waiting LDM or STM is performed: REPCNT counts down and the hart goes on with the next (R278). -/
def multiWord (s : State) (h n : Nat) (sw : Bool) : State :=
  if n ≤ 1 then completeWait (modHsw (dropGroup s h) h fun w => setFld (setFld w 63 48 0) 42 42 0) h sw
  else modSlot s h fun x => { x with
    hsw := setFld (setFld x.hsw 63 48 (n - 1)) 42 42 1, st := .ready, inside := true }

/-- The bytes of a value of a narrow load extended to a word (R273). -/
def extend (n : Nat) (signed : Bool) (bs : List Byte) : Word :=
  let v := leNat (bs.take n)
  if signed && 2 ^ (8 * n - 1) ≤ v then wd (v + 2 ^ 64 - 2 ^ (8 * n)) else wd v

/-- The bytes that an outstanding result writes, from the bytes that came. -/
def extOut (e : Option (Nat × Bool)) (bs : List Byte) : List Byte :=
  match e with
  | some (n, sg) => wBytes (extend n sg bs)
  | none => bs

/-- The outstanding result that an access brings, with its value. -/
def fillOut (uid : Nat) (val : List Byte) (psn : Bool) (o : Outst) : Outst :=
  if o.src = some uid then { o with val := some (extOut o.ext val), psn := o.psn || psn } else o

/-- The acquire that takes effect when an access is performed (R203, R205, R206). -/
def accAcquire (s : State) (a : Access) : State :=
  match a.acq with
  | some sc => acquire s a.hart sc
  | none => s

/-- The word that a performed access brings to a hart that waits for it, poisoned if its operands were (R95, R258). -/
def bringWord (s : State) (a : Access) (d : Nat) (val : List Byte) (psn : Bool) : State :=
  let s := notePsn (dropAcc s a.uid) a.hart psn
  if a.isWrite then s else writeReg s a.hart d (ofBytes (extOut a.ext (val.take 8))) (psn || a.psn)

/-- The bytes that a performed atomic has written are discarded from the results of older instructions (R17). -/
def dropOlder (s : State) (h : Nat) (pas : List Nat) (uid : Nat) : State :=
  if (getSlot s h).outs.all fun o => uid < o.seq || o.dest.all fun d => !pas.contains d.1 then s
  else modSlot s h fun x => { x with outs := x.outs.map fun o =>
    if uid < o.seq then o else { o with dest := o.dest.filter fun d => !pas.contains d.1 } }

/-- What a performed access brings to its hart. A comparison that holds has written (R279). -/
def deliver (s : State) (a : Access) (val : List Byte) (psn : Bool) : State :=
  let s := match a.op with
    | .atomic .cas _ cmp => if ofBytes val = cmp then dropOlder s a.hart a.pas a.uid else s
    | _ => s
  match a.dest with
  | .wait d sw => completeWait (accAcquire (bringWord s a d val psn) a) a.hart sw
  | .multi d n sw => multiWord (accAcquire (bringWord s a d val psn) a) a.hart n sw
  | .result =>
    let s := accAcquire (setAcc s a.uid (.done val psn)) a
    modSlot s a.hart fun x => { x with outs := x.outs.map (fillOut a.uid val psn) }
  | .kvTake =>
    modSlot (accAcquire (setAcc s a.uid (.done val psn)) a) a.hart fun x => { x with st := .parked .answer none, cancel := false }
  | .nothing => dropAcc s a.uid
  | _ => accAcquire (setAcc s a.uid (.done val psn)) a

/-- The SUB of the fault of a refused access (R224, R262). -/
def Access.refusedSub (a : Access) : Nat :=
  match a.dest, a.op with
  | .slot _ _ _, _ => 3
  | _, .load => 1
  | _, .sync _ none => 1
  | _, _ => 2

/-- The frame of an access: that of its message slot, or its hart's. -/
def Access.frame (s : State) (a : Access) : Nat :=
  match a.dest with
  | .slot f _ _ => f
  | .journal _ f _ => f
  | _ => (getSlot s a.hart).wp / 512

/-- A refused access becomes an ACCESS_FAULT with ASYNC set, pending for its frame; an LDM or STM reports its lowest
word (R224, R262). -/
def lateFault (s : State) (core : Nat) (a : Access) : State :=
  addLate s core (a.frame s) ⟨.accessFault, a.refusedSub, true, a.va⟩ a.grp

/-- What a refused access does to its hart: a waiting store or load ends its wait with the fault; the rest wait for
the refusal to come back (R223, R224, R262). -/
def refuse (s : State) (a : Access) (why : RefuseReason) : State :=
  let late := lateFault (dropAcc s a.uid) (coreOf a.hart) a
  match a.dest with
  | .wait _ sw => completeWait late a.hart sw
  | .multi _ n sw => multiWord late a.hart n sw
  | .kvTake => completeWait late a.hart true
  | .nothing => dropAcc s a.uid
  | _ => setAcc s a.uid (.refused why)

/-- A waiting access that would bring poison under PTE is not performed: its hart takes POISON at the instruction, with
the first poisoned address (R96, R278). -/
def poisonWait (s : State) (a : Access) : State :=
  let i := ((readPas s a).findIdx? (isPsn s)).getD 0
  takeTrap (withdraw (dropAcc s a.uid) a.hart) a.hart (trap .poison 0 (a.va + wd i)) (getSlot s a.hart).pc

/-- Insert an entry of a retry list by its arrival number (R90). -/
def insertArrival (s : State) (a : Access) : List Access → List Access
  | [] => [a]
  | b :: t => if arrivalOf s a < arrivalOf s b then a :: b :: t else b :: insertArrival s a t

/-- The entries that wait on a word, in arrival order (R90). -/
def wordWaiters (s : State) (pa : Nat) : List Access :=
  (s.flight.filter fun a => a.pas.headD 0 / 8 = pa / 8 &&
    (match a.st, a.op with | .retry _, .sync _ _ => true | _, _ => false)).foldl (fun l a => insertArrival s a l) []

/-- After a sync-mode access is performed on a word, its waiting entries are scanned in arrival order, again and
again until a scan performs none (R90). -/
def retryScan : Nat → State → Nat → State
  | 0, s, _ => s
  | fuel + 1, s, pa =>
    let (s', n) := (wordWaiters s pa).foldl (fun (s, n) a =>
      match perform s a with
      | (s, .done v p) => (deliver (copiesAfter s a) a v p, n + 1)
      | (s, .poison) => (poisonWait s a, n)
      | (s, _) => (s, n)) (s, 0)
    if n = 0 then s' else retryScan fuel s' pa

/-- How many entries a slice's retry list holds (R90). -/
def retryCount (s : State) (slice : Nat) : Nat :=
  (s.flight.filter fun a => (match a.st, a.op with | .retry _, .sync _ _ => true | _, _ => false) &&
    sliceOf (a.pas.headD 0) = slice).length

/-- An access whose condition is not met: it enters its controller's retry list, a full one refusing it for 64 cycles,
or stands at its bank (R81, R83, R90, R91). -/
def enterRetry (s : State) (a : Access) : State :=
  let full := match a.op with
    | .sync _ _ => decide (4096 ≤ retryCount s (sliceOf (a.pas.headD 0)))
    | _ => false
  if full then bumpTr (setAcc s a.uid (.resend s.cycle)) (0x10000000 + sliceOf (a.pas.headD 0))
  else { (setAcc s a.uid (.retry s.uid)) with uid := s.uid + 1 }

/-- An access arrives at its target (R90, R91, R201). One that needs the key slot of a KEYCMD stays where it is (R414). -/
def arrive (s : State) (a : Access) : State :=
  if keyHeld s a.keyed then s
  else
  match perform s a with
  | (s, .done v p) =>
    let s := deliver (copiesAfter s a) a v p
    match a.op with
    | .sync _ _ => retryScan (s.flight.length + 1) s (a.pas.headD 0)
    | _ => s
  | (s, .refused r) => refuse s a r
  | (s, .poison) => poisonWait s a
  | (s, .part) => copiesAfter s a
  | (s, .wait) => enterRetry s a

/-! A hart's loads and stores. -/

/-- The place checks of R74, R80, R81, R89 and R260 on a hart's plain access within its reach: the register block
takes aligned 64-bit accesses only; a cache-mode bank and a crossed FIFO slot fault. -/
def placeFault (s : State) (va n : Nat) (k : AccKind) (x : Xl) (pas : List Nat) : Option Trap :=
  match targetOf (offsetOf x.pa) with
  | .clBlock _ => if n = 8 && va % 8 = 0 then none else some (trap .accessFault k.sub (wd va))
  | .sram cl =>
    if !x.own then none
    else
      match bankOf x.pa with
      | some (_, b) =>
        if (bankModes s pas).contains 1 || ((bankModes s pas).contains 2 && (bankMode s cl b ≠ 2 || fifoCrosses s cl b pas)) then
          some (trap .accessFault k.sub (wd va))
        else none
      | none => none
  | _ => none

/-- The first poisoned address of a range of virtual addresses. -/
def firstPsn (s : State) (va : Nat) (pas : List Nat) : Option Word :=
  ((pas.zip (span va pas.length)).find? fun p => isPsn s p.1).map fun p => wd p.2

/-- The first poisoned address, from the poison of each byte. -/
def firstMark (va : Nat) (ps : List Bool) : Option Word := (ps.findIdx? id).map fun i => wd (va + i)

/-- An outstanding result that an access in flight brings into workspace word `d` (R16). -/
def expect (s : State) (h d uid : Nat) (psn : Bool) (ext : Option (Nat × Bool)) : State :=
  let dst := if d = 0 then [] else span (regPa s h d) 8
  modSlot (dropOuts s h dst) h fun x =>
    { x with outs := x.outs ++ [{ dest := dst.zip (span 0 8), val := none, psn := psn, src := some uid, ext := ext, seq := uid + 1 }] }

/-- A bank whose mode is changing among the own storage that an access of `n` bytes reaches: the access waits for the change
before anything is known of its place (R83). -/
def pendFor (s : State) (va n : Nat) (k : AccKind) : Option Nat :=
  match xlBytes s (who s s.cur) va n k with
  | .error _ => none
  | .ok (pas, x) => if x.own then pendBank s pas else none

/-- Send an access of the executing hart and wait for it (R20, R273). -/
def sendWait (s : State) (a : Access) (ops : List Word) : State :=
  let r := send s a
  waitFor r.1 (.memory r.2) ops none

/-- Does an access reach a bank of this module in FIFO mode? -/
def isFifo (s : State) (pas : List Nat) : Bool := (bankModes s pas).contains 2

/-- Of each byte of a cacheable or plain read, whether the place that would serve it now holds it poisoned (R95, R96). -/
def readMarks (s : State) (h : Nat) (pas : List Nat) (x : Xl) : List Bool :=
  match (if x.cache && atOnce s h pas false then cacheRead s h x.key pas else none) with
  | some (_, ps, _) => ps
  | none => pas.map (isPsn s)

/-- An access of the executing hart to a FIFO port, its destination a wait: performed at issue at an own port that is
ready, else the hart waits for it (R81, R82, R175). -/
def fifoGo (s : State) (x : Xl) (a : Access) (ops : List Word) (done : State → List Byte → Bool → State) : State :=
  let r := send s a
  let wait := fun (s : State) => waitFor s (.memory r.2) ops none
  if x.own && atOnce s s.cur a.pas a.storeOnly then
    match perform s a with
    | (s, .done v p) => done s v p
    | (s, .poison) => raise s (trap .poison 0 (a.va + wd (((readPas s a).findIdx? (isPsn s)).getD 0)))
    | _ => wait (enterRetry r.1 { a with uid := r.2 })
  else wait r.1

/-- A plain load of `n` bytes at `va` into workspace word `d` by the executing hart, reading the words `rs`: faults
of the address, then POISON, then the outstanding result (R216, R259, R272, R273). A hart waits for its load from a FIFO
port, of whichever cluster (R82). -/
def plainLoad (s : State) (va n d : Nat) (signed : Bool) (rs : List Nat) (sw : Bool) : State :=
  let h := s.cur
  match xlBytes s (who s h) va n .read with
  | .error t => raise s t
  | .ok (pas, x) =>
    match (if x.own then pendBank s pas else none), placeFault s va n .read x pas with
    | some b, _ => parkFor s (.bank b) []
    | none, some t => raise s t
    | none, none => consume s rs fun s rp =>
      let s := tlbFills s (who s h) va x
      match targetOf (offsetOf x.pa) with
      | .clBlock cl => retire (addResult s h d (clRead s cl (offsetOf x.pa % 0x10000)) rp) sw
      | _ =>
        let a : Access := { uid := 0, hart := h, va := wd va, pas := pas, key := x.key, cache := x.cache, op := .load,
                            psn := rp, dest := .wait d sw, st := .flying, past := x.rest, ext := some (n, signed) }
        if isFifo s pas then
          fifoGo s x a [] fun s bs p => retire (addResult (notePsn s h p) h d (extend n signed bs) (p || rp)) sw
        else
          match (if pteOf s h then firstMark va (readMarks s h pas x) else none) with
          | some v => raise s (trap .poison 0 v)
          | none =>
            match (if x.cache && atOnce s h pas false then cacheRead s h x.key pas else none) with
            | some (bs, ps, s) =>
              let p := ps.any id
              retire (addResult (notePsn s h p) h d (extend n signed bs) (p || rp)) sw
            | none =>
              if x.own && atOnce s h pas false then
                let p := anyPsn s pas
                retire (addResult (notePsn s h p) h d (extend n signed (rdBytes s 0 pas)) (p || rp)) sw
              else
                let r := send s { a with dest := .result, psn := false, ext := none }
                retire (expect r.1 h d r.2 rp (some (n, signed))) sw

/-- A write of bytes by the executing hart, its checks passed: at once in its own storage, else posted through a
journal entry, for which there is room (R12, R212, R272). It supersedes what older outstanding results of the hart would
write there (R17). -/
def storeNow (s : State) (va : Nat) (pas : List Nat) (x : Xl) (data : List Byte) (psn : Bool) (op : AccOp) : State :=
  let h := s.cur
  let s := noteWrite s h pas
  let a : Access := { uid := 0, hart := h, va := wd va, pas := pas, key := x.key, cache := x.cache, op := op,
                      psn := psn, dest := .nothing, st := .flying, past := x.rest }
  if x.own then
    if atOnce s h pas true then dropOuts (putBytes s 0 (pas.zip data) psn) h pas else (send (dropOuts s h pas) a).1
  else
    let r := takeEntry (dropOuts s h pas) h false (va % 2 ^ 56)
    (send r.1 { a with dest := .journal (coreOf h) ((getSlot s h).wp / 512) r.2 }).1

/-- A plain store of the low `n` bytes of a value at `va` by the executing hart (R259, R260, R272, R274). -/
def plainStore (s : State) (va n : Nat) (v : Word) (rs : List Nat) (ops : List Word) (sw : Bool) : State :=
  let h := s.cur
  match xlBytes s (who s h) va n .write with
  | .error t => raise s t
  | .ok (pas, x) =>
    match (if x.own then pendBank s pas else none), placeFault s va n .write x pas, wrCheck s h va x pas with
    | some b, _, _ => parkFor s (.bank b) ops
    | none, some t, _ => raise s t
    | none, none, some t => raise s t
    | none, none, none => consume s rs fun s p =>
      let s := tlbFills s (who s h) va x
      let data := leBytes n v.toNat
      match targetOf (offsetOf x.pa) with
      | .clBlock cl => retire (clWrite s cl (offsetOf x.pa % 0x10000) (who s h) v) sw
      | _ =>
        if x.own && isFifo s pas then
          let a : Access := { uid := 0, hart := h, va := wd va, pas := pas, key := 0, cache := false, op := .store data,
                              psn := p, dest := .wait 0 sw, st := .flying }
          fifoGo (noteWrite s h pas) x a [] fun s _ _ => retire s sw
        else if !x.own && !journalRoom s h then parkFor s (.journal 1) ops
        else retire (storeNow s va pas x data p (.store data)) sw

/-- The checks of a sync-mode, atomic or SC access to one aligned word: MISALIGNED, translation, place, write checks
(R88, R89, R216, R260, R275, R280). -/
def wordCheck (s : State) (va : Nat) (k : AccKind) (hbmOnly : Bool) (align : Bool) : Except Trap (List Nat × Xl) :=
  if !align then .error (trap .misaligned k.sub (wd va))
  else
    match xlBytes s (who s s.cur) va 8 k with
    | .error t => .error t
    | .ok (pas, x) =>
      let place := match targetOf (offsetOf x.pa) with
        | .clBlock _ => false
        | .hbm => true
        | .sram _ => !hbmOnly && (!x.own || (bankModes s pas).all (· = 0))
        | .scratch _ => !hbmOnly
        | _ => !hbmOnly || !x.win
      if !place then .error (trap .accessFault k.sub (wd va))
      else
        match (if k = .write then wrCheck s s.cur va x pas else none) with
        | some t => .error t
        | none => .ok (pas, x)

/-- A sync-mode access (modes 1 to 5) of the executing hart: a load into `d`, or a store of `data` (R88, R273 to R275).
One that its hart waits for is a release, sent once the hart's earlier writes are acknowledged (R204, R206). The hart of one
in put mode goes on (R273, R274): the access is held back at its arrival until those writes are, and no later access of the hart
comes before its acquire: the model's reading (log 13). -/
def syncAccess (s : State) (va n d : Nat) (m : SyncMode) (data : Option Word) (rs : List Nat) (ops : List Word) (sw : Bool) : State :=
  let h := s.cur
  let k : AccKind := if data.isSome then .write else .read
  match wordCheck s va k true (n = 8 && va % 8 = 0) with
  | .error t => raise s t
  | .ok (pas, x) => consume s rs fun s p =>
    match (if data.isNone && pteOf s h && (m = .put || m = .probe) then firstPsn s va pas else none) with
    | some v => raise s (trap .poison 0 v)
    | none =>
      let waits := m = .wfull || m = .take || m = .fill
      if waits && writesPending s h then parkFor s .writes ops
      else
      let s := dropLine (tlbFill s (who s h) va) (coreOf h) x.pa
      let acq := if m = .probe then none else some (syncScope s x.pa)
      let a : Access := { uid := 0, hart := h, va := wd va, pas := pas, key := x.key, cache := false, op := .sync m data,
                          psn := p, dest := .wait d sw, st := .flying, acq := acq }
      match m, data with
      | .put, some v =>
        if !journalRoom s h then parkFor s (.journal 1) ops
        else
          let s := noteWrite s h pas
          let r := takeEntry s h false (va % 2 ^ 56)
          retire (send r.1 { a with dest := .journal (coreOf h) ((getSlot s h).wp / 512) r.2, op := .sync .put (some v) }).1 sw
      | .put, none =>
        let r := send s { a with dest := .result }
        retire (expect r.1 h d r.2 p none) sw
      | .probe, _ =>
        let r := send s { a with dest := .result }
        let dst := span (regPa s h d) 16
        retire (modSlot (dropOuts r.1 h dst) h fun y =>
          { y with outs := y.outs ++ [{ dest := dst.zip (span 0 16), val := none, psn := p, src := some r.2, seq := r.2 + 1 }] }) sw
      | _, _ => sendWait (if data.isSome then noteWrite s h pas else s) a []

/-- The access in flight that brings an outstanding result, when its target has performed it. -/
def arrived (s : State) (uid : Nat) : Bool :=
  s.flight.any fun a => a.uid = uid && (match a.st with | .done _ _ => true | _ => false)

/-- Has every access of this LDM to this one's chunk been performed? The words of a chunk are read before any of them
is written (R277). -/
def chunkRead (s : State) (uid : Nat) : Bool :=
  match s.flight.find? (·.uid == uid) with
  | none => true
  | some a => a.grp.isNone || s.flight.all fun b => b.grp ≠ a.grp || chunks b.pas ≠ chunks a.pas || arrived s b.uid ||
      (match b.st with | .refused _ => true | _ => false)

/-- RESULT_RETURN: the value of an outstanding result is written, and its access leaves (R16, R17). -/
def returnResult (s : State) (h i : Nat) : State :=
  match (getSlot s h).outs[i]? with
  | none => s
  | some o =>
    match o.val with
    | none => s
    | some v =>
      if !((o.src.map (chunkRead s)).getD true) then s
      else
      let s := match o.src with
        | some u => dropAcc s u
        | none => s
      let s := if o.dest.isEmpty then s else putBytes s 0 (o.dest.map fun (a, k) => (a, v.getD k 0)) o.psn
      settleH (modSlot (notePsn s h o.psn) h fun x => { x with outs := x.outs.eraseIdx i }) h

end Sys2Proof.Machine
end

