-- ==== Sys2Proof/Machine/Flags.lean ====
section
/-! DEFINITION. Conditions: the comparisons of branches and set instructions (R263, R265, R268) and the priority of
a poisoned comparand (R261). The part has no condition flags; the sticky POISONED bit is in `Mem.lean` and `Ops.lean`. -/

namespace Sys2Proof.Machine

/-- The answer of every meaning. -/
abbrev Out := Host.Outcome State Fault Refusal

/-- A truth value as a word. -/
def wb (b : Bool) : Word := if b then 1 else 0

/-- A register operand of the executing hart (R257). -/
def reg (s : State) (n : Fin 32) : Word := readReg s s.cur n.val

/-- A control instruction that reads a poisoned word raises POISON whatever PTE says; the sticky bit sets (R261). -/
def control (s : State) (rs : List (Fin 32)) (v : Word) (k : State → State) : State :=
  if rs.any fun r => opPsn s r.val then raise (setPoisoned s s.cur) (trap .poison 0 v) else k s

/-- A branch (R268): its own address plus four times the offset when the condition holds, else the next word. -/
def branch (i : Instr) (sw : Bool) (a b : Fin 32) (off : BitVec 15) (taken : Word → Word → Bool) (s : State) : State :=
  issue i .none 0 s fun s => control s [a, b] 0 fun s =>
    let pc := (getSlot s s.cur).pc
    if taken (reg s a) (reg s b) then retireTo s sw (pc + 4 * off.signExtend 64) else retire s sw

end Sys2Proof.Machine
end

