-- ==== Sys2Proof/Machine/Operands.lean ====
section
/-! DEFINITION. Operand forms: immediates with and without LIX (R254, R265, R267), register and immediate
arithmetic (R257, R258), the reads that an instruction makes for its own operation (R262, R271), the FMT payload
(R113, R114) and stream pointers (R284, R285). -/

namespace Sys2Proof.Machine

/-- The immediate of an I-format word, LD or ST: IMM15 sign-extended, or the 37-bit immediate under LIX (R254, R265). -/
def immOf (s : State) (imm : BitVec 15) : Word :=
  if pfxOf s s.cur && pfxLix s s.cur then
    (BitVec.ofNat 37 (payload s s.cur * 2 ^ 15 + imm.toNat)).signExtend 64
  else imm.signExtend 64

/-- A scalar result written by the end of the issue cycle (R258, R263). -/
def scalar (i : Instr) (sw : Bool) (d : Fin 32) (rs : List (Fin 32)) (v : Word) (s : State) : State :=
  issue i .none 0 s fun s => consume s (rs.map (·.val)) fun s p => retire (writeReg s s.cur d.val v p) sw

/-- A scalar result that is outstanding (R263, R367). -/
def scalarLate (i : Instr) (sw : Bool) (d : Fin 32) (rs : List (Fin 32)) (v : Word) (s : State) : State :=
  issue i .none 0 s fun s => consume s (rs.map (·.val)) fun s p => retire (addResult s s.cur d.val v p) sw

/-- An immediate operation (R265). -/
def scalarImm (i : Instr) (sw : Bool) (d a : Fin 32) (imm : BitVec 15) (f : Word → Word → Word) (s : State) : State :=
  issue i .imm 0 s fun s => consume s [a.val] fun s p =>
    retire (writeReg s s.cur d.val (f (reg s a) (immOf s imm)) p) sw

/-- A read that an instruction makes for its own operation and waits for: bytes and poison, a fault with the
address, or what must come first: an earlier store or job of the hart to the bytes, or a bank's mode change (R83, R175,
R198, R262). -/
inductive OwnRead where
  | ok (bs : List Byte) (psn : Bool)
  | fault (t : Trap)
  | later (n : Need)
  deriving DecidableEq, Repr

/-- The wait for the unfinished jobs of the hart that overlap these bytes, if any does (R175), and for its earlier accesses in
flight to their chunks, reads among them (R198). -/
def jobNeed (s : State) (h : Nat) (pas : List Nat) (write : Bool) : Option Need :=
  (pas.find? fun a => jobOverlap s h [a] write || chunkBusy s.flight h [a]).map fun a => .clear a 1 write

/-- What must come before a read of these bytes for a hart's own operation. -/
def readNeed (s : State) (h : Nat) (pas : List Nat) : Option Need :=
  (jobNeed s h pas false).or ((pendBank s pas).map .bank)

/-- The own read of `n` bytes at `va` (R262, R271, R338, R340). -/
def readOwn (s : State) (va n : Nat) : OwnRead :=
  let h := s.cur
  match xlBytes s (who s h) va n .read with
  | .error t => .fault t
  | .ok (pas, x) =>
    match (readNeed s h pas).or (if keyHeld s (pas.map fun p => (p, x.key)) then some .key else none) with
    | some n => .later n
    | none =>
      let bad := pas.any fun a => !answers s (moduleOf a) || (match targetOf (offsetOf a) with
        | .hbm | .scratch _ => false
        | .sram _ => !(bankModes s [a]).all (· = 0)
        | _ => true)
      if bad then .fault (trap .accessFault 1 (wd va))
      else
        match (if x.cache then cacheRead s h x.key pas else none) with
        | some (bs, ps, _) => .ok bs (ps.any id)
        | none => .ok (rdX s pas x) (anyPsn s pas)

/-! FMT (R113, R114, R296). -/

/-- The options in force for a governed instruction: ST, DT, NANMODE, FTZ, SAT. -/
structure Fmt where
  st  : Option ElemType
  dt  : Option ElemType
  nan : Bool
  ftz : Bool
  sat : Bool
  deriving DecidableEq, Repr

/-- The payload of a pending FMT, or no options with the hart's NANMODE (R113, R114). A payload that software has put into
the saved status word is read as it stands: NM 3 as the hart's NANMODE, its reserved bits as nothing: the
model's choice (log 90). -/
def fmtWord (w : Word) : Fmt :=
  if bit w 40 then
    let p := fld w 39 18
    { st := if flag p 21 then ElemType.ofCode (bits p 17 4) else none
      dt := if flag p 16 then ElemType.ofCode (bits p 12 4) else none
      nan := if bits p 10 2 = 1 then false else if bits p 10 2 = 2 then true else bit w 5
      ftz := flag p 9, sat := flag p 8 }
  else ⟨none, none, bit w 5, false, false⟩

/-- The options in force for the executing hart's instruction. -/
def fmtOf (s : State) : Fmt := fmtWord (getSlot s s.cur).hsw

end Sys2Proof.Machine
end

