-- ==== Sys2Proof/Machine/Float.lean ====
section
/-! DEFINITION. Number formats (R97 to R109): integers by element type, the three floating-point formats computed
exactly and rounded once, and the LG6 codes. -/

namespace Sys2Proof.Machine

/-! Element types (R97). -/

/-- Size in bytes. -/
def esize : ElemType → Nat
  | .i8 | .n8 | .lg6 => 1
  | .i16 | .n16 | .bf16 | .fp16 => 2
  | .i32 | .n32 | .fp32 => 4
  | .i64 | .n64 => 8

/-- Signed integer types. -/
def eSigned : ElemType → Bool
  | .i8 | .i16 | .i32 | .i64 => true
  | _ => false

/-- Floating-point types. -/
def eFloat : ElemType → Bool
  | .bf16 | .fp16 | .fp32 => true
  | _ => false

/-- Integer types, codes 0 to 7. -/
def eInt (t : ElemType) : Bool := !eFloat t && t ≠ .lg6

/-- The integer that a raw element stands for (R97, R98). -/
def eVal (t : ElemType) (raw : Nat) : Int := if eSigned t then sint (8 * esize t) raw else (raw : Int)

/-- The least and greatest values of an integer type (R97). -/
def eMin (t : ElemType) : Int := if eSigned t then -(2 ^ (8 * esize t - 1)) else 0
def eMax (t : ElemType) : Int := if eSigned t then 2 ^ (8 * esize t - 1) - 1 else 2 ^ (8 * esize t) - 1

/-- An exact integer narrowed to a type: wrapped, or clamped under SAT (R98). -/
def eFit (t : ElemType) (sat : Bool) (v : Int) : Nat :=
  let v := if sat then max (eMin t) (min (eMax t) v) else v
  (v % 2 ^ (8 * esize t)).toNat

/-! Floating point (R99 to R102). -/

/-- A floating-point value: NaN, an infinity, or a signed `m × 2^e`. -/
inductive Num where
  | nan
  | inf (neg : Bool)
  | fin (neg : Bool) (m : Nat) (e : Int)
  deriving DecidableEq, Repr

/-- Exponent bits and fraction bits of a format (R99). -/
def fpExp : ElemType → Nat
  | .fp16 => 5
  | _ => 8
def fpFrac : ElemType → Nat
  | .fp16 => 10
  | .bf16 => 7
  | _ => 23

/-- The exponent of the last bit of a subnormal number. -/
def fpLow (t : ElemType) : Int := 2 - (2 ^ (fpExp t - 1) : Int) - fpFrac t

/-- The canonical quiet NaN (R100). -/
def fpNan (t : ElemType) : Nat := (2 ^ fpExp t - 1) * 2 ^ fpFrac t + 2 ^ (fpFrac t - 1)

/-- The value of a pattern; under `ftz` a subnormal reads as zero of its sign (R101). -/
def fpDec (t : ElemType) (ftz : Bool) (raw : Nat) : Num :=
  let neg := flag raw (fpExp t + fpFrac t)
  let ex := bits raw (fpFrac t) (fpExp t)
  let fr := bits raw 0 (fpFrac t)
  if ex = 2 ^ fpExp t - 1 then (if fr = 0 then .inf neg else .nan)
  else if ex = 0 then .fin neg (if ftz then 0 else fr) (fpLow t)
  else .fin neg (2 ^ fpFrac t + fr) (fpLow t + ex - 1)

/-- `m / 2^d` rounded to nearest, ties to even (R101). -/
def rne (m d : Nat) : Nat :=
  let n := m / 2 ^ d
  let r := m % 2 ^ d
  if 2 * r > 2 ^ d || (2 * r = 2 ^ d && n % 2 = 1) then n + 1 else n

/-- ROUNDING of an exact value to a format: to nearest even, overflow to an infinity or under `sat` to the largest
finite number, and under `ftz` a subnormal result to zero (R100, R101). -/
def fpRnd (t : ElemType) (ftz sat : Bool) : Num → Nat
  | .nan => fpNan t
  | .inf neg => b2n neg * 2 ^ (fpExp t + fpFrac t) + (2 ^ fpExp t - 1) * 2 ^ fpFrac t
  | .fin neg m e =>
    let sgn := b2n neg * 2 ^ (fpExp t + fpFrac t)
    if m = 0 then sgn
    else
      let q := max (Nat.log2 m + e - fpFrac t) (fpLow t)
      let n := if q ≤ e then m * 2 ^ (e - q).toNat else rne m (q - e).toNat
      let r := (q - fpLow t).toNat * 2 ^ fpFrac t + n
      let top := (2 ^ fpExp t - 1) * 2 ^ fpFrac t
      if top ≤ r then sgn + (if sat then top - 1 else top)
      else if ftz && r < 2 ^ fpFrac t then sgn
      else sgn + r

/-- The sign of a value. -/
def Num.neg : Num → Bool
  | .nan => false
  | .inf n => n
  | .fin n _ _ => n

/-- −x. -/
def numNeg : Num → Num
  | .nan => .nan
  | .inf n => .inf !n
  | .fin n m e => .fin (!n) m e

/-- A signed magnitude at an exponent as an integer of a lower exponent. -/
def alignTo (neg : Bool) (m : Nat) (e lo : Int) : Int :=
  let v : Int := (m * 2 ^ (e - lo).toNat : Nat)
  if neg then -v else v

/-- The exact sum, with the sign of an exact zero of R101. -/
def numAdd : Num → Num → Num
  | .nan, _ => .nan
  | _, .nan => .nan
  | .inf a, .inf b => if a = b then .inf a else .nan
  | .inf a, _ => .inf a
  | _, .inf b => .inf b
  | .fin a m e, .fin b n f =>
    let lo := min e f
    let v := alignTo a m e lo + alignTo b n f lo
    if v = 0 then .fin (a && b && m = 0 && n = 0) 0 lo else .fin (decide (v < 0)) v.natAbs lo

/-- The exact product. -/
def numMul : Num → Num → Num
  | .nan, _ => .nan
  | _, .nan => .nan
  | .inf a, .inf b => .inf (a ^^ b)
  | .inf a, .fin b n _ => if n = 0 then .nan else .inf (a ^^ b)
  | .fin a m _, .inf b => if m = 0 then .nan else .inf (a ^^ b)
  | .fin a m e, .fin b n f => .fin (a ^^ b) (m * n) (e + f)

/-- The quotient, with enough bits and a sticky last bit that it rounds as the exact one. -/
def numDiv : Num → Num → Num
  | .nan, _ => .nan
  | _, .nan => .nan
  | .inf _, .inf _ => .nan
  | .inf a, .fin b _ _ => .inf (a ^^ b)
  | .fin a _ _, .inf b => .fin (a ^^ b) 0 0
  | .fin a m e, .fin b n f =>
    if n = 0 then (if m = 0 then .nan else .inf (a ^^ b))
    else
      let q := m * 2 ^ 64 / n
      .fin (a ^^ b) (2 * q + b2n (m * 2 ^ 64 % n ≠ 0)) (e - f - 65)

/-- The integer square root, bit by bit from `k` down. -/
def isqrt (n : Nat) : Nat → Nat → Nat
  | 0, r => r
  | k + 1, r => isqrt n k (if (r + 2 ^ k) ^ 2 ≤ n then r + 2 ^ k else r)

/-- The square root, with a sticky last bit (R298). -/
def numSqrt : Num → Num
  | .nan => .nan
  | .inf n => if n then .nan else .inf false
  | .fin n m e =>
    if m = 0 then .fin n 0 e
    else if n then .nan
    else
      let p := (e % 2).toNat
      let v := m * 2 ^ (64 + p)
      let r := isqrt v 48 0
      .fin false (2 * r + b2n (r * r ≠ v)) ((e - p) / 2 - 33)

/-- a < b for ordered values; −0 is below +0 (R298) when `zeros` is set, equal otherwise (R300). -/
def numLt (zeros : Bool) : Num → Num → Bool
  | .nan, _ => false
  | _, .nan => false
  | .inf a, .inf b => a && !b
  | .inf a, _ => a
  | _, .inf b => !b
  | .fin a m e, .fin b n f =>
    let lo := min e f
    let x := alignTo a m e lo
    let y := alignTo b n f lo
    x < y || (zeros && m = 0 && n = 0 && a && !b)

/-- Equality by value (R300). -/
def numEq (a b : Num) : Bool := a ≠ .nan && b ≠ .nan && !numLt false a b && !numLt false b a

/-- A float as an integer, to nearest even (R102): NaN is 0, an infinity is beyond every type. -/
def numInt : Num → Int
  | .nan => 0
  | .inf n => if n then -(2 ^ 80) else 2 ^ 80
  | .fin n m e =>
    let v : Int := if 0 ≤ e then (m * 2 ^ e.toNat : Nat) else (rne m (-e).toNat : Nat)
    if n then -v else v

/-- An integer as an exact value. -/
def intNum (v : Int) : Num := .fin (decide (v < 0)) v.natAbs 0

/-! LG6 (R104 to R109). -/

/-- The constants T[F] of R105 as 24-bit significands: T[F] = lgT F × 2^−23. -/
def lgT : Nat → Nat
  | 0 => 0x800000
  | 1 => 0x9837F0
  | 2 => 0xB504F3
  | _ => 0xD744FD

/-- The log magnitude of a code (R104). -/
def lgM (c : Nat) : Nat := c % 32

/-- The value of a code before scaling (R104 to R106). -/
def lgVal (nan : Bool) (c : Nat) : Num :=
  let neg := flag c 5
  let m := lgM c
  if nan && m = 31 then (if neg then .nan else .inf false)
  else if m = 0 then .fin neg 0 0
  else .fin neg (lgT (m % 4)) (-23 + (m / 4 : Nat) - 4)

/-- The product of two codes (R107), exact. -/
def lgMul (nan : Bool) (a b : Nat) : Num :=
  let neg := flag a 5 ^^ flag b 5
  let va := lgVal nan a
  let vb := lgVal nan b
  if va = .nan || vb = .nan then .nan
  else if nan && (lgM a = 31 || lgM b = 31) then
    (if lgM a = 0 || lgM b = 0 then .nan else .inf neg)
  else if lgM a = 0 || lgM b = 0 then .fin neg 0 0
  else
    let e : Int := (lgM a + lgM b : Nat) - 32
    .fin neg (lgT (e % 4).toNat) (-23 + e / 4)

/-- A finite magnitude of a code in units of 2^−27 (R105). -/
def lgMag (m : Nat) : Nat := if m = 0 then 0 else lgT (m % 4) * 2 ^ (m / 4)

/-- The code magnitude nearest to `x × 2^e` up to `top`, ties to the even one (R109). -/
def lgNear (x : Nat) (e : Int) (top : Nat) : Nat :=
  let le := fun (m : Nat) =>
    -- |x| against the midpoint of m and m + 1, both in units of 2^(min (e, −28))
    let lo := min e (-28)
    let a : Nat := x * 2 ^ (e - lo).toNat
    let b : Nat := (lgMag m + lgMag (m + 1)) * 2 ^ (-28 - lo).toNat
    a < b || (a = b && m % 2 = 0)
  ((span 0 top).find? le).getD top

/-- Packing (R109, R118): the code of `v ÷ s`. -/
def lgPack (nan ftz : Bool) (v sc : Num) : Nat :=
  match fpDec .fp32 ftz (fpRnd .fp32 false false (numDiv v sc)) with
  | .nan => if nan then 0x3F else 0
  | .inf neg => if neg then 0x3F else 0x1F
  | .fin neg m e =>
    let c := lgNear m e (if nan then 30 else 31)
    if m = 0 || c = 0 then 0 else b2n neg * 32 + c

/-- Unpacking to fp32 (R108): one rounded multiplication by the scale. -/
def lgUnpack (nan sat : Bool) (c : Nat) (sc : Num) : Nat := fpRnd .fp32 false sat (numMul (lgVal nan c) sc)

/-! Summation (R103). -/

/-- One level of the pairwise tree. -/
def treeLevel {α : Type} (f : α → α → α) : List α → List α
  | a :: b :: t => f a b :: treeLevel f t
  | l => l

/-- The pairwise tree over a list that is not empty, in at most `k` levels. -/
def tree {α : Type} (d : α) (f : α → α → α) : Nat → List α → α
  | 0, l => l.headD d
  | k + 1, l =>
    match l with
    | [] => d
    | [a] => a
    | l => tree d f k (treeLevel f l)

end Sys2Proof.Machine
end

