-- ==== Sys2Proof/Machine/Link.lean ====
section
/-! DEFINITION. The links of the Viaduct fabric: the way of a packet (R420 to R422), strands, flits and their protection (R424 to
R427). -/

namespace Sys2Proof.Machine

/-- A link direction and a strand of it. -/
def getLink (s : State) (d : Nat) : Link := tget {} s.fab.links d
def getStrand (s : State) (d st : Nat) : Strand := tget {} (getLink s d).strands st

/-- Change the fabric's state, a link's, a strand's. -/
def modFab (s : State) (f : Fabric → Fabric) : State := { s with fab := f s.fab }
def modLink (s : State) (d : Nat) (f : Link → Link) : State :=
  modFab s fun x => { x with links := tmod {} d f x.links }
def modStrand (s : State) (d st : Nat) (f : Strand → Strand) : State :=
  modLink s d fun l => { l with strands := tmod {} st f l.strands }

/-- Is there a neighbour in direction `d` (R421)? −B is dark at B = 0, +B at B = 3. -/
def lit (s : State) (d : Nat) : Bool :=
  decide (d < 8) && !(d = 2 && bits s.module 1 2 = 3) && !(d = 3 && bits s.module 1 2 = 0)

/-- LINK_TRAINING (R427): a direction is trained and its mode chosen. -/
def execLinkTraining (dir : Nat) (umpel : Bool) (s : State) : Out :=
  .next (if lit s dir then modLink s dir fun _ => { trained := true, umpel := umpel, strands := [] } else s)

/-- Is SEQ `a` after SEQ `b`, modulo its wrap (R424)? -/
def seqAfter (a b : Nat) : Bool := decide ((a + 2 ^ 32 - b % 2 ^ 32 - 1) % 2 ^ 32 < 2 ^ 31)

/-- The wavelengths that a strand has in use on its receive way, and on its transmit way (R426). -/
def width (x : Strand) : Nat := 8 - x.retired.length - x.retrain.length - x.joining.length
def sendWidth (x : Strand) : Nat := 8 - (x.away.filter fun e => !seqAfter e.2 x.sent).length

/-- Is a strand in use on its receive way, and on its transmit way (R426)? -/
def strandOn (s : State) (d st : Nat) : Bool :=
  lit s d && (getLink s d).trained && decide (st < 112) && decide (4 ≤ width (getStrand s d st))
def strandSends (s : State) (d st : Nat) : Bool :=
  lit s d && (getLink s d).trained && decide (st < 112) && decide (4 ≤ sendWidth (getStrand s d st))

/-! Sending (R424, R425). -/

/-- One bit of the CRC-32 of R424. -/
def crcBit (c : Nat) (b : Bool) : Nat :=
  let d := c * 2 % 2 ^ 32
  if c.testBit 31 != b then d ^^^ 0x04C11DB7 else d

/-- The CRC of a flit under a SEQ (R424): bits 255..32, the most significant first. -/
def flitCrc (seq : Nat) (f : BitVec 256) : Nat :=
  (span 0 224).foldl (fun c i => crcBit c (f.getLsbD (255 - i))) (seq % 2 ^ 32 ^^^ 0xFFFFFFFF)

/-- Does a flit carry the CRC of a SEQ? -/
def flitGood (seq : Nat) (f : BitVec 256) : Bool := f.toNat % 2 ^ 32 = flitCrc seq f

/-- The flit of a TYPE and payload at a SEQ; on an Umpel link the payload begins with the number transmitted (R424, R427). -/
def makeFlit (umpel : Bool) (seq typ payload : Nat) : BitVec 256 :=
  let p := if umpel then seq % 4096 * 2 ^ 204 + payload % 2 ^ 204 else payload % 2 ^ 216
  let f := BitVec.ofNat 256 (typ * 2 ^ 248 + p * 2 ^ 32)
  f + BitVec.ofNat 256 (flitCrc seq f)

/-- The wavelengths that the receiver has named a SEQ for, once the strand has come to it (R426). -/
def rejoin (x : Strand) : Strand :=
  let here := (x.home.filter fun e => !seqAfter e.2 x.sent).map (·.1)
  { x with home := x.home.filter fun e => !here.contains e.1, away := x.away.filter fun e => !here.contains e.1 }

/-- Send what waits on a strand while fewer than 512 flits are unacknowledged (R425). -/
def pump (umpel : Bool) : Nat → Strand → Strand
  | 0, x => x
  | n + 1, x =>
    match x.queue with
    | [] => x
    | (t, p) :: rest =>
      if 512 ≤ x.held.length then x
      else pump umpel n (rejoin { x with
        queue := rest, held := x.held ++ [(x.sent, makeFlit umpel x.sent t p)], sent := (x.sent + 1) % 2 ^ 32 })

/-- Put flits on a strand. -/
def sendFlits (s : State) (d st : Nat) (l : List (Nat × Nat)) : State :=
  modStrand s d st fun x => pump (getLink s d).umpel (x.queue.length + l.length) { x with queue := x.queue ++ l }

/-- Send a control flit that says a thing: 0 what is acknowledged, 1 the last good SEQ, 2 and 3 the SEQ at which a wavelength leaves
or rejoins, 4 a bitmap (R425 to R427). The layout of its payload is not in the spec (log 5). -/
def sendControl (s : State) (d st kind val : Nat) : State := sendFlits s d st [(3, Config.controlPayload kind val)]

/-- The flits of a packet that carries `n` bytes: a head flit and the bodies that hold them, five for 128 bytes (R424, R427). -/
def packetFlits (umpel : Bool) (n : Nat) : Nat :=
  let room := if umpel then 204 else 216
  1 + (8 * n + room - 1) / room

/-- Free values for the payloads of `n` flits, which the spec does not give (log 5). -/
def freePayloads (s : State) (n : Nat) : List Nat × State :=
  let word := fun (k : Nat) => (Config.freeValue (s.sched.fresh + k)).toNat
  ((span 0 n).map fun i => (span (4 * i) 4).foldl (fun v k => v * 2 ^ 64 + word k) 0,
    { s with sched := { s.sched with fresh := s.sched.fresh + 4 * n } })

/-- The flits that wait or are unacknowledged on a strand, and on a direction (R422). -/
def strandLoad (x : Strand) : Nat := x.queue.length + x.held.length
def linkLoad (s : State) (d : Nat) : Nat := ((getLink s d).strands.map fun e => strandLoad e.2).sum

/-- The coordinates of a module (R420): A, B, C, D. -/
def coordOf (m : Nat) : Nat × Nat × Nat × Nat := (bits m 0 1, bits m 1 2, bits m 3 4, bits m 7 4)

/-- The directions of a torus dimension that shorten the way (R421, R422): `plus` up, `plus + 1` down. -/
def torusWays (size plus a b : Nat) : List Nat :=
  let up := (b + size - a) % size
  if up = 0 then [] else if 2 * up < size then [plus] else if 2 * up = size then [plus, plus + 1] else [plus + 1]

/-- The productive directions from this module to another (R421, R422): to one of the same chassis in A and B, else in C and D. -/
def productive (s : State) (m : Nat) : List Nat :=
  let (a, b, c, d) := coordOf s.module
  let (a', b', c', d') := coordOf m
  let size := fun (f : Nat → Nat) => 1 + s.populated.foldl (fun n p => max n (f p)) 0
  let inChassis := (if a ≠ a' then [0, 1] else []) ++ (if b < b' then [2] else if b' < b then [3] else [])
  let across := torusWays (size fun p => bits p 3 4) 4 c c' ++ torusWays (size fun p => bits p 7 4) 6 d d'
  if c = c' && d = d' then inChassis else across

/-- The direction that a packet to a module leaves by (R422): the productive one whose transmit queue is least occupied; where all of
them are marked failed, to the A neighbour's plane, or a B neighbour's. -/
def wayTo (s : State) (m : Nat) : Option Nat :=
  let fit := fun (l : List Nat) => l.filter fun d => lit s d && (getLink s d).trained && !s.fab.routes.contains (s.module, d)
  let least := fun (l : List Nat) => l.foldl (fun b d => match b with
    | none => some d
    | some e => if linkLoad s d < linkLoad s e then some d else b) none
  (least (fit (productive s m))).or ((least (fit [0, 1])).or (least (fit [2, 3])))

/-- Send a packet of `n` bytes towards a module: on the least loaded strand of the direction, on which it stays (R422, R424). Where no
link is trained nothing is seen of it. -/
def sendPacket (s : State) (m n : Nat) : State :=
  match wayTo s m with
  | none => s
  | some d =>
    let sts := (span 0 112).filter (strandSends s d)
    match sts.foldl (fun (b : Option Nat) st => match b with
      | none => some st
      | some e => if strandLoad (getStrand s d st) < strandLoad (getStrand s d e) then some st else b) none with
    | none => s
    | some st =>
      let k := packetFlits (getLink s d).umpel n
      let r := freePayloads s k
      sendFlits r.2 d st ((r.1.zip (span 0 k)).map fun p => (if p.2 = 0 then 1 else 2, p.1))

/-- An access of a hart to another module leaves as a packet with the bytes that it carries (R424). -/
def packetOut (s : State) (a : Access) : State :=
  let m := moduleOf (a.pas.headD 0)
  if m = s.module then s
  else sendPacket s m (match a.op with
    | .store d => d.length
    | .atomic _ _ _ | .send _ _ _ _ _ _ => 8
    | .sync _ (some _) => 8
    | _ => 0)

/-! Receiving (R425 to R427). -/

/-- The wavelengths in which two copies of a flit differ (R426). -/
def differing (a b : BitVec 256) : List Nat :=
  (span 0 8).filter fun w => bits a.toNat (32 * w) 32 ≠ bits b.toNat (32 * w) 32

/-- How many flits ahead the receiver names the SEQ at which a wavelength leaves or rejoins: the model's choice, the distance of the
spec's example (R426; log 113). -/
def handBackAhead : Nat := 40

/-- A charge of a wavelength (R426): sixteen within 2^30 flit times, at 5 flits in 9 cycles, have it handed back at a flit boundary
that a control flit names. -/
def charge (s : State) (d st w : Nat) : State :=
  let x := getStrand s d st
  if x.retired.contains w || (x.leaving ++ x.retrain ++ x.joining).any (·.1 == w) then s
  else
    let cs := s.cycle :: (tget [] x.charges w).filter fun c => s.cycle ≤ c + 2 ^ 30 * 9 / 5
    if 16 ≤ cs.length then
      let q := (x.expect + handBackAhead) % 2 ^ 32
      sendControl (modStrand s d st fun x => { x with charges := tdel w x.charges, leaving := x.leaving ++ [(w, q)] }) d st 2 (w + 8 * q)
    else modStrand s d st fun x => { x with charges := tput w cs x.charges }

/-- The wavelengths whose SEQ has come leave for retraining, or rejoin (R426). -/
def handBack (now : Nat) (x : Strand) : Strand :=
  let out := (x.leaving.filter fun e => !seqAfter e.2 x.expect).map (·.1)
  { x with
    leaving := x.leaving.filter fun e => !out.contains e.1, retrain := x.retrain ++ out.map fun w => (w, now)
    joining := x.joining.filter fun e => seqAfter e.2 x.expect }

/-- What a control flit of the neighbour says of the wavelengths of the transmit way (R426); its acknowledgements and requests have
steps of their own. -/
def hearControl (x : Strand) (f : BitVec 256) : Strand :=
  let p := bits f.toNat 32 216
  let v := Config.controlVal p
  let e := (v % 8, v / 8 % 2 ^ 32)
  if bits f.toNat 248 8 ≠ 3 then x
  else if Config.controlKind p = 2 then { x with away := x.away ++ [e] }
  else if Config.controlKind p = 3 then { x with home := x.home ++ [e] }
  else x

/-- The bitmap of the flits received since the last one acknowledged (R427), and the SEQ that it begins at next. -/
def bitmap (x : Strand) : Nat × Nat :=
  let have' := fun (q : Nat) => seqAfter x.expect q || x.window.any (·.1 == q)
  ((span 0 64).foldl (fun m i => if have' ((x.base + i) % 2 ^ 32) then m + 2 ^ i else m) 0, x.expect)

/-- Acknowledge what has been received: cumulatively, or by a bitmap on an Umpel link (R425, R427). -/
def acknowledge (s : State) (d st : Nat) : State :=
  let x := getStrand s d st
  if (getLink s d).umpel then
    let b := bitmap x
    modStrand (sendControl s d st 4 b.1) d st fun x => { x with base := b.2 }
  else sendControl s d st 0 ((x.expect + 2 ^ 32 - 1) % 2 ^ 32)

/-- A good flit takes its place (R425, R426): it is compared with the failed copies of its own SEQ, and delivered; every 64th has what
was received acknowledged. -/
def takeFlit (s : State) (d st : Nat) (f : BitVec 256) : State :=
  let x := getStrand s d st
  let copies := (x.failed.filter (·.1 = x.expect)).map (·.2)
  let s := modStrand s d st fun x => handBack s.cycle { hearControl x f with
    expect := (x.expect + 1) % 2 ^ 32, asked := false, failed := x.failed.filter (·.1 ≠ x.expect)
    got := if bits f.toNat 248 8 = 1 || bits f.toNat 248 8 = 2 then x.got ++ [f] else x.got }
  let s := (copies.flatMap fun g => differing g f).foldl (fun s w => charge s d st w) s
  if (getStrand s d st).expect % 64 = 0 then acknowledge s d st else s

/-- Does a flit carry the CRC of one of the SEQs after the one expected that the sender can have sent (R425)? -/
def laterFlit (x : Strand) (f : BitVec 256) : Bool := (span 1 511).any fun i => flitGood ((x.expect + i) % 2 ^ 32) f

/-- A flit fails (R425): the failure is counted and a control flit names the last good SEQ. The copy is kept unless it is a good later
flit, which only shows that one before it was lost. Until the replay comes the flits after it are discarded; one of them that is no
later flit is a copy that fails again (log 113). -/
def failFlit (s : State) (d st : Nat) (f : BitVec 256) : State :=
  let x := getStrand s d st
  let later := laterFlit x f
  if x.asked && later then s
  else
    let s := modStrand s d st fun x => { x with asked := true, failed := if later then x.failed else x.failed ++ [(x.expect, f)] }
    sendControl (bumpTr s (0x300 + 8 * d)) d st 1 ((x.expect + 2 ^ 32 - 1) % 2 ^ 32)

/-- Deliver what an Umpel link's buffer holds next in sequence (R427). -/
def drainWindow : Nat → State → Nat → Nat → State
  | 0, s, _, _ => s
  | n + 1, s, d, st =>
    let x := getStrand s d st
    match x.window.find? fun e => e.1 = x.expect with
    | none => s
    | some (q, f) =>
      drainWindow n (takeFlit (modStrand s d st fun x => { x with window := x.window.filter fun e => e.1 ≠ q }) d st f) d st

/-- A flit of an Umpel link (R427): up to 64 out of order are held until those before them come. One that fails is counted, and kept
for its resent copy, under the number that it carries; the bitmap shows what is missing. -/
def umpelFlit (s : State) (d st : Nat) (f : BitVec 256) : State :=
  let x := getStrand s d st
  let off := (bits f.toNat 236 12 + 4096 - x.expect % 4096) % 4096
  let seq := (x.expect + off) % 2 ^ 32
  if !flitGood seq f then
    acknowledge (bumpTr (modStrand s d st fun x => { x with failed := x.failed ++ [(seq, f)] }) (0x300 + 8 * d)) d st
  else if 64 < off || x.window.any (·.1 == seq) then s
  else
    let gap := decide (off ≠ 0) && x.window.isEmpty
    let s := drainWindow 65 (modStrand s d st fun x => { x with window := x.window ++ [(seq, f)] }) d st
    if gap then acknowledge s d st else s

/-- FLIT_RECEIVE (R425, R427). -/
def execFlitReceive (dir st : Nat) (flit : BitVec 256) (s : State) : Out :=
  .next (if !strandOn s dir st then s
  else if (getLink s dir).umpel then umpelFlit s dir st flit
  else if flitGood (getStrand s dir st).expect flit then takeFlit s dir st flit
  else failFlit s dir st flit)

/-! What the neighbour acknowledges and asks for (R425, R427). -/

/-- What waits on a strand goes on once there is room (R425). -/
def sendOn (s : State) (d st : Nat) : State := sendFlits s d st []

/-- The flits of a strand up to a SEQ are acknowledged (R425). -/
def ackTo (s : State) (d st upto : Nat) : State :=
  modStrand s d st fun x => { x with held := x.held.filter fun e => seqAfter e.1 upto }

/-- Count flits sent again (R425, R427). -/
def countReplay (s : State) (d n : Nat) : State :=
  modTr s fun t => { t with regs := tmod 0 (0x340 + 8 * d) (· + wd n) t.regs }

/-- REPLAY_REQUEST (R425): every flit after the last good one is sent again. -/
def execReplayRequest (dir st good : Nat) (s : State) : Out :=
  .next (if !strandSends s dir st || (getLink s dir).umpel then s
  else
    let s := ackTo s dir st good
    sendOn (countReplay s dir (getStrand s dir st).held.length) dir st)

/-- FLIT_ACKNOWLEDGE (R425). -/
def execFlitAcknowledge (dir st upto : Nat) (s : State) : Out :=
  .next (if !strandSends s dir st || (getLink s dir).umpel then s else sendOn (ackTo s dir st upto) dir st)

/-- BITMAP_ACKNOWLEDGE (R427): bit `i` says that the flit `i` after the oldest unacknowledged one has been received;
those before the last received one that are missing are sent again. -/
def execBitmapAcknowledge (dir st : Nat) (map : BitVec 64) (s : State) : Out :=
  .next (if !strandSends s dir st || !(getLink s dir).umpel then s
  else
    match (getStrand s dir st).held with
    | [] => s
    | (q, _) :: _ =>
      let at' := fun (e : Nat × BitVec 256) => (e.1 + 2 ^ 32 - q) % 2 ^ 32
      let top := (span 0 64).foldl (fun m i => if map.getLsbD i then i else m) 0
      let s := modStrand s dir st fun x => { x with held := x.held.filter fun e => 64 ≤ at' e || !map.getLsbD (at' e) }
      sendOn (countReplay s dir ((getStrand s dir st).held.filter fun e => at' e < top).length) dir st)

/-! Wavelengths and fibres (R426). -/

/-- The retired wavelengths of a fibre of the receive way, whose strands are sixteen (R424, R426). -/
def fibreRetired (s : State) (d fib : Nat) : Nat :=
  ((span (16 * fib) 16).map fun st => (getStrand s d st).retired.length).sum

/-- A fibre with 16 retired wavelengths is remapped to a spare of its way and direction while there is one (R426); the wavelengths
that are out come back with it at the strand's next flit boundary. -/
def remapFibre (s : State) (d fib : Nat) : State :=
  match (span 0 6).find? fun k => !s.fab.spares.contains k && Config.spareServes k = 2 * d with
  | none => s
  | some k =>
    if fibreRetired s d fib < 16 then s
    else
      let s := modFab s fun x => { x with spares := x.spares ++ [k] }
      let s := setTrReg s 0x390 (wd s.fab.spares.length)
      (span (16 * fib) 16).foldl (fun s st => modStrand s d st fun x =>
        { x with retired := [], charges := [], trained := [], leaving := [], retrain := [], joining := [] }) s

/-- RETRAIN_COMPLETE (R426): after 200 µs a wavelength rejoins, at a SEQ that a control flit names; at its third retraining within an
hour it is retired. -/
def execRetrainComplete (dir st wl : Nat) (s : State) : Out :=
  .next (match (getStrand s dir st).retrain.find? (·.1 == wl) with
  | none => s
  | some (_, since) =>
    if s.cycle < since + 200 * Config.cyclesPerUs then s
    else
      let hist := s.cycle :: (tget [] (getStrand s dir st).trained wl).filter fun c => s.cycle ≤ c + 3600000000 * Config.cyclesPerUs
      let s := bumpTr (modStrand s dir st fun x => { x with
        retrain := x.retrain.filter fun e => e.1 ≠ wl, trained := tput wl hist x.trained }) 0x380
      if hist.length < 3 then
        let q := ((getStrand s dir st).expect + handBackAhead) % 2 ^ 32
        sendControl (modStrand s dir st fun x => { x with joining := x.joining ++ [(wl, q)] }) dir st 3 (wl + 8 * q)
      else
        let s := modStrand s dir st fun x => { x with retired := x.retired ++ [wl] }
        remapFibre (setTrReg s 0x388 (wd (min 65535 ((trReg s 0x388).toNat + 1)))) dir (st / 16))

end Sys2Proof.Machine
end

