-- ==== Sys2Proof/Machine/Message.lean ====
section
/-! DEFINITION. Messages, data queues, barriers, votes and deadlock probes (R182 to R196, R233, R345 to R349), and the
arrival of accesses at their targets and of their answers at the hart (R90, R91, R201, R223, R224, R262). -/

namespace Sys2Proof.Machine

/-! Message slots (R182 to R185, R232). -/

/-- The core that holds a frame that may have moved, more than once (R232). -/
def frameHop : Nat → State → Nat → Nat → Nat
  | 0, _, core, _ => core
  | n + 1, s, core, frame =>
    match tfind (getCore s core).fwd frame with
    | some (c, _) => frameHop n s c frame
    | none => core
def frameCore (s : State) (core frame : Nat) : Nat := frameHop 64 s core frame

/-- The address of word `n` of a frame. -/
def framePa (s : State) (core frame n : Nat) : Nat := scratchPa s core (frame * 512 + 8 * n)

/-- Write an arrival into its slot in one step (R117, R182). -/
def putMsg (s : State) (core frame n : Nat) (v : Word) (nan : Bool) (sender : Option Nat) (psn : Bool) : State :=
  let w := rd64 s (framePa s core frame 56)
  let w := setBit (setBit w n true) (16 + n) nan
  let w := match sender with
    | some p => setBit (setFld w 63 40 p) 39 true
    | none => w
  put64 (put64 s (framePa s core frame (40 + n)) v psn) (framePa s core frame 56) w false

/-- An arrival at a frame (R184): delivered, held, or refused by a full holding buffer. -/
def arriveMsg (s : State) (core frame n : Nat) (v : Word) (nan : Bool) (sender : Option Nat) (psn : Bool) : Option State :=
  if !bit (rd64 s (framePa s core frame 56)) n then some (putMsg s core frame n v nan sender psn)
  else if (getCore s core).held.length < 32 then
    some (modCore s core fun c => { c with held := c.held ++ [⟨frame, n, v, nan, sender, psn⟩] })
  else none

/-- A RECV that empties a slot delivers the oldest held message for it (R184). -/
def refillSlot (s : State) (core frame n : Nat) : State :=
  match (getCore s core).held.find? fun m => m.frame = frame && m.slot = n with
  | none => s
  | some m => putMsg (modCore s core fun c => { c with held := c.held.erase m }) core frame n m.v m.nan m.sender m.psn

/-- SEND (R183, R345). -/
def execSend (sw : Bool) (a b : Fin 32) (s : State) : Out :=
  .next (issue (.send sw a b) .none 0 s fun s =>
    let h := s.cur
    let ops := operands s [a.val, b.val]
    let w := ops.getD 0 0
    let home := fld w 63 53 = s.module && fld w 47 37 = coreOf h
    if scouting s h && !home then raise s (trap .txFootprint 0 w)
    else if unchecked s h && !home then raise s (trap .txCheckLate 0 w)
    else if fld w 52 48 ≠ 0 || fld w 36 34 ≠ 0 || fld w 24 4 ≠ 0 || 383 < fld w 33 25 then raise s (trap .accessFault 2 w)
    else consume s [a.val, b.val] fun s p =>
      if !journalRoom s h then parkFor s (.journal 1) ops
      else
        let addr := fld w 63 53 * 2 ^ 45 + fld w 47 37 * 2 ^ 34 + fld w 33 25 * 2 ^ 25 + fld w 3 0
        let r := takeEntry s h true addr
        let pa := fld w 63 53 * 2 ^ 41 + scratch0 + fld w 47 37 * 0x40000 + fld w 33 25 * 512 + 8 * (40 + fld w 3 0)
        let op := AccOp.send (fld w 47 37) (fld w 33 25) (fld w 3 0) (ops.getD 1 0) (nanOf s h) (podHart s h)
        retire (send r.1 { uid := 0, hart := h, va := w, pas := span pa 8, key := 0, cache := false, op := op, psn := p,
                           dest := .journal (coreOf h) ((getSlot s h).wp / 512) r.2, st := .flying }).1 sw)

/-- The trap value of FORMAT_MISMATCH (R117). -/
def mismatch (rmode smode : Bool) (n : Nat) : Word := wd (b2n rmode * 512 + b2n smode * 256 + n)

/-- RECV (R117, R185, R346). -/
def execRecv (sw : Bool) (a : Fin 32) (slot : Fin 16) (s : State) : Out :=
  .next (issue (.recv sw a slot) .none 0 s fun s =>
    let h := s.cur
    let w := rd64 s (regPa s h 56)
    if !bit w slot.val then waitFor s (.message slot.val) [] none
    else if bit w (16 + slot.val) ≠ nanOf s h then
      raise s (trap .formatMismatch 0 (mismatch (nanOf s h) (bit w (16 + slot.val)) slot.val))
    else consume s [40 + slot.val] fun s p =>
      let s := writeReg s h a.val (readReg s h (40 + slot.val)) p
      let s := put64 s (regPa s h 56) (setBit (rd64 s (regPa s h 56)) slot.val false) false
      retire (acquire (refillSlot s (coreOf h) ((getSlot s h).wp / 512) slot.val) h .device) sw)

/-! Arrivals and answers. -/

/-- The access at an index, if it is in the state that an event is about. -/
def accAt (s : State) (i : Nat) (ok : Access → Bool) : Option Access := s.flight[i]?.filter ok

/-- Has the hart an earlier write that is not acknowledged, or an earlier read that is not performed (R199, R204)? -/
def earlierWrite (s : State) (i : Nat) (a : Access) : Bool :=
  ((s.flight.take i).any fun b => b.hart = a.hart && b.before) || (getSlot s a.hart).outs.any fun o => o.mem.any (· < a.uid)

/-- Is a release that its hart has sent on its way held back: by an earlier write of the hart, by a stale notice that a
write of it may have caused, or by a refused store that the hart will report at its next boundary (R145, R204)? -/
def releaseHeld (s : State) (i : Nat) (a : Access) : Bool :=
  earlierWrite s i a || noticesPending s || ((refusedEntry s a.hart).isSome && !thOf s a.hart)

/-- Does a word of an LDM read bytes that a result of an earlier chunk of it has still to write (R277)? -/
def chunkWaits (s : State) (a : Access) : Bool :=
  a.grp.isSome && (getSlot s a.hart).outs.any fun o => o.dest.any (fun d => a.pas.contains d.1) &&
    s.flight.any fun b => o.src = some b.uid && b.grp = a.grp && b.uid < a.uid && chunks b.pas ≠ chunks a.pas

/-- Is the access held back by an earlier access of its hart to the chunk (R198), the other words of an LDM aside, or
by an earlier job (R175)? -/
def heldBack (s : State) (i : Nat) (a : Access) : Bool :=
  chunkBusy ((s.flight.take i).filter fun b => a.grp.isNone || b.grp ≠ a.grp) a.hart a.pas || chunkWaits s a ||
  ((getCluster s (clusterOf (coreOf a.hart))).jobs.any fun j => (j.issuers.any fun e => e.1 = a.hart && e.2 < a.uid) &&
    j.regions.any fun (lo, n, wr) => (wr || a.isWrite) && a.pas.any fun p => lo ≤ p && p < lo + n)

/-- MESSAGE_ARRIVAL (R183 to R185): a message, a release, arrives once its hart's earlier writes are acknowledged. -/
def execMessageArrival (i : Nat) (s : State) : Out :=
  .next (match accAt s i fun a => a.st = .flying && !releaseHeld s i a with
  | none => s
  | some a =>
    match a.op with
    | .send core frame n v nan sender =>
      let m := moduleOf (a.pas.headD 0)
      let s := packetOut s a
      if !answers s m then setAcc s a.uid (.refused .absent)
      else if m ≠ s.module then setAcc s a.uid (.done [] false)
      else
        match arriveMsg s (frameCore s core frame) frame n v nan (some sender) a.psn with
        | some s => setAcc s a.uid (.done [] false)
        | none => bumpKs (setAcc s a.uid (.resend s.cycle)) 0x1120
    | _ => s)

/-- Have 64 cycles passed since the access was refused (R91, R184)? -/
def resendDue (s : State) (a : Access) : Bool :=
  match a.st with
  | .resend c => decide (c + 64 ≤ s.cycle)
  | _ => false

/-- MESSAGE_RESEND (R184). -/
def execMessageResend (i : Nat) (s : State) : Out :=
  .next (match accAt s i fun a => resendDue s a && (match a.op with | .send _ _ _ _ _ _ => true | _ => false) with
  | none => s
  | some a => setAcc s a.uid .flying)

/-- The pending entry of a frame's reply table is cleared (R233). -/
def clearReply (s : State) (core frame n : Nat) : State :=
  let pa := scratchPa s core ((rd64 s (framePa s core frame 62)).toNat + 8 * n)
  put64 s pa (setBit (rd64 s pa) 63 false) false

/-- The reply that a performed remote load sends now: at once, or 64 cycles after a full buffer refused it (R184). -/
def replyNow (s : State) (a : Access) : Option (List Byte × Bool) :=
  match a.st with
  | .done v p => some (v, p)
  | .again v p c => if c + 64 ≤ s.cycle then some (v, p) else none
  | _ => none

/-- The sticky POISONED bit of a frame's hart: in the live status word if the frame is installed, else in its word 57 (R96,
R226). -/
def framePoisoned (s : State) (core frame : Nat) : State :=
  match (span (core * 4) 4).find? fun h => (getSlot s h).st ≠ .free && (getSlot s h).wp / 512 = frame with
  | some h => setPoisoned s h
  | none =>
    let pa := framePa s core frame 57
    put64 s pa (setBit (rd64 s pa) 7 true) (isPsn s pa)

/-- REMOTE_LOAD_REPLY (R117, R184, R233, R276). A poisoned word that the load read is consumed (R96). -/
def execRemoteLoadReply (i : Nat) (s : State) : Out :=
  .next (match accAt s i fun _ => true with
  | none => s
  | some a =>
    match a.dest, replyNow s a with
    | .slot frame n nan, some (val, psn) =>
      let c := frameCore s (coreOf a.hart) frame
      match arriveMsg (if psn then framePoisoned s c frame else s) c frame n (ofBytes (val.take 8)) nan none (psn || a.psn) with
      | some s => clearReply (dropAcc s a.uid) c frame n
      | none => bumpKs (setAcc s a.uid (.again val psn s.cycle)) 0x1120
    | _, _ => s)

/-- REMOTE_LOAD_REFUSAL (R224): the slot is unchanged, the entry no longer awaits a reply, a fault is pending for the
frame, wherever it is (log 11). -/
def execRemoteLoadRefusal (i : Nat) (s : State) : Out :=
  .next (match accAt s i fun _ => true with
  | none => s
  | some a =>
    match a.dest, a.st with
    | .slot frame n _, .refused _ =>
      let c := frameCore s (coreOf a.hart) frame
      lateFault (clearReply (dropAcc s a.uid) c frame n) c a
    | _, _ => s)

/-- Change the journal entry that an access stands under, in the pool it was taken in (R223, R232). -/
def modEntry (s : State) (pool : Nat) (a : Access) (f : JEnt → JEnt) : State :=
  modCore s pool fun c => { c with journal := c.journal.map fun e => if e.of a then f e else e }

/-- Free the journal entry that an access stands under (R223). -/
def freeEntry (s : State) (pool : Nat) (a : Access) : State :=
  modCore s pool fun c => { c with journal := c.journal.filter fun e => !e.of a }

/-- A write under an entry has been answered: the result that stood for it is no longer outstanding (R289, R367). -/
def postAnswered (s : State) (a : Access) : State :=
  if (getSlot s a.hart).outs.any fun o => o.src = some a.uid then
    settleH (modSlot s a.hart fun x => { x with outs := x.outs.filter fun o => o.src ≠ some a.uid }) a.hart
  else s

/-- Is this the last write of its entry to be answered, none of them refused? -/
def lastPart (s : State) (pool : Nat) (a : Access) : Bool :=
  (getCore s pool).journal.any fun e => e.of a && e.left ≤ 1 && e.refused.isNone

/-- POSTED_STORE_ACK (R145, R223): the entry is freed, once every write under it is acknowledged. -/
def execPostedStoreAck (i : Nat) (s : State) : Out :=
  .next (match accAt s i fun _ => true with
  | none => s
  | some a =>
    match a.dest, a.st with
    | .journal c _ _, .done _ _ =>
      if noticesPending s then s
      else
        let s := dropAcc s a.uid
        let s := if lastPart s c a then freeEntry s c a else modEntry s c a fun e => { e with left := e.left - 1 }
        postAnswered s a
    | _, _ => s)

/-- POSTED_STORE_REFUSAL (R223): the entry stays, marked refused. -/
def execPostedStoreRefusal (i : Nat) (s : State) : Out :=
  .next (match accAt s i fun _ => true with
  | none => s
  | some a =>
    match a.dest, a.st with
    | .journal c _ _, .refused why =>
      postAnswered (modEntry (dropAcc s a.uid) c a fun e =>
        { e with refused := some (e.refused.getD why), left := e.left - 1 }) a
    | _, _ => s)

/-- A vector execution one of whose source words was refused on its way writes nothing (R262, R288; log 78): its results count
as returned, and its writes leave with their journal entries. -/
def cancelVec (s : State) (a : Access) : State :=
  match (getSlot s a.hart).vpend.find? fun p => p.srcs.any fun l => l.any fun w => w.1 = some a.uid with
  | none => s
  | some p =>
    let us := p.srcs.flatMap fun l => l.filterMap (·.1)
    let ws := p.writes.map (·.1)
    let es := s.flight.filter fun b => ws.contains b.uid
    let s := { s with flight := s.flight.filter fun b => !(us.contains b.uid || ws.contains b.uid) }
    let s := modPools s fun l => l.filter fun e => !es.any e.of
    modSlot s a.hart fun x => { x with
      vpend := x.vpend.filter (·.uid ≠ p.uid), outs := x.outs.filter fun o => o.vec ≠ some p.uid }

/-- LOAD_REFUSAL (R262): nothing is written, the result counts as returned, and the fault is pending. -/
def execLoadRefusal (i : Nat) (s : State) : Out :=
  .next (match accAt s i fun _ => true with
  | none => s
  | some a =>
    match a.dest, a.st with
    | .result, .refused _ =>
      let s := lateFault (dropAcc s a.uid) (coreOf a.hart) a
      settleH (modSlot s a.hart fun x => { x with outs := x.outs.filter fun o => o.src ≠ some a.uid }) a.hart
    | .vec, .refused _ => settleH (cancelVec (lateFault s (coreOf a.hart) { a with grp := none }) a) a.hart
    | _, _ => s)

/-- Is the access a sync-mode one, a message, or neither? -/
def isSync (a : Access) : Bool := match a.op with | .sync _ _ => true | _ => false
def isSend (a : Access) : Bool := match a.op with | .send _ _ _ _ _ _ => true | _ => false

/-- REMOTE_ACCESS_ARRIVAL (R201, R210): a plain access or an atomic is performed at its target, in program order per
chunk (R198). -/
def execRemoteAccessArrival (i : Nat) (s : State) : Out :=
  .next (match accAt s i fun a => a.st = .flying && !isSync a && !isSend a && !heldBack s i a with
  | none => s
  | some a => arrive (packetOut s a) a)

/-- SYNC_ACCESS_ARRIVAL (R90, R91, R206, R211): a release too, so it is performed after its hart's earlier writes. -/
def execSyncAccessArrival (i : Nat) (s : State) : Out :=
  .next (match accAt s i fun a => a.st = .flying && isSync a && !heldBack s i a &&
      ((match a.op with | .sync .probe _ => true | _ => false) || !releaseHeld s i a) with
  | none => s
  | some a => arrive (packetOut s a) a)

/-- ACCESS_RESEND (R91). -/
def execAccessResend (i : Nat) (s : State) : Out :=
  .next (match accAt s i fun a => resendDue s a && isSync a with
  | none => s
  | some a => setAcc s a.uid .flying)

/-- The accesses that wait at a bank, oldest first (R81, R83). -/
def atBank (s : State) (cl b : Nat) : List Access :=
  s.flight.filter fun a => !isSync a && (match a.st with | .retry _ => true | _ => false) &&
    bankOf (a.pas.headD 0) = some (cl, b)

/-! Data queues (R186 to R188, R347). -/

/-- The bound L of a wait (R188). -/
def bound (l : Fin 32) : Option Nat := if l.val = 31 then none else some (2 ^ (l.val + 6))

/-- The hart of this module of a pod-wide number. -/
def hartOf (p : Nat) : Nat := p % 8192

/-- Is a data queue configured? -/
def queueOk (s : State) (w : Word) : Bool := fld w 63 8 = 0 && 16 ≤ w.toNat && (getQueue s w.toNat).ok

/-- Items of a queue (R186). -/
def queueLen (d : DQueue) : Nat := (d.tail - d.head).toNat

/-- The place of ring entry `i`. -/
def ringAt (d : DQueue) (i : BitVec 32) : Nat × Nat := (imageOf d.pages (d.ring + 8 * (i.toNat % d.cap))).getD (0, 0)

/-- Change a data queue. -/
def modQueue (s : State) (q : Nat) (f : DQueue → DQueue) : State :=
  modKs s fun k => { k with queues := tmod {} q f k.queues }

/-- Append an item (R187). -/
def pushItem (s : State) (q p : Nat) (v : Word) (psn : Bool) : State :=
  let d := getQueue s q
  let (pa, key) := ringAt d d.tail
  modQueue (putBytes s key ((span pa 8).zip (wBytes v)) psn) q fun d => { d with tail := d.tail + 1, lastPush := some p }

/-- The oldest item, and its poison. -/
def frontItem (s : State) (q : Nat) : Word × Bool :=
  let d := getQueue s q
  let (pa, key) := ringAt d d.head
  (ofBytes (rdBytes s key (span pa 8)), anyPsn s (span pa 8))

/-- Remove the oldest item into workspace word `r` of a hart; the pop acquires its push (R187). -/
def popItem (s : State) (q p r : Nat) : State :=
  let (v, psn) := frontItem s q
  let h := hartOf p
  let s := modQueue s q fun d => { d with head := d.head + 1, lastPop := some p }
  acquire (writeReg (notePsn s h psn) h r v psn) h .device

/-- The POISON trap of an item that a pop would read (R96). -/
def itemPoison (s : State) (h q : Nat) : Option Trap :=
  let d := getQueue s q
  if pteOf s h && (frontItem s q).2 then some (trap .poison 0 (wd (d.ring + 8 * (d.head.toNat % d.cap)))) else none

/-- Serve waiting requests in arrival order as room or items appear (R187). -/
def serveQueue : Nat → State → Nat → State
  | 0, s, _ => s
  | fuel + 1, s, q =>
    let d := getQueue s q
    match d.poppers, d.pushers with
    | p :: ps, _ =>
      if 0 < queueLen d then
        let h := hartOf p
        let ops := (getSlot s h).latch
        let s := modQueue s q fun d => { d with poppers := ps }
        match itemPoison s h q with
        | some t => serveQueue fuel (takeTrap s h t (getSlot s h).pc) q
        | none => serveQueue fuel (completeWait (popItem s q p (ops.getD 1 0).toNat) h (ops.getD 2 0 = 1)) q
      else s
    | [], (p, v, psn) :: rest =>
      if queueLen d < d.cap then
        let h := hartOf p
        let ops := (getSlot s h).latch
        let s := pushItem (modQueue s q fun d => { d with pushers := rest }) q p v psn
        serveQueue fuel (completeWait s h (ops.getD 2 0 = 1)) q
      else s
    | [], [] => s

/-- Serve every request that can be served: none at a queue without a good record (R186, R187). -/
def serve (s : State) (q : Nat) : State :=
  let d := getQueue s q
  if d.ok then serveQueue (d.poppers.length + d.pushers.length + 1) s q else s

/-- A write of the Keystone block, after which the controller serves the requests that a queue configured anew lets it
(R186, R187, R190). -/
def ksStore (s : State) (off : Nat) (v : Word) : State :=
  let s := ksWrite s off v
  if 0x2200 ≤ off && off < 0x4000 && off % 32 = 0 then serve s ((off - 0x2000) / 32) else s

/-- QPUSH (R187, R347): a write for R339 and R60, and a release at device scope, after which the hart parks (R204).
The queue number is wA[7..0]; where the bits above it are nonzero, the trap value is all of wA: the model's choice (log 105). -/
def execQpush (sw : Bool) (a b l : Fin 32) (s : State) : Out :=
  .next (issue (.qpush sw a b l) .none 0 s fun s =>
    let h := s.cur
    let ops := operands s [a.val, b.val]
    let w := ops.getD 0 0
    if scouting s h then raise s (trap .txFootprint 0 w)
    else if unchecked s h then raise s (trap .txCheckLate 0 w)
    else if !queueOk s w then raise s (trap .accessFault 4 w)
    else consume s [a.val, b.val] fun s p =>
      if writesPending s h then parkFor s .writes ops
      else if pagesHeld s (getQueue s w.toNat).pages then parkFor s .key ops
      else
        let d := getQueue s w.toNat
        if queueLen d < d.cap && d.pushers.isEmpty then
          serve (retire (pushItem s w.toNat (podHart s h) (ops.getD 1 0) p) true) w.toNat
        else
          modQueue (waitFor s (.queuePush w.toNat) [w, ops.getD 1 0, 1] (bound l)) w.toNat fun d =>
            { d with pushers := d.pushers ++ [(podHart s h, ops.getD 1 0, p)] })

/-- QPOP (R187, R347): the trap value of a bad queue is all of wA, as for QPUSH (log 105). -/
def execQpop (sw : Bool) (a b l : Fin 32) (s : State) : Out :=
  .next (issue (.qpop sw a b l) .none 0 s fun s =>
    let h := s.cur
    let w := (operands s [b.val]).getD 0 0
    if !queueOk s w then raise s (trap .accessFault 4 w)
    else consume s [b.val] fun s _ =>
      let d := getQueue s w.toNat
      if pagesHeld s d.pages then parkFor s .key [w]
      else if 0 < queueLen d && d.poppers.isEmpty then
        match itemPoison s h w.toNat with
        | some t => raise s t
        | none => serve (retire (popItem s w.toNat (podHart s h) a.val) sw) w.toNat
      else
        modQueue (waitFor s (.queuePop w.toNat) [w, wd a.val, wb sw] (bound l)) w.toNat fun d =>
          { d with poppers := d.poppers ++ [podHart s h] })

/-! Barriers and votes (R191 to R194, R348, R349). -/

/-- The hart on which a member of a gang runs. -/
def memberHart (s : State) (g : Gang) (m : Nat) : Option Nat :=
  (g.uids[m]?).bind fun u => (s.slots.find? fun x => x.2.bound = some u).map (·.1)

/-- The gang and member index of the executing hart's transaction. -/
def myGang (s : State) (h : Nat) : Option (Gang × Nat) :=
  (boundTxn s h).bind fun t => t.gang.bind fun g => (gangOf s t).map fun x => (x, g.2.1)

/-- ACCESS_FAULT of a slot that is bound to no transaction (R333). -/
def needTxn (s : State) (k : Txn → State) : State :=
  match boundTxn s s.cur with
  | none => raise s (trap .accessFault 4 0)
  | some t => k t

/-- BARW (R192, R348): a release, which parks (R204), and an acquire at device scope; a hart in no gang is a domain of
one. -/
def execBarw (sw : Bool) (kind : BarKind) (l : Fin 32) (s : State) : Out :=
  .next (issue (.barw sw kind l) .none 0 s fun s => needTxn s fun _ =>
    let h := s.cur
    if writesPending s h then parkFor s .writes []
    else
      match myGang s h with
      | none => retire (acquire s h .device) true
      | some (g, m) =>
        modGang (waitFor s (.barrier kind) [0, 0, 1] (bound l)) g.id fun x => { x with arr := x.arr ++ [(m, kind.code)] })

/-- Release one member of a barrier. -/
def releaseMember (s : State) (g : Gang) (m : Nat) : State :=
  match memberHart s g m with
  | none => s
  | some h => completeWait (acquire s h .device) h ((getSlot s h).latch.getD 2 0 = 1)

/-- BARRIER_RELEASE (R192): every member of the domain of member `dom` has arrived at the kind; all are released. -/
def execBarrierRelease (gang : Nat) (kind : BarKind) (dom : Nat) (s : State) : Out :=
  .next (match s.ks.gangs.find? (·.id == gang) with
  | none => s
  | some g =>
    let ms := domain g kind dom
    if ms.isEmpty || !(ms.all fun m => g.arr.contains (m, kind.code)) then s
    else
      let s := modGang s gang fun x => { x with arr := x.arr.filter fun e => !(e.2 = kind.code && ms.contains e.1) }
      ms.foldl (fun s m => releaseMember s g m) s)

/-- The combination of contributions (R194). -/
def combineVotes (op : VoteOp) (vs : List Word) : Word :=
  match op with
  | .all => wb (vs.all fun v => bit v 0)
  | .any => wb (vs.any fun v => bit v 0)
  | .sum => vs.foldl (· + ·) 0
  | .max => vs.foldl (fun a b => if a.ult b then b else a) 0

/-- VOTE (R194, R349). -/
def execVote (sw : Bool) (a b : Fin 32) (op : VoteOp) (l : Fin 32) (s : State) : Out :=
  .next (issue (.vote sw a b op l) .none 0 s fun s => needTxn s fun _ =>
    let h := s.cur
    let ops := operands s [b.val]
    consume s [b.val] fun s _ =>
      if writesPending s h then parkFor s .writes ops
      else
        match myGang s h with
        | none => retire (acquire (writeReg s h a.val (combineVotes op [ops.getD 0 0]) false) h .device) true
        | some (g, m) =>
          modGang (waitFor s .vote [0, wd a.val, 1] (bound l)) g.id fun x =>
            { x with votes := x.votes ++ [(m, op, ops.getD 0 0)] })

/-- VOTE_RESULT (R194): every member receives the combination under the op of member 0. -/
def execVoteResult (gang : Nat) (s : State) : Out :=
  .next (match s.ks.gangs.find? (·.id == gang) with
  | none => s
  | some g =>
    match g.votes.find? (·.1 == 0) with
    | none => s
    | some (_, op, _) =>
      if !(domain g .rect 0).all fun m => g.votes.any (·.1 == m) then s
      else
        let v := combineVotes op (g.votes.map fun e => e.2.2)
        let s := modGang s gang fun x => { x with votes := [] }
        (domain g .rect 0).foldl (fun s m =>
          match memberHart s g m with
          | none => s
          | some h => releaseMember (writeReg s h ((getSlot s h).latch.getD 1 0).toNat v false) g m) s)

/-- The trap value of BARRIER_TIMEOUT (R193). -/
def barrierValue (kind : Nat) (ms arrived : List Nat) : Word :=
  let miss := (ms.find? fun m => !arrived.contains m).getD 0
  wd (kind * 2 ^ 60 + (ms.filter fun m => arrived.contains m).length % 256 * 2 ^ 40 + ms.length % 256 * 2 ^ 24 + miss)

/-! Bounds (R188, R193, R174). -/

/-- The QUEUE_TIMEOUT value (R174, R188). -/
def timeoutValue (kind id first second : Nat) : Word :=
  wd (kind * 2 ^ 60 + id % 256 * 2 ^ 48 + first % 2 ^ 24 * 2 ^ 24 + second % 2 ^ 24)

/-- The trap that a passed bound raises in a wait, and the state in which it is counted. -/
def boundTrap (s : State) (h : Nat) : Option (Trap × State) :=
  let cl := clusterOf (coreOf h)
  match (getSlot s h).st with
  | .waiting (.queuePush q) | .waiting (.queuePop q) =>
    let d := getQueue s q
    some (trap .queueTimeout 0 (timeoutValue 1 q d.head.toNat d.tail.toNat), bumpKs s (0x2010 + 32 * q))
  | .waiting (.event e) => some (trap .queueTimeout 0 (timeoutValue 2 e (getLine s cl e).pend 0), s)
  | .waiting (.list l) =>
    let w := tget {} (getCluster s cl).wls l
    some (trap .queueTimeout 0 (timeoutValue 3 l w.head w.tail), s)
  | .waiting (.barrier k) =>
    (myGang s h).map fun (g, m) =>
      (trap .barrierTimeout 0 (barrierValue k.code (domain g k m) ((g.arr.filter (·.2 == k.code)).map (·.1))), s)
  | .waiting .vote =>
    (myGang s h).map fun (g, _) =>
      (trap .barrierTimeout 0 (barrierValue 3 (domain g .rect 0) (g.votes.map (·.1))), s)
  | _ => none

/-- Has the bound of a hart's wait passed? -/
def boundPassed (s : State) (h : Nat) : Bool :=
  match (getSlot s h).limit with
  | some n => decide ((getSlot s h).since + n ≤ s.cycle)
  | none => false

/-- WAIT_BOUND_EXPIRY (R188, R193, R174): the request is withdrawn and its timeout trap is taken; a wait whose condition
has been met completes instead. -/
def execWaitBoundExpiry (h : Nat) (s : State) : Out :=
  .next (
    let met := match (getSlot s h).st with
      | .waiting w => waitMet s h w
      | _ => true
    if met || wireReleased s h || !boundPassed s h then s
    else
      match boundTrap s h with
      | none => s
      | some (t, s) => takeTrap (withdraw s h) h t (getSlot s h).pc)

/-- LEASE_TIMEOUT (R120, R122, R144, R315): the bound of a lease wait, or of an MMT's wait for a multicast copy, passes;
the value is ARRHOLD (R215). -/
def execLeaseTimeout (h : Nat) (s : State) : Out :=
  .next (
    let core := coreOf h
    let waits := match (getSlot s h).st with
      | .waiting .lease | .waiting .arrayPeriod => (actCtx s core).lease ≠ .active
      | .parked (.copy v) _ => (actTab s core v).st = .expected
      | _ => false
    if !waits || !boundPassed s h then s
    else
      let v := arrHold (getCluster s (clusterOf core)).arr
      takeTrap (modSlot (withdraw s h) h fun x => { x with limit := none }) h (trap .leaseTimeout 0 v) (getSlot s h).pc)

/-! Deadlock probes (R195, R196). -/

/-- Is a hart in a wait whose condition is not met (R20)? -/
def waitsStill (s : State) (h : Nat) : Bool :=
  match (getSlot s h).st with
  | .waiting w => !waitMet s h w
  | _ => false

/-- The waits-for edge of a hart that still waits (R195). -/
def edgeNow (s : State) (h : Nat) : Option Nat := if waitsStill s h then edgeOf s h else none

/-- DEADLOCK_PROBE (R196): after 4,096 cycles of a wait with an edge, and every 4,096 cycles after the last probe. -/
def execDeadlockProbe (h : Nat) (s : State) : Out :=
  .next (match edgeNow s h with
  | none => s
  | some e =>
    let x := getSlot s h
    match x.edgeAt with
    | none => modSlot s h fun x => { x with edgeAt := some s.cycle }
    | some t =>
      if s.cycle < t + 4096 then s
      else
        let p := podHart s h
        let s := modSlot (bumpKs s 0x1108) h fun x => { x with edgeAt := some s.cycle }
        modKs s fun k => { k with probes := k.probes ++ [⟨e, p, x.epoch, 1, p, x.epoch⟩] })

/-- PROBE_RECEIVE (R196): a probe comes to a hart, which forwards it, drops it, or finds a cycle. A probe to a hart of
another module leaves this one. -/
def execProbeReceive (i : Nat) (s : State) : Out :=
  .next (match s.ks.probes[i]? with
  | none => s
  | some p =>
    let s := modKs s fun k => { k with probes := k.probes.eraseIdx i }
    if p.dst / 8192 ≠ s.module then s
    else
      let h := hartOf p.dst
      let x := getSlot s h
      if p.dst = p.origin then
        if waitsStill s h && x.epoch = p.oepoch then
          modKs s fun k => { k with notices := k.notices ++ [⟨p.high, p.hepoch, p.hops, p.origin⟩] }
        else s
      else
        match edgeNow s h with
        | none => s
        | some e =>
          if 255 ≤ p.hops + 1 then bumpKs s 0x1118
          else
            let n : Probe := { p with dst := e, hops := p.hops + 1, high := max p.high p.dst
                                      hepoch := if p.high < p.dst then x.epoch else p.hepoch }
            modKs s fun k => { k with probes := k.probes ++ [n] })

/-- VICTIM_NOTICE (R196): the victim takes DEADLOCK_VICTIM if it is still in the recorded wait. -/
def execVictimNotice (i : Nat) (s : State) : Out :=
  .next (match s.ks.notices[i]? with
  | none => s
  | some n =>
    let s := modKs s fun k => { k with notices := k.notices.eraseIdx i }
    let h := hartOf n.dst
    let x := getSlot s h
    let id := match x.st with
      | .waiting (.message m) => some m
      | .waiting (.queuePush q) | .waiting (.queuePop q) => some (2 ^ 12 + q)
      | _ => none
    match id with
    | none => s
    | some k =>
      if n.dst / 8192 ≠ s.module || x.epoch ≠ n.epoch || !waitsStill s h then s
      else
        let v := wd (k / 2 ^ 12 * 2 ^ 60 + k % 256 * 2 ^ 48 + n.hops % 256 * 2 ^ 40 + n.origin % 2 ^ 24)
        takeTrap (withdraw (bumpKs s 0x1110) h) h (trap .deadlockVictim 0 v) x.pc)

end Sys2Proof.Machine
end

