-- ==== Sys2Proof/Machine/Engine.lean ====
section
/-! DEFINITION. The commands of a cluster's shared units (R311 to R313), the copy engine (R166 to R178, R327 to R329)
and the work-lists (R179, R180, R330). -/

namespace Sys2Proof.Machine

/-! What every unit command does. -/

/-- The pages of a region with their places, or the first fault (R125, R150, R167). -/
def pagesX (s : State) (w : Who) (k : AccKind) : Nat → Nat → Nat → Except Trap (List (Nat × Xl))
  | 0, _, _ => .ok []
  | fuel + 1, va, n =>
    if n = 0 then .ok []
    else
      match xlate s w va k with
      | .error t => .error t
      | .ok x =>
        let left := 65536 - va % 65536
        match pagesX s w k fuel (va + left) (n - left) with
        | .error t => .error t
        | .ok l => .ok ((va, x) :: l)

/-- The pages of a region of `n` bytes. -/
def regionX (s : State) (va n : Nat) (k : AccKind) : Except Trap (List (Nat × Xl)) :=
  pagesX s (who s s.cur) k (n / 65536 + 2) va n

/-- The bytes of a region by pages, each with the key slot of its page (R413). -/
def regionCells (l : List (Nat × Xl)) (va n : Nat) : List (Nat × Nat) :=
  l.flatMap fun (v, x) => (span x.pa (min (65536 - v % 65536) (va + n - v))).map fun a => (a, x.key)

/-- Read bytes, each under its own key. -/
def getKeyed (s : State) (cells : List (Nat × Nat)) : List Byte := cells.map fun c => rdByte s c.2 c.1

/-- Write bytes, each under its own key, in order. -/
def putKeyed (s : State) (cells : List ((Nat × Nat) × Byte)) (psn : Bool) : State :=
  (cells.map fun c => c.1.2).eraseDups.foldl (fun s key =>
    putBytes s key ((cells.filter fun c => c.1.2 = key).map fun c => (c.1.1, c.2)) psn) s

/-- POISON of a record after every check: the trap under PTE with the record's first poisoned address, else the sticky
bit (R96, R312). -/
def recPoison (s : State) (va : Word) (psn : Bool) (k : State → State) : State :=
  if !psn then k s
  else if pteOf s s.cur then
    match xlBytes s (who s s.cur) va.toNat 64 .read with
    | .ok (pas, _) => raise s (trap .poison 0 ((firstPsn s va.toNat pas).getD va))
    | .error _ => raise s (trap .poison 0 va)
  else k (setPoisoned s s.cur)

/-- The page images that a unit keeps (R236). -/
def imagesOf (l : List (Nat × Xl)) : List (Nat × Nat × Nat) :=
  l.map fun (va, x) => (va / 65536, x.pa / 65536 * 65536, x.key)

/-- The physical ranges of a region by pages. -/
def rangesOf (l : List (Nat × Xl)) (va n : Nat) (wr : Bool) : List (Nat × Nat × Bool) :=
  l.map fun (v, x) => (x.pa, min (65536 - v % 65536) (va + n - v), wr)

/-- Has a region of `n` bytes a page without a place, one in a window gap (R89)? -/
def hasGap (l : List (Nat × Xl)) (va n : Nat) : Bool := decide (l.length < (va + n - 1) / 65536 - va / 65536 + 1)

/-- The first address of the tiles of a written region on a sealed page that the transaction does not hold with W, or
of the region outside the own scratchpad for a scout (R45, R59, R339). -/
def regionFault (s : State) (l : List (Nat × Xl)) (va n : Nat) : Option Nat :=
  let h := s.cur
  if scouting s h then
    if (l.all fun (_, x) => inScratch s (coreOf h) x.pa) && !hasGap l va n then none else some va
  else
    l.findSome? fun (v, x) =>
      if !x.sealed then none
      else
        let len := min (65536 - v % 65536) (va + n - v)
        let starts := v :: (span 1 16).filterMap fun i =>
          let a := (v / 4096 + i) * 4096
          if a < v + len then some a else none
        starts.find? fun a =>
          match boundTxn s h with
          | none => true
          | some t => !holdsTile s t (tileOf (x.pa + (a - v))) true

/-- Is the region outside the core's own scratchpad in a transaction whose TXCHK has not passed (R60)? -/
def regionLate (s : State) (l : List (Nat × Xl)) (va n : Nat) : Bool :=
  unchecked s s.cur && !((l.all fun (_, x) => inScratch s (coreOf s.cur) x.pa) && !hasGap l va n)

/-- Note that a transaction writes a region: every lock tile of it counts (R60). -/
def noteRegion (s : State) (h : Nat) (l : List (Nat × Xl)) (va n : Nat) : State :=
  noteWrite s h (l.flatMap fun (v, x) =>
    let len := min (65536 - v % 65536) (va + n - v)
    x.pa :: (span 1 16).filterMap fun i =>
      let a := (x.pa / 4096 + i) * 4096
      if a < x.pa + len then some a else none)

/-! Engine accesses (R89, R169, R170). -/

/-- The outcome of an engine access: done, refused, or a wait at a bank. -/
inductive EOut where
  | ok (bs : List Byte) (psn : Bool)
  | err
  | wait (cl bank : Nat)
  deriving DecidableEq, Repr

/-- The places of the bytes of an engine access by the job's images, each with the key slot of its page. -/
def jobPas (pages : List (Nat × Nat × Nat)) (va n : Nat) : Option (List (Nat × Nat)) :=
  let l := (span va n).map (imageOf pages)
  if l.all Option.isSome then some (l.filterMap id) else none

/-- Does a target serve an engine access? -/
def engineOk (s : State) (pas : List Nat) : Bool :=
  pas.all fun a => answers s (moduleOf a) &&
    (match targetOf (offsetOf a) with
     | .hbm | .scratch _ => true
     | .sram cl => moduleOf a ≠ s.module || bankMode s cl ((offsetOf a - sram0) % 0x400000 / 0x40000) ≠ 1
     | _ => false)

/-- The bytes of an access in runs, each at one FIFO port or at none (R81). -/
def portRuns (s : State) : List (Nat × Nat) → List (Option (Nat × Nat) × List (Nat × Nat))
  | [] => []
  | c :: t =>
    let k := fifoPort s [c.1]
    match portRuns s t with
    | (k', l) :: r => if k' = k then (k, c :: l) :: r else (k, [c]) :: (k', l) :: r
    | [] => [(k, [c])]

/-- The addresses of a port access cut at slot boundaries (R81). -/
def slotPieces (z : Nat) (pas : List Nat) : List (List Nat) :=
  ((pas.map (· / z)).eraseDups).map fun k => pas.filter fun a => a / z = k

/-- Has a FIFO a filled slot, or a free one for a write, for each piece of a port access that nothing waits before (R81)? -/
def fifoRoom (s : State) (cl b : Nat) (write : Bool) (pas : List Nat) (me : Nat) : Bool :=
  let k := (slotPieces (bankSlot s cl b) pas).length
  decide (k ≤ if write then fifoCap s cl b - (fifoOf s cl b).fill else (fifoOf s cl b).fill) && !fifoQueue s cl b write me

/-- The arrival number of a job's access. -/
def standOf (s : State) (j : Job) : Nat := (j.stand.map (·.2.2.2)).getD s.uid

/-- A bank of this module, with its cluster, whose mode is changing and that one of these bytes lies in (R83). -/
def changing (s : State) (pas : List Nat) : Option (Nat × Nat) :=
  pas.findSome? fun a => (bankOf a).filter fun e => moduleOf a = s.module && bankPend s e.1 e.2

/-- What an engine access meets: it goes, it waits at a bank whose mode is changing or at a FIFO, or the target refuses it,
as one that leaves its FIFO slot (R81 to R83, R170; log 99). -/
inductive Way where
  | go
  | bad
  | wait (cl b : Nat)
  deriving DecidableEq, Repr

/-- What an access of a job meets. -/
def engWay (s : State) (j : Job) (pas : List Nat) (write : Bool) : Way :=
  match changing s pas with
  | some (cl, b) => .wait cl b
  | none =>
    if !engineOk s pas then .bad
    else
      match fifoPort s pas with
      | some (cl, b) =>
        if fifoCrosses s cl b pas then .bad else if fifoBlocked s cl b write (standOf s j) then .wait cl b else .go
      | none => if pas.any fun a => (fifoPort s [a]).isSome then .bad else .go

/-- Read the pieces of a port access in order. -/
def portRead (s : State) (cl b : Nat) : List (List Nat) → List Byte → Bool → List Byte × Bool × State
  | [], bs, p => (bs, p, s)
  | q :: qs, bs, p =>
    let ps := fifoPas s cl b q false
    portRead (fifoStep s cl b q false) cl b qs (bs ++ rdBytes s 0 ps) (p || anyPsn s ps)

/-- Write the pieces of a port access in order. -/
def portWrite (s : State) (cl b : Nat) (psn : Bool) : List (List Nat) → List Byte → State
  | [], _ => s
  | q :: qs, bs =>
    portWrite (fifoStep (putBytes s 0 ((fifoPas s cl b q true).zip bs) psn) cl b q true) cl b psn qs (bs.drop q.length)

/-- Read the runs of an access in order. -/
def readRuns : List (Option (Nat × Nat) × List (Nat × Nat)) → State → List Byte → Bool → List Byte × Bool × State
  | [], s, bs, p => (bs, p, s)
  | (none, l) :: r, s, bs, p => readRuns r s (bs ++ getKeyed s l) (p || anyPsn s (l.map (·.1)))
  | (some (cl, b), l) :: r, s, bs, p =>
    let q := portRead s cl b (slotPieces (bankSlot s cl b) (l.map (·.1))) [] false
    readRuns r q.2.2 (bs ++ q.1) (p || q.2.1)

/-- Write the runs of an access in order. -/
def writeRuns (psn : Bool) : List (Option (Nat × Nat) × List (Nat × Nat)) → State → List Byte → State
  | [], s, _ => s
  | (k, l) :: r, s, bs =>
    let s := match k with
      | none => putKeyed s (l.zip bs) psn
      | some (cl, b) => portWrite s cl b psn (slotPieces (bankSlot s cl b) (l.map (·.1))) bs
    writeRuns psn r s (bs.drop l.length)

/-! The read of a record or table by a unit for a hart (R150, R213). -/

/-- Is a byte of a target that serves no read of a unit: an absent module, no storage, or a bank in cache mode
(R80, R262)? -/
def unitBad (s : State) (pa : Nat) : Bool := !engineOk s [pa]

/-- What has been read at a FIFO port for the bytes from `va` on, by the instruction that executes. -/
def keptAt (s : State) (va n : Nat) : Option (List Byte × Bool) :=
  ((getSlot s s.cur).kept.find? fun e => e.1 = va && e.2.1.length = n).map (·.2)

/-- A wait for filled slots at a FIFO port that a read of these bytes goes through (R81). -/
def portNeed (s : State) (cells : List (Nat × Nat)) : Option Need :=
  (portRuns s cells).findSome? fun (k, r) => k.bind fun (cl, b) =>
    let m := (slotPieces (bankSlot s cl b) (r.map (·.1))).length
    if fifoRoom s cl b false (r.map (·.1)) s.uid then none else some (.fifo cl b m false)

/-- The read: at the point of coherence, after the hart's own earlier accesses; a fault has the first faulting address
(R150). At a FIFO port it reads the slots from HEAD on (R81, R89). -/
def readUnit (s : State) (va n : Nat) : OwnRead :=
  match regionX s va n .read with
  | .error t => .fault t
  | .ok l =>
    let cells := regionCells l va n
    let pas := cells.map (·.1)
    match keptAt s va n with
    | some (bs, p) => .ok bs p
    | none =>
      match readNeed s s.cur pas with
      | some k => .later k
      | none =>
        match pas.findIdx? (unitBad s) with
        | some i => .fault (trap .accessFault 1 (wd (va + i)))
        | none =>
          match portNeed s cells with
          | some k => .later k
          | none => let r := readRuns (portRuns s cells) s [] false; .ok r.1 r.2.1

/-- The state after such a read: the slots that it has read whole are free, and what it read at a port is kept until its
instruction retires, so that it is read once (R81); the core keeps no older copies (R198, R213). -/
def afterUnit (s : State) (va n : Nat) (bs : List Byte) (psn : Bool) : State :=
  match regionX s va n .read with
  | .error _ => s
  | .ok l =>
    let cells := regionCells l va n
    if (keptAt s va n).isSome then s
    else
      let s := dropCopies s (coreOf s.cur) (cells.map (·.1))
      if (portRuns s cells).all (·.1.isNone) then s
      else
        modSlot (readRuns (portRuns s cells) s [] false).2.2 s.cur fun x => { x with kept := x.kept ++ [(va, bs, psn)] }

/-- A 64-byte record at an address: aligned, fetched, its eight words and its poison. -/
def withRecord (s : State) (ops : List Word) (va : Word) (k : State → List Word → Bool → State) : State :=
  if va.toNat % 64 ≠ 0 then raise s (trap .misaligned 1 va)
  else
    match readUnit s va.toNat 64 with
    | .later n => parkFor s n ops
    | .fault t => raise s t
    | .ok bs p => k (afterUnit s va.toNat 64 bs p) ((span 0 8).map fun i => ofBytes ((bs.drop (8 * i)).take 8)) p

/-- An engine read (R81 to R83, R89). The core keeps no older copies of what it has read past the caches (R198, R213). -/
def engRead (s : State) (j : Job) (va n : Nat) : EOut × State :=
  match jobPas j.pages va n with
  | none => (.err, s)
  | some cells =>
    match engWay s j (cells.map (·.1)) false with
    | .bad => (.err, s)
    | .wait cl b => (.wait cl b, s)
    | .go =>
      let r := readRuns (portRuns s cells) s [] false
      (.ok r.1 r.2.1, r.2.2)

/-- A write of a merged job in the own-scratchpad window range goes into the scratchpad of every issuing core (R377). -/
def mirror (s : State) (j : Job) (va : Nat) (cells : List (Nat × Nat)) (bs : List Byte) (psn : Bool) : State :=
  if va < window0 || window0 + 0x30000 ≤ va then s
  else
    (((j.issuers.map fun e => coreOf e.1).eraseDups).filter (· ≠ j.core)).foldl (fun s c =>
      putBytes s 0 ((cells.map fun p => p.1 - scratchPa s j.core 0 + scratchPa s c 0).zip bs) psn) s

/-- An engine write: bytes and poison; full/empty bits are left (R89). The issuers' cores keep no older copies (R213). -/
def engWrite (s : State) (j : Job) (va : Nat) (bs : List Byte) (psn : Bool) : EOut × State :=
  match jobPas j.pages va bs.length with
  | none => (.err, s)
  | some cells =>
    match engWay s j (cells.map (·.1)) true with
    | .bad => (.err, s)
    | .wait cl b => (.wait cl b, s)
    | .go =>
      let s := mirror (writeRuns psn (portRuns s cells) s bs) j va cells bs psn
      (.ok [] false, j.issuers.foldl (fun s e => dropCopies s (coreOf e.1) (cells.map (·.1))) s)

/-- The width of an index. -/
def iwBytes (j : Job) : Nat := if j.iw = 0 then 4 else 8

/-! All-zero flags of the tiles that are read (R92, R170, R181). -/

/-- The HBM tiles that lie whole in a range of a job's source, by their first virtual address. -/
def wholeTiles (j : Job) (va n : Nat) : List (Nat × Nat) :=
  ((span 0 (n / 4096)).map fun i => ((va + 4095) / 4096 + i) * 4096).filterMap fun v =>
    if va + n < v + 4096 then none
    else (imageOf j.pages v).bind fun p => if isHbm p.1 then some (v, tileOf p.1) else none

/-- The read of a source element begins: no write has met its tiles yet. -/
def beginTiles (s : State) (j : Job) (va n : Nat) : State :=
  { s with tileReads := s.tileReads ++ (wholeTiles j va n).map fun e => (j.uid, e.2) }

/-- The read of a source element ends: the tiles that it covers whole and that no write has met have their entries. -/
def endTiles (s : State) (j : Job) (va n : Nat) (bs : List Byte) : State :=
  let s' := (wholeTiles j va n).foldl (fun s e =>
    if s.tileReads.contains (j.uid, e.2) then setFlag s e.2 (((bs.drop (e.1 - va)).take 4096).all (· = 0)) else s) s
  { s' with tileReads := s'.tileReads.filter (·.1 ≠ j.uid) }

/-- The all-zero flags after a read that performs at once the tiles that these bytes cover whole. -/
def seeTiles (s : State) (cells : List (Nat × Nat)) (bs : List Byte) : State :=
  if cells.length < 4096 then s
  else
    let l := (cells.zip bs).eraseDups
    (((cells.map (·.1)).filter isHbm).map tileOf).eraseDups.foldl (fun s t =>
      let mine := l.filter fun e => tileOf e.1.1 = t
      if ((mine.map (·.1.1)).eraseDups).length = 4096 then setFlag s t (mine.all fun e => e.2 = 0) else s) s

/-- The bytes of a source element from `va` on that are produced from the all-zero flag of their tile: the schedule's
choice, where the flag allows it (R92, R170; log 80). -/
def skipTile (s : State) (j : Job) (va n : Nat) : Option (Nat × Nat) :=
  if s.flags.isEmpty || s.sched.choices.head? ≠ some true then none
  else
    let k := min n (4096 - va % 4096)
    match jobPas j.pages va k with
    | some (c :: cs) =>
      let cells := c :: cs
      if isHbm c.1 && flagZero s (tileOf c.1) && (getKeyed s cells).all (· = 0) && !anyPsn s (cells.map (·.1)) then
        some (tileOf c.1, k)
      else none
    | _ => none

/-! Elements (R169, R170). -/

/-- The length of one access from `va` on: no access of a job reaches beyond an aligned 8-byte word (R197, R213). -/
def pieceLen (va n : Nat) : Nat := min n (8 - va % 8)

/-- The new value of an SCADD element (R169). -/
def addElem (t : ElemType) (a b : Nat) : Nat :=
  if eFloat t then fpRnd t false false (numAdd (fpDec t false a) (fpDec t false b)) else eFit t false (eVal t a + eVal t b)

/-- What the target of a whole range answers before its first byte is written: a refused byte leaves the whole element as it
was (R170), and a bank whose mode is changing answers once the change is done (R83). -/
def rangeWay (s : State) (j : Job) (va n : Nat) : Way :=
  match jobPas j.pages va n with
  | none => .bad
  | some cells =>
    match changing s (cells.map (·.1)) with
    | some (cl, b) => .wait cl b
    | none => if engineOk s (cells.map (·.1)) then .go else .bad

/-- Note an error of element `i`: bits of R173, and the lowest element number. -/
def noteErr (j : Job) (bits i : Nat) : Job := { j with errs := j.errs ||| bits, bad := some (min (j.bad.getD i) i) }

/-- A job comes to wait at a bank, behind the accesses that wait there (R81, R82). -/
def standAt (s : State) (j : Job) (cl b : Nat) (w : Bool) : State × Job :=
  match j.stand with
  | some (c, b', w', _) =>
    if c = cl && b' = b && w' = w then (s, j) else ({ s with uid := s.uid + 1 }, { j with stand := some (cl, b, w, s.uid) })
  | none => ({ s with uid := s.uid + 1 }, { j with stand := some (cl, b, w, s.uid) })

/-- The job with its element `n` before it, nothing of it read. -/
def Job.seek (j : Job) (n : Nat) : Job := { j with next := n, ix := none, buf := [], wr := 0, hot := [], stand := none }

/-- An element has been performed: it counts for every issuer (R181, R366, R377). -/
def elemDone (s : State) (cl : Nat) (j : Job) : State × Job :=
  (bumpCl s cl 0x588 j.issuers.length, j.seek (j.next + 1))

/-- An element error ACCESS: the job goes on with the next element (R170, R173, R181). -/
def elemErr (s : State) (cl : Nat) (j : Job) : State × Job :=
  ({ bumpCl s cl 0x598 j.issuers.length with tileReads := s.tileReads.filter (·.1 ≠ j.uid) },
    (noteErr j 1 j.next).seek (j.next + 1))

/-- An element reads poison: what it writes will be poisoned, and the line learns it (R170, R173). -/
def seePsn (j : Job) (i : Nat) (psn : Bool) : Job := if psn then { noteErr j 4 i with hot := i :: j.hot } else j

/-- The place of an element's index word (R169, R172). -/
def Job.ixAt (j : Job) (i : Nat) : Nat := j.idx + (if j.opc = 4 then j.elen + i else i) * iwBytes j

/-- The bytes that an element writes. -/
def Job.len (j : Job) : Nat := if j.opc = 4 then 8 else j.elen

/-- Where element `i` with index `x` reads and writes: nowhere if the index is beyond its bound (R169, R172). -/
def Job.place (j : Job) (x i : Nat) : Option (Nat × Nat) :=
  match j.opc with
  | 0 => some (j.src + i * j.elen, j.dst + i * j.elen)
  | 1 => if (x + 1) * j.elen ≤ j.rbound then some (j.src + x * j.elen, j.dst + i * j.elen) else none
  | 4 => if x < 2 ^ 32 then some (0, j.dst + 8 * i) else none
  | _ => if (x + 1) * j.elen ≤ j.wbound then some (j.src + i * j.elen, j.dst + x * j.elen) else none

/-- One read of the source of an element, `o` bytes of it being there (R169, R170, R213). -/
def elemRead (s : State) (cl : Nat) (j : Job) (src : Nat) : State × Job :=
  let o := j.buf.length
  let s := if o = 0 && j.stand.isNone then beginTiles s j src j.elen else s
  let took := fun (s : State) (bs : List Byte) (p : Bool) =>
    let j := { seePsn j j.next p with buf := j.buf ++ bs, stand := none }
    (if j.buf.length < j.elen then s else endTiles s j src j.elen j.buf, j)
  match skipTile s j (src + o) (j.elen - o) with
  | some (t, k) => took (touchFlag (bumpCl s cl 0x590 1) t) (List.replicate k 0) false
  | none =>
    match engRead s j (src + o) (pieceLen (src + o) (j.elen - o)) with
    | (.ok bs p, s) => took s bs p
    | (.err, s) => elemErr s cl j
    | (.wait c b, s) => standAt s j c b false

/-- One read-modify-write of SCADD: the next number of the row, atomic (R169). A destination that has become a FIFO
port serves none (log 99). -/
def addStep (s : State) (cl : Nat) (j : Job) (dst : Nat) : State × Job :=
  let z := esize j.et
  let va := dst + j.wr
  if (fifoPort s (((jobPas j.pages va z).getD []).map (·.1))).isSome then elemErr s cl j
  else
    match engRead s j va z with
    | (.ok bs p, s') =>
      let v := addElem j.et (leNat bs) (leNat ((j.buf.drop j.wr).take z))
      match engWrite s' j va (leBytes z v) (p || j.hot.contains j.next) with
      | (.ok _ _, s) =>
        let j := { (if p then noteErr j 4 j.next else j) with wr := j.wr + z, stand := none }
        if j.wr < j.elen then (s, j) else elemDone s cl j
      | (.err, _) => elemErr s cl j
      | (.wait c b, _) => standAt s j c b true
    | (.err, s) => elemErr s cl j
    | (.wait c b, s) => standAt s j c b true

/-- One write of an element (R169, R170, R172, R213). Before the first, every byte of the destination must be served. -/
def elemWrite (s : State) (cl : Nat) (j : Job) (dst : Nat) : State × Job :=
  match (if j.wr = 0 then rangeWay s j dst j.len else .go) with
  | .bad => elemErr s cl j
  | .wait c b => standAt s j c b true
  | .go =>
    if j.opc = 3 then addStep s cl j dst
    else
      let n := pieceLen (dst + j.wr) (j.len - j.wr)
      match engWrite s j (dst + j.wr) ((j.buf.drop j.wr).take n) (j.hot.contains j.next) with
      | (.ok _ _, s) =>
        let j := { j with wr := j.wr + n, stand := none }
        if j.wr < j.len then (s, j) else elemDone s cl j
      | (.err, s) => elemErr s cl j
      | (.wait c b, s) => standAt s j c b true

/-- The row that holds position `p` (R172). -/
def rowOf (ptr : List Nat) (p : Nat) : Nat :=
  ((span 0 (ptr.length - 1)).find? fun r => ptr.getD r 0 ≤ p && p < ptr.getD (r + 1) 0).getD 0

/-- The next access of the element before a job: its index word, once; the rest of its source; its destination (R169 to
R172). -/
def elemStep (s : State) (cl : Nat) (j : Job) : State × Job :=
  let i := j.next
  match (if j.opc = 0 then some (0, false) else j.ix) with
  | none =>
    match engRead s j (j.ixAt i) (iwBytes j) with
    | (.ok bs p, s) =>
      let x := leNat bs
      let j : Job := { seePsn j i (p || j.rowsPsn) with ix := some (x, p), stand := none }
      (s, if j.opc = 4 then { j with buf := leBytes 8 (rowOf j.rows (j.elen + i) * 2 ^ 32 + x) } else j)
    | (.err, s) => elemErr s cl (if j.rowsPsn then noteErr j 4 i else j)
    | (.wait c b, s) => standAt s j c b false
  | some (x, _) =>
    match j.place x i with
    | none => elemErr s cl j
    | some (src, dst) => if j.buf.length < j.len then elemRead s cl j src else elemWrite s cl j dst

/-! COPY of overlapping ranges (R169). -/

/-- Do the source and the destination of a COPY overlap? -/
def Job.overlaps (j : Job) : Bool :=
  let rd := j.regions.filter fun r => !r.2.2
  let wr := j.regions.filter fun r => r.2.2
  j.opc = 0 && rd.any fun (a, n, _) => wr.any fun (b, m, _) => a < b + m && b < a + n

/-- The bytes of the present chunk: up to the end of an aligned 64-byte chunk of the source. -/
def Job.chunk (j : Job) : Nat := min (j.count * j.elen - j.pos) (64 - (j.src + j.pos) % 64)

/-- The next read of the present chunk: of each element that it begins, whether any byte is refused is settled first; a refused
element is passed over (R170). -/
def copyRead (s : State) (cl : Nat) (j : Job) : State × Job :=
  let q := j.pos + j.buf.length
  let e := q / j.elen
  let n := min (j.pos + j.chunk - q) (j.elen - q % j.elen)
  if j.skip.contains e then (s, { j with buf := j.buf ++ List.replicate n 0 })
  else
    let way := if q % j.elen ≠ 0 then (.go, false) else
      match rangeWay s j (j.src + q) j.elen with
      | .go => (rangeWay s j (j.dst + q) j.elen, true)
      | w => (w, false)
    match way with
    | (.bad, _) => (bumpCl s cl 0x598 j.issuers.length, { noteErr j 1 e with skip := e :: j.skip, stand := none })
    | (.wait c b, w) => standAt s j c b w
    | (.go, _) =>
      match engRead s j (j.src + q) (pieceLen (j.src + q) n) with
      | (.ok bs p, s) => (s, { seePsn j e p with buf := j.buf ++ bs, stand := none })
      | (.err, s) => (bumpCl s cl 0x598 j.issuers.length, { noteErr j 1 e with skip := e :: j.skip, stand := none })
      | (.wait c b, s) => standAt s j c b false

/-- The next write of the present chunk, all of which has been read. -/
def copyWrite (s : State) (cl : Nat) (j : Job) : State × Job :=
  let q := j.pos + j.wr
  let e := q / j.elen
  let n := min (j.chunk - j.wr) (j.elen - q % j.elen)
  if j.skip.contains e then (s, { j with wr := j.wr + n })
  else
    let n := pieceLen (j.dst + q) n
    match engWrite s j (j.dst + q) ((j.buf.drop j.wr).take n) (j.hot.contains e) with
    | (.ok _ _, s) => (s, { j with wr := j.wr + n, stand := none })
    | (.err, s) => (bumpCl s cl 0x598 j.issuers.length, { noteErr j 1 e with skip := e :: j.skip, stand := none })
    | (.wait c b, s) => standAt s j c b true

/-- The present chunk is behind the job: the elements that end in it have been performed. -/
def copyEnd (s : State) (cl : Nat) (j : Job) : State × Job :=
  let z := j.pos + j.chunk
  let n := ((span j.next (z / j.elen - j.next)).filter fun e => !j.skip.contains e).length
  (bumpCl s cl 0x588 (n * j.issuers.length),
    { j with pos := z, next := z / j.elen, buf := [], wr := 0, hot := j.hot.filter (z / j.elen ≤ ·)
             skip := j.skip.filter (z / j.elen ≤ ·), stand := none })

/-- The next access of an overlapping COPY: each source chunk is read whole before its destination is written (R169). -/
def copyStep (s : State) (cl : Nat) (j : Job) : State × Job :=
  if j.buf.length < j.chunk then copyRead s cl j
  else if j.wr < j.chunk then copyWrite s cl j
  else copyEnd s cl j

/-! WALK (R172). -/

/-- Do the words never decrease? -/
def rising : List Nat → Bool
  | a :: b :: t => a ≤ b && rising (b :: t)
  | _ => true

/-- The next access of a WALK: the row pointers are read and checked before any entry is written (R172). -/
def walkStep (s : State) (cl : Nat) (j : Job) : State × Job :=
  let bad := fun (j : Job) => (noteErr j (if j.rowsPsn then 12 else 8) 0).seek j.count
  if j.rows.length < j.rbound + 1 then
    match engRead s j (j.src + j.rows.length * iwBytes j) (iwBytes j) with
    | (.ok bs p, s) => (s, { j with rows := j.rows ++ [leNat bs], rowsPsn := j.rowsPsn || p, stand := none })
    | (.err, s) => (s, bad j)
    | (.wait c b, s) => standAt s j c b false
  else if !rising j.rows || j.elen < j.rows.headD 0 || j.rows.getLastD 0 < j.elen + j.count then (s, bad j)
  else elemStep s cl j

/-- The next access of a job (R169 to R172, R213). -/
def jobStep (s : State) (cl : Nat) (j : Job) : State × Job :=
  if j.count ≤ j.next then (s, { j with stand := none })
  else if j.opc = 4 then walkStep s cl j
  else if j.overlaps then copyStep s cl j
  else elemStep s cl j

/-- Does a job wait at a FIFO, and not for the end of a bank's mode change (R82, R83)? -/
def Job.atPort (s : State) (j : Job) : Bool :=
  match j.stand with
  | some (cl, b, _, _) => bankMode s cl b = 2 && !bankPend s cl b
  | none => false

/-- A job that waits at a FIFO is stopped by a cut, with CUTSTOP (R82, R177). -/
def stopJob (s : State) (cl : Nat) (j : Job) : State :=
  finishJob s cl { j with errs := j.errs ||| 32, bad := some (min (j.bad.getD j.next) j.next) }

/-- A merged job without the share of one hart (R377): once that was the first, the job's own scratchpad is the next
issuer's. -/
def Job.leave (s : State) (j : Job) (h : Nat) : Job :=
  if j.hart ≠ h then { j with more := j.more.filter (·.1 ≠ h) }
  else
    match j.more with
    | [] => j
    | e :: r =>
      let c := coreOf e.1
      { j with hart := e.1, more := r, core := c, pages := j.pages.map fun p =>
          if window0 / 65536 ≤ p.1 && inScratch s j.core p.2.1 then
            (p.1, p.2.1 - scratchPa s j.core 0 + scratchPa s c 0, p.2.2)
          else p }

/-- A cut stops a hart's job at a FIFO; of a merged one, the hart's share (R82, R177, R377). -/
def stopShare (s : State) (cl : Nat) (j : Job) (h : Nat) : State :=
  if j.more.isEmpty then stopJob s cl j
  else
    let r := stopJob s cl { j with more := [] }
    modCluster r cl fun c => { c with jobs := (getCluster s cl).jobs.map fun k => if k.uid = j.uid then k.leave s h else k }

/-- A job performs its next access (R169 to R172, R213); one that comes to wait at a FIFO while a cut waits for it is
stopped (R82). -/
def runJob (s : State) (cl : Nat) (j : Job) : State :=
  let (s, j) := jobStep s cl { j with started := true }
  let s := modCluster s cl fun c => { c with jobs := c.jobs.map fun k => if k.uid = j.uid then j else k }
  if !j.atPort s then s
  else
    (j.issuers.filter fun e => (getSlot s e.1).st = .parked .cut none).foldl (fun s e =>
      match (getCluster s cl).jobs.find? (·.uid == j.uid) with
      | some j => stopShare s cl j e.1
      | none => s) s

/-! Acceptance (R166 to R168, R327). -/

/-- The fields of a descriptor, if they are good (R166). -/
def jobFields (h : Nat) (d : List Word) (ops : List Nat) : Option Job :=
  let w0 := d.getD 0 0
  let w1 := d.getD 1 0
  let op := fld w0 63 60
  let et := ElemType.ofCode (fld w0 59 56)
  let iw := fld w0 55 54
  let nrows := (d.getD 5 0).toNat
  let iwb := if iw = 0 then 4 else 8
  let count := fld w0 31 0
  let elen := fld w1 31 0
  let okEt : Bool := if op = 3 then
      (match et with
       | some t => [ElemType.i32, .i64, .n32, .n64, .bf16, .fp16, .fp32].contains t && elen % esize t == 0
       | none => false)
    else fld w0 59 56 == 0
  let okLen : Bool := op == 4 || (decide (1 ≤ elen) && decide (elen ≤ 65536))
  if ops.contains op && iw ≤ 1 && fld w0 53 37 = 0 && 1 ≤ count && count ≤ 16777216 && fld w1 63 32 = 0 && okLen && okEt &&
      d.getD 7 0 = 0 && !(op = 4 && iw = 1 && 2 ^ 32 - 1 < nrows) && 0 < iwb then
    some { uid := 0, hart := h, opc := op, et := et.getD .i32, iw := iw, evt := fld w0 36 32, count := count, elen := elen,
           src := (d.getD 2 0).toNat, dst := (d.getD 3 0).toNat, idx := (d.getD 4 0).toNat, rbound := nrows,
           wbound := (d.getD 6 0).toNat, asid := 0, pages := [], regions := [], core := coreOf h, started := false,
           next := 0, stand := none, errs := 0, bad := none, region := false, tag := none
           msg := [], issued := 0, more := [], rows := [], rowsPsn := false }
  else none

/-- The read regions and the write region of a job (R167). -/
def jobReads (j : Job) : List (Nat × Nat) :=
  let il := (j.idx, j.count * iwBytes j)
  match j.opc with
  | 0 => [(j.src, j.count * j.elen)]
  | 1 => [il, (j.src, j.rbound)]
  | 4 => [(j.src, (j.rbound + 1) * iwBytes j), (j.idx + j.elen * iwBytes j, j.count * iwBytes j)]
  | _ => [il, (j.src, j.count * j.elen)]
def jobWrite (j : Job) : Nat × Nat :=
  match j.opc with
  | 0 | 1 => (j.dst, j.count * j.elen)
  | 4 => (j.dst, 8 * j.count)
  | _ => (j.dst, j.wbound)

/-- The pages of an engine region with their places, or the first fault (R167). A page in a window gap, or of the
register block in User mode, has no place: its bytes are element errors (R89; log 79). -/
def enginePages (s : State) (k : AccKind) : Nat → Nat → Nat → Except Trap (List (Nat × Xl))
  | 0, _, _ => .ok []
  | fuel + 1, va, n =>
    if n = 0 then .ok []
    else
      let left := 65536 - va % 65536
      let rest := enginePages s k fuel (va + left) (n - left)
      match xlate s (who s s.cur) va k with
      | .error t => if window0 ≤ va && va < 2 ^ 56 then rest else .error t
      | .ok x =>
        match rest with
        | .error t => .error t
        | .ok l => .ok ((va, x) :: l)

/-- The pages of an engine region of `n` bytes. -/
def engineRegion (s : State) (va n : Nat) (k : AccKind) : Except Trap (List (Nat × Xl)) :=
  enginePages s k (n / 65536 + 2) va n

/-- Translate the read regions in order. -/
def readRegions (s : State) : List (Nat × Nat) → Except Trap (List (Nat × Xl) × List (Nat × Nat × Bool))
  | [] => .ok ([], [])
  | (va, n) :: t =>
    match engineRegion s va n .read with
    | .error e => .error e
    | .ok l =>
      match readRegions s t with
      | .error e => .error e
      | .ok (m, r) => .ok (l ++ m, rangesOf l va n false ++ r)

/-- The first address of a region that lies in a FIFO-mode bank. -/
def fifoAt (s : State) (l : List (Nat × Xl)) : Option Nat :=
  (l.find? fun (_, x) => (fifoPort s [x.pa]).isSome).map (·.1)

/-- Has the destination of a job a byte in a FIFO-mode bank (R178)? -/
def dstFifo (s : State) (va n : Nat) : Bool :=
  (span 0 (n / 65536 + 2)).any fun i =>
    let a := if i = 0 then va else (va / 65536 + i) * 65536
    decide (a < va + n) && (match xlate s (who s s.cur) a .write with
      | .ok x => (fifoPort s [x.pa]).isSome
      | .error _ => false)

/-- Accept a job (R168): PEND rises by one. -/
def acceptJob (s : State) (j : Job) : State :=
  let cl := clusterOf j.core
  let j := { j with uid := s.uid }
  modCluster (cutNote { s with uid := s.uid + 1 } (2178 + cl) (j.core % 16) (.command j)) cl fun c => { c with
    jobs := c.jobs ++ [j]
    lines := tmod {} j.evt (fun l => { l with pend := l.pend + 1 }) c.lines }

/-- The command message of an engine command, as far as the combining node compares it (R311, R377); empty for one that
is never merged: SCADD, or a descriptor in the local window. -/
def jobMsg (s : State) (i : Instr) (opc : Nat) (da : Word) : List Nat :=
  let h := s.cur
  if opc = 3 || window0 ≤ da.toNat then []
  else [encodeNat i % 2 ^ 31, (getSlot s h).asid, b2n (privOf s h), b2n (nanOf s h), da.toNat]

/-- The job with an equal message that the engine has not accepted yet: no more than the seven cycles of R376 old, not
started, and none of its harts has issued another job since (R377; log 91). -/
def mergeable (s : State) (j : Job) : Option Job :=
  let js := (getCluster s (clusterOf j.core)).jobs
  if j.msg.isEmpty || j.region then none
  else js.find? fun k => k.msg = j.msg && !k.region && !k.started && decide (s.cycle < k.issued + 7) && !k.by j.hart &&
    k.issuers.all fun e => js.all fun m => m.uid = k.uid || m.issuers.all fun f => f.1 ≠ e.1 || f.2 < e.2

/-- Merge a command into an earlier job (R377): PEND of that job's line rises by one, and its core's scratchpad joins the
regions. -/
def mergeJob (s : State) (k j : Job) : State :=
  let cl := clusterOf j.core
  let own := window0 ≤ j.dst && j.dst < window0 + 0x30000 && j.core ≠ k.core
  let more := if own then (k.regions.filter fun r => r.2.2).map fun r =>
      (r.1 - scratchPa s k.core 0 + scratchPa s j.core 0, r.2.1, true) else []
  let k' := { k with more := k.more ++ [(j.hart, s.uid)], regions := k.regions ++ more }
  modCluster (cutNote (bumpCl { s with uid := s.uid + 1 } cl 0x5A8 1) (2178 + cl) (j.core % 16) (.command j)) cl fun c => { c with
    jobs := c.jobs.map fun m => if m.uid = k.uid then k' else m
    lines := tmod {} k.evt (fun l => { l with pend := l.pend + 1 }) c.lines }

/-- An engine command (R327): the checks in order, and acceptance. -/
def engine (i : Instr) (a : Fin 32) (okOps : List Nat) (s : State) : State :=
  issue i .none 0 s fun s =>
    let h := s.cur
    let ops := operands s [a.val]
    let da := ops.getD 0 0
    withRecord s ops da fun s d dp =>
      match jobFields h d okOps with
      | none => raise s (trap .accessFault 4 da)
      | some j =>
        let opn := (getSlot s h).region.isSome
        let (wv, wn) := jobWrite j
        if opn && (j.opc = 3 || dstFifo s wv wn) then raise s (trap .idemViolation 0 da)
        else
          match readRegions s (jobReads j) with
          | .error t => raise s t
          | .ok (rp, rr) =>
            match engineRegion s wv wn .write with
            | .error t => raise s t
            | .ok wp =>
              match regionFault s wp wv wn with
              | some v => raise s (trap .txFootprint 0 (wd v))
              | none =>
                if regionLate s wp wv wn then raise s (trap .txCheckLate 0 da)
                else
                  match (if j.opc = 3 then fifoAt s wp else none) with
                  | some v => raise s (trap .accessFault 2 (wd v))
                  | none => consume s [a.val] fun s _ => recPoison s da dp fun s =>
                    let j := { j with
                      asid := (getSlot s h).asid, pages := imagesOf (rp ++ wp), regions := rr ++ rangesOf wp wv wn true
                      region := opn, tag := (boundTxn s h).map (·.tag), msg := jobMsg s i j.opc da, issued := s.cycle }
                    if needMet s h (.jobRoom j.evt) then
                      let s := noteRegion s h wp wv wn
                      retire (match mergeable s j with
                        | some k => mergeJob s k j
                        | none => acceptJob s j) true
                    else parkFor s (.jobRoom j.evt) ops

def execCopy (sw : Bool) (a : Fin 32) (s : State) : Out := .next (engine (.copy sw a) a [0] s)
def execGather (sw : Bool) (a : Fin 32) (s : State) : Out := .next (engine (.gather sw a) a [1, 4] s)
def execScatter (sw : Bool) (a : Fin 32) (s : State) : Out := .next (engine (.scatter sw a) a [2] s)
def execScadd (sw : Bool) (a : Fin 32) (s : State) : Out := .next (engine (.scadd sw a) a [3] s)

/-- What waits at a bank: an access, or a job with its cluster, by arrival number. -/
def atFifo (s : State) (cl b : Nat) : Tbl (Access ⊕ (Nat × Job)) :=
  let accs := (atBank s cl b).map fun a => (arrivalOf s a, Sum.inl (β := Nat × Job) a)
  let jobs := s.clusters.flatMap fun (k, c) => c.jobs.filterMap fun j => match j.stand with
    | some (c', b', _, n) => if c' = cl && b' = b then some (n, Sum.inr (α := Access) (k, j)) else none
    | none => none
  (accs ++ jobs).foldl (fun t e => tput e.1 e.2 t) []

/-- FIFO_ACCESS_RESUME (R81 to R83): the accesses and the jobs that wait at a bank and can proceed do, in arrival order. -/
def execFifoAccessResume (cl b : Nat) (s : State) : Out :=
  .next ((atFifo s cl b).foldl (fun s e =>
    match e.2 with
    | .inl a =>
      (match perform s a with
       | (s', .done v p) => deliver (copiesAfter s' a) a v p
       | (s', .refused r) => refuse s' a r
       | (s', .poison) => poisonWait s' a
       | (s', .part) => copiesAfter s' a
       | (_, .wait) => s)
    | .inr (k, j) => runJob s k j) s)

/-- Do two jobs conflict (R175)? -/
def jobsConflict (a b : Job) : Bool :=
  a.regions.any fun (lo, n, w) => b.regions.any fun (lo', n', w') => (w || w') && lo < lo' + n' && lo' < lo + n

/-- Must a job wait for another: a conflicting one that one of its issuers issued before it (R175, R377)? -/
def jobAfter (j k : Job) : Bool :=
  k.uid ≠ j.uid && jobsConflict k j && j.issuers.any fun e => k.issuers.any fun f => f.1 = e.1 && f.2 < e.2

/-- What a job's start waits for (R175, R198, R377): every issuer's writes before its command acknowledged, its loads before
it performed, and no unfinished conflicting job that an issuer issued before. -/
def mayStart (s : State) (cl : Nat) (j : Job) : Bool :=
  !noticesPending s && !((getCluster s cl).jobs.any (jobAfter j)) &&
    j.issuers.all fun e =>
      (s.flight.all fun a => a.hart ≠ e.1 || e.2 ≤ a.uid || !(a.isWrite || a.underway)) &&
        (getSlot s e.1).outs.all fun o => !o.mem.any (· < e.2)

/-- JOB_START (R175, R213, R377): a job that may start starts with its first access; one that has started and waits at no
bank performs its next one (log 99). -/
def execJobStart (cl i : Nat) (s : State) : Out :=
  .next (match (getCluster s cl).jobs[i]? with
  | none => s
  | some j => if pagesHeld s j.pages then s else if (if j.started then j.next < j.count && j.stand.isNone else mayStart s cl j) then runJob s cl j else s)

/-- JOB_FINISH (R145, R173, R181): a job with all its elements behind it and its writes acknowledged leaves; PEND falls
and its errors join the line. -/
def execJobFinish (cl i : Nat) (s : State) : Out :=
  .next (match (getCluster s cl).jobs[i]? with
  | none => s
  | some j => if j.started && j.count ≤ j.next && !noticesPending s then finishJob s cl j else s)

/-- IDEM and IDEM close (R176, R328). -/
def idemGo (i : Instr) (point : Bool) (s : State) : State :=
  issue i .none 0 s fun s =>
    let h := s.cur
    if jobsPending s h then parkFor s .jobs []
    else retire (modSlot s h fun x => { x with region := if point then some x.pc else none }) true

def execIdem (sw : Bool) (s : State) : Out := .next (idemGo (.idem sw) true s)
def execIdemClose (sw : Bool) (s : State) : Out := .next (idemGo (.idemClose sw) false s)

/-- EVWAIT (R173, R329): line number `line`, an acquire at device scope of the jobs' finish. A hart that waits is served by the
finish that brings PEND to zero (`serveLine`). -/
def execEvwait (sw : Bool) (a line l : Fin 32) (s : State) : Out :=
  .next (issue (.evwait sw a line l) .none 0 s fun s =>
    if (getLine s (clusterOf (coreOf s.cur)) line.val).pend ≠ 0 then
      waitFor s (.event line.val) [wd a.val] (if l.val = 31 then none else some (2 ^ (l.val + 6)))
    else retire (takeLine s s.cur a.val line.val) true)

/-! Work-lists (R179, R180, R330). -/

/-- A list of a cluster. -/
def getList (s : State) (cl l : Nat) : WorkList := tget {} (getCluster s cl).wls l

/-- Change a list. -/
def modList (s : State) (cl l : Nat) (f : WorkList → WorkList) : State :=
  modCluster s cl fun c => { c with wls := tmod {} l f c.wls }

/-- The byte of a key's bit in the bitmap. -/
def keyPa (w : WorkList) (key : Nat) : Nat × Nat := (imageOf w.pages (w.bitmap + key / 8)).getD (0, 0)

/-- Is a key's bit set? -/
def keyBit (s : State) (w : WorkList) (key : Nat) : Bool :=
  let (pa, k) := keyPa w key
  (rdByte s k pa).getLsbD (key % 8)

/-- Write a key's bit. -/
def setKey (s : State) (w : WorkList) (key : Nat) (v : Bool) : State :=
  let (pa, k) := keyPa w key
  let m := BitVec.ofNat 8 (2 ^ (key % 8))
  let b := rdByte s k pa
  putBytes s k [(pa, if v then b ||| m else b &&& ~~~m)] false

/-- Append an item; beyond the 512 entries of the buffer it is written to the ring (R179, R181). -/
def appendItem (s : State) (cl l : Nat) (v : Word) (psn : Bool) : State :=
  let w := getList s cl l
  let s := if w.items.length < 512 then s
    else
      let (pa, k) := (imageOf w.pages (w.ring + 8 * (w.tail % w.cap))).getD (0, 0)
      bumpCl (putBytes s k ((span pa 8).zip (wBytes v)) psn) cl (0x518 + 32 * l) 1
  modList s cl l fun w => { w with items := w.items ++ [(v, psn)], tail := w.tail + 1 }

/-- Take up to `n` items for a hart into `d + 1` onward with their count in `d`; CLRPOP clears their bits (R180). -/
def takeItems (s : State) (cl l h d n : Nat) : State :=
  let w := getList s cl l
  let got := w.items.take n
  let s := modList s cl l fun w => { w with items := w.items.drop n, head := w.head + got.length }
  let s := if w.clrpop then got.foldl (fun s x => if fld x.1 31 0 < w.keys && w.bitmap ≠ 0 then setKey s w (fld x.1 31 0) false else s) s
    else s
  let s := notePsn s h (got.any (·.2))
  let s := (got.zip (span (d + 1) got.length)).foldl (fun s (x, r) => writeReg s h r x.1 x.2) s
  acquire (writeReg s h d (wd got.length) false) h .device

/-- The POISON trap of the items that a pop of up to `n` would take: the first poisoned one's place in the ring (R96, R312). -/
def itemsPoison (s : State) (h cl l n : Nat) : Option Trap :=
  let w := getList s cl l
  if !pteOf s h then none
  else ((w.items.take n).findIdx? (·.2)).map fun i => trap .poison 0 (wd (w.ring + 8 * ((w.head + i) % max 1 w.cap)))

/-- Serve waiting pops in arrival order (R180). -/
def serveList : Nat → State → Nat → Nat → State
  | 0, s, _, _ => s
  | fuel + 1, s, cl, l =>
    let w := getList s cl l
    match w.poppers with
    | [] => s
    | h :: hs =>
      if w.items.isEmpty then s
      else
        let ops := (getSlot s h).latch
        let s := modList s cl l fun w => { w with poppers := hs }
        match itemsPoison s h cl l (ops.getD 1 0).toNat with
        | some t => serveList fuel (takeTrap s h t (getSlot s h).pc) cl l
        | none => serveList fuel (completeWait (takeItems s cl l h (ops.getD 0 0).toNat (ops.getD 1 0).toNat) h true) cl l

/-- The trap of a full list (R174, R180). -/
def listFull (l : Nat) (w : WorkList) : Trap :=
  trap .queueTimeout 0 (wd (3 * 2 ^ 60 + l * 2 ^ 48 + w.head % 2 ^ 24 * 2 ^ 24 + w.tail % 2 ^ 24))

/-- The checks of a push or an insert in the order of R330 and R216: the list is configured, the form's own check, the list
is not full; then those of a write (R60, R339). -/
def listGo (s : State) (list : Fin 4) (own : WorkList → Option Trap) (k : WorkList → State) : State :=
  let h := s.cur
  let w := getList s (clusterOf (coreOf h)) list.val
  if !w.ok then raise s (trap .accessFault 4 w.record)
  else
    match own w with
    | some t => raise s t
    | none =>
      if w.cap ≤ w.items.length then raise s (listFull list.val w)
      else if pagesHeld s w.pages then parkFor s .key []
      else if scouting s h then raise s (trap .txFootprint 0 (wd list.val))
      else if unchecked s h then raise s (trap .txCheckLate 0 (wd list.val))
      else k w

def execWlpush (sw : Bool) (list : Fin 4) (b : Fin 32) (s : State) : Out :=
  .next (issue (.wlpush sw list b) .none 0 s fun s => listGo s list (fun _ => none) fun w =>
    let h := s.cur
    let cl := clusterOf (coreOf h)
    let ops := operands s [b.val]
    consume s [b.val] fun s p =>
      if writesPending s h then parkFor s .writes ops
      else
        let s := appendItem (retire s true) cl list.val (ops.getD 0 0) p
        serveList (w.poppers.length + 1) s cl list.val)

def execWlins (sw : Bool) (list : Fin 4) (a b : Fin 32) (s : State) : Out :=
  .next (issue (.wlins sw list a b) .none 0 s fun s =>
    let ops := operands s [b.val]
    let v := ops.getD 0 0
    let key := fld v 31 0
    listGo s list (fun w => if w.bitmap = 0 || w.keys ≤ key then some (trap .accessFault 4 v) else none) fun w =>
    let h := s.cur
    let cl := clusterOf (coreOf h)
    consume s [b.val] fun s p =>
      if writesPending s h then parkFor s .writes ops
      else if keyBit s w key then
        retire (bumpCl (writeReg s h a.val 0 p) cl (0x510 + 32 * list.val) 1) true
      else
        let s := retire (writeReg (setKey s w key true) h a.val 1 p) true
        serveList (w.poppers.length + 1) (appendItem s cl list.val v p) cl list.val)

def execWlpopb (sw : Bool) (list : Fin 4) (a : Fin 32) (nm1 : Fin 16) (l : Fin 32) (s : State) : Out :=
  .next (issue (.wlpopb sw list a nm1 l) .none 0 s fun s =>
    let h := s.cur
    let cl := clusterOf (coreOf h)
    let w := getList s cl list.val
    if !w.ok then raise s (trap .accessFault 4 w.record)
    else if pagesHeld s w.pages then parkFor s .key []
    else if !w.items.isEmpty && w.poppers.isEmpty then
      match itemsPoison s h cl list.val (nm1.val + 1) with
      | some t => raise s t
      | none => retire (takeItems s cl list.val h a.val (nm1.val + 1)) true
    else
      modList (waitFor s (.list list.val) [wd a.val, wd (nm1.val + 1)] (if l.val = 31 then none else some (2 ^ (l.val + 6))))
        cl list.val fun w => { w with poppers := w.poppers ++ [h] })

end Sys2Proof.Machine
end

