-- ==== Sys2Proof/Machine/Array.lean ====
section
/-! DEFINITION. The lookup array (R119 to R146, R314 to R324): leases and periods, tables, watches, spill and refill,
table mode, direct mode, accumulators and cooperating arrays. -/

namespace Sys2Proof.Machine

/-! State of the array. -/

/-- The array of a cluster. -/
def getArr (s : State) (cl : Nat) : Arr := (getCluster s cl).arr

/-- Change the array of a cluster. -/
def modArr (s : State) (cl : Nat) (f : Arr → Arr) : State := modCluster s cl fun c => { c with arr := f c.arr }

/-- An array context of a core. -/
def arrCtx (s : State) (core ctx : Nat) : ArrCtx := tget {} (getCore s core).arr ctx

/-- Change the active array context of a core. -/
def modAct (s : State) (core : Nat) (f : ArrCtx → ArrCtx) : State :=
  modCore s core fun c => { c with arr := tmod {} c.actx f c.arr }

/-- The name under which a core claims accumulators: core (0 to 15) × 2 + context. -/
def claimant (s : State) (core : Nat) : Nat := core % 16 * 2 + (getCore s core).actx

/-- Are the accumulators of a core's claim mask free or its own (R120)? -/
def claimsFree (s : State) (core : Nat) : Bool :=
  (span 0 4).all fun i =>
    !(actCtx s core).mask.testBit i || ((tfind (getArr s (clusterOf core)).claims i).getD (claimant s core) = claimant s core)

/-- May the core be granted a period: REQUESTING, its claims free (R120, R121)? -/
def eligible (s : State) (core : Nat) : Bool := (actCtx s core).lease = .requesting && claimsFree s core

/-- The core of number `k` in a cluster. -/
def coreIn (cl k : Nat) : Nat := cl * 16 + k % 16

/-- The next core after the holder that may be granted a period (R121). -/
def nextHolder (s : State) (cl : Nat) : Option Nat :=
  ((span 1 16).map fun d => coreIn cl ((getArr s cl).holder + d)).find? (eligible s)

/-- Is another core than the holder waiting with its claims free (R121)? -/
def othersWait (s : State) (cl : Nat) : Bool :=
  (span 0 16).any fun k => k ≠ (getArr s cl).holder && eligible s (coreIn cl k)

/-- A period begins (R121, R146). -/
def beginPeriod (s : State) (cl k : Nat) : State :=
  modArr (bumpCl s cl 0x248 1) cl fun a => { a with holder := k, active := true, begun := s.cycle, taken := 0, lastCmd := s.cycle }

/-- A period ends (R121): the holder is suspended if another core waits, and begins a new period at once if none does. -/
def endPeriod (s : State) (cl : Nat) : State :=
  let a := getArr s cl
  if othersWait s cl then
    modArr (modAct s (coreIn cl a.holder) fun c => { c with lease := .suspended }) cl fun a => { a with active := false }
  else beginPeriod s cl a.holder

/-- A command has been accepted (R119, R121, R146): numbers and counts; the 64th of a period ends it. -/
def countCmd (s : State) (cl : Nat) (inPeriod : Bool) : State :=
  let s := modArr (bumpCl s cl 0x210 1) cl fun a => { a with seq := a.seq + 1 }
  if !inPeriod then s
  else
    let s := modArr s cl fun a => { a with taken := a.taken + 1, lastCmd := s.cycle }
    if (getArr s cl).active && 64 ≤ (getArr s cl).taken then endPeriod s cl else s

/-- A core that was IDLE or SUSPENDED asks for a period; the holder's idle time counts from the first such (R121). -/
def request (s : State) (core : Nat) : State :=
  let cl := clusterOf core
  let s' := modAct s core fun c => { c with lease := .requesting }
  if othersWait s cl then s' else modArr s' cl fun a => { a with lastCmd := s.cycle }

/-- The claims of a core are released and it is IDLE (R123, R315). -/
def releaseLease (s : State) (core : Nat) : State :=
  let cl := clusterOf core
  let me := claimant s core
  let mine := (getArr s cl).active && coreIn cl (getArr s cl).holder = core
  let s := modAct s core fun c => { c with lease := .idle, granted := false, mask := 0 }
  modArr s cl fun a => { a with
    claims := a.claims.filter (·.2 ≠ me), active := a.active && !mine, lastCmd := s.cycle }

/-! Traps of the array (R133, R136, R143). -/

/-- ACC_BUSY, naming an operation's issuer and sequence number (R143). -/
def accBusy (acc hart seq : Nat) : Trap := trap .accBusy 0 (wd (acc * 2 ^ 56 + hart % 8192 * 2 ^ 32 + seq % 2 ^ 32))

/-- The ACC_BUSY of an open block, if the accumulator has one. -/
def openBusy (s : State) (cl acc : Nat) : Option Trap :=
  ((tget {} (getArr s cl).accs acc).opn).map fun (_, _, h, q) => accBusy acc h q

/-- TABLE_INDEX_RANGE (R133). -/
def tableRange (reason tb code group rows col : Nat) : Trap :=
  trap .tableIndexRange 0
    (wd (reason * 2 ^ 60 + tb * 2 ^ 55 + code * 2 ^ 40 + group % 256 * 2 ^ 32 + rows * 2 ^ 16 + col))

/-- The codes of the causes of R136. -/
def StaleCause.code : StaleCause → Nat
  | .written => 0 | .remoded => 1 | .lost => 2 | .notice => 3

/-- TABLE_STALE (R136). -/
def tableStale (tb : Nat) (c : StaleCause × Nat) : Trap :=
  trap .tableStale 0 (wd (tb * 2 ^ 56 + c.1.code * 2 ^ 50 + c.2 % 2 ^ 32))

/-! Lease control (R315, R316). -/

/-- A parameter word whose bits above its fields are not zero (R313). -/
def badParam (ws : List (Word × Bool)) : Option Trap :=
  (ws.find? fun x => !x.2).map fun x => trap .accessFault 4 x.1

/-- LEASE (R120, R315). Poison of its operands comes after the checks of the lease record, that is on the grant, where it
waits for one (R216, R312). -/
def execLease (sw : Bool) (a b c : Fin 32) (s : State) : Out :=
  .next (issue (.lease sw a b c) .none 0 s fun s =>
    let h := s.cur
    let core := coreOf h
    let ops := operands s [a.val, b.val, c.val]
    let va := ops.getD 0 0
    let mask := ops.getD 1 0
    let bnd := ops.getD 2 0
    match badParam [(mask, decide (mask.toNat < 16)), (bnd, decide (bnd.toNat < 2 ^ 32))] with
    | some t => raise s t
    | none =>
      if va.toNat % 64 ≠ 0 then raise s (trap .misaligned 1 va)
      else
        let x := getSlot s h
        let again := latched s
        let l := (actCtx s core).lease
        if l = .active || l = .suspended then
          consume s [a.val, b.val, c.val] fun s _ => retire (modAct s core fun k => { k with bound := bnd.toNat }) true
        else
          let s := modAct s core fun k => { k with bound := bnd.toNat }
          let s := if l = .idle then
              request (modAct s core fun k => { k with
                mask := mask.toNat, recAt := va.toNat, req := h, priv := privOf s h, asid := x.asid, granted := false }) core
            else s
          let s := waitFor s .lease [va, mask, bnd, wd a.val, wd b.val, wd c.val] (if bnd = 0 then none else some bnd.toNat)
          if again then modSlot s h fun y => { y with since := x.since } else s)

/-- The members of a lease record, if it is good (R124, R144). -/
def leaseMembers (core : Nat) (d : List Word) : Option (List Nat) :=
  let w1 := d.getD 1 0
  let n := fld w1 50 48
  let all := (span 0 7).map fun i => fld (d.getD (2 + i / 4) 0) (16 * (i % 4) + 15) (16 * (i % 4))
  let ms := all.take n
  let cls := clusterOf core :: ms.map clusterOf
  if fld (d.getD 0 0) 19 0 = 0 && fld w1 63 51 = 0 && fld w1 47 0 = 0 && fld (d.getD 3 0) 63 48 = 0 &&
      (d.drop 4).all (· = 0) && all.all (· < 2048) && ms.all (fun m => m / 1024 = core / 1024) && cls.eraseDups = cls then
    some ms
  else none

/-- The hart that reads the lease record on a grant: the one that made the request if it still waits, else the first
that waits. -/
def leaseReader (s : State) (core : Nat) : Option Nat :=
  let ws := (span (core * 4) 4).filter fun h => (getSlot s h).st = .waiting .lease
  if ws.contains (actCtx s core).req then some (actCtx s core).req else ws.head?

/-- The first operand of a waiting LEASE that was poisoned at its issue. -/
def leasePsn (s : State) (h : Nat) : Option Nat :=
  (((getSlot s h).latch.drop 3).map (·.toNat)).find? fun r => (getSlot s h).lpsn.contains r

/-- A waiting LEASE completes, or takes the POISON of its operands under PTE (R96, R312). -/
def endLease (s : State) (h : Nat) : State :=
  match leasePsn s h with
  | none => completeWait s h true
  | some r =>
    if pteOf s h then takeTrap s h (trap .poison 0 (regVa s h r)) (getSlot s h).pc
    else completeWait (setPoisoned s h) h true

/-- The lease is granted: claims are taken, and every waiting LEASE of the core completes (R120, R315). -/
def grantLease (s : State) (cl core : Nat) : State :=
  let me := claimant s core
  let s := modAct (beginPeriod s cl (core % 16)) core fun c => { c with lease := .active, granted := true }
  let s := modArr s cl fun a => { a with
    claims := (span 0 4).foldl (fun t i => if (actCtx s core).mask.testBit i then tput i me t else t) a.claims }
  (span (core * 4) 4).foldl (fun s h =>
    if (getSlot s h).st = .waiting .lease then endLease s h else s) s

/-- A grant whose record is bad: the period ends, the core becomes IDLE, and the LEASE traps (R315). -/
def failLease (s : State) (cl core h : Nat) (t : Trap) : State :=
  let s := releaseLease (modAct (beginPeriod s cl (core % 16)) core fun c => { c with lease := .active }) core
  takeTrap s h t (getSlot s h).pc

/-- LEASE_GRANT (R121, R315): no period runs, and the next core whose claims are free becomes ACTIVE; its lease record is
read on the first grant since it was IDLE. -/
def execLeaseGrant (cl : Nat) (s : State) : Out :=
  .next (
    if (getArr s cl).active then s
    else
      match nextHolder s cl with
      | none => s
      | some core =>
        let x := actCtx s core
        if x.granted then grantLease s cl core
        else
          match leaseReader s core with
          | none => s
          | some h =>
            match readUnit { s with cur := h } x.recAt 64 with
            | .later _ => s
            | .fault t => failLease s cl core h { t with value := wd x.recAt }
            | .ok bs p =>
              let d := (span 0 8).map fun i => ofBytes ((bs.drop (8 * i)).take 8)
              match leaseMembers core d with
              | none => failLease s cl core h (trap .accessFault 4 (wd x.recAt))
              | some ms =>
                let s := afterUnit { s with cur := h } x.recAt 64 bs p
                match (if pteOf s h then leasePsn s h else none) with
                | some r => failLease s cl core h (trap .poison 0 (regVa s h r))
                | none =>
                if p && pteOf s h then failLease s cl core h (trap .poison 0 (wd x.recAt))
                else
                  let s := modAct (notePsn s h p) core fun c => { c with spill := (d.getD 0 0).toNat, nmem := ms.length, mem := ms }
                  grantLease s cl core)

/-- LEASE_PERIOD_EXPIRY (R121). -/
def execLeasePeriodExpiry (cl : Nat) (s : State) : Out :=
  .next (if (getArr s cl).active && (getArr s cl).begun + 16384 ≤ s.cycle then endPeriod s cl else s)

/-- Has the holder a command waiting or in flight: one of its harts at a command not yet accepted, one queued, or an
open block (R121, R134)? -/
def holderBusy (s : State) (cl : Nat) : Bool :=
  let core := coreIn cl (getArr s cl).holder
  ((getArr s cl).cmds.any fun c => c.core = core) ||
  ((span (core * 4) 4).any fun h => (getSlot s h).arrCmd) ||
  ((getArr s cl).accs.any fun a => a.2.opn.any fun o => coreOf o.2.2.1 = core)

/-- LEASE_IDLE_EXPIRY (R121). -/
def execLeaseIdleExpiry (cl : Nat) (s : State) : Out :=
  .next (
    let a := getArr s cl
    if a.active && !holderBusy s cl && othersWait s cl && a.lastCmd + 256 ≤ s.cycle then endPeriod s cl else s)

/-- Empty every table of a context, and free its registers (R123). -/
def discardTables (s : State) (core : Nat) : State :=
  let x := (getCore s core).actx
  let s := modAct s core fun c => { c with tabs := [] }
  modArr s (clusterOf core) fun a => { a with regs := a.regs.filter fun r => r.2.1 / 8 ≠ core % 16 * 2 + x }

/-- UNLEASE and UNLEASE discard (R123, R316). -/
def unleaseGo (i : Instr) (disc : Bool) (s : State) : State :=
  issue i .none 0 s fun s =>
    let h := s.cur
    let core := coreOf h
    let cl := clusterOf core
    let fin := fun (s : State) => retire (if disc then discardTables s core else s) true
    if (actCtx s core).lease = .idle then fin s
    else if !needMet s h .arrayIdle then parkFor s .arrayIdle []
    else
      match (span 0 4).findSome? fun i =>
          if tfind (getArr s cl).claims i = some (claimant s core) then openBusy s cl i else none with
      | some t => raise s t
      | none => fin (releaseLease s core)

def execUnlease (sw : Bool) (s : State) : Out := .next (unleaseGo (.unlease sw) false s)
def execUnleaseDiscard (sw : Bool) (s : State) : Out := .next (unleaseGo (.unleaseDiscard sw) true s)

/-! Array commands (R122, R125, R126, R314). -/

/-- What a core's command on these tables and this accumulator waits for where it waits before its acceptance: every
earlier command of the core that names one of them has finished (R126, R322), and, for a command of the period, every
command that an ended period accepted (R121). -/
def earlierDone (s : State) (tbs : List Nat) (acc : Option Nat) (period : Bool) (ops : List Word) (k : State → State) : State :=
  if needMet s s.cur (.array tbs acc period) then k s else parkFor s (.array tbs acc period) ops

/-- The lease check and the claim check of an array command; one of a SUSPENDED core waits for a period (R122, R314). One of
a core that is REQUESTING its first lease waits for the period too, under the bound of the core's last LEASE: R122 names only
SUSPENDED and IDLE cores, so that is the model's choice (log 103). -/
def arrayGo (s : State) (ops : List Word) (acc : Option Nat) (k : State → State) : State :=
  let h := s.cur
  let core := coreOf h
  let x := actCtx s core
  match x.lease with
  | .idle => raise s (trap .leaseTimeout 0 0)
  | .active =>
    match acc.filter fun n => !x.mask.testBit n with
    | some n => raise s (trap .accessFault 4 (wd n))
    | none =>
      if s.tr.keyCmd.isSome then parkFor s .key ops
      else k (modSlot (modArr s (clusterOf core) fun a => { a with lastCmd := s.cycle }) h fun y => { y with arrCmd := true })
  | l =>
    let s := if l = .suspended then request s core else s
    waitFor s .arrayPeriod ops (if x.bound = 0 then none else some x.bound)

/-- Queue an accepted command (R126). -/
def acceptCmd (s : State) (pages : List Nat) (op : ArrOp) : State :=
  let h := s.cur
  let core := coreOf h
  let cl := clusterOf core
  let c : ArrCmd := { seq := (getArr s cl).seq, core := core, ctx := (getCore s core).actx, hart := h
                      asid := (getSlot s h).asid, pages := pages, op := op, after := s.uid }
  retire (countCmd (modArr s cl fun a => { a with cmds := a.cmds ++ [c] }) cl true) true

/-- The command at an index that nothing earlier holds back: no command of an ended period, none of its core that names
the same table or accumulator, and no unacknowledged store of its hart (R121, R126, R145). -/
def readyCmd (s : State) (cl i : Nat) : Option ArrCmd :=
  (getArr s cl).cmds[i]?.filter fun c =>
    !noticesPending s && !(s.flight.any fun a => a.hart = c.hart && a.uid < c.after && a.isWrite) &&
    ((getArr s cl).cmds.take i).all fun b => b.core = c.core && !b.blocks c.core c.ctx c.tables c.accu

/-- A command has finished. -/
def dropCmd (s : State) (cl : Nat) (c : ArrCmd) : State :=
  modArr s cl fun a => { a with
    cmds := a.cmds.filter (·.seq ≠ c.seq)
    lastCmd := if coreIn cl a.holder = c.core then s.cycle else a.lastCmd }

/-- Change an accumulator. -/
def modAcc (s : State) (cl acc : Nat) (f : Acc → Acc) : State := modArr s cl fun a => { a with accs := tmod {} acc f a.accs }

/-- An element put into a bank, whose zeros are not listed. -/
def putElem (k : Nat) (v : BitVec 32) (t : Tbl (BitVec 32)) : Tbl (BitVec 32) := if v = 0 then tdel k t else tput k v t

def acswapGo (i : Instr) (acc : Fin 4) (zero : Bool) (s : State) : State :=
  issue i .none 0 s fun s => arrayGo s [] (some acc.val) fun s =>
    match openBusy s (clusterOf (coreOf s.cur)) acc.val with
    | some t => raise s t
    | none => acceptCmd s [] (.swap acc.val zero)

/-- ACSWAP (R142, R317): queued behind the accumulator's earlier operations. -/
def execAcswap (sw : Bool) (acc : Fin 4) (s : State) : Out := .next (acswapGo (.acswap sw acc) acc false s)
def execAcswapZero (sw : Bool) (acc : Fin 4) (s : State) : Out := .next (acswapGo (.acswapZero sw acc) acc true s)

/-- ACCUMULATOR_EXCHANGE (R142): the banks change places, with their poison; the zero option clears the new working bank. -/
def execAccumulatorExchange (cl i : Nat) (s : State) : Out :=
  .next (match readyCmd s cl i with
  | none => s
  | some c =>
    match c.op with
    | .swap acc zero => dropCmd (modAcc s cl acc fun a => { a with vis := a.work, work := if zero then {} else a.vis }) cl c
    | _ => s)

/-! Tables (R127 to R131, R137 to R139). -/

/-- A loop-nest record (R127). -/
structure Nest where
  base : Nat
  cnt  : List Nat
  str  : List Int
  deriving DecidableEq, Repr

/-- The record of eight words, if its fields are good. -/
def nestOf (d : List Word) : Option Nest :=
  let ws := (d.drop 1).take 4
  if ws.all (fun w => fld w 63 48 ≠ 0) && (d.drop 5).all (· = 0) then
    some ⟨(d.getD 0 0).toNat, ws.map fun w => fld w 63 48, ws.map fun w => sint 48 (fld w 47 0)⟩
  else none

/-- The X and Y extents. -/
def Nest.x (n : Nest) : Nat := n.cnt.getD 0 1 * n.cnt.getD 2 1
def Nest.y (n : Nest) : Nat := n.cnt.getD 1 1 * n.cnt.getD 3 1

/-- The address of element (X, Y). -/
def Nest.addr (n : Nest) (x y : Nat) : Nat :=
  let c0 := n.cnt.getD 0 1
  let c1 := n.cnt.getD 1 1
  let off : Int := (x % c0 : Nat) * n.str.getD 0 0 + (y % c1 : Nat) * n.str.getD 1 0 +
    (x / c0 : Nat) * n.str.getD 2 0 + (y / c1 : Nat) * n.str.getD 3 0
  (((n.base : Int) + off) % 2 ^ 64).toNat

/-- The first element in order that is not aligned to `z` bytes: the base, or the first step of a dimension. -/
def Nest.misaligned (n : Nest) (z : Nat) : Option Nat :=
  if n.base % z ≠ 0 then some n.base
  else
    ((n.cnt.zip n.str).find? fun (c, t) => 1 < c && t % (z : Int) ≠ 0).map fun (_, t) =>
      (((n.base : Int) + t) % 2 ^ 64).toNat

/-- The elements (X, Y) in the order of R127: i0 fastest, then i1, i2 and i3. -/
def Nest.order (n : Nest) : List (Nat × Nat) :=
  let c := fun (d : Nat) => n.cnt.getD d 1
  (span 0 (c 3)).flatMap fun i3 => (span 0 (c 2)).flatMap fun i2 => (span 0 (c 1)).flatMap fun i1 =>
    (span 0 (c 0)).map fun i0 => (i0 + c 0 * i2, i1 + c 1 * i3)

/-- The addresses of the elements in that order. -/
def Nest.elems (n : Nest) : List Nat := n.order.map fun e => n.addr e.1 e.2

/-- The addresses of the elements by rows, X fastest. -/
def Nest.grid (n : Nest) : List Nat := (span 0 n.y).flatMap fun y => (span 0 n.x).map fun x => n.addr x y

/-- Fetch and check a loop-nest record (R127): aligned, fetched, its fields and then `ok`. -/
def withNest (s : State) (ops : List Word) (va : Word) (ok : Nest → Bool) (k : State → Nest → Bool → State) : State :=
  withRecord s ops va fun s d p =>
    match (nestOf d).filter ok with
    | none => raise s (trap .accessFault 4 va)
    | some n => k s n p

/-- Groups of activations, entries and the largest number of groups, by kind (R128, R129). -/
def kindG : TblKind → Nat
  | .trn => 5
  | _ => 4
def kindSlots : TblKind → Nat
  | .trn => 256
  | _ => 16
def kindMaxGroups : TblKind → Nat
  | .trn => 26
  | _ => 32

/-- The bytes of a table in a register or a spill slot (R130). -/
def Table.size (t : Table) : Nat := t.rows * t.groups * kindSlots t.kind * esize t.ty

/-- The address of a spill slot (R138). -/
def spillSlot (c : ArrCtx) (v : Nat) : Nat := c.spill + v * 0x20000

/-- The byte places of a spill slot, if every page translates and has storage (R138, R139): translated memory, and for a write
unsealed pages (R390). -/
def spillPas (s : State) (core : Nat) (c : ArrCtx) (v n : Nat) (k : AccKind) : Except Trap (List (Nat × Nat)) :=
  let va := spillSlot c v
  match pagesX s ⟨core, c.asid, c.priv⟩ k (n / 65536 + 2) va n with
  | .error t => .error { t with value := wd va }
  | .ok l =>
    if l.any fun p => p.2.win || (k = .write && p.2.sealed) then .error (trap .accessFault k.sub (wd va))
    else
      let cells := regionCells l va n
      let pas := cells.map (·.1)
      if !engineOk s pas || pas.any (fun a => (fifoPort s [a]).isSome) then .error (trap .accessFault k.sub (wd va)) else .ok cells

/-- Change a table by core, context and number, and free its register. -/
def unplace (s : State) (core ctx v : Nat) (f : Table → Table) : State :=
  modArr (modTab s core ctx v fun t => { f t with reg := none, vals := [] }) (clusterOf core) fun a =>
    { a with regs := a.regs.filter fun r => r.2.1 ≠ core % 16 * 16 + ctx * 8 + v }

/-- EVICTION of a resident table (R138): spilled, or discarded and LOST. -/
def evict (s : State) (core ctx v : Nat) : State :=
  let cl := clusterOf core
  let c := arrCtx s core ctx
  let t := tget {} c.tabs v
  let place := if t.stale.isSome || c.spill = 0 then none else (spillPas s core c v t.size .write).toOption
  match place with
  | some cells =>
    let data := t.vals.flatMap fun e => leBytes (esize t.ty) e.toNat
    bumpCl (unplace (dropCopies (putKeyed s (cells.zip data) t.psn) core (cells.map (·.1))) core ctx v fun t => { t with st := .spilled }) cl 0x228 1
  | none => bumpCl (unplace (markOne s core ctx v .lost 0) core ctx v fun t => { t with st := .lost }) cl 0x238 1

/-- The table that a physical register holds: its core, context and number. -/
def regTable (cl o : Nat) : Nat × Nat × Nat := (coreIn cl (o / 16), o / 8 % 2, o % 8)

/-- Is the table in the register still being built? -/
def regBuilding (s : State) (cl o : Nat) : Bool :=
  let t := regTable cl o
  (tget {} (arrCtx s t.1 t.2.1).tabs t.2.2).st = .building

/-- The register with the least recent use; the list is in rising order of registers. -/
def leastUsed : List (Nat × Nat × Nat) → Option (Nat × Nat × Nat)
  | [] => none
  | r :: t =>
    match leastUsed t with
    | none => some r
    | some q => if q.2.2 < r.2.2 then some q else some r

/-- A register for a table (R137), evicting if none is free, and never one of the tables `need` of the core; none while
every candidate is still being built. A register that a multicast copy fills is as recent as a command accepted now: the
model's choice (log 83). -/
def place (s : State) (core ctx v : Nat) (need : List Nat) : Option State :=
  let cl := clusterOf core
  let me := core % 16 * 16 + ctx * 8
  let regs := (getArr s cl).regs
  let put := fun (s : State) (r : Nat) =>
    modTab (modArr s cl fun a => { a with regs := tput r (me + v, a.seq) a.regs }) core ctx v fun t => { t with reg := some r }
  match (tget {} (arrCtx s core ctx).tabs v).reg with
  | some r => some (put s r)
  | none =>
    match (span 0 8).find? fun r => (tfind regs r).isNone with
    | some r => some (put s r)
    | none =>
      let cand := regs.filter fun r => !(need.contains (r.2.1 - me) && me ≤ r.2.1) && !regBuilding s cl r.2.1
      let oth := cand.filter fun r => r.2.1 / 16 ≠ core % 16
      match leastUsed (if oth.isEmpty then cand else oth) with
      | none => none
      | some (r, o, _) =>
        let t := regTable cl o
        some (put (evict s t.1 t.2.1 t.2.2) r)

/-- The entries of a table from its bytes. -/
def entriesOf (z : Nat) (bs : List Byte) : List (BitVec 32) :=
  (span 0 (bs.length / z)).map fun i => BitVec.ofNat 32 (leNat ((bs.drop (i * z)).take z))

/-- REFILL of a SPILLED table (R139). -/
def refill (s : State) (core ctx v : Nat) (need : List Nat) : Except Trap (Option State) :=
  let c := arrCtx s core ctx
  let t := tget {} c.tabs v
  match spillPas s core c v t.size .read with
  | .error e => .error e
  | .ok cells =>
    let bs := getKeyed s cells
    let p := anyPsn s (cells.map (·.1))
    .ok ((place s core ctx v need).map fun s =>
      bumpCl (modTab s core ctx v fun t => { t with st := .resident, vals := entriesOf (esize t.ty) bs, psn := t.psn || p })
        (clusterOf core) 0x230 1)

/-- Make tables resident (R137, R139). -/
def residents (core ctx : Nat) (need : List Nat) : List Nat → State → Except Trap (Option State)
  | [], s => .ok (some s)
  | v :: vs, s =>
    let r := if (tget {} (arrCtx s core ctx).tabs v).st = .spilled then refill s core ctx v need
      else .ok (place s core ctx v need)
    match r with
    | .error t => .error t
    | .ok none => .ok none
    | .ok (some s) => residents core ctx need vs s

/-- The check of a TBSPILL's write: a scout's, or one before the TXCHK that has to pass (R60, R339). Only a table that would be
written counts; the spills that other commands cause raise no trap (R138; log 103). -/
def spillCheck (s : State) (core ctx v : Nat) : Option Trap :=
  let c := arrCtx s core ctx
  let t := tget {} c.tabs v
  if t.stale.isSome || c.spill = 0 || (spillPas s core c v t.size .write).toOption.isNone then none
  else if scouting s s.cur then some (trap .txFootprint 0 (wd (spillSlot c v)))
  else if unchecked s s.cur then some (trap .txCheckLate 0 (wd (spillSlot c v)))
  else none

/-- TBSPILL (R139, R318). -/
def execTbspill (sw : Bool) (tb : Fin 8) (s : State) : Out :=
  .next (issue (.tbspill sw tb) .none 0 s fun s => arrayGo s [] none fun s => earlierDone s [tb.val] none true [] fun s =>
    let core := coreOf s.cur
    let x := (getCore s core).actx
    if (actTab s core tb.val).st = .resident then
      match spillCheck s core x tb.val with
      | some t => raise s t
      | none => retire (countCmd (evict s core x tb.val) (clusterOf core) true) true
    else retire (countCmd s (clusterOf core) true) true)

/-- TBFILL (R139, R318). -/
def execTbfill (sw : Bool) (tb : Fin 8) (s : State) : Out :=
  .next (issue (.tbfill sw tb) .none 0 s fun s => arrayGo s [] none fun s => earlierDone s [tb.val] none true [] fun s =>
    let core := coreOf s.cur
    let x := (getCore s core).actx
    let fin := fun (s : State) => retire (countCmd s (clusterOf core) true) true
    let t := actTab s core tb.val
    match t.st with
    | .lost => raise s (tableStale tb.val (t.stale.getD (.lost, 0)))
    | .empty => raise s (tableRange 4 tb.val 0 0 0 0)
    | .spilled =>
      (match refill s core x tb.val [tb.val] with
       | .error t => raise s t
       | .ok none => parkFor s .builds []
       | .ok (some s) => fin s)
    | .resident => fin ((place s core x tb.val [tb.val]).getD s)
    | _ => fin s)

/-! TBUILD (R129 to R131, R319, R320). -/

/-- The element type of a source keyword. -/
def srcElem : SrcType → ElemType
  | .bf16 => .bf16 | .fp16 => .fp16 | .fp32 => .fp32 | .i8 => .i8

/-- The source and entry types, or none where FMT names one that TBUILD does not take (R129). -/
def buildTypes (st : SrcType) (f : Fmt) : Option (ElemType × ElemType) :=
  let src := f.st.getD (srcElem st)
  if src = .i8 then (if f.dt.getD .i16 = .i16 then some (.i8, .i16) else none)
  else if eFloat src && eFloat (f.dt.getD .bf16) then some (src, f.dt.getD .bf16)
  else none

/-- The storage unit of a window address that a TBUILD may read, by its base, and the byte's place (R131). -/
def sourceUnit (s : State) (h va : Nat) : Option (Nat × Nat) :=
  if va < window0 then none
  else
    (xlWindow s (coreOf h) (privOf s h) (va - window0)).bind fun x =>
      match targetOf (offsetOf x.pa) with
      | .scratch c => if clusterOf c = clusterOf (coreOf h) then some (scratchPa s c 0, x.pa) else none
      | .sram cl => if cl = clusterOf (coreOf h) && (bankModes s [x.pa]).all (· = 0) then some (sramPa s cl 0, x.pa) else none
      | _ => none

/-- The window's storage at the addresses of a source, whatever the modes of its banks. -/
def sourceStore (s : State) (h : Nat) (n : Nest) : List Nat :=
  n.elems.filterMap fun va =>
    if va < window0 then none else (xlWindow s (coreOf h) (privOf s h) (va - window0)).map (·.pa)

/-- The first source byte outside the storage unit of the first element (R131). -/
def strayByte (s : State) (h z : Nat) (n : Nest) : Option Nat :=
  let u := (sourceUnit s h n.base).map (·.1)
  (n.elems.flatMap fun va => span va z).find? fun b => u.isNone || (sourceUnit s h b).map (·.1) ≠ u

/-- The physical addresses of the elements of a source, by rows. -/
def sourcePas (s : State) (h : Nat) (n : Nest) : List Nat :=
  n.grid.map fun va => ((sourceUnit s h va).map (·.2)).getD 0

/-- TBUILD (R319): accepted, and its watch armed, after the hart's own earlier stores (R126, R135). Built again without
multicast, the table forgets the holders of its copies, those that were not stale too: what a later mark does to them is the
model's choice (R145; log 103). -/
def execTbuild (sw : Bool) (tb : Fin 8) (b c : Fin 32) (kind : TblKind) (st : SrcType) (mc : Bool) (s : State) : Out :=
  let i := Instr.tbuild sw tb b c kind st mc
  .next (issue i .fmt 0 s fun s =>
    let h := s.cur
    let core := coreOf h
    let f := fmtOf s
    match buildTypes st f with
    | none => raise s (illegal i)
    | some (src, ty) =>
      let ops := operands s [b.val, c.val]
      let gw := ops.getD 1 0
      match badParam [(gw, decide (gw.toNat < 32))] with
      | some t => raise s t
      | none => arrayGo s ops none fun s =>
        withNest s ops (ops.getD 0 0) (fun n => n.y ≤ 128) fun s n rp =>
          let g0 := gw.toNat
          let groups := (n.x + kindG kind - 1) / kindG kind
          if let some k := pendBank s (sourceStore s h n) then parkFor s (.bank k) ops
          else
          match strayByte s h (esize src) n, n.misaligned (esize src) with
          | some a, _ => raise s (trap .accessFault 1 (wd a))
          | none, some a => raise s (trap .misaligned 1 (wd a))
          | none, none =>
            if kindMaxGroups kind < g0 + groups then raise s (tableRange 2 tb.val 0 (min (g0 + groups - 1) 255) 0 0)
            else if 131072 < n.y * groups * kindSlots kind * esize ty then raise s (tableRange 5 tb.val 0 0 0 0)
            else consume s [b.val, c.val] fun s _ => recPoison s (ops.getD 0 0) rp fun s =>
              let pas := sourcePas s h n
              earlierDone s [tb.val] none true ops fun s =>
                let x := (getCore s core).actx
                match place s core x tb.val [tb.val] with
                | none => parkFor s .builds ops
                | some s =>
                  let unit := ((sourceUnit s h n.base).map (·.1)).getD 0
                  let lo := pas.foldl min (pas.headD 0)
                  let hi := pas.foldl max 0 + esize src - 1
                  let nt : Table := { st := .building, kind := kind, ty := ty, rows := n.y, groups := groups, gbase := g0
                                      watch := some (unit, lo - unit, hi - unit) }
                  let s := modTab s core x tb.val fun t => { nt with reg := t.reg }
                  let places := pas.map fun a => (a, 0)
                  acceptCmd s [] (.build {
                    core := core, ctx := x, tb := tb.val, kind := kind, src := src, ty := ty
                    ftz := f.ftz, sat := f.sat, rows := n.y, x := n.x, gbase := g0, pas := places, mc := mc }))

/-- TBUILD rcv (R320): the table is announced. A pending FMT is used up, with whatever options it has (R115, R255). -/
def execTbuildRcv (sw : Bool) (tb : Fin 8) (s : State) : Out :=
  .next (issue (.tbuildRcv sw tb) .fmt 0 s fun s => arrayGo s [] none fun s => earlierDone s [] none true [] fun s =>
    let core := coreOf s.cur
    let s := unplace s core (getCore s core).actx tb.val fun _ => { st := .expected }
    retire (countCmd s (clusterOf core) true) true)

/-- The value of an activation or an entry. -/
def elemNum (t : ElemType) (ftz : Bool) (raw : Nat) : Num := if eFloat t then fpDec t ftz raw else intNum (eVal t raw)

/-- An entry as the exact sum of its terms, rounded once (R128, R130). -/
def entryOf (c : BuildCmd) (a : List Num) (e : Nat) : BitVec 32 :=
  let terms := match c.kind with
    | .sub => (span 0 4).filterMap fun i => if e.testBit i then a[i]? else none
    | .sgn => (span 0 4).filterMap fun i => (a[i]?).map fun v => if e.testBit i then numNeg v else v
    | .trn => if 243 ≤ e then [] else (span 0 5).filterMap fun i => (a[i]?).map fun v =>
        match e / 3 ^ i % 3 with
        | 0 => numNeg v
        | 1 => numMul (.fin false 0 0) v
        | _ => v
  match terms with
  | [] => 0
  | t :: ts =>
    let v := ts.foldl numAdd t
    BitVec.ofNat 32 (if eFloat c.ty then fpRnd c.ty c.ftz c.sat v else eFit c.ty false (numInt v))

/-- All entries of a table in the order of R130. -/
def buildEntries (c : BuildCmd) (raw : List Nat) : List (BitVec 32) :=
  let groups := (c.x + kindG c.kind - 1) / kindG c.kind
  (span 0 c.rows).flatMap fun r => (span 0 groups).flatMap fun j =>
    let a := (span 0 (kindG c.kind)).map fun i =>
      let x := kindG c.kind * j + i
      if c.x ≤ x || (c.kind = .trn && 128 ≤ 5 * (c.gbase + j) + i) then (.fin false 0 0 : Num)
      else elemNum c.src c.ftz (raw.getD (r * c.x + x) 0)
    (span 0 (kindSlots c.kind)).map (entryOf c a)

/-- Is the table a build was accepted for still that build's: no later command has replaced it? -/
def buildStands (s : State) (cl i : Nat) (b : BuildCmd) : Bool :=
  (tget {} (arrCtx s b.core b.ctx).tabs b.tb).st = .building &&
    ((getArr s cl).cmds.drop (i + 1)).all fun c => !c.builds b.core b.ctx [b.tb]

/-- TABLE_BUILD_COMPLETE (R130, R144, R319): the entries are written, and copies are sent under multicast. -/
def execTableBuildComplete (cl i : Nat) (s : State) : Out :=
  .next (match readyCmd s cl i with
  | none => s
  | some c =>
    match c.op with
    | .build b =>
      if keyHeld s b.pas then s else
      let raw := b.pas.map fun p => leNat (rdBytes s p.2 (span p.1 (esize b.src)))
      let psn := b.pas.any fun p => anyPsn s (span p.1 (esize b.src))
      let ms := if b.mc then (arrCtx s b.core b.ctx).mem else []
      let vals := buildEntries b raw
      let stands := buildStands s cl i b
      let stale := stands && (tget {} (arrCtx s b.core b.ctx).tabs b.tb).stale.isSome
      let s := if stands then
          modTab s b.core b.ctx b.tb fun t => { t with st := .resident, vals := vals, psn := psn, copies := ms }
        else s
      let t' : Table := { st := .resident, kind := b.kind, ty := b.ty, rows := b.rows
                          groups := (b.x + kindG b.kind - 1) / kindG b.kind, gbase := b.gbase
                          vals := vals, psn := psn, leader := some b.core }
      modArr (dropCmd s cl c) cl fun a => { a with
        copies := a.copies ++ ms.map fun m => ⟨b.core, m, b.tb, t'⟩
        notices := if stale then a.notices ++ ms.map fun m => (b.core, m, b.tb) else a.notices }
    | _ => s)

/-- MULTICAST_COPY_ARRIVAL (R144, R320): the copy is installed by the residency rule in the member's array, or dropped and
counted by it when the member is IDLE. -/
def execMulticastCopyArrival (cl i : Nat) (s : State) : Out :=
  .next (match (getArr s cl).copies[i]? with
  | none => s
  | some m =>
    let mcl := clusterOf m.dst
    let x := (getCore s m.dst).actx
    let gone := fun (s : State) => modArr s cl fun a => { a with copies := a.copies.eraseIdx i }
    if (actCtx s m.dst).lease = .idle then bumpCl (gone s) mcl 0x250 1
    else if (getArr s mcl).cmds.any fun c => c.blocks m.dst x [m.tb] none then s
    else
      match place s m.dst x m.tb [m.tb] with
      | none => s
      | some s => gone (modTab s m.dst x m.tb fun t => { m.tab with reg := t.reg }))

/-- STALE_NOTICE (R145): a member that holds the leader's copy marks it, after any copy still on its way. -/
def execStaleNotice (cl i : Nat) (s : State) : Out :=
  .next (match (getArr s cl).notices[i]? with
  | none => s
  | some (l, m, v) =>
    if (getArr s cl).copies.any fun c => c.leader = l && c.dst = m && c.tb = v then s
    else
      let s := modArr s cl fun a => { a with notices := a.notices.eraseIdx i }
      [0, 1].foldl (fun s x =>
        if (tget {} (arrCtx s m x).tabs v).leader = some l then markOne s m x v .notice 0 else s) s)

/-! Table mode (R132 to R134, R321, R322). -/

/-- The table kind, planes and lookups of a form (R110, R132). -/
def formKind : Form → TblKind
  | .w1 => .sgn | .t5 => .trn | _ => .sub
def formPlanes : Form → Nat
  | .w1 => 1 | .w2t | .w2 => 2 | .w3 => 3 | .w4 => 4 | .t5 => 0
def formLookups : Form → Nat
  | .t5 => 1
  | f => formPlanes f

/-- The step checks of R133 and R136: the first failure, or the table whose copy has not come. -/
inductive StepOut where
  | ok | bad (t : Trap) | expected (v : Nat)
  deriving DecidableEq, Repr

/-- The checks of one step. -/
def stepCheck (t : Table) (v m : Nat) (k : TblKind) (q0 n : Nat) : StepOut :=
  if t.st = .empty then .bad (tableRange 4 v 0 0 0 0)
  else if t.st = .expected then .expected v
  else
    match t.stale with
    | some c => .bad (tableStale v c)
    | none =>
      if t.kind ≠ k then .bad (tableRange 3 v 0 0 0 0)
      else if t.rows < m then .bad (tableRange 1 v 0 0 (m - 1) 0)
      else
        match (span q0 n).find? fun q => !(t.gbase ≤ q && q < t.gbase + t.groups) with
        | some q => .bad (tableRange 2 v 0 q 0 0)
        | none => .ok

/-- The checks of the steps in ascending order. -/
def stepChecks (k : TblKind) (m ng : Nat) : List (Nat × Table) → Nat → StepOut
  | [], _ => .ok
  | (v, t) :: r, q =>
    match stepCheck t v m k q ng with
    | .ok => stepChecks k m ng r (q + ng)
    | o => o

/-- The byte offsets in a block that the lookups use, in ascending order (R110, R111, R132). -/
def codeBytes (f : Form) (q0 n : Nat) : List Nat :=
  if f = .t5 then span q0 n
  else (span 0 (formPlanes f)).flatMap fun p => (((span q0 n).map (· / 2)).eraseDups).map (16 * p + ·)

/-- Bytes fetched one by one at virtual addresses: the first fault, a bank's mode change to wait for, or the bytes and
whether any is poisoned (R83, R322). -/
def fetchBytes (s : State) : List Nat → OwnRead
  | [] => .ok [] false
  | va :: r =>
    match xlate s (who s s.cur) va .read with
    | .error t => .fault t
    | .ok x =>
      let pend := pendBank s [x.pa]
      if pend.isNone && (!engineOk s [x.pa] || (fifoPort s [x.pa]).isSome) then .fault (trap .accessFault 1 (wd va))
      else
        match pend, fetchBytes s r with
        | _, .fault t => .fault t
        | some b, _ => .later (.bank b)
        | none, .ok bs p => .ok (rdByte s x.key x.pa :: bs) (p || isPsn s x.pa)
        | none, o => o

/-- A block with its fetched bytes at their offsets. -/
def blockOf (offs : List Nat) (bs : List Byte) : List Byte :=
  (offs.zip bs).foldl (fun l e => l.set e.1 e.2) (List.replicate 64 0)

/-- nib(p, q) of R132. -/
def nib (blk : List Byte) (p q : Nat) : Nat := (blk.getD (16 * p + q / 2) 0).toNat / 16 ^ (q % 2) % 16

/-- The index of a lookup (R132). -/
def lookupIdx (f : Form) (blk : List Byte) (p q : Nat) : Nat :=
  match f with
  | .t5 => (blk.getD q 0).toNat
  | .w2t => if p = 0 then nib blk 0 q else nib blk 1 q &&& nib blk 0 q
  | _ => nib blk p q

/-- The weight of a lookup (R132). -/
def lookupWt (f : Form) (signed : Bool) (p : Nat) : Int :=
  match f with
  | .w1 | .t5 => 1
  | .w2t => if p = 0 then 1 else -2
  | _ => if signed && p + 1 = formPlanes f then -(2 ^ p) else 2 ^ p

/-- The first T5 code without an entry, in column and then group order (R133). -/
def badCode (v g0 ng : Nat) (blocks : List (List Byte)) (n : Nat) : Option Trap :=
  ((blocks.zip (span 0 blocks.length)).findSome? fun (blk, col) => (span g0 n).findSome? fun q =>
    let c := (blk.getD q 0).toNat
    if 243 ≤ c then some (tableRange 0 (v + (q - g0) / ng) c q 0 col) else none)

/-- MMT (R132 to R134, R321, R322). A first table that is EMPTY counts as one of no rows, so that an open block answers
ACC_BUSY before the step's REASON 4: the model's choice (log 82). At each table that is EXPECTED the lease bound counts anew from
the moment the command begins to wait for its copy: the model's choice (R144; log 103). -/
def execMmt (sw : Bool) (acc : Fin 4) (b c : Fin 32) (form : Form) (signed last : Bool) (tb : Fin 8) (s : State) : Out :=
  .next (issue (.mmt sw acc b c form signed last tb) .none 0 s fun s =>
    let h := s.cur
    let core := coreOf h
    let cl := clusterOf core
    let rs := [b.val, c.val, c.val + 1]
    let ops := operands s rs
    let va := ops.getD 0 0
    let w := ops.getD 1 0
    let scale := (ops.getD 2 0).toNat
    let n := fld w 18 16 + 1
    let g0 := fld w 12 8
    let ng := fld w 5 0
    let okW := fld w 63 19 = 0 && fld w 15 13 = 0 && fld w 7 6 = 0 && 1 ≤ ng && ng ≤ 32 && tb.val + n ≤ 8
    match badParam [(w, okW)] with
    | some t => raise s t
    | none =>
      let tbs := span tb.val n
      arrayGo s ops (some acc.val) fun s =>
        withNest s ops va (fun k => k.y ≤ 128 && k.cnt.getD 0 1 = 1 && k.cnt.getD 2 1 = 1) fun s k rp =>
          let waitCopy := fun (v : Nat) =>
            modSlot (parkFor s (.copy v) ops) h fun x => { x with
              since := s.cycle, limit := if (actCtx s core).bound = 0 then none else some (actCtx s core).bound }
          let tabs := tbs.map fun v => (v, actTab s core v)
          let m := (actTab s core tb.val).rows
          let cols := k.y
          let opn := (tget {} (getArr s cl).accs acc.val).opn
          if (actTab s core tb.val).st = .expected then waitCopy tb.val
          else
            match opn.filter fun (m', n', _, _) => !(m' = m && n' = cols) with
            | some (_, _, oh, oq) => raise s (accBusy acc.val oh oq)
            | none => earlierDone s tbs (some acc.val) true ops fun s =>
              match stepChecks (formKind form) m ng tabs g0 with
              | .expected v => waitCopy v
              | .bad t => raise s t
              | .ok =>
                match residents core (getCore s core).actx tbs tbs s with
                | .error t => raise s t
                | .ok none => parkFor s .builds ops
                | .ok (some s') =>
                  let offs := codeBytes form g0 (n * ng)
                  match fetchBytes s' ((span 0 cols).flatMap fun col => offs.map fun o => (k.addr 0 col + o) % 2 ^ 64) with
                  | .fault t => raise s t
                  | .later e => parkFor s e ops
                  | .ok bs p =>
                    if last && scale % 4 ≠ 0 then raise s (trap .misaligned 1 (wd scale))
                    else
                      match fetchBytes s' (if last then (span 0 (4 * cols)).map fun o => (scale + o) % 2 ^ 64 else []) with
                      | .fault t => raise s t
                      | .later e => parkFor s e ops
                      | .ok sb sp =>
                        let blocks := (span 0 cols).map fun col => blockOf offs ((bs.drop (col * offs.length)).take offs.length)
                        match (if form = .t5 then badCode tb.val g0 ng blocks (n * ng) else none) with
                        | some t => raise s t
                        | none => consume s rs fun _ _ => recPoison s va rp fun s0 =>
                          let s' := { s' with slots := s0.slots }
                          let s' := if rs.any (opPsn s) then setPoisoned s' h else s'
                          let full := tbs.map fun v => actTab s' core v
                          let cmd : MmtCmd :=
                            { acc := acc.val, tb := tb.val, opens := opn.isNone, form := form, signed := signed, last := last
                              tabs := full, g0 := g0, ng := ng, m := m, n := cols, codes := blocks
                              scales := entriesOf 4 sb, psn := p || sp || full.any (·.psn) }
                          let q := (getArr s' cl).seq
                          let s' := modAcc s' cl acc.val fun a =>
                            { a with opn := if last then none else some (opn.getD (m, cols, h, q)) }
                          acceptCmd s' [] (.mmt cmd))

/-- The value of an entry of a table. -/
def tabEntry (t : Table) (r q e : Nat) : Num :=
  elemNum t.ty false (t.vals.getD ((r * t.groups + (q - t.gbase)) * kindSlots t.kind + e) 0).toNat

/-- One rounded FP32 sum (R101). -/
def f32Add (ftz sat : Bool) (a : Nat) (x : Num) : Nat := fpRnd .fp32 ftz sat (numAdd (fpDec .fp32 ftz a) x)

/-- fma32 of R134. -/
def f32Fma (ftz sat : Bool) (a b c : Nat) : Nat :=
  fpRnd .fp32 ftz sat (numAdd (numMul (fpDec .fp32 ftz a) (fpDec .fp32 ftz b)) (fpDec .fp32 ftz c))

/-- The lookups of a column and a row in the order of R134: weight and entry. -/
def mmtTerms (c : MmtCmd) (blk : List Byte) (r : Nat) : List Num :=
  (c.tabs.zip (span 0 c.tabs.length)).flatMap fun (t, j) => (span 0 (formLookups c.form)).flatMap fun p =>
    (span (c.g0 + j * c.ng) c.ng).map fun q =>
      numMul (intNum (lookupWt c.form c.signed p)) (tabEntry t r q (lookupIdx c.form blk p q))

/-- One element of an MMT (R134). -/
def mmtElem (c : MmtCmd) (a : Acc) (col r : Nat) : Acc :=
  let k := 128 * r + col
  let p0 := if c.opens then 0 else (tget 0 a.part k).toNat
  let p := (mmtTerms c (c.codes.getD col []) r).foldl (f32Add false false) p0
  let w := f32Fma false false (c.scales.getD col 0).toNat p (tget 0 a.work.v k).toNat
  { a with
    part := putElem k (BitVec.ofNat 32 p) a.part
    work := if c.last then { a.work with v := putElem k (BitVec.ofNat 32 w) a.work.v } else a.work }

/-- MMT_COMPLETE (R134, R146). -/
def execMmtComplete (cl i : Nat) (s : State) : Out :=
  .next (match readyCmd s cl i with
  | none => s
  | some c =>
    match c.op with
    | .mmt m =>
      let s := modAcc s cl m.acc fun a =>
        let a := (span 0 m.n).foldl (fun a col => (span 0 m.m).foldl (fun a r => mmtElem m a col r) a) a
        { a with work := { a.work with psn := a.work.psn || m.psn } }
      bumpCl (dropCmd s cl c) cl 0x218 (m.m * m.n * m.tabs.length * formLookups m.form * m.ng)
    | _ => s)

/-! Direct mode (R140, R141, R323). -/

/-- The element type of an operand keyword. -/
def mmdElem : MmdType → ElemType
  | .bf16 => .bf16 | .fp16 => .fp16 | .lg6 => .lg6

/-- The effective types, or none where FMT names one that MMD does not take (R140). -/
def mmdTypes (ta tb : MmdType) (f : Fmt) : Option (ElemType × ElemType) :=
  if f.dt.getD .fp32 ≠ .fp32 then none
  else
    match f.st with
    | none => some (mmdElem ta, mmdElem tb)
    | some t => if t = .bf16 || t = .fp16 || t = .lg6 then some (t, t) else none

/-- The first fault of an operand's elements, in order: a window address, translation, or a place that serves no read
(R140, R323). -/
def operandFault (s : State) (e : Nat × List Nat) : Option Trap :=
  e.2.findSome? fun va =>
    if window0 ≤ va then some (trap .accessFault 1 (wd va))
    else
      match xlate s (who s s.cur) va .read with
      | .error t => some t
      | .ok x =>
        if !engineOk s (span x.pa e.1) || (fifoPort s [x.pa]).isSome then some (trap .accessFault 1 (wd va)) else none

/-- The places of elements that translate, with their keys. -/
def placesOf (s : State) (vas : List Nat) : List (Nat × Nat) :=
  vas.filterMap fun va => (xlate s (who s s.cur) va .read).toOption.map fun x => (x.pa, x.key)

/-- MMD (R140, R323). -/
def execMmd (sw : Bool) (acc : Fin 4) (b c : Fin 32) (ta tb : MmdType) (s : State) : Out :=
  let i := Instr.mmd sw acc b c ta tb
  .next (issue i .fmt 0 s fun s =>
    let f := fmtOf s
    match (mmdTypes ta tb f).filter fun t => t.1 ≠ .lg6 || c.val ≤ 29 with
    | none => raise s (illegal i)
    | some (ea, eb) =>
      let lg := ea = .lg6
      let rs := if lg then [b.val, c.val, c.val + 1, c.val + 2] else [b.val, c.val]
      let ops := operands s rs
      let va := ops.getD 0 0
      let vb := ops.getD 1 0
      let sa := (ops.getD 2 0).toNat
      let sb := (ops.getD 3 0).toNat
      arrayGo s ops (some acc.val) fun s =>
        withNest s ops va (fun _ => true) fun s na pa => withNest s ops vb (fun _ => true) fun s nb pb =>
          let m := na.y
          let n := nb.y
          let k := na.x
          let blocks := (k + 127) / 128
          if 128 < m || 1048576 < k then raise s (trap .accessFault 4 va)
          else if 128 < n || nb.x ≠ k then raise s (trap .accessFault 4 vb)
          else
            let bad := [na.misaligned (esize ea), nb.misaligned (esize eb), if lg && sa % 4 ≠ 0 then some sa else none,
                        if lg && sb % 4 ≠ 0 then some sb else none].findSome? id
            match bad, openBusy s (clusterOf (coreOf s.cur)) acc.val with
            | some a, _ => raise s (trap .misaligned 1 (wd a))
            | none, some t => raise s t
            | none, none =>
              let sc := fun (base rows : Nat) => if lg then (span 0 (rows * blocks)).map fun j => (base + 4 * j) % 2 ^ 64 else []
              if let some k := pendBank s ((placesOf s (na.elems ++ nb.elems ++ sc sa m ++ sc sb n)).map (·.1)) then
                parkFor s (.bank k) ops
              else
              match [(esize ea, na.elems), (esize eb, nb.elems), (4, sc sa m), (4, sc sb n)].findSome? (operandFault s) with
              | some t => raise s t
              | none => consume s rs fun s _ => recPoison s va pa fun s => recPoison s vb pb fun s =>
                let pages := ((na.elems ++ nb.elems ++ sc sa m ++ sc sb n).map (· / 65536)).eraseDups
                acceptCmd s pages (.mmd
                  { acc := acc.val, ta := ea, tb := eb, nan := f.nan, ftz := f.ftz, sat := f.sat, m := m, n := n, k := k
                    aPas := placesOf s na.grid, bPas := placesOf s nb.grid, saPas := placesOf s (sc sa m)
                    sbPas := placesOf s (sc sb n) }))

/-- The elements of an operand, read at their places. -/
def operandVals (s : State) (z : Nat) (l : List (Nat × Nat)) : List Nat := l.map fun p => leNat (rdBytes s p.2 (span p.1 z))

/-- One element of an MMD by FP products (R141). -/
def mmdFp (c : MmdCmd) (a b : List Nat) (r col w : Nat) : Nat :=
  (span 0 c.k).foldl (fun w k => f32Add c.ftz c.sat w
    (numMul (fpDec c.ta c.ftz (a.getD (r * c.k + k) 0)) (fpDec c.tb c.ftz (b.getD (col * c.k + k) 0)))) w

/-- One element of an MMD of LG6 codes, block by block (R141). -/
def mmdLg (c : MmdCmd) (a b sa sb : List Nat) (r col w : Nat) : Nat :=
  let nb := (c.k + 127) / 128
  (span 0 nb).foldl (fun w j =>
    let q := (span (128 * j) (min 128 (c.k - 128 * j))).foldl (fun q k =>
      f32Add c.ftz c.sat q (lgMul c.nan (a.getD (r * c.k + k) 0) (b.getD (col * c.k + k) 0))) 0
    let t := fpRnd .fp32 c.ftz c.sat
      (numMul (fpDec .fp32 c.ftz (sa.getD (r * nb + j) 0)) (fpDec .fp32 c.ftz (sb.getD (col * nb + j) 0)))
    f32Fma c.ftz c.sat t q w) w

/-- MMD_COMPLETE (R141, R146). -/
def execMmdComplete (cl i : Nat) (s : State) : Out :=
  .next (match readyCmd s cl i with
  | none => s
  | some c =>
    match c.op with
    | .mmd m =>
      if keyHeld s (m.aPas ++ m.bPas ++ m.saPas ++ m.sbPas) then s else
      let fetch := fun (s : State) (z : Nat) (l : List (Nat × Nat)) =>
        let cells := l.flatMap fun p => (span p.1 z).map fun a => (a, p.2)
        seeTiles s cells (getKeyed s cells)
      let s := fetch (fetch s (esize m.ta) m.aPas) (esize m.tb) m.bPas
      let a := operandVals s (esize m.ta) m.aPas
      let b := operandVals s (esize m.tb) m.bPas
      let sa := operandVals s 4 m.saPas
      let sb := operandVals s 4 m.sbPas
      let psn := (m.aPas ++ m.bPas ++ m.saPas ++ m.sbPas).any fun p => isPsn s p.1
      let elem := fun (v : Tbl (BitVec 32)) (r col : Nat) =>
        let w := (tget 0 v (128 * r + col)).toNat
        let x := if m.ta = .lg6 then mmdLg m a b sa sb r col w else mmdFp m a b r col w
        putElem (128 * r + col) (BitVec.ofNat 32 x) v
      let s := modAcc s cl m.acc fun q => { q with
        work := { v := (span 0 m.m).foldl (fun v r => (span 0 m.n).foldl (fun v col => elem v r col) v) q.work.v
                  psn := q.work.psn || psn } }
      bumpCl (dropCmd s cl c) cl 0x220 (m.m * m.n * m.k)
    | _ => s)

/-! ACRD (R143, R324). -/

/-- The places of destination elements, translated for write, with the write checks of R45, R60 and R339, or the first fault.
A window gap, and the register block in User mode, has no place: that is step 5's fault (R324). -/
def destPas (s : State) (z : Nat) : List Nat → Except Trap (List (Nat × Option Xl))
  | [] => .ok []
  | va :: r =>
    let here : Except Trap (Option Xl) :=
      match xlate s (who s s.cur) va .write with
      | .error t =>
        if !(window0 ≤ va && va < 2 ^ 56) then .error t
        else if scouting s s.cur then .error (trap .txFootprint 0 (wd va))
        else if unchecked s s.cur then .error (trap .txCheckLate 0 (wd va))
        else .ok none
      | .ok x =>
        match wrCheck s s.cur va x (span x.pa z) with
        | some t => .error t
        | none => .ok (some x)
    match here with
    | .error t => .error t
    | .ok x =>
      match destPas s z r with
      | .error t => .error t
      | .ok l => .ok ((va, x) :: l)

/-- Does a destination element have no place that takes it (R324)? -/
def destBad (s : State) (z : Nat) (x : Option Xl) : Bool :=
  match x with
  | none => true
  | some x => !engineOk s (span x.pa z) || (fifoPort s [x.pa]).isSome

/-- The oldest operation that keeps a working bank busy (R143). -/
def workBusy (s : State) (cl acc : Nat) : Option Trap :=
  let q := ((getArr s cl).cmds.filter fun c => c.accu = some acc).map fun c => (c.seq, c.hart)
  let o := match (tget {} (getArr s cl).accs acc).opn with
    | some (_, _, h, n) => [(n, h)]
    | none => []
  match o ++ q with
  | [] => none
  | x :: xs =>
    let b := xs.foldl (fun b e => if e.1 < b.1 then e else b) x
    some (accBusy acc b.2 b.1)

/-- ACRD of either bank, its lease checks passed. A poisoned bank has no address, so the POISON trap value of R96 is a free
value (log 5). -/
def acrdGo (acc b : Nat) (working : Bool) (dt : ElemType) (f : Fmt) (ops : List Word) (s : State) : State :=
  let h := s.cur
  let cl := clusterOf (coreOf h)
  let va := ops.getD 0 0
  match (if working then workBusy s cl acc else none) with
  | some t => raise s t
  | none => earlierDone s [] (if working then none else some acc) working ops fun s =>
    withNest s ops va (fun n => n.x ≤ 128 && n.y ≤ 128) fun s n rp =>
    match n.misaligned (esize dt) with
    | some a => raise s (trap .misaligned 2 (wd a))
    | none =>
      match destPas s (esize dt) n.elems with
      | .error t => raise s t
      | .ok l =>
        let xs := l.filterMap (·.2)
        if let some k := pendBank s (xs.map (·.pa)) then parkFor s (.bank k) ops
        else if keyHeld s (xs.map fun x => (x.pa, x.key)) then parkFor s .key ops
        else
        match l.find? fun e => destBad s (esize dt) e.2 with
        | some (a, _) => raise s (trap .accessFault 2 (wd a))
        | none =>
          let a := tget {} (getArr s cl).accs acc
          let bank := if working then a.work else a.vis
          consume s [b] fun s _ => recPoison s va rp fun s =>
            if bank.psn && pteOf s h then raise (freeWord s).2 (trap .poison 0 (freeWord s).1)
            else
                let s := noteWrite (notePsn s h bank.psn) h (xs.map (·.pa))
                let s := xs.foldl (fun s x => markStale s (span x.pa (esize dt))) s
                let cells := (xs.zip n.order).flatMap fun (x, e) =>
                  let raw := (tget 0 bank.v (128 * e.2 + e.1)).toNat
                  let v := fpRnd dt f.ftz f.sat (fpDec .fp32 f.ftz raw)
                  ((span x.pa (esize dt)).map fun p => (p, x.key)).zip (leBytes (esize dt) v)
                let s := dropCopies (putKeyed s cells bank.psn) (coreOf h) (cells.map fun c => c.1.1)
                retire (countCmd s cl working) true

/-- The destination type of an ACRD (R143, R324). -/
def acrdType (f : Fmt) : Option ElemType :=
  if f.st.isNone && eFloat (f.dt.getD .fp32) then some (f.dt.getD .fp32) else none

/-- ACRD of the visible bank (R324): no lease; it follows the core's own earlier commands on the accumulator (R126). -/
def execAcrd (sw : Bool) (acc : Fin 4) (b : Fin 32) (s : State) : Out :=
  let i := Instr.acrd sw acc b
  .next (issue i .fmt 0 s fun s =>
    match acrdType (fmtOf s) with
    | none => raise s (illegal i)
    | some dt =>
      let ops := operands s [b.val]
      acrdGo acc.val b.val false dt (fmtOf s) ops s)

/-- ACRD of the working bank (R324). -/
def execAcrdWorking (sw : Bool) (acc : Fin 4) (b : Fin 32) (s : State) : Out :=
  let i := Instr.acrdWorking sw acc b
  .next (issue i .fmt 0 s fun s =>
    match acrdType (fmtOf s) with
    | none => raise s (illegal i)
    | some dt =>
      let ops := operands s [b.val]
      arrayGo s ops (some acc.val) fun s => acrdGo acc.val b.val true dt (fmtOf s) ops s)

end Sys2Proof.Machine
end

