-- ==== Sys2Proof/Machine/Atomic.lean ====
section
/-! DEFINITION. Majors 0x1D and 0x1E: atomics, FENCE, LDSC and STSC (R279 to R282, R203 to R210). -/

namespace Sys2Proof.Machine

/-- Does an order release, acquire (R202)? -/
def Order.rel : Order → Bool
  | .rel | .acqrel | .sc => true
  | .acq => false
def Order.acq : Order → Bool
  | .acq | .acqrel | .sc => true
  | .rel => false

/-- Does a release at a scope wait for the hart's earlier writes (R204)? -/
def relWaits (s : State) (sc : Scope) : Bool := sc ≠ .hart && writesPending s s.cur

/-- Does an atomic write whatever it finds: every one but ACAS (R279)? -/
def Access.surely (a : Access) : Bool :=
  match a.op with
  | .atomic .cas _ _ => false
  | _ => a.isWrite

/-- Has an atomic that found these bytes written (R279)? -/
def Access.writes (a : Access) (old : List Byte) : Bool :=
  match a.op with
  | .atomic .cas _ cmp => ofBytes old = cmp
  | _ => a.isWrite

/-- Announce an SC operation of the executing hart in the current window; its completion is outstanding (R207, R208). -/
def announce (s : State) (acc : Option Access) (sc : Scope) : State :=
  let uid := s.uid
  modKs { s with uid := s.uid + 1 } fun k =>
    { k with sc := k.sc ++ [{ hart := s.cur, uid := uid, acc := acc.map fun a => { a with uid := uid }, scope := sc, cycle := s.cycle }] }

/-- An SC access of the executing hart: announced once its earlier accesses to the chunk and the jobs it overlaps are
done (R175, R198), and performed at its place in S. A load's or an atomic's value comes into `d`; a store's completion is an
outstanding result without bytes (R207, R282). -/
def scGo (s : State) (va : Nat) (d : Option Nat) (pas : List Nat) (x : Xl) (a : Access) (sc : Scope) (p : Bool)
    (ops : List Word) : State :=
  let h := s.cur
  if chunkBusy s.flight h pas || jobOverlap s h pas a.isWrite then parkFor s (.clear (pas.headD 0) 8 a.isWrite) ops
  else
    let uid := s.uid
    let s := dropLine (tlbFill (if a.isWrite then noteWrite s h pas else s) (who s h) va) (coreOf h) x.pa
    let s := announce (if a.surely then dropOuts s h pas else s) (some { a with dest := .result, sc := true }) sc
    match d with
    | some r => retire (expect s h r uid p none) true
    | none =>
      retire (modSlot s h fun x =>
        { x with outs := x.outs ++ [{ dest := [], val := none, psn := false, src := some uid, seq := uid + 1 }] }) true

/-- An atomic performed at once in the hart's own storage, or sent on its way, whose old value goes to `d` (R210, R280).
It supersedes what older outstanding results of the hart would write there (R17). -/
def atomGo (s : State) (va d : Nat) (pas : List Nat) (x : Xl) (a : Access) (p sw : Bool) : State :=
  let h := s.cur
  let s := dropLine (tlbFill (noteWrite s h pas) (who s h) va) (coreOf h) x.pa
  let s := if a.surely then dropOuts s h pas else s
  if x.own && atOnce s h pas true then
    match perform s a with
    | (s, .done v q) =>
      let s := accAcquire (if a.writes v then dropOuts s h pas else s) a
      retire (addResult (notePsn s h q) h d (ofBytes v) (p || q)) sw
    | _ => parkFor s (.bank (((bankOf x.pa).map (·.2)).getD 0)) []
  else
    let r := send s { a with dest := .result }
    retire (expect r.1 h d r.2 p none) sw

/-- An atomic (R279, R280): with OE 1 a release first waits, and the hart parks until the old value has returned. One
whose order is sc takes a place in S (R202). -/
def atomic (i : Instr) (op : AtomOp) (sw : Bool) (a b c : Fin 32) (r : Role) (s : State) : State :=
  issue i .none 0 s fun s =>
    let ops := operands s [b.val, c.val, a.val]
    let va := (ops.getD 0 0).toNat
    if let some b := (if va % 8 = 0 then pendFor s va 8 .write else none) then parkFor s (.bank b) ops
    else
    match wordCheck s va .write false (va % 8 = 0) with
    | .error t => raise s t
    | .ok (pas, x) =>
      let rs := if op = .cas then [b.val, c.val, a.val] else [b.val, c.val]
      consume s rs fun s p =>
      match (if pteOf s s.cur then firstPsn s va pas else none) with
      | some v => raise s (trap .poison 0 v)
      | none =>
        if (r.map fun o => Order.rel o.1 && relWaits s o.2).getD false then parkFor s .writes ops
        else
          let acq := r.bind fun o => if Order.acq o.1 then some o.2 else none
          let acc : Access :=
            { uid := 0, hart := s.cur, va := wd va, pas := pas, key := x.key, cache := false,
              op := .atomic op (ops.getD 1 0) (ops.getD 2 0), psn := p, dest := .nothing, st := .flying, acq := acq }
          match r with
          | some (.sc, sc) => scGo s va (some a.val) pas x acc sc p ops
          | _ => atomGo s va a.val pas x acc p (sw || r.isSome)

def execAswap (sw : Bool) (a b c : Fin 32) (r : Role) (s : State) : Out := .next (atomic (.aswap sw a b c r) .swap sw a b c r s)
def execAadd (sw : Bool) (a b c : Fin 32) (r : Role) (s : State) : Out := .next (atomic (.aadd sw a b c r) .add sw a b c r s)
def execAand (sw : Bool) (a b c : Fin 32) (r : Role) (s : State) : Out := .next (atomic (.aand sw a b c r) .and sw a b c r s)
def execAor (sw : Bool) (a b c : Fin 32) (r : Role) (s : State) : Out := .next (atomic (.aor sw a b c r) .or sw a b c r s)
def execAxor (sw : Bool) (a b c : Fin 32) (r : Role) (s : State) : Out := .next (atomic (.axor sw a b c r) .xor sw a b c r s)
def execAmin (sw : Bool) (a b c : Fin 32) (r : Role) (s : State) : Out := .next (atomic (.amin sw a b c r) .min sw a b c r s)
def execAmax (sw : Bool) (a b c : Fin 32) (r : Role) (s : State) : Out := .next (atomic (.amax sw a b c r) .max sw a b c r s)
def execAminn (sw : Bool) (a b c : Fin 32) (r : Role) (s : State) : Out := .next (atomic (.aminn sw a b c r) .minn sw a b c r s)
def execAmaxn (sw : Bool) (a b c : Fin 32) (r : Role) (s : State) : Out := .next (atomic (.amaxn sw a b c r) .maxn sw a b c r s)
def execAcas (sw : Bool) (a b c : Fin 32) (r : Role) (s : State) : Out := .next (atomic (.acas sw a b c r) .cas sw a b c r s)

/-- FENCE (R205, R281): a release waits for the hart's writes, an acquire changes the caches, and an SC fence takes a
place in S; it reads and writes no memory and cannot fault. -/
def execFence (sw : Bool) (o : Order) (sc : Scope) (s : State) : Out :=
  .next (issue (.fence sw o sc) .none 0 s fun s =>
    if Order.rel o && relWaits s sc then parkFor s .writes []
    else if o = .sc then
      let uid := s.uid
      let s := announce s none sc
      retire (modSlot s s.cur fun x =>
        { x with outs := x.outs ++ [{ dest := [], val := none, psn := false, src := some uid, seq := uid + 1 }] }) true
    else retire (if Order.acq o then fenceAcquire s s.cur sc else s) true)

/-- LDSC and STSC (R207, R282): never posted, performed at their place in S. S is part of happens-before (R199): each comes
after the hart's earlier writes, and the hart's later reads see what came before it in S (log 100). -/
def scAccess (i : Instr) (a b : Fin 32) (sc : Scope) (store : Bool) (s : State) : State :=
  issue i .none 0 s fun s =>
    let ops := operands s [b.val, a.val]
    let va := (ops.getD 0 0).toNat
    if let some b := (if va % 8 = 0 then pendFor s va 8 (if store then .write else .read) else none) then parkFor s (.bank b) ops
    else
    match wordCheck s va (if store then .write else .read) false (va % 8 = 0) with
    | .error t => raise s t
    | .ok (pas, x) => consume s (if store then [b.val, a.val] else [b.val]) fun s p =>
      match (if pteOf s s.cur && !store then firstPsn s va pas else none) with
      | some v => raise s (trap .poison 0 v)
      | none =>
        if relWaits s sc then parkFor s .writes ops
        else
          scGo s va (if store then none else some a.val) pas x
            { uid := 0, hart := s.cur, va := wd va, pas := pas, key := x.key, cache := false,
              op := if store then .store (wBytes (ops.getD 1 0)) else .load
              psn := p, dest := .result, st := .flying, acq := some sc } sc p ops

def execLdsc (sw : Bool) (a b : Fin 32) (sc : Scope) (s : State) : Out := .next (scAccess (.ldsc sw a b sc) a b sc false s)
def execStsc (sw : Bool) (a b : Fin 32) (sc : Scope) (s : State) : Out := .next (scAccess (.stsc sw a b sc) a b sc true s)

end Sys2Proof.Machine
end

