-- ==== Sys2Proof/Machine/Coherence.lean ====
section
/-! DEFINITION. The notification network's windows (R207 to R209), the ages of cache lines (R201), and the end of a
bank's mode change (R83). -/

namespace Sys2Proof.Machine

/-- Sort SC operations by core, then slot: their hart numbers (R208). -/
def insertSc (o : ScOp) : List ScOp → List ScOp
  | [] => [o]
  | p :: t => if o.hart < p.hart then o :: p :: t else p :: insertSc o t

/-- A FENCE's place in S: an acquire, whose outstanding result is there. -/
def performFence (s : State) (o : ScOp) (uid : Nat) : State :=
  modSlot (fenceAcquire s o.hart o.scope) o.hart fun x => { x with outs := x.outs.map (fillOut uid [] false) }

/-- Perform an SC operation at its place in S (R207): its completion is its outstanding result. One of another member
without a store to this module only takes its place (R209). -/
def performSc (s : State) (o : ScOp) : State :=
  match o.acc with
  | some a => arrive { s with flight := s.flight ++ [a] } a
  | none => if o.foreign then s else performFence s o o.uid

/-- An SC operation whose window has closed: one of group scope goes to the Causeway when the module is in a group, the
others are performed (R207 to R209). -/
def closeSc (s : State) (o : ScOp) : State :=
  match s.ks.group with
  | some g => if o.scope = .group then modKs s fun k => { k with group := some { g with frames := g.frames ++ [o] } } else performSc s o
  | none => performSc s o

/-- SC_WINDOW_CLOSE (R208, R209): the operations of the oldest window that closed 16 cycles ago or more are ordered by
core and slot, and performed in that order. -/
def execScWindowClose (s : State) : Out :=
  .next (match s.ks.sc.head? with
  | none => s
  | some o =>
    let w := s.ks.sc.foldl (fun m p => min m (p.cycle / 32)) (o.cycle / 32)
    if s.cycle < 32 * w + 48 then s
    else
      let now := (s.ks.sc.filter fun p => p.cycle / 32 = w).foldl (fun l p => insertSc p l) []
      now.foldl closeSc (modKs s fun k => { k with sc := k.sc.filter fun p => p.cycle / 32 ≠ w }))

/-- GROUP_SC_FRAME (R209): another member's group-scope operation takes its place among this window's announcements, by
its core and slot; a store to this module's memory is performed there, under the key slot of its translation, which `pa`
holds above bit 51. -/
def execGroupScFrame (module core slot pa : Nat) (store : Option Word) (s : State) : Out :=
  .next (match s.ks.group with
  | none => s
  | some g =>
    if !g.mods.contains module || module = s.module then s
    else
      let h := core % 2048 * 4 + slot % 4
      let key := pa / 2 ^ 52
      let pa := pa % 2 ^ 52
      let acc : Option Access := if moduleOf pa ≠ s.module then none else store.map fun v =>
        { uid := s.uid, hart := (module + 1) * 8192 + h, va := wd pa, pas := span (pa / 8 * 8) 8, key := key, cache := false,
          op := .store (wBytes v), psn := false, dest := .nothing, st := .flying, sc := true }
      modKs { s with uid := s.uid + 1 } fun k =>
        { k with sc := k.sc ++ [{ hart := h, uid := s.uid, acc := acc, scope := .device, cycle := s.cycle, foreign := true }] })

/-- DATA_CACHE_LINE_EXPIRY (R201): a line is invalid 4,096 cycles after its fill. -/
def execDataCacheLineExpiry (core i : Nat) (s : State) : Out :=
  .next (match (getCore s core).dcache[i]? with
  | none => s
  | some l => if l.filled + dLife ≤ s.cycle then modCore s core fun c => { c with dcache := c.dcache.eraseIdx i } else s)

/-- CLUSTER_CACHE_LINE_EXPIRY (R201): a line is invalid 65,536 cycles after its fill. -/
def execClusterCacheLineExpiry (cl i : Nat) (s : State) : Out :=
  .next (match (getCluster s cl).ccache[i]? with
  | none => s
  | some l => if l.filled + cLife ≤ s.cycle then modCluster s cl fun c => { c with ccache := c.ccache.eraseIdx i } else s)

/-- Keep at most `ways` lines of each set, the most recently used first (R433): which lines are lost is the model's choice
(log 89). -/
def trimWays (ways : Nat) (ls : List Line) : List Line :=
  ls.foldl (fun acc l => if (acc.filter fun x => cSet x.base = cSet l.base).length < ways then acc ++ [l] else acc) []

/-- Every byte of a bank zero and clean (R83). -/
def zeroBank (s : State) (cl b : Nat) : State :=
  let lo := sramPa s cl (b * 0x40000)
  { s with mem := s.mem.filter fun c => !(lo ≤ c.1 && c.1 < lo + 0x40000)
           poison := s.poison.filter fun a => !(lo ≤ a && a < lo + 0x40000)
           lrs := s.lrs.filter fun e => !(lo ≤ e.2 * 8 && e.2 * 8 < lo + 0x40000) }

/-- BANK_MODE_CHANGE_DONE (R83): the bank's contents change for its new mode, its field takes the new value, and PEND
clears. A change of SLOT alone outside FIFO mode goes the same way, and a scratchpad bank keeps its bytes: the model's
choice (log 89). -/
def execBankModeChangeDone (cl b : Nat) (s : State) : Out :=
  .next (if 16 ≤ b || !bankPend s cl b then s
  else
    let old := bankMode s cl b
    let f := fld (getCluster s cl).csbnext (4 * b + 3) (4 * b)
    let s := if old = 1 || f % 4 = 1 then zeroBank s cl b else s
    let s := modFifo s cl b fun _ => {}
    let s := modCluster s cl fun c => { c with csbmode := setFld c.csbmode (4 * b + 3) (4 * b) f, csbpend := c.csbpend - 2 ^ b }
    modCluster s cl fun c => { c with ccache := if old = 1 then trimWays (cWays s cl) c.ccache else c.ccache })

end Sys2Proof.Machine
end

