-- ==== Sys2Proof/Machine/Control.lean ====
section
/-! DEFINITION. Majors 0x10 to 0x17: branches, JAL, JALR and JTB (R268 to R271). -/

namespace Sys2Proof.Machine

def execBeq (sw : Bool) (a b : Fin 32) (off : BitVec 15) (s : State) : Out := .next (branch (.beq sw a b off) sw a b off (· == ·) s)
def execBne (sw : Bool) (a b : Fin 32) (off : BitVec 15) (s : State) : Out := .next (branch (.bne sw a b off) sw a b off (· != ·) s)
def execBlt (sw : Bool) (a b : Fin 32) (off : BitVec 15) (s : State) : Out := .next (branch (.blt sw a b off) sw a b off BitVec.slt s)
def execBge (sw : Bool) (a b : Fin 32) (off : BitVec 15) (s : State) : Out :=
  .next (branch (.bge sw a b off) sw a b off (fun x y => !x.slt y) s)
def execBltn (sw : Bool) (a b : Fin 32) (off : BitVec 15) (s : State) : Out := .next (branch (.bltn sw a b off) sw a b off BitVec.ult s)
def execBgen (sw : Bool) (a b : Fin 32) (off : BitVec 15) (s : State) : Out :=
  .next (branch (.bgen sw a b off) sw a b off (fun x y => !x.ult y) s)

/-- JAL links in w1 (R269). -/
def execJal (sw : Bool) (off : BitVec 25) (s : State) : Out :=
  .next (issue (.jal sw off) .none 0 s fun s =>
    let pc := (getSlot s s.cur).pc
    retireTo (writeReg s s.cur 1 (pc + 4) false) sw (pc + 4 * off.signExtend 64))

/-- Scouting ends at a JALR whose target is SRET (R339). -/
def endScout (s : State) (t : Word) : State :=
  if (getSlot s s.cur).scout && t = (getSlot s s.cur).sret then modSlot s s.cur fun x => { x with scout := false } else s

/-- JALR (R270). -/
def execJalr (sw : Bool) (d a : Fin 32) (s : State) : Out :=
  .next (issue (.jalr sw d a) .none 0 s fun s =>
    let t := reg s a
    if t.toNat % 4 ≠ 0 then raise s (trap .misaligned 0 t)
    else control s [a] 0 fun s =>
      retireTo (writeReg (endScout s t) s.cur d.val ((getSlot s s.cur).pc + 4) false) sw t)

/-- The end of JTB, its other checks passed (R216): a poisoned index or table word raises POISON whatever PTE says, with
the table's address (R261); else the outstanding result, and the jump (R271). -/
def jtbGo (s : State) (d a : Fin 32) (x : Word) (v pc : Word) (bad : Bool) : State :=
  if bad then raise (setPoisoned s s.cur) (trap .poison 0 x)
  else consume s [a.val] fun s p => retireTo (addResult s s.cur d.val v p) true pc

/-- JTB with its header read: `bad` if the index or the header is poisoned (R271). -/
def jtbEntry (s : State) (d a : Fin 32) (x i hdr : Word) (bad : Bool) : State :=
  if fld hdr 63 32 ≠ 0 then raise s (trap .accessFault 4 x)
  else if fld hdr 31 0 ≤ i.toNat then jtbGo s d a x 1 ((getSlot s s.cur).pc + 4) bad
  else
    match readOwn s (x + 8 + 4 * i).toNat 4 with
    | .later n => parkFor s n [x, i]
    | .fault t => raise s t
    | .ok bs bad' =>
      let t := x + (BitVec.ofNat 32 (leNat bs)).signExtend 64
      if t.toNat % 4 ≠ 0 then raise s (trap .misaligned 0 t)
      else jtbGo s d a x 0 t (bad || bad')

/-- JTB (R261, R271): both operands are read at issue; its table reads are the outstanding result. -/
def execJtb (sw : Bool) (d a b : Fin 32) (s : State) : Out :=
  .next (issue (.jtb sw d a b) .none 0 s fun s =>
    let ops := operands s [a.val, b.val]
    let x := ops.getD 0 0
    let i := ops.getD 1 0
    if x.toNat % 8 ≠ 0 then raise s (trap .misaligned 1 x)
    else
      match readOwn s x.toNat 8 with
      | .later n => parkFor s n ops
      | .fault t => raise s t
      | .ok bs bad => jtbEntry s d a x i (ofBytes bs) (bad || opPsn s b.val))

end Sys2Proof.Machine
end

