-- ==== Sys2Proof/Machine/Keystone.lean ====
section
/-! DEFINITION. Keystone and the abutments: submissions and their checks (R41 to R44, R49, R335, R336), batches and
numbers (R46, R47, R50), locks and grants (R51 to R55), and dispatch (R23, R24, R39, R56, R191, R380, R385). -/

namespace Sys2Proof.Machine

/-! Reads by Keystone, the front end and Trestle. -/

/-- Does storage answer at these addresses? -/
def stores (s : State) (pas : List Nat) : Bool :=
  pas.all fun a => answers s (moduleOf a) &&
    (match targetOf (offsetOf a) with
     | .hbm | .scratch _ => true
     | .sram _ => moduleOf a ≠ s.module || (bankModes s [a]).all (· = 0)
     | _ => false)

/-- Bytes read under an address space with Kernel rights; window addresses name the storage of a core, if there is
one (R44, R335). -/
def peek (s : State) (core : Option Nat) (asid va n : Nat) : Option (List Byte) :=
  if core.isNone && window0 < va + n then none
  else
    match xlBytes s ⟨core.getD 0, asid, true⟩ va n .read with
    | .error _ => none
    | .ok (pas, x) => if stores s pas then some (rdBytes s x.key pas) else none

/-- Words read likewise. -/
def peekWords (s : State) (core : Option Nat) (asid va n : Nat) : Option (List Word) :=
  (peek s core asid va (8 * n)).map fun bs => (span 0 n).map fun i => ofBytes ((bs.drop (8 * i)).take 8)

/-! Submissions. -/

/-- Who submits: the issuing core of a TXSUB, the launch's address space and tag, and the submitter's mode. -/
structure Submitter where
  core : Option Nat
  asid : Nat
  priv : Bool
  tag  : Nat
  deriving DecidableEq, Repr

/-- A region of R43 with its ranges by page: virtual address, place, length; none where a page does not translate. -/
structure RegX where
  mode : Nat
  len  : Nat
  segs : Option (List (Nat × Xl × Nat))
  deriving DecidableEq, Repr

/-- The ranges by page of `n` bytes at `va`. -/
def rangeSegs (s : State) (w : Who) (k : AccKind) (va n : Nat) : Option (List (Nat × Xl × Nat)) :=
  match pagesX s w k (n / 65536 + 2) va n with
  | .error _ => none
  | .ok l => some (l.map fun (v, x) => (v, x, min (65536 - v % 65536) (va + n - v)))

/-- A region entry translated for a submitter: a U region with the submitter's own rights and window, every other one
in translated HBM (R41, R44, R335). -/
def regX (s : State) (u : Submitter) (e : Word × Word) : RegX :=
  let mode := fld e.1 57 56
  let va := fld e.1 55 0
  let n := fld e.2 31 0
  let w : Who := ⟨u.core.getD 0, u.asid, mode ≠ 3 || u.priv⟩
  let segs := rangeSegs s w (if mode = 1 then .write else .read) va n
  let ok := fun (l : List (Nat × Xl × Nat)) => l.all fun (_, x, _) =>
    if mode = 3 then !x.win || u.core.isSome else !x.win && isHbm x.pa
  ⟨mode, n, segs.filter ok⟩

/-- A tile request joined into a list in rising order, with the union of rights (R41). -/
def addReq (r : TileReq) : List TileReq → List TileReq
  | [] => [r]
  | q :: t =>
    if r.tile < q.tile then r :: q :: t
    else if r.tile = q.tile then ⟨q.tile, q.excl || r.excl, q.push || r.push⟩ :: t
    else q :: addReq r t

/-- The tiles of a physical range. -/
def rangeTiles (pa n : Nat) : List Nat := span (tileOf pa) (tileOf (pa + n - 1) + 1 - tileOf pa)

/-- The lock requests of a footprint (R41, R50): one for each covered tile of an R, W or RP region. -/
def footReqs (rs : List RegX) : List TileReq :=
  rs.foldl (fun l r =>
    if r.mode = 3 then l
    else (r.segs.getD []).foldl (fun l (_, x, n) =>
      (rangeTiles x.pa n).foldl (fun l t => addReq ⟨t, r.mode = 1, r.mode = 2⟩ l) l) l) []

/-- The pushed ranges of a footprint. -/
def footPush (rs : List RegX) : List (List (Nat × Nat × Nat)) :=
  (rs.filter (·.mode = 2)).map fun r => (r.segs.getD []).map fun (_, x, n) => (x.pa, n, x.key)

/-- The bytes of a push, each region padded to 64 bytes (R44, R56). -/
def pushBytes (p : List (List (Nat × Nat × Nat))) : Nat :=
  (p.map fun r => ((r.map fun q => q.2.1).sum + 63) / 64 * 64).sum

/-- The abutment of a tile: module × 128 + home slice (R50, R75). -/
def abutOf (tile : Nat) : Nat := moduleOf (tile * 4096) * 128 + sliceOf (tile * 4096)

/-- The modules that may home a submitter's tiles: its group's, or its own (R44). -/
def groupMods (s : State) : List Nat :=
  match s.ks.group with
  | some g => g.mods
  | none => [s.module]

/-- Does a list of requests cover another with at least the same rights (R44, R61)? -/
def covers (held reqs : List TileReq) : Bool :=
  reqs.all fun r => held.any fun q => q.tile = r.tile && (q.excl || !r.excl) && (q.push || !r.push)

/-- The first region of the arrays that fails a test: the code, its index and its array (R335). -/
def firstBad (code : Nat) (arrs : List (List RegX)) (bad : RegX → Bool) : Option (Nat × Nat × Nat) :=
  (arrs.zip (span 0 arrs.length)).findSome? fun (l, f) =>
    ((l.zip (span 0 l.length)).find? fun p => bad p.1).map fun p => (code, p.2, f)

/-- The checks of R44 from XLATE_FAULT on, in its order, over the arrays given, the footprint's first. `hdr` is PSTRIDE, if
the header can be read: it is read for a footprint with RP regions. `back` is the fallback's requests, if there is one.
OUT_OF_GROUP, PUSH_LIMIT and TOO_LARGE are tested on the fallback's array too (log 86). -/
def judge (s : State) (arrs : List (List RegX)) (back : Option (List TileReq)) (sealed : Bool) (hdr : Option Nat) :
    Option (Nat × Nat × Nat) :=
  let rp := (arrs.headD []).any (·.mode = 2)
  let off := fun (r : RegX) => r.mode ≠ 3 && (r.segs.getD []).any fun (_, x, _) => !(groupMods s).contains (moduleOf x.pa)
  let heavy := fun (l : List RegX) =>
    let q := (footReqs l).map fun r => abutOf r.tile
    decide (4096 < q.length) && q.eraseDups.any fun a => decide (4096 < (q.filter (· = a)).length)
  firstBad 6 arrs (·.segs.isNone) <|>
  (if rp && hdr.isNone then some (6, 0xFF, 0) else none) <|>
  firstBad 7 arrs off <|>
  (if arrs.any fun l => 0x40000 < pushBytes (footPush l) || (rp && hdr.getD 0 < pushBytes (footPush l)) then some (8, 0, 0) else none) <|>
  (if arrs.any heavy then some (9, 0, 0) else none) <|>
  (match back with
   | some b => if covers b (footReqs (arrs.headD [])) then none else some (10, 0, 0)
   | none => none) <|>
  (if sealed then firstBad 11 arrs fun r => r.mode = 1 && (r.segs.getD []).any fun (_, x, _) => !x.sealed else none)

/-- PSTRIDE of the kernel header as read at submission, in the local window in the storage of the issuing core (R44, R335,
R379). -/
def strideAt (s : State) (core : Option Nat) (asid entry : Nat) : Option Nat :=
  (peekWords s core asid (entry + 16) 1).map fun l => fld (l.headD 0) 63 32

/-- The pairs of a list of words. -/
def pairs : List Word → List (Word × Word)
  | a :: b :: t => (a, b) :: pairs t
  | _ => []

/-- A region array: at most 32 entries of it are read. -/
def regArray (s : State) (u : Submitter) (va : Word) (n : Nat) : Option (List (Word × Word)) :=
  if n = 0 then some []
  else if va.toNat % 16 ≠ 0 then none
  else (peekWords s u.core u.asid va.toNat (2 * min n 32)).map pairs

/-- The index of the first entry whose LEN is out of range (R43, R44). -/
def badLen (l : List (Word × Word)) : Option Nat :=
  ((l.zip (span 0 l.length)).find? fun p => fld p.1.2 31 0 = 0 || 0x10000000 < fld p.1.2 31 0).map (·.2)

/-- Has an entry a nonzero reserved field (R43)? -/
def entryRes (e : Word × Word) : Bool := fld e.1 63 58 ≠ 0 || fld e.2 63 32 ≠ 0

/-- Member `k` of a submission, by its descriptor (R42): its failure as (status, REGION, FB), or its transaction
(R44). `w0` is the control word of the first descriptor. -/
def member (s : State) (u : Submitter) (w0 : Word) (k : Nat) (d : List Word) : Except (Nat × Nat × Nat) Txn :=
  let c := d.getD 0 0
  let nreg := fld c 39 34
  let nfb := fld c 33 28
  let foot := regArray s u (d.getD 3 0) nreg
  let back := regArray s u (d.getD 4 0) nfb
  let res := fld c 63 60 ≠ 0 || fld c 52 48 ≠ 0 || bit c 27 || fld c 26 24 ≠ 0 || fld c 23 16 ≠ 0 ||
    (!bit c 55 && fld c 47 40 ≠ 0) || (d.drop 5).any (· ≠ 0) || (d.getD 3 0).toNat % 16 ≠ 0 ||
    (nfb ≠ 0 && (d.getD 4 0).toNat % 16 ≠ 0) || (foot.getD []).any entryRes || (back.getD []).any entryRes
  if res then .error (2, 0, 0)
  else if nreg = 0 || 32 < nreg || 32 < nfb then .error (3, 0xFF, 0)
  else
    match badLen (foot.getD []), badLen (back.getD []) with
    | some i, _ => .error (3, i, 0)
    | none, some i => .error (3, i, 1)
    | none, none =>
      if k ≠ 0 && (bit c 55 || fld c 59 56 ≠ fld w0 59 56) then .error (4, 0, 0)
      else if bit c 54 && nfb = 0 then .error (5, 0, 0)
      else if u.core.isNone && window0 ≤ (d.getD 1 0).toNat then .error (6, 0xFF, 0)
      else
        match foot, back with
        | some fa, some ba =>
          let f := fa.map (regX s u)
          let b := ba.map (regX s u)
          match judge s [f, b] (if nfb = 0 then none else some (footReqs b)) (bit c 53) (strideAt s u.core u.asid (d.getD 1 0).toNat) with
          | some e => .error e
          | none => .ok {
              uid := 0, num := none, st := .submitted, stage := fld c 59 56, checked := bit c 54, sealed := bit c 53
              budget := fld c 15 0, entry := d.getD 1 0, arg := d.getD 2 0, foot := footReqs f, back := footReqs b
              push := footPush f, pushBack := footPush b, restart := 0, onBack := false, gang := none, held := []
              pushBuf := [], pushPsn := [], pooled := false, tag := u.tag, asid := u.asid, core := none, ent := 0
              started := 0, passed := false, wroteW := false, ended := false, voidOf := none, gran := 0 }
        | _, _ => .error (6, 0xFF, 0)

/-- The worst of two failures: the earlier status in the table, then the lower member (R44). -/
def worse (a : Option (Nat × Nat × Nat × Nat)) (b : Nat × Nat × Nat × Nat) : Nat × Nat × Nat × Nat :=
  match a with
  | none => b
  | some x => if b.1 < x.1 then b else x

/-- The members of a submission: every transaction, or the failure as (status, MEMBER, REGION, FB). `desc` gives the
descriptors. -/
def members (s : State) (u : Submitter) (w0 : Word) (desc : Nat → Option (List Word)) (limit : Nat) :
    Nat → Nat → Option (Nat × Nat × Nat × Nat) → List Txn → Except (Nat × Nat × Nat × Nat) (List Txn)
  | 0, _, some e, _ => .error e
  | 0, _, none, l => .ok l
  | n + 1, k, e, l =>
    let r : Except (Nat × Nat × Nat) Txn :=
      if limit ≤ k then .error (4, 0, 0)
      else
        match desc k with
        | none => .error (6, 0xFF, 0)
        | some d => member s u w0 k d
    match r with
    | .error (c, r, f) => members s u w0 desc limit n (k + 1) (some (worse e (c, k, r, f))) l
    | .ok t => members s u w0 desc limit n (k + 1) e (l ++ [t])

/-- The status word of R335. -/
def statusWord (code mem reg fb : Nat) : Word := wd (mem % 256 * 2 ^ 24 + reg % 256 * 2 ^ 16 + fb * 2 ^ 15 + code)

/-- The submissions without a number (R44). -/
def unnumbered (s : State) : Nat := (s.ks.txns.filter fun t => t.num.isNone).length

/-- The transactions that a descriptor's control word declares (R42, R44). -/
def gangSize (w0 : Word) : Nat := if bit w0 55 then (fld w0 47 44 + 1) * (fld w0 43 40 + 1) else 1

/-- Does the intake accept nothing now (R44, R49)? -/
def intakeFull (s : State) : Bool := 4096 ≤ unnumbered s || 4 ≤ s.ks.closed.length

/-- THE CHECKS OF A SUBMISSION (R44, R49): the transactions, or the status word. `desc` gives the descriptors,
`aligned` says whether their array is, and `limit` how many there are. -/
def checkSub (s : State) (u : Submitter) (aligned : Bool) (desc : Nat → Option (List Word)) (limit : Nat) :
    Except Word (List Txn) :=
  if intakeFull s then .error (statusWord 1 0 0 0)
  else if !aligned then .error (statusWord 2 0 0 0)
  else
    match desc 0 with
    | none => .error (statusWord 6 0 0xFF 0)
    | some d =>
      let n := gangSize (d.getD 0 0)
      if 4096 < unnumbered s + n then .error (statusWord 1 0 0 0)
      else
        match members s u (d.getD 0 0) desc limit n 0 none [] with
        | .error (c, m, r, f) => .error (statusWord c m r f)
        | .ok l => .ok l

/-! Locks: channels, tables, grants. -/

/-- The entries of a tile after the rules of R51, and the numbers newly granted. -/
def applyRules : Bool → Bool → List LockEnt → List LockEnt × List Nat
  | _, _, [] => ([], [])
  | first, shared, e :: t =>
    let ok := if e.excl then first else shared
    let r := applyRules false (shared && !e.excl) t
    ({ e with got := e.got || ok } :: r.1, if ok && !e.got then e.num :: r.2 else r.2)

/-- Is a tile homed on a member of the group that has departed: can it be granted to nobody until the group re-forms
(R67, R429)? -/
def tileGone (s : State) (tile : Nat) : Bool :=
  match s.ks.group with
  | none => false
  | some g => g.gone.any fun p => g.mods[p]? == some (moduleOf (tile * 4096))

/-- Apply the rules to a tile: new grants go on their way. -/
def regrant (s : State) (tile : Nat) : State :=
  if tileGone s tile then s
  else
    let r := applyRules true true (tget [] s.ks.locks tile)
    modKs s fun k => { k with
      locks := if r.1.isEmpty then tdel tile k.locks else tput tile r.1 k.locks
      grants := k.grants ++ r.2.map fun n => (n, tile) }

/-- The entries in an abutment's table (R50). -/
def tableSize (s : State) (ab : Nat) : Nat :=
  ((s.ks.locks.filter fun e => abutOf e.1 = ab).map fun e => e.2.length).sum

/-- An abutment of this module logs a message in a cut (R69). -/
def abutNote (s : State) (ab input : Nat) (msg : CutMsg) : State :=
  if ab / 128 = s.module then cutNote s (1 + ab % 128) input msg else s

/-- The input of the front end that an abutment's grants come in at: those of this module's abutments first, then those of
each member of the group by its position (R69). -/
def grantInput (s : State) (ab : Nat) : Nat :=
  if ab / 128 = s.module then ab % 128
  else 128 * (1 + (((s.ks.group.map (·.mods)).getD []).findIdx (· = ab / 128))) + ab % 128

/-- LOCK_REQUEST (R51): an abutment takes the next request from its channel while its table has room. -/
def execLockRequest (ab : Nat) (s : State) : Out :=
  .next (match tget [] s.ks.chans ab with
  | .req num tile excl push :: rest =>
    if 16384 ≤ tableSize s ab then s
    else
      let s := modKs s fun k => { k with
        chans := if rest.isEmpty then tdel ab k.chans else tput ab rest k.chans
        locks := tmod [] tile (· ++ [⟨num, excl, push, false⟩]) k.locks }
      abutNote (regrant s tile) ab 0 (.request num tile excl push)
  | .endMark :: rest => modKs s fun k => { k with chans := if rest.isEmpty then tdel ab k.chans else tput ab rest k.chans }
  | _ => s)

/-- The position in its group's token order that a transaction number names (R46). -/
def posOf (num : Nat) : Nat := num / 1024 % 64

/-- The granted entries of other members' transactions: number and tile. -/
def foreign (s : State) : List (Nat × Nat) :=
  match s.ks.group with
  | none => []
  | some g => s.ks.locks.flatMap fun (t, l) => (l.filter fun e => e.got && posOf e.num ≠ g.pos).map fun e => (e.num, t)

/-- Remove an entry and apply the rules again (R51). -/
def unlock (s : State) (num tile : Nat) : State :=
  regrant (modKs s fun k => { k with locks := tmod [] tile (fun l => l.filter (·.num ≠ num)) k.locks }) tile

/-- LOCK_RELEASE (R51, R57): release `i` on its way, or, past those, one of another member's transactions. -/
def execLockRelease (i : Nat) (s : State) : Out :=
  .next (match s.ks.relq[i]? with
  | some (num, tile) =>
    let s := modKs s fun k => { k with relq := k.relq.eraseIdx i }
    abutNote (unlock s num tile) (abutOf tile) 1 (.release num tile)
  | none =>
    match (foreign s)[i - s.ks.relq.length]? with
    | some (num, tile) => abutNote (unlock s num tile) (abutOf tile) (2 + posOf num) (.release num tile)
    | none => s)

/-- Note since when a gang has been the oldest READY unit of its stage (R39): one that an older unit displaces begins
again. -/
def noteHeads (s : State) : State :=
  let heads := s.ks.ready.filterMap (·.2.head?)
  modKs s fun k => { k with gangs := k.gangs.map fun g =>
    { g with since := if g.uids.any (heads.contains ·) then some (g.since.getD s.cycle) else none } }

/-- Put a READY unit into its stage's queue. -/
def enqueue (s : State) (stage uid : Nat) : State :=
  noteHeads (modKs s fun k => { k with ready := tmod [] stage (· ++ [uid]) k.ready })

/-- A transaction is READY when every grant has arrived and its push, if it has one, is complete (R55); a gang when all its members
are (R24). -/
def maybeReady (s : State) (uid : Nat) : State :=
  match txnBy s uid with
  | none => s
  | some t =>
    if t.st = .granting && (t.pooled || pushBytes t.push = 0) && t.foot.all (fun r => t.held.any (·.tile = r.tile)) then
      let s := modTxn s uid fun t => { t with st := .ready }
      match t.gang with
      | none => enqueue s t.stage uid
      | some (g, _) =>
        if (gangTxns s g).all (·.st = .ready) then
          enqueue s t.stage (((gangTxns s g).head?.map (·.uid)).getD uid)
        else s
    else s

/-- The pool's size in bytes (R55, R190). -/
def poolSize (s : State) : Nat := 2 * (ksReg s 0x1138).toNat * 2 ^ 20

/-- Allocate the push pool in number order (R55). -/
def poolTry : Nat → State → State
  | 0, s => s
  | n + 1, s =>
    match s.ks.txns.find? fun t => t.st = .granting && !t.pooled && pushBytes t.push ≠ 0 with
    | none => s
    | some t =>
      let z := pushBytes t.push
      if poolSize s < s.ks.poolUsed + z then s
      else
        let s := modKs (modTxn s t.uid fun t => { t with pooled := true }) fun k => { k with poolUsed := k.poolUsed + z }
        poolTry n (maybeReady s t.uid)

/-- Allocate as much as fits. -/
def poolAll (s : State) : State := poolTry (s.ks.txns.length + 1) s

/-- The transactions that a grant under a number is for: the transaction itself, or its gang's members (R53). -/
def grantees (s : State) (num : Nat) : List Txn :=
  match s.ks.txns.find? (·.num == some num) with
  | none => []
  | some t =>
    match t.gang with
    | none => [t]
    | some (g, _) => gangTxns s g

/-- The pushed bytes of a tile as its slice reads them (R54): addresses and keys. -/
def tilePush (t : Txn) (tile : Nat) : List (Nat × Nat) :=
  t.push.flatMap fun r => r.flatMap fun (pa, n, key) =>
    let lo := max pa (tile * 4096)
    let hi := min (pa + n) (tile * 4096 + 4096)
    (span lo (hi - lo)).map fun a => (a, key)

/-- A grant reaches a transaction, with the bytes of its RP regions in the tile (R54, R55). -/
def grantTo (s : State) (t : Txn) (tile : Nat) : State :=
  match t.foot.find? (·.tile = tile) with
  | none => s
  | some r =>
    let ps := tilePush t tile
    let s := modTxn s t.uid fun u => { u with
      held := addReq r u.held
      pushBuf := memSetAll (ps.map fun p => (p.1, rdByte s p.2 p.1)) u.pushBuf
      pushPsn := ps.foldl (fun l p => if isPsn s p.1 then sIns (granule p.1).1 l else l) u.pushPsn }
    maybeReady s t.uid

/-- GRANT_ARRIVAL (R54, R55, R67): grant `i` reaches the front end of its module; another member's leaves this module. -/
def execGrantArrival (i : Nat) (s : State) : Out :=
  .next (match s.ks.grants[i]? with
  | none => s
  | some (num, tile) =>
    if tileGone s tile || keyHeld s ((grantees s num).flatMap fun t => tilePush t tile) then s
    else
      let s := modKs s fun k => { k with grants := k.grants.eraseIdx i }
      let ps := (grantees s num).flatMap fun t => tilePush t tile
      let s := if (grantees s num).isEmpty then s
        else cutNote s 129 (grantInput s (abutOf tile)) (.grant num tile (ps.map fun p => (p.1, rdByte s p.2 p.1))
          ((ps.map (·.1)).filter (isPsn s)))
      (grantees s num).foldl (fun s t => grantTo s t tile) s)

/-! Batches. -/

/-- The requests of entry `e` of a batch: those of a transaction, or of the whole gang at its first member (R53). -/
def entryReqs (s : State) (t : Txn) : List TileReq :=
  match t.gang with
  | none => t.foot
  | some (g, k, _, _) =>
    if k = 0 then (gangTxns s g).foldl (fun l u => u.foot.foldl (fun l r => addReq r l) l) [] else []

/-- The manifest entry of a batch entry (R65). -/
def manifestOf (s : State) (e : BatchEnt) : ManifestEntry :=
  match e with
  | .void => ⟨.void, []⟩
  | .marker g => ⟨.marker g, []⟩
  | .txn uid =>
    match txnBy s uid with
    | none => ⟨.void, []⟩
    | some t => ⟨if (t.gang.map fun g => g.2.1) = some 0 then .gangStart else .txn, entryReqs s t⟩

/-- Give an entry its number; a restart is journaled with its new number (R46, R64). -/
def numberOne (s : State) (e : BatchEnt) (n : Nat) : State :=
  match e with
  | .txn uid =>
    match txnBy s uid with
    | none => s
    | some t =>
      let s := modTxn s uid fun t => { t with num := some n, st := .numbered, voidOf := none }
      let s := modLaunch s t.tag fun l => { l with last := max l.last n }
      match t.voidOf with
      | some v => jlog s 5 0 0 0 (wd v) (wd n)
      | none => s
  | _ => s

/-- Number a batch (R46): its entries in order, and its manifest. -/
def numberBatch (s : State) (b : List BatchEnt) (batch pos : Nat) : State × List ManifestEntry :=
  let s := (b.zip (span 0 b.length)).foldl (fun s (e, i) => numberOne s e (batch * 2 ^ 16 + pos * 2 ^ 10 + i)) s
  (s, b.map (manifestOf s))

/-- Put an entry at the end of an abutment's channel. -/
def pushChan (s : State) (ab : Nat) (e : ChanEnt) : State :=
  modKs s fun k => { k with chans := tmod [] ab (· ++ [e]) k.chans }

/-- The same to every abutment of the module. -/
def pushAll (s : State) (e : ChanEnt) : State :=
  (span (s.module * 128) 128).foldl (fun s ab => pushChan s ab e) s

/-- A cut's marker has its number (R68): Keystone, whose inputs it has come through, records (R69; log 47). -/
def cutNumber (s : State) (n : Nat) : State :=
  let rec0 := CutRec.keystone s.ks.openB s.ks.closed (s.ks.txns.map fun t => (t.uid, t.restart)) s.ks.voids
  modKs s fun k => { k with cutSt := k.cutSt ++ [⟨n, [(0, 0), (0, 1)], [], [rec0], []⟩] }

/-- Feed one numbered manifest entry to the abutments (R50, R66), those of the other members being tracked too. A
marker takes part here if it is this module's or a group's (R68). -/
def feedOne (s : State) (mine : Bool) (e : ManifestEntry) (n : Nat) : State :=
  let s := match e.kind with
    | .marker g => if mine || g then pushAll (cutNumber s n) .marker else s
    | _ => s
  let s := e.reqs.foldl (fun s r =>
    if (groupMods s).contains (moduleOf (r.tile * 4096)) then pushChan s (abutOf r.tile) (.req n r.tile r.excl r.push) else s) s
  match s.ks.txns.find? (·.num == some n) with
  | some t => if t.st = .numbered then maybeReady (modTxn s t.uid fun t => { t with st := .granting }) t.uid else s
  | none => s

/-- Feed a manifest in order, its end mark behind it (R50, R66). -/
def feed (s : State) (pos batch : Nat) (mine : Bool) (es : List ManifestEntry) : State :=
  let s := (es.zip (span 0 es.length)).foldl (fun s (e, i) => feedOne s mine e (batch * 2 ^ 16 + pos * 2 ^ 10 + i)) s
  poolAll (pushAll s .endMark)

/-- CLOSE OF THE OPEN BATCH (R47, R50): outside a group it is numbered and its requests go to the abutments; in a group
it waits for the token, and while four wait no other closes (R49). An empty batch is never closed. -/
def closeBatch (s : State) : State :=
  let b := s.ks.openB
  if b.isEmpty then s
  else if s.ks.group.isSome && 4 ≤ s.ks.closed.length then modKs s fun k => { k with closeDue := true }
  else
    let s := modKs s fun k => { k with openB := [], closeDue := false }
    match s.ks.group with
    | some _ => modKs s fun k => { k with closed := k.closed ++ [b] }
    | none =>
      let n := s.ks.batch + 1
      let (s, es) := numberBatch (modKs s fun k => { k with batch := n }) b n 0
      feed s 0 n true es

/-- Place entries into the open batch, together (R47). -/
def placeEnts (s : State) (es : List BatchEnt) : State :=
  let s := if 1024 < s.ks.openB.length + es.length then closeBatch s else s
  let s := modKs s fun k => { k with openB := k.openB ++ es, openAt := if k.openB.isEmpty then s.cycle else k.openAt }
  if 1024 ≤ s.ks.openB.length then closeBatch s else s

/-- Voided transactions are SUBMITTED again, in order, while the open batch has room (R22, R62). -/
def placeVoids : Nat → State → State
  | 0, s => s
  | n + 1, s =>
    if 1024 ≤ s.ks.openB.length then s
    else
      match s.ks.txns.find? (·.st = .void) with
      | none => s
      | some t => placeVoids n (placeEnts (modTxn s t.uid fun t => { t with st := .submitted }) [.txn t.uid])

/-- A manifest has been sent: a close that waited for it is made, and voided transactions take their places (R49, R62). -/
def closeAgain (s : State) : State :=
  let s := if s.ks.closeDue || 1024 ≤ s.ks.openB.length then closeBatch s else s
  placeVoids (s.ks.txns.length + 1) s

/-- ACCEPTANCE of a submission (R44, R47, R337). -/
def acceptSub (s : State) (w0 : Word) (l : List Txn) : State :=
  let n := l.length
  let id := s.uid
  let gang := bit w0 55
  let ts := (l.zip (span 0 n)).map fun (t, k) =>
    { t with uid := id + k, gang := if gang then some (id, k, fld w0 47 44 + 1, fld w0 43 40 + 1) else none }
  let s := modKs { s with uid := id + n } fun k => { k with
    txns := k.txns ++ ts
    gangs := if gang then k.gangs ++ [{ id := id, w := fld w0 47 44 + 1, h := fld w0 43 40 + 1, stage := fld w0 59 56
                                        uids := ts.map (·.uid), place := none, lane := 0, arr := [], votes := []
                                        since := none, reserved := none, recs := [] }] else k.gangs
    launches := k.launches.map fun x => if (l.head?.map (·.tag)) = some x.tag then { x with live := x.live + n } else x }
  placeEnts s (ts.map fun t => .txn t.uid)

/-- A SUBMISSION at Keystone's intake: accepted or rejected whole; the status word (R44, R335). -/
def submit (s : State) (u : Submitter) (aligned : Bool) (desc : Nat → Option (List Word)) (limit : Nat) : State × Word :=
  match checkSub s u aligned desc limit with
  | .error w => (s, w)
  | .ok l => (cutNote (acceptSub s (((desc 0).getD []).getD 0 0) l) 0 0 (.submission l), 0)

/-- The descriptors of an array in memory as a submitter's Keystone reads them. -/
def descAt (s : State) (u : Submitter) (va : Nat) (k : Nat) : Option (List Word) :=
  peekWords s u.core u.asid (va + 64 * k) 8

/-- BATCH_CLOSE_TIMER (R47): 3,600 cycles after the open batch's first entry. -/
def execBatchCloseTimer (s : State) : Out :=
  .next (if s.ks.openB.isEmpty || s.cycle < s.ks.openAt + 3600 then s else closeBatch s)

/-- PUSHPOOL_RESIZE (R190): the size written takes effect once no push occupies the pool. -/
def execPushpoolResize (s : State) : Out :=
  .next (match s.ks.poolNew with
  | none => s
  | some v =>
    if s.ks.poolUsed ≠ 0 then s
    else poolAll (modKs s fun k => { k with regs := tput 0x1138 (wd v) k.regs, poolNew := none }))

/-! Dispatch. -/

/-- The fields of a kernel header (R379). -/
structure Header where
  mode    : Nat
  gran    : Nat
  scoff   : Int
  enoff   : Int
  pbase   : Nat
  pstride : Nat
  deriving DecidableEq, Repr

/-- The check of a kernel header in the order of R380: its fields, or the REASON. -/
def checkHeader (s : State) (asid va : Nat) : Except Nat Header :=
  if va % 64 ≠ 0 then .error 1
  else
    match peekWords s none asid va 8 with
    | none => .error 1
    | some w =>
      let w0 := w.getD 0 0
      let w1 := w.getD 1 0
      let w2 := w.getD 2 0
      if fld w0 63 48 ≠ 0xB153 || fld w0 47 40 ≠ 1 then .error 2
      else if fld w0 39 34 ≠ 0 || fld w0 27 16 ≠ 0 || (w.drop 3).any (· ≠ 0) then .error 3
      else if 2 ≤ fld w0 33 32 then .error 4
      else if 8128 < fld w0 15 0 then .error 5
      else if fld w1 31 0 = 0 || fld w1 31 0 % 4 ≠ 0 || fld w1 63 32 % 4 ≠ 0 then .error 6
      else if fld w2 31 0 % 64 ≠ 0 || fld w2 63 32 % 64 ≠ 0 || 0x400000 < fld w2 31 0 + 128 * fld w2 63 32 then .error 7
      else .ok ⟨fld w0 33 32, (fld w0 15 0 + 15) / 16, sint 32 (fld w1 63 32), sint 32 (fld w1 31 0), fld w2 31 0, fld w2 63 32⟩

/-- The transactions that hold inbox entries of a core (R56). -/
def onCore (s : State) (c : Nat) : List Txn := s.ks.txns.filter (·.core == some c)

/-- The core of a deck at a place of its grid (R14). -/
def coreAt (d x y : Nat) : Nat := d * 1024 + y / 4 * 128 + x / 4 * 16 + y % 4 * 4 + x % 4

/-- The cores of a rectangle in member order (R24). -/
def rectCores (w h : Nat) (p : Nat × Nat × Nat) : List Nat :=
  (span 0 (w * h)).map fun k => coreAt p.1 (p.2.1 + k % w) (p.2.2 + k / w)

/-- Every place of a rectangle, in the order of R24: deck, y, x. -/
def places (w h : Nat) : List (Nat × Nat × Nat) :=
  [0, 1].flatMap fun d => (span 0 (33 - h)).flatMap fun y => (span 0 (33 - w)).map fun x => (d, x, y)

/-- Has a gang other than `me` reserved a core (R39)? -/
def reservedFrom (s : State) (me : Option Nat) (c : Nat) : Bool :=
  s.ks.gangs.any fun g => some g.id ≠ me && (match g.reserved with
    | some p => (rectCores g.w g.h p).contains c
    | none => false)

/-- Does a core that serves a stage take a new record now: 64 cycles after a move, once the saved harts of the stage have
resumed there, unless another gang has reserved it (R29, R39, R234)? `me` is the gang that asks. -/
def takesNew (s : State) (stage : Nat) (me : Option Nat) (c : Nat) : Bool :=
  decide ((getCore s c).openAt ≤ s.cycle) && decide ((onCore s c).length < 8) &&
  !(s.ks.saved.any fun v => v.stage = stage && coreOf v.hart = c && (me.isNone || v.gang ≠ me)) &&
  !reservedFrom s me c

/-- Does a core serve a stage, and is it not on its way to another (R23, R29, R31)? -/
def serves (s : State) (stage c : Nat) : Bool :=
  (getCore s c).stage = stage && (getCore s c).move.isNone && !(s.ks.switching.any (·.1 == c))

/-- Does a core take new records of a stage (R23)? -/
def openCore (s : State) (stage : Nat) (me : Option Nat) (c : Nat) : Bool := serves s stage c && takesNew s stage me c

/-- Is a barrier lane in use at a core (R191)? A gang that is wholly cut and saved keeps its lane on its old rectangle until it is
placed again or retires: the spec does not say when a lane becomes free, so that is the model's choice (log 105). -/
def laneBusy (s : State) (c lane : Nat) : Bool :=
  s.ks.gangs.any fun g => g.lane = lane && (match g.place with
    | some p => (rectCores g.w g.h p).contains c
    | none => false)

/-- The lowest lane free on every core of a rectangle (R191). -/
def freeLane (s : State) (cs : List Nat) : Option Nat := [0, 1, 2, 3].find? fun l => cs.all fun c => !laneBusy s c l

/-- The bytes of a transaction's push, each region padded, with their poison (R56). -/
def pushData (t : Txn) : List (Byte × Bool) :=
  t.push.flatMap fun r =>
    let bs := r.flatMap fun (pa, n, _) => (span pa n).map fun a => (memGet t.pushBuf a, t.pushPsn.contains (granule a).1)
    bs ++ List.replicate ((64 - bs.length % 64) % 64) (0, false)

/-- The first addresses of a push area in each bank that it touches, `stride` bytes from an offset of a cluster's SRAM. -/
def pushStarts (off stride : Nat) : List Nat :=
  off :: (span 1 16).filterMap fun i =>
    let a := (off / 0x40000 + i) * 0x40000
    if a < off + stride then some a else none

/-- Copy a push to its area of a cluster's SRAM, `stride` bytes from an offset; the area's first address outside a
scratchpad-mode bank instead (R56). -/
def copyPush (s : State) (cl off stride : Nat) (d : List (Byte × Bool)) : State × Option Word :=
  let pas := span (sramPa s cl off) d.length
  match (pushStarts off stride).find? fun a => (bankOf (sramPa s cl a)).any fun (c, b) => bankMode s c b ≠ 0 with
  | some a => (s, if d.isEmpty then none else some (wd (window0 + 0x1000000 + a)))
  | none =>
    let s := putBytes s 0 (pas.zip (d.map (·.1))) false
    ({ s with poison := poisonAfter (((pas.zip d).filter fun p => p.2.2).map (·.1)) true s.poison }, none)

/-- The lowest free inbox entry of a core. -/
def freeEnt (s : State) (c : Nat) : Nat := ((span 0 8).find? fun e => !((onCore s c).any (·.ent == e))).getD 0

/-- The task record (R385). -/
def taskRecord (t : Txn) (h : Header) (e push : Nat) : List Word :=
  let pc := wd (((t.entry.toNat : Int) + h.enoff) % 2 ^ 64).toNat
  let mem := (t.gang.map fun g => g.2.1).getD 0
  [wd (t.num.getD 0), t.entry, t.arg,
   wd (t.tag * 2 ^ 60 + t.stage * 2 ^ 56 + e * 2 ^ 53 + b2n t.gang.isSome * 2 ^ 52 + b2n t.onBack * 2 ^ 51 + h.mode * 2 ^ 50 +
     mem * 2 ^ 40 + t.asid * 2 ^ 9 + h.gran),
   pc, wd push, 0, 0]

/-- The push's space in the pool is free (R56). -/
def freePool (s : State) (t : Txn) : State :=
  if t.pooled then
    modKs (modTxn s t.uid fun t => { t with pooled := false }) fun k => { k with poolUsed := k.poolUsed - pushBytes t.push }
  else s

/-- The header that a dispatch finds, with room for the push (R380). -/
def headerFor (s : State) (t : Txn) : Option Header :=
  match checkHeader s t.asid t.entry.toNat with
  | .ok h => if h.pstride < pushBytes t.push then none else some h
  | .error _ => none

/-- Must a push to a core wait for a bank of its area whose mode is changing (R56, R83)? -/
def pushWaits (s : State) (uid c : Nat) : Bool :=
  match txnBy s uid with
  | none => false
  | some t =>
    !(pushData t).isEmpty && (headerFor s t).any fun h =>
      (pushStarts (h.pbase + (c % 16 * 8 + freeEnt s c) * h.pstride) h.pstride).any fun a =>
        (bankOf (sramPa s (clusterOf c) a)).any fun (k, b) => bankPend s k b

/-- DISPATCH of one transaction to a core (R56, R380): the header is checked; then entry, push copy, record; or the
transaction ends as by an unhandled trap. -/
def sendTo (s : State) (uid c : Nat) : State :=
  match txnBy s uid with
  | none => s
  | some t =>
    match headerFor s t with
    | none =>
      let s := jlog (freePool s t) 6 0 (4 * 256 + 4) 0xFFFFFFFF t.entry 0
      let s := addAcc s c t.tag (stTrapped ||| wd (2 ^ 32))
      dropTxn (releaseTxn s uid) uid
    | some h =>
      let e := freeEnt s c
      let off := h.pbase + (c % 16 * 8 + e) * h.pstride
      let r := copyPush s (clusterOf c) off h.pstride (pushData t)
      let push := if t.push.isEmpty then 0 else window0 + 0x1000000 + off
      let s := freePool r.1 t
      let s := modTxn s uid fun t => { t with st := .dispatched, core := some c, ent := e, gran := h.gran }
      let ent : InboxEnt := ⟨e, uid, taskRecord t h e push, r.2⟩
      cutNote (modCore s c fun k => { k with inbox := k.inbox ++ [ent] }) (130 + c) 0 (.record ent)

/-- Take a unit out of its stage's queue. -/
def dequeue (s : State) (stage uid : Nat) : State :=
  noteHeads (modKs s fun k => { k with ready := tmod [] stage (fun l => l.filter (· ≠ uid)) k.ready })

/-- The core of fewest records held or running, the lowest number first (R23). -/
def leastLoaded (s : State) (cs : List Nat) : Option Nat :=
  cs.foldl (fun b c =>
    match b with
    | none => some c
    | some d => if (onCore s c).length < (onCore s d).length then some c else b) none

/-- DISPATCH (R23, R56): the oldest READY transaction of the stage that is in no gang, if a core can take it. -/
def execDispatch (stage : Nat) (s : State) : Out :=
  .next (match (tget [] s.ks.ready stage).find? fun u => ((txnBy s u).bind (·.gang)).isNone with
  | none => s
  | some u =>
    match leastLoaded s ((span 0 2048).filter (openCore s stage none)) with
    | none => s
    | some c => if pushWaits s u c then s else poolAll (dequeue (sendTo s u c) stage u))

/-- The first free rectangle for a gang, and its lane (R24, R191). -/
def freeRect (s : State) (g : Gang) : Option ((Nat × Nat × Nat) × Nat) :=
  (places g.w g.h).findSome? fun p =>
    let cs := rectCores g.w g.h p
    if cs.all (openCore s g.stage (some g.id)) then (freeLane s cs).map fun l => (p, l) else none

/-- The READY gangs of a stage in order, with the unit's number in the queue. -/
def readyGangs (s : State) (stage : Nat) : List (Nat × Gang) :=
  (tget [] s.ks.ready stage).filterMap fun u => (txnBy s u).bind fun t => (gangOf s t).map fun g => (u, g)

/-- GANG_DISPATCH (R24): every record of the first READY gang that has a rectangle is written in the same cycle. -/
def execGangDispatch (stage : Nat) (s : State) : Out :=
  .next (match (readyGangs s stage).findSome? fun (u, g) => (freeRect s g).map fun r => (u, g, r) with
  | none => s
  | some (u, g, p, lane) =>
    if (g.uids.zip (rectCores g.w g.h p)).any fun (m, c) => pushWaits s m c then s
    else
    let s := modGang (dequeue s stage u) g.id fun x => { x with place := some p, lane := lane, reserved := none }
    poolAll ((g.uids.zip (rectCores g.w g.h p)).foldl (fun s (m, c) => sendTo s m c) s))

/-- GANG_RESERVATION (R39): the oldest READY unit of the stage is a gang and has been for 16,384 cycles. -/
def execGangReservation (stage : Nat) (s : State) : Out :=
  .next (match readyGangs s stage with
  | [] => s
  | (u, g) :: _ =>
    let old := match g.since with
      | some c => decide (c + 16384 ≤ s.cycle)
      | none => false
    if (tget [] s.ks.ready stage).head? ≠ some u || !old || (s.ks.gangs.any fun x => x.stage = stage && x.reserved.isSome) then s
    else
      match (places g.w g.h).find? fun p => (rectCores g.w g.h p).all fun c => (getCore s c).stage = stage with
      | none => s
      | some p => modGang s g.id fun x => { x with reserved := some p })

end Sys2Proof.Machine
end

