-- ==== Sys2Proof/Machine/System.lean ====
section
/-! DEFINITION. Majors 0x3E and 0x3F: TRAP, RETT, WPSW, the control registers, IDLE, TLB and cache maintenance (R350 to
R358), and the prefixes (R113, R254). -/

namespace Sys2Proof.Machine

/-! Prefixes. -/

/-- The bits 21..0 of a prefix word, which PAYLOAD holds (R245). -/
def prefixBits (i : Instr) : Nat := encodeNat i % 2 ^ 22

/-- The next word, with the prefix state as the prefix leaves it. -/
def prefixDone (s : State) (f : Word → Word) : State :=
  modSlot s s.cur fun x => { x with hsw := f x.hsw, pc := x.pc + 4, inside := false, latch := [] }

/-- FMT (R113, R114). -/
def execFmt (st dt : Option ElemType) (nm : NmSel) (ftz sat : Bool) (s : State) : Out :=
  .next (issue (.fmt st dt nm ftz sat) .fmtWord 0 s fun s =>
    prefixDone s fun w => setFld (setFld w 41 40 1) 39 18 (prefixBits (.fmt st dt nm ftz sat)))

/-- REP (R222, R254): a new sequence, with no execution of it made yet (R295). -/
def execRep (count : BitVec 16) (s : State) : Out :=
  .next (issue (.rep count) .none 0 s fun s =>
    let s := modSlot s s.cur fun x => { x with outs := x.outs.map fun o => { o with rep := false }, repped := false }
    prefixDone s fun w => setFld (setFld w 63 48 count.toNat) 42 42 0)

/-- LIX (R254). -/
def execLix (hi : BitVec 22) (s : State) : Out :=
  .next (issue (.lix hi) .none 0 s fun s =>
    prefixDone s fun w => setFld (setFld w 41 40 3) 39 18 hi.toNat)

/-! Traps and frames. -/

/-- RETURN FROM AN EXCEPTION: the PC and the status of the frame now installed; a pending interrupt is not lost
(R220, R351). -/
def returnTo (s : State) (h : Nat) (wp : Nat) (sw : Bool) : State :=
  let f := scratchPa s (coreOf h) wp
  let n := hswClean (rd64 s (f + 8 * 61))
  let pc := rd64 s (f + 8 * 60)
  modSlot s h fun x => { x with
    wp := wp, pc := pc, hsw := setFld n 10 8 (fld n 10 8 ||| fld x.hsw 10 8)
    inside := false, latch := [], kept := [], answer := none, repped := false
    st := if sw then .parked .results none else x.st }

/-- The granules of extra workspace that the header of a hart's kernel requests (R11, R381). -/
def granOf (s : State) (h : Nat) : Nat := ((boundTxn s h).map (·.gran)).getD 0

/-- Is a WP good: a multiple of 512, the frame and `g` granules behind it inside the scratchpad (R11; log 77)? -/
def wpOk (w : Word) (g : Nat) : Bool := w.toNat % 512 = 0 && w.toNat + 512 + 128 * g ≤ 0x30000

/-- RETT (R220, R221, R351): w0 keeps the WP; nothing is written when it faults (R219; log 12). It parks as a marked
instruction does: before it acts while results are outstanding, else after it (R16, R368). -/
def execRett (sw : Bool) (a : Fin 32) (s : State) : Out :=
  .next (issue (.rett sw a) .none 1 s fun s =>
    let h := s.cur
    let x := getSlot s h
    let ops := operands s [a.val]
    let w := ops.getD 0 0
    if !(getSlot s h).outs.isEmpty then parkFor s .results ops
    else if a ≠ 0 && !wpOk w (granOf s h) then raise s (trap .accessFault 4 w)
    else
      let wp := if a = 0 then (getSlot s h).wp else w.toNat
      let n := hswClean (rd64 s (scratchPa s (coreOf h) wp + 8 * 61))
      if modeOf s h < fld n 1 0 || fld n 1 0 = 3 then raise s (illegal (.rett sw a))
      else consume s [a.val] fun s _ =>
        returnTo (if a = 0 then s else uninstall s h) h wp (sw || !x.inside))

/-- WPSW (R13, R352): it parks as RETT does (R368). -/
def execWpsw (sw : Bool) (a : Fin 32) (s : State) : Out :=
  .next (issue (.wpsw sw a) .none 1 s fun s =>
    let h := s.cur
    let x := getSlot s h
    let ops := operands s [a.val]
    let w := ops.getD 0 0
    if !(getSlot s h).outs.isEmpty then parkFor s .results ops
    else if !wpOk w (granOf s h) then raise s (trap .accessFault 4 w)
    else consume s [a.val] fun s _ =>
      retire (modSlot (uninstall s h) h fun y => { y with wp := w.toNat }) (sw || !x.inside))

/-- TRAP (R219, R350): SOFTWARE with the trap PC at the next instruction. -/
def execTrap (sw : Bool) (code : Fin 256) (a : Fin 32) (s : State) : Out :=
  .next (issue (.trap sw code a) .none 0 s fun s => consume s [a.val] fun s _ =>
    takeTrap s s.cur (trap .software code.val (reg s a)) ((getSlot s s.cur).pc + 4))

/-! Control registers (R353, R354). -/

/-- The control registers of R353. -/
inductive CReg where
  | hsw | hartid | wpr | txnum | scout | jrnl | cycle | timecmp | wakeval | ktvec | mtvec | asid | ksaddr | ksdata
  deriving DecidableEq, Repr

/-- The register of a number (R353). -/
def CReg.of : Nat → Option CReg
  | 0x000 => some .hsw | 0x001 => some .hartid | 0x002 => some .wpr | 0x003 => some .txnum | 0x004 => some .scout
  | 0x005 => some .jrnl | 0x008 => some .cycle | 0x009 => some .timecmp | 0x00A => some .wakeval | 0x010 => some .ktvec
  | 0x011 => some .mtvec | 0x012 => some .asid | 0x020 => some .ksaddr | 0x021 => some .ksdata
  | _ => none

/-- The lowest mode that may read a register (R353). -/
def CReg.readMode : CReg → Nat
  | .timecmp | .wakeval | .ktvec | .asid => 1
  | .mtvec | .ksaddr | .ksdata => 2
  | _ => 0

/-- The lowest mode that may write a register, if any may (R353). -/
def CReg.writeMode : CReg → Option Nat
  | .hsw => some 0
  | .timecmp | .wakeval | .ktvec => some 1
  | .mtvec | .asid | .ksaddr | .ksdata => some 2
  | _ => none

/-- The Keystone offset that KSADDR names (R353). -/
def ksOff (s : State) (h : Nat) : Nat := fld (getSlot s h).ksaddr 13 3 * 8

/-- The value of a control register for a hart (R353). -/
def readC (s : State) (h : Nat) : CReg → Word
  | .hsw => (getSlot s h).hsw
  | .hartid => wd (podHart s h)
  | .wpr => wd (getSlot s h).wp
  | .txnum => wd (((boundTxn s h).bind (·.num)).getD 0)
  | .scout => setFld (getSlot s h).sret 1 0 (b2n (getSlot s h).scout)
  | .jrnl => wd (frameEntries s (coreOf h) ((getSlot s h).wp / 512))
  | .cycle => wd s.cycle
  | .timecmp => (getSlot s h).timecmp
  | .wakeval => (getSlot s h).wakeval
  | .ktvec => (getSlot s h).ktvec
  | .mtvec => (getCore s (coreOf h)).mtvec
  | .asid => wd (getSlot s h).asid
  | .ksaddr => (getSlot s h).ksaddr
  | .ksdata => ksRead s (ksOff s h)

/-- CTLR (R353): KSDATA is an outstanding result, every other register is written at once. -/
def execCtlr (sw : Bool) (a : Fin 32) (n : Fin 1024) (s : State) : Out :=
  .next (issue (.ctlr sw a n) .none 0 s fun s =>
    match CReg.of n.val with
    | none => raise s (illegal (.ctlr sw a n))
    | some r =>
      if modeOf s s.cur < r.readMode then raise s (illegal (.ctlr sw a n))
      else if r = .ksdata then retire (addResult s s.cur a.val (readC s s.cur r) false) sw
      else retire (writeReg s s.cur a.val (readC s s.cur r) false) sw)

/-- The status word after CTLW to HSW in a mode (R354). -/
def hswWrite (mode : Nat) (old v : Word) : Word :=
  let w := setFld old 7 5 (fld v 7 5)
  if mode = 0 then w
  else
    let w := setFld w 4 3 (fld v 4 3)
    let w := setFld w 9 8 (fld w 9 8 &&& fld v 9 8)
    if mode = 1 then w else setBit w 10 (bit w 10 && bit v 10)

/-- The reserved bits of a writable register are zero in a value (R353). -/
def cwOk (r : CReg) (v : Word) : Bool :=
  match r with
  | .hsw => fld v 2 2 = 0 && fld v 17 11 = 0 && fld v 47 43 = 0
  | .asid => fld v 63 10 = 0
  | .ksaddr => fld v 63 14 = 0 && fld v 2 0 = 0
  | _ => true

/-- The effect of a write of a control register (R353 to R355). -/
def writeC (s : State) (h : Nat) (r : CReg) (v : Word) : State :=
  match r with
  | .hsw => modHsw s h fun w => hswWrite (modeOf s h) w v
  | .timecmp => modSlot s h fun x => { x with timecmp := v, timDone := false }
  | .wakeval => modSlot s h fun x => { x with wakeval := v }
  | .ktvec => modSlot s h fun x => { x with ktvec := setFld v 1 0 0 }
  | .mtvec => modCore s (coreOf h) fun c => { c with mtvec := setFld v 1 0 0 }
  | .asid => modSlot s h fun x => { x with asid := fld v 9 0 }
  | .ksaddr => modSlot s h fun x => { x with ksaddr := v }
  | .ksdata => ksStore s (ksOff s h) v
  | _ => s

/-- CTLW (R353, R354): a write to KSDATA parks. -/
def execCtlw (sw : Bool) (a : Fin 32) (n : Fin 1024) (s : State) : Out :=
  .next (issue (.ctlw sw a n) .none 0 s fun s =>
    match (CReg.of n.val).bind fun r => r.writeMode.map fun m => (r, m) with
    | none => raise s (illegal (.ctlw sw a n))
    | some (r, m) =>
      let v := reg s a
      if modeOf s s.cur < m then raise s (illegal (.ctlw sw a n))
      else if !cwOk r v then raise s (trap .accessFault 4 v)
      else consume s [a.val] fun s _ => retire (writeC s s.cur r v) (sw || r = .ksdata))

/-- IDLE (R356). -/
def execIdle (sw : Bool) (s : State) : Out :=
  .next (issue (.idle sw) .none 1 s fun s =>
    if fld (getSlot s s.cur).hsw 10 8 ≠ 0 then retire s sw else waitFor s .idle [] none)

/-! TLB and cache maintenance (R357, R358, R236). -/

/-- Remove the TLB entries of the module that an invalidation affects: all, an address space's, or a page's. -/
def tlbDrop (s : State) (asid va : Option Nat) : State :=
  { s with clusters := s.clusters.map fun (n, c) => (n, { c with tlb := c.tlb.filter fun e =>
      !((asid.map fun a => a == e.asid).getD true &&
        (va.map fun v => e.vpn == v / (if e.big then 2 ^ 29 else 2 ^ 16)).getD true) }) }

/-- An invalidation as of now: its entries leave the TLBs, and the accesses from now on are numbered after it (R236). -/
def invalidate (s : State) (asid va : Option Nat) : State :=
  { tlbDrop s asid va with uid := s.uid + 1 }

/-- TLB maintenance with `n` operands: a release at device scope, the invalidation, and the wait of R236 for what was accepted
before it. -/
def tlbMaint (s : State) (n : Nat) (ops : List Word) (asid va : Option Nat) : State :=
  if latched s && decide (n < (getSlot s s.cur).latch.length) then retire s true
  else if writesPending s s.cur then parkFor s .writes ops
  else
    let s := invalidate s asid va
    if translating s asid va s.uid then parkFor s (.inval asid va s.uid) (ops ++ [0]) else retire s true

def execTlball (sw : Bool) (s : State) : Out := .next (issue (.tlball sw) .none 1 s fun s => tlbMaint s 0 [] none none)

def execTlbasid (sw : Bool) (a : Fin 32) (s : State) : Out :=
  .next (issue (.tlbasid sw a) .none 1 s fun s =>
    let ops := operands s [a.val]
    let v := ops.getD 0 0
    if fld v 63 10 ≠ 0 then raise s (trap .accessFault 4 v)
    else consume s [a.val] fun s _ => tlbMaint s 1 ops (some v.toNat) none)

/-- TLBPAGE of a window address removes nothing (R357). -/
def execTlbpage (sw : Bool) (a b : Fin 32) (s : State) : Out :=
  .next (issue (.tlbpage sw a b) .none 1 s fun s =>
    let ops := operands s [a.val, b.val]
    let v := ops.getD 0 0
    let x := ops.getD 1 0
    if fld v 63 56 ≠ 0 then raise s (trap .accessFault 4 v)
    else if fld x 63 10 ≠ 0 then raise s (trap .accessFault 4 x)
    else consume s [a.val, b.val] fun s _ =>
      if window0 ≤ v.toNat then (if writesPending s s.cur then parkFor s .writes ops else retire s true)
      else tlbMaint s 2 ops (some x.toNat) (some v.toNat))

/-- ICINV (R358). -/
def execIcinv (sw : Bool) (s : State) : Out :=
  .next (issue (.icinv sw) .none 0 s fun s =>
    if writesPending s s.cur then parkFor s .writes []
    else retire (modCore s (coreOf s.cur) fun c => { c with icache := [], icAt := some s.cycle }) true)

/-- DCINV (R358). -/
def execDcinv (sw : Bool) (s : State) : Out :=
  .next (issue (.dcinv sw) .none 0 s fun s =>
    retire (modCore s (coreOf s.cur) fun c => { c with dcache := [] }) sw)

end Sys2Proof.Machine
end

