-- ==== Sys2Proof/Machine/Transaction.lean ====
section
/-! DEFINITION. Major 0x3C: TXSUB, TXSCOUT, TXCHK, TXEND, INBOX and DONE (R333 to R344), with checked restart (R59 to
R64). -/

namespace Sys2Proof.Machine

/-- Scouting ends (R339). -/
def leaveScout (s : State) (h : Nat) : State := modSlot s h fun x => { x with scout := false }

/-- TXSUB (R335 to R337): a release at device scope, the submission, and its status word. -/
def execTxsub (sw : Bool) (a b : Fin 32) (s : State) : Out :=
  .next (issue (.txsub sw a b) .none 0 s fun s => needTxn s fun t =>
    let h := s.cur
    let ops := operands s [b.val]
    let s := leaveScout s h
    if t.checked && !t.passed then raise s (trap .txCheckLate 0 0)
    else consume s [b.val] fun s _ =>
      if writesPending s h then parkFor s .writes ops
      else if s.tr.keyCmd.isSome then parkFor s .key ops
      else
        let u : Submitter := ⟨some (coreOf h), t.asid, privOf s h, t.tag⟩
        let va := (ops.getD 0 0).toNat
        let r := submit s u (va % 64 = 0) (descAt s u va) 256
        retire (writeReg r.1 h a.val r.2 false) true)

/-- A word that an instruction reads for itself: its faults with SUB 1 and the address `at1`, its value, and its poison
(R338). -/
def withWord (s : State) (ops : List Word) (va at1 : Nat) (k : State → Word → Bool → State) : State :=
  match readUnit s va 8 with
  | .later n => parkFor s n ops
  | .fault t => raise s { t with value := wd at1 }
  | .ok bs p => k (afterUnit s va 8 bs p) (ofBytes bs) p

/-- POISON of a word that an instruction has read, after its checks: the trap under PTE, else the sticky bit (R96, R216). -/
def wordPoison (s : State) (va : Nat) (psn : Bool) (k : State → State) : State :=
  if !psn then k s
  else if pteOf s s.cur then raise s (trap .poison 0 (wd va))
  else k (setPoisoned s s.cur)

/-- TXSCOUT (R338): enters the scout entry of the kernel header that the descriptor names; a header without one has entry 0
(R360, R379). A fault of the header's read names the header. -/
def execTxscout (sw : Bool) (b : Fin 32) (s : State) : Out :=
  .next (issue (.txscout sw b) .none 0 s fun s =>
    let h := s.cur
    let ops := operands s [b.val]
    let d := ops.getD 0 0
    if d.toNat % 64 ≠ 0 then raise s (trap .misaligned 1 d)
    else withWord s ops (d.toNat + 8) (d.toNat + 8) fun s e ep =>
      withWord s ops (e.toNat + 8) e.toNat fun s w wp =>
        let off := fld w 63 32
        let entry := if off = 0 then 0 else wd (((e.toNat : Int) + sint 32 off) % 2 ^ 64).toNat
        if entry = 0 || entry.toNat % 4 ≠ 0 then raise s (trap .accessFault 4 d)
        else consume s [b.val] fun s _ => wordPoison s (d.toNat + 8) ep fun s => wordPoison s (e.toNat + 8) wp fun s =>
          let next := (getSlot s h).pc + 4
          let s := writeReg (writeReg s h 1 next false) h 3 d false
          retireTo (modSlot s h fun x => { x with scout := true, sret := next }) sw entry)

/-! TXCHK (R340, R341). -/

/-- The entries of the array of TXCHK, read in order: what comes first, or the first fault with its entry's address; or
their words and the first poisoned address. -/
def readEntries (s : State) (va : Nat) : Nat → State × Except (Need ⊕ Trap) (List (Word × Word) × Option Word)
  | 0 => (s, .ok ([], none))
  | n + 1 =>
    match readUnit s va 16 with
    | .later n => (s, .error (.inl n))
    | .fault t => (s, .error (.inr { t with value := wd va }))
    | .ok bs p =>
      let bad := if !p then none else some ((match xlBytes s (who s s.cur) va 16 .read with
        | .ok (pas, _) => firstPsn s va pas
        | .error _ => none).getD (wd va))
      match readEntries (afterUnit s va 16 bs p) (va + 16) n with
      | (s, .error e) => (s, .error e)
      | (s, .ok (l, q)) => (s, .ok ((ofBytes (bs.take 8), ofBytes (bs.drop 8)) :: l, bad.or q))

/-- The requests a transaction holds, its gang's merged ones for a member (R53). -/
def heldReqs (s : State) (t : Txn) : List TileReq :=
  match t.gang with
  | none => t.held
  | some (g, _) => (gangTxns s g).foldl (fun l u => u.held.foldl (fun l r => addReq r l) l) []

/-- The first byte, inside its entry, of the first uncovered tile of a range by pages; a page that does not translate
is uncovered (R340, R341). -/
def uncovered (s : State) (h : Nat) (held : List TileReq) (mode : Nat) : Nat → Nat → Nat → Option Nat
  | 0, _, _ => none
  | fuel + 1, va, n =>
    if n = 0 then none
    else
      let left := min n (65536 - va % 65536)
      let bad := match xlate s (who s h) va .read with
        | .error _ => some va
        | .ok x =>
          ((rangeTiles x.pa left).find? fun t => !covers held [⟨t, mode = 1, mode = 2⟩]).map fun t =>
            va + (t * 4096 - x.pa)
      match bad with
      | some a => some a
      | none => uncovered s h held mode fuel (va + left) (n - left)

/-- The first uncovered address of a recomputed footprint; U entries are ignored. -/
def firstUncovered (s : State) (h : Nat) (held : List TileReq) (es : List (Word × Word)) : Option Nat :=
  es.findSome? fun e =>
    if fld e.1 57 56 = 3 then none
    else uncovered s h held (fld e.1 57 56) (fld e.2 31 0 / 65536 + 2) (fld e.1 55 0) (fld e.2 31 0)

/-- THE VOID (R22, R62, R64, R341): the locks are released, the number stays as an empty entry, and the transaction, VOID,
is SUBMITTED again with its recomputed footprint, or with its fallback. The U regions of a recomputed footprint are
translated with Kernel rights, and may name the local window of the core that runs the task, one that came from a command
packet too, whose own submission R44 refuses such a region: the model's choice (log 87). -/
def voidTxn (s : State) (t : Txn) (es : List (Word × Word)) : State :=
  let h := s.cur
  let u : Submitter := ⟨some (coreOf h), t.asid, true, t.tag⟩
  let f := es.map (regX s u)
  let ok := t.restart < 4 && (judge s [f] (some t.back) t.sealed (strideAt s u.core t.asid t.entry.toNat)).isNone
  let n := t.num.getD 0
  let s := sendReleases s n t.held
  let w : Word := if bit (getSlot s h).hsw 7 then stPoisoned else 0
  let s := addAcc s (coreOf h) t.tag w
  let t' : Txn := { t with
    num := none, st := .void, core := none, held := [], pushBuf := [], pushPsn := [], passed := false, wroteW := false
    ended := false, restart := t.restart + 1, voidOf := some n, onBack := !ok
    foot := if ok then footReqs f else t.back
    push := if ok then footPush f else t.pushBack }
  let s := modKs s fun k => { k with voids := k.voids ++ [n], txns := k.txns.filter (·.uid ≠ t.uid) ++ [t'] }
  toLoop (placeVoids (s.ks.txns.length + 1) s) h

/-- A hart whose instruction is marked parks after it (R16). -/
def markPark (s : State) (h : Nat) (sw : Bool) : State :=
  if sw && (getSlot s h).st = .issuing then modSlot s h fun x => { x with st := .parked .results none } else s

/-- TXCHK (R340, R341). A TXCHK that passes looks from then on for writes of W regions (R60). -/
def execTxchk (sw : Bool) (b c : Fin 32) (s : State) : Out :=
  .next (issue (.txchk sw b c) .none 0 s fun s => needTxn s fun t =>
    let h := s.cur
    let ops := operands s [b.val, c.val]
    let va := ops.getD 0 0
    let n := ops.getD 1 0
    if t.passed && t.wroteW then raise s (trap .txCheckLate 0 0)
    else if n = 0 || 32 < n.toNat then raise s (trap .accessFault 4 n)
    else if va.toNat % 16 ≠ 0 then raise s (trap .misaligned 1 va)
    else
      match readEntries s va.toNat n.toNat with
      | (s, .error (.inl n)) => parkFor s n ops
      | (s, .error (.inr f)) => raise s f
      | (s, .ok (es, p)) =>
        let bad := fun (e : Word × Word) => entryRes e || fld e.2 31 0 = 0 || 0x10000000 < fld e.2 31 0
        match (es.zip (span 0 es.length)).find? fun q => bad q.1 with
        | some (_, i) => raise s (trap .accessFault 4 (wd (va.toNat + 16 * i)))
        | none => consume s [b.val, c.val] fun s _ => wordPoison s ((p.map (·.toNat)).getD 0) p.isSome fun s =>
            match firstUncovered s h (heldReqs s t) es with
            | none => retire (modTxn s t.uid fun t => { t with passed := true, wroteW := false }) sw
            | some a =>
              if t.onBack || !t.checked || t.gang.isSome then raise s (trap .txFootprint 0 (wd a))
              else markPark (voidTxn s t es) h sw)

/-- TXEND (R57, R342). -/
def execTxend (sw : Bool) (s : State) : Out :=
  .next (issue (.txend sw) .none 0 s fun s => needTxn s fun t =>
    if t.ended then retire s sw
    else if t.checked && !t.passed then raise s (trap .txCheckLate 0 0)
    else if taskPending s s.cur then parkFor s .task []
    else retire (releaseTxn s t.uid) true)

/-- INBOX (R26, R343): the executing slot takes a record at once if no other slot waits for it; else it waits. -/
def execInbox (sw : Bool) (a : Fin 32) (s : State) : Out :=
  .next (issue (.inbox sw a) .none 1 s fun s =>
    let h := s.cur
    if a = 0 || 24 < a.val then raise s (illegal (.inbox sw a))
    else if (boundTxn s h).isSome then raise s (trap .accessFault 4 0)
    else
      match (if (inboxTurn s (coreOf h)).isNone then recordFor s h else none) with
      | some e => retire (takeRecord s h a.val e) sw
      | none => waitFor s .inbox [wd a.val, wb sw] none)

/-- DONE (R344): TXEND first if it has not completed; the status word; the slot returns to its loop. -/
def execDone (sw : Bool) (a : Fin 32) (s : State) : Out :=
  .next (issue (.done sw a) .none 0 s fun s => needTxn s fun t =>
    let h := s.cur
    let ops := operands s [a.val]
    if !t.ended && t.checked && !t.passed then raise s (trap .txCheckLate 0 0)
    else consume s [a.val] fun s _ =>
      if taskPending s h || (!t.ended && !(getSlot s h).outs.isEmpty) then parkFor s .task ops
      else markPark (endTask s h (ops.getD 0 0) 0) h sw)

end Sys2Proof.Machine
end

