-- ==== Sys2Proof/Machine/Stages.lean ====
section
/-! DEFINITION. Stages and the governor (R27 to R31), cuts, save records and resumption (R32, R177, R228 to R234), cut
markers (R68 to R70), and the done tree (R33 to R36, R337). -/

namespace Sys2Proof.Machine

/-! The stage governor and moves. -/

/-- Does a core hold a gang member (R28, R29)? -/
def holdsGang (s : State) (c : Nat) : Bool := (onCore s c).any (·.gang.isSome)

/-- The cores that serve a stage, in rising order. -/
def stageList (s : State) (st : Nat) : List Nat := (span 0 2048).filter fun c => (getCore s c).stage = st

/-- The core that a surplus stage gives up: its highest one that holds no gang member and is not leaving it (R28). -/
def spareCore (s : State) (st : Nat) : Option Nat :=
  (stageList s st).reverse.find? fun c =>
    !holdsGang s c && (getCore s c).move.isNone && !(s.ks.switching.any (·.1 == c))

/-- STAGE_GOVERNOR_EVALUATION (R28): every 512 cycles, one move for each pair of a starved and a surplus stage. -/
def execStageGovernorEvaluation (s : State) : Out :=
  .next (if s.cycle < s.ks.governed + 512 then s
  else
    let thr := fun st => ksReg s (0x1000 + 8 * st)
    let starved := (span 0 16).filter fun st => fld (thr st) 31 16 < stageOcc s st
    let surplus := (span 0 16).filter fun st => stageOcc s st < fld (thr st) 15 0 && fld (thr st) 43 32 < stageCores s st
    let s := modKs s fun k => { k with governed := s.cycle }
    (starved.zip surplus).foldl (fun s (a, b) =>
      match spareCore s b with
      | none => s
      | some c => bumpKs (modCore s c fun k => { k with move := some a }) 0x1100) s)

/-- Is a core clear of its old stage's work: no record in the inbox, no task in a slot (R29)? -/
def clearOf (s : State) (c : Nat) : Bool :=
  (getCore s c).inbox.all (fun e => ((txnBy s e.txn).map (·.stage)) ≠ some (getCore s c).stage) &&
  (span (c * 4) 4).all fun h => ((boundTxn s h).map (·.stage)) ≠ some (getCore s c).stage

/-- Has a hart a sealed transaction with a budget (R230)? -/
def budgeted (s : State) (h : Nat) : Bool :=
  match boundTxn s h with
  | some t => t.sealed && t.budget ≠ 0
  | none => false

/-- Is the hart's sealed transaction still within its budget (R230)? -/
def inBudget (s : State) (h : Nat) : Bool :=
  match boundTxn s h with
  | some t => t.sealed && t.budget ≠ 0 && decide (s.cycle < t.started + 1024 * t.budget)
  | none => false

/-- The entry of a core that is being pre-empted (R31). -/
def switchOf (s : State) (c : Nat) : Option (Nat × Nat × Option Nat) := s.ks.switching.find? (·.1 == c)

/-- A pre-empted core's array context becomes SAVED and the other active, once every task but those that run on within a
budget has left its slot (R230, R231; log 94). -/
def saveArray (s : State) (c : Nat) : State :=
  match switchOf s c with
  | some (_, _, none) =>
    let a := actCtx s c
    let here := (span (c * 4) 4).any fun h => (boundTxn s h).isSome && !inBudget s h
    if here || a.lease = .idle || (a.lease = .requesting && !a.granted) then s
    else
      let x := (getCore s c).actx
      let s := modCluster s (clusterOf c) fun k =>
        if k.arr.active && k.arr.holder = c % 16 then { k with arr := { k.arr with active := false } } else k
      let s := modKs s fun k => { k with switching := k.switching.map fun e => if e.1 = c then (e.1, e.2.1, some x) else e }
      modCore s c fun k => { k with
        arr := tmod {} x (fun a => { a with lease := .suspended, saved := true }) k.arr, actx := 1 - x }
  | _ => s

/-- STAGE_MOVE (R29, R30, R31): a marked core that is clear serves its new stage, and takes records 64 cycles later; a
pre-empted core does so when its last slot is FREE. -/
def execStageMove (core : Nat) (s : State) : Out :=
  .next (match switchOf s core with
  | some (_, st, _) =>
    if (span (core * 4) 4).all fun h => (getSlot s h).st = .free then
      let s := modKs (saveArray s core) fun k => { k with switching := k.switching.filter (·.1 ≠ core) }
      modCore s core fun k => { k with stage := st, move := none }
    else s
  | none =>
    match (getCore s core).move with
    | none => s
    | some st =>
      if clearOf s core then modCore s core fun k => { k with stage := st, move := none, openAt := s.cycle + 64 } else s)

/-- Move cores to a stage as the governor does (R29, R397); a core that holds a gang member, or is being pre-empted, is
left. -/
def markMoves (s : State) (cs : List Nat) (st : Nat) : State :=
  cs.foldl (fun s c =>
    if (switchOf s c).isSome || holdsGang s c then s
    else modCore s c fun k => { k with move := if k.stage = st then none else some st }) s

/-! Pre-emption (R30, R31). -/

/-- The record positions of a launch's context ring in use (R229). -/
def ringUsed (s : State) (tag : Nat) : List Nat := (s.ks.saved.filter (·.tag = tag)).map (·.pos)

/-- The lowest free record position of a launch's context ring (R229). -/
def freePos (s : State) (tag : Nat) : Option Nat := (span 0 2048).find? fun p => !(ringUsed s tag).contains p

/-- Is a slot's hart a resident loop that waits in INBOX (R27)? -/
def loopWaits (s : State) (h : Nat) : Bool := (boundTxn s h).isNone && (getSlot s h).st = .waiting .inbox

/-- The launch in whose context ring a hart is saved: its task's; of a hart without one, the victim launch, whose transactions
are of the stage that the core serves, if it has a ring (R31, R229; log 104). -/
def ringTag (s : State) (h : Nat) : Option Nat :=
  (tagOf s h).or ((s.ks.txns.find? fun t => t.stage = (getCore s (coreOf h)).stage &&
    ((launchBy s t.tag).map (·.ctx)).getD 0 ≠ 0).map (·.tag))

/-- Does a hart stand in a slot that a pre-emption has to empty with a save record: any but a loop that waits (R27, R31)? -/
def savedBy (s : State) (h : Nat) : Bool := (getSlot s h).st ≠ .free && !loopWaits s h

/-- Is a core's hart cut by a marker (R69)? -/
def markedHart (s : State) (h : Nat) : Bool := s.ks.cutSt.any fun c => c.harts.contains h

/-- Is a gang on its way to be saved by a cut marker: a member is marked, or saved (R32, R69)? -/
def gangDue (s : State) (g : Nat) : Bool :=
  (s.ks.saved.any (·.gang == some g)) || s.ks.cutSt.any fun c => c.harts.any fun h => ((boundTxn s h).bind (·.gang)).any (·.1 == g)

/-- Is the hart to be cut: on a core being pre-empted, or by a cut marker (R31, R69)? -/
def cutDue (s : State) (h : Nat) : Bool := (switchOf s (coreOf h)).isSome || markedHart s h

/-- The harts that are still to be saved: those that are due, and the running members of a gang that is (R32, R229). -/
def dueHarts (s : State) : List Nat :=
  (s.slots.map (·.1)).filter fun h => savedBy s h && (cutDue s h || ((boundTxn s h).bind (·.gang)).any fun g => gangDue s g.1)

/-- Does each launch's ring have a position for every one of these harts, those still to be saved among them (R31, R229)? -/
def ringsFit (s : State) (hs : List Nat) : Bool :=
  hs.all fun h =>
    match ringTag s h with
    | none => true
    | some tag => decide ((ringUsed s tag).length + (hs.filter fun g => ringTag s g = some tag).length ≤ 2048)

/-- Is a transaction's member of a gang neither saved nor waiting for its placement? -/
def inPlace (s : State) (t : Txn) : Bool :=
  t.st ≠ .retired && !(s.ks.saved.any (·.txn == some t.uid)) && !(s.ks.gangs.any (·.recs.contains t.uid))

/-- The cores that gangs bind together with a core (R31). -/
def gangCores (s : State) (c : Nat) : List Nat :=
  (c :: (((onCore s c).filter (inPlace s)).filterMap fun t => t.gang.map (·.1)).flatMap fun g =>
    ((gangTxns s g).filter (inPlace s)).filterMap (·.core)).eraseDups

/-- The closure of a set of cores under gangs. -/
def gangClosure (s : State) : Nat → List Nat → List Nat
  | 0, cs => cs
  | n + 1, cs =>
    let cs' := (cs.flatMap (gangCores s)).eraseDups
    if cs'.length = cs.length then cs else gangClosure s n cs'

/-- May these cores be taken together (R31, R231): every launch on them has a ring with room for each hart that they would
save, and every core has an array context free? A sealed task counts, since its budget may run out. -/
def mayTake (s : State) (cs : List Nat) : Bool :=
  let hs := cs.flatMap fun c => (span (c * 4) 4).filter (savedBy s)
  (cs.all fun c => (onCore s c).all fun t => ((launchBy s t.tag).map (·.ctx)).getD 0 ≠ 0) &&
  ringsFit s (dueHarts s ++ hs).eraseDups &&
  (cs.all fun c => (actCtx s c).lease = .idle || (tget ({} : ArrCtx) (getCore s c).arr (1 - (getCore s c).actx)).lease = .idle)

/-- Choose up to `n` cores in descending order, gangs whole (R31). -/
def chooseCores (s : State) (cand : List Nat) (n : Nat) : List Nat → List Nat → List Nat
  | [], got => got
  | c :: rest, got =>
    if n ≤ got.length || got.contains c then chooseCores s cand n rest got
    else
      let g := (gangClosure s 2048 [c]).filter (!got.contains ·)
      if got.length + g.length ≤ n && g.all (cand.contains ·) && mayTake s (got ++ g) then
        chooseCores s cand n rest (got ++ g)
      else chooseCores s cand n rest got

/-- Put a unit back into its stage's queue (R31): in number order, which the model chooses (log 85). -/
def reinsert (num : Nat → Nat) (uid : Nat) : List Nat → List Nat
  | [] => [uid]
  | u :: t => if num uid < num u then uid :: u :: t else u :: reinsert num uid t

/-- The untaken records of a core return to Keystone (R31). -/
def returnRecords (s : State) (c : Nat) : State :=
  let l := (getCore s c).inbox
  let s := modCore s c fun k => { k with inbox := [] }
  noteHeads (l.foldl (fun s e =>
    match txnBy s e.txn with
    | none => s
    | some t =>
      match t.gang with
      | some (g, _) => modGang (modTxn s t.uid fun t => { t with core := none }) g fun x => { x with recs := x.recs ++ [t.uid] }
      | none =>
        let s := modTxn s t.uid fun t => { t with st := .ready, core := none }
        let num := fun u => ((txnBy s u).bind (·.num)).getD 0
        modKs s fun k => { k with ready := tmod [] t.stage (reinsert num t.uid) k.ready }) s)

/-- THE MODEL SWITCH of R30 and R397: cores of stages `flo` to `fhi` are taken, highest first, and given to `tlo` to
`thi` in ascending rotation. -/
def switchCores (s : State) (flo fhi tlo thi n : Nat) : State :=
  let cand := ((span flo (fhi + 1 - flo)).flatMap (stageList s)).filter fun c => (switchOf s c).isNone
  let order := ((span 0 2048).filter (cand.contains ·)).reverse
  let got := chooseCores s cand n order []
  let asc := (span 0 2048).filter (got.contains ·)
  let pairs := (asc.zip (span 0 asc.length)).map fun (c, i) => (c, tlo + i % (thi + 1 - tlo), (none : Option Nat))
  let s := modKs s fun k => { k with switching := k.switching ++ pairs }
  asc.foldl (fun s c => saveArray (returnRecords (modCore s c fun k => { k with move := none }) c) c) s

/-! Cuts (R228 to R230). -/

/-- Has the hart a job that stands at a FIFO (R82)? -/
def standing (s : State) (h : Nat) : Bool :=
  (getCluster s (clusterOf (coreOf h))).jobs.any fun j => j.by h && j.atPort s

/-- Is a hart where a cut may stop it (R228, R331, R359, R365): at an instruction boundary, in a wait that nothing has
ended, in a park for its results or for a reply (R233); in IDEM with an open region; or where it waits for a job of an
open region that stands at a FIFO? No prefix is parted from its instruction. -/
def cuttable (s : State) (h : Nat) : Bool :=
  let x := getSlot s h
  let place := match x.st with
    | .issuing | .ready => !x.inside
    | .waiting _ => !wireReleased s h
    | .parked .results none => !x.inside
    | .parked (.reply _) none => true
    | .parked .jobs none => x.region.isSome
    | .parked .task none | .parked .writes none | .parked (.jobRoom _) none | .parked (.clear _ _ _) none
    | .parked (.array _ _ _) none => x.region.isSome && standing s h
    | _ => false
  place && ((!pfxOf s h && !repOn s h) || x.repped)

/-- Set RERUN on event lines (R173, R177). -/
def setRerun (s : State) (cl : Nat) (ls : List Nat) : State :=
  modCluster s cl fun c => { c with lines := ls.foldl (fun l e => tmod {} e (fun x => { x with err := x.err ||| 2 }) l) c.lines }

/-- The jobs of an open idempotent region are abandoned: they leave their lines, which set RERUN, and are counted (R177,
R181, R366). -/
def abandonJobs (s : State) (h : Nat) : State :=
  let cl := clusterOf (coreOf h)
  let js := (getCluster s cl).jobs.filter fun j => j.by h && j.region
  let s := modCluster s cl fun c => { c with
    jobs := c.jobs.filter fun j => !(j.by h && j.region)
    lines := js.foldl (fun l j => tmod {} j.evt (fun x => { x with pend := x.pend - 1 }) l) c.lines }
  let s := bumpCl { s with tileReads := s.tileReads.filter fun e => !(js.any (·.uid == e.1)) } cl 0x5A0 js.length
  let s := ((js.map (·.evt)).eraseDups).foldl (fun s e => serveLine s cl e) (setRerun s cl (js.map (·.evt)))
  modSlot s h fun x => { x with rerun := (js.map (·.evt)).eraseDups }

/-- The jobs of a hart that stand at a FIFO are stopped, with CUTSTOP (R82, R177). -/
def stopJobs (s : State) (h : Nat) : State :=
  let cl := clusterOf (coreOf h)
  ((getCluster s cl).jobs.filter fun j => j.by h && j.atPort s).foldl (fun s j => stopShare s cl j h) s

/-- Begin the cut of a hart (R228): its wait is withdrawn, its jobs are abandoned or stopped; it drains. A resident
loop that waits in INBOX is cut without a save record (R27). -/
def cutHart (s : State) (h : Nat) : State :=
  if loopWaits s h then
    let s := withdraw s h
    let s := writeWs (uninstall s h) h 63 (getSlot s h).ktvec
    saveArray (modSlot s h fun x => { x with st := .free }) (coreOf h)
  else
    let s := withdraw s h
    let s := if (getSlot s h).region.isSome then abandonJobs s h else stopJobs s h
    modSlot s h fun x => { x with st := .parked .cut none, inside := false, latch := [], kept := [], arrCmd := false }

/-- Does a budget keep the hart from the cut (R230)? Only a pre-emption spares it. -/
def spared (s : State) (h : Nat) : Bool := budgeted s h && !markedHart s h

/-- A cut that is due: at once if the hart is where it may stop; else a job that its instruction waits for, outside a
region, does not stand at a FIFO any longer (R82, R177, R228). -/
def tryCut (s : State) (h : Nat) : State :=
  if cuttable s h then cutHart s h
  else if savedBy s h && (getSlot s h).region.isNone && standing s h then stopJobs s h
  else s

/-- HART_CUT (R228): a hart of a pre-empted core, unless its sealed transaction has a budget (R230), or one that a cut
marker cuts. -/
def execHartCut (h : Nat) (s : State) : Out :=
  .next (if cutDue s h && !spared s h then tryCut s h else s)

/-- SEALED_BUDGET_EXPIRY (R230): counted when the cut comes before the TXEND. -/
def execSealedBudgetExpiry (h : Nat) (s : State) : Out :=
  .next (if cutDue s h && spared s h && !inBudget s h then
    tryCut (if cuttable s h && ((boundTxn s h).map (·.ended)) = some false then bumpKs s 0x1130 else s) h
  else s)

/-- The four words of a save record (R229): TXN 0 for a hart without a transaction; a scouting hart resumes at its TXSCOUT
(R339). -/
def saveWords (s : State) (h : Nat) (t : Option Txn) : List Word :=
  let x := getSlot s h
  let pc := match x.region with
    | some p => p
    | none => if x.scout then x.sret - 4 else x.pc
  [pc, x.hsw,
   wd (b2n x.region.isSome * 2 ^ 63 + b2n (t.bind (·.gang)).isSome * 2 ^ 62 + coreOf h * 2 ^ 40 + h % 4 * 2 ^ 38 +
     x.wp / 512 * 2 ^ 16 + ((t.map (·.gran)).getD 0)),
   wd ((t.bind (·.num)).getD 0)]

/-- Write words under an address space with Kernel rights, if they translate. -/
def tryPoke (s : State) (asid va : Nat) (ws : List Word) : Option State :=
  match xlBytes s ⟨0, asid, true⟩ va (8 * ws.length) .write with
  | .error _ => none
  | .ok (pas, x) => if stores s pas then some (putBytes s x.key (pas.zip (ws.flatMap wBytes)) false) else none

/-- The same; nothing is written where it does not translate. -/
def pokeWords (s : State) (asid va : Nat) (ws : List Word) : State := (tryPoke s asid va ws).getD s

/-- The array context that a saved hart's launch held: the active one, or the one that the pre-emption has saved (R231,
R232). -/
def heldCtx (s : State) (c : Nat) : Option Nat :=
  match switchOf s c with
  | some (_, _, some x) => some x
  | _ => if (actCtx s c).lease = .idle then none else some (getCore s c).actx

/-- A slot after a cut: FREE, its own registers and its slot.LOOP kept (R27). -/
def Slot.vacate (x : Slot) : Slot :=
  { x with
    st := .free, bound := none, scout := false, region := none, entryFault := none, repped := false, outs := []
    inside := false, latch := [], kept := [], limit := none, edgeAt := none, answer := none, cancel := false, arrCmd := false
    rerun := [], epoch := x.epoch + 1 }

/-- SAVE_RECORD_WRITE (R228, R229): once the hart has drained, word 57, word 63 and the record are written, and the slot
is FREE. A record that the ring cannot take is kept by Keystone (log 95); a hart without a transaction, whose core has no
victim launch with a ring, leaves its frame alone (log 104). -/
def execSaveRecordWrite (h : Nat) (s : State) : Out :=
  .next (
    let x := getSlot s h
    let mine := fun (a : Access) => a.hart = h && (match a.dest with
      | .journal _ _ _ | .slot _ _ _ => false
      | _ => true)
    if x.st ≠ .parked .cut none || !x.outs.isEmpty || jobsPending s h || s.flight.any mine then s
    else
      let t := boundTxn s h
      let free := fun (s : State) => saveArray (modSlot s h Slot.vacate) (coreOf h)
      match ringTag s h with
      | none => if t.isSome then s else free (writeWs (uninstall s h) h 63 x.ktvec)
      | some tag =>
        match (launchBy s tag).bind fun l => (freePos s tag).map fun p => (l, p) with
        | none => s
        | some (l, p) =>
          let ws := saveWords s h t
          let s := writeWs (uninstall s h) h 63 x.ktvec
          let r := tryPoke s l.qasid (l.ctx + 32 * p) ws
          let v : Saved :=
            { tag := tag, pos := p, words := ws, kept := r.isNone, wp := x.wp, hart := h, txn := t.map (·.uid)
              ctx := heldCtx s (coreOf h), rerun := x.region.isSome, gang := (t.bind (·.gang)).map (·.1)
              stage := (t.map (·.stage)).getD (getCore s (coreOf h)).stage, lines := x.rerun, loop := x.loop
              bad := x.entryFault, acqAt := x.acqAt }
          free (unmark (modKs (r.getD s) fun k => { k with saved := k.saved ++ [v] }) h))

/-! Resumption (R32, R231, R232, R234). -/

/-- A saved array context made active again, if the other one is IDLE (R231). -/
def resumeArray (s : State) (c : Nat) (v : Saved) : Option State :=
  match v.ctx with
  | none => some s
  | some x =>
    if !(tget ({} : ArrCtx) (getCore s c).arr x).saved then some s
    else if (actCtx s c).lease ≠ .idle then none
    else some (modCore s c fun k => { k with arr := tmod {} x (fun a => { a with saved := false }) k.arr, actx := x })

/-- The accesses of a frame in flight, and its entries wherever they stand, follow its hart (R223, R225, R232). -/
def retagFrame (s : State) (old new frame : Nat) : State :=
  let mine := fun (a : Access) => coreOf a.hart = coreOf old && (match a.dest with
    | .journal _ f _ | .slot f _ _ => f = frame
    | _ => false)
  let s := { s with flight := s.flight.map fun a => if mine a then { a with hart := new } else a }
  modPools s fun l => l.map fun e => if e.core = coreOf old && e.frame = frame then { e with core := coreOf new, hart := new } else e

/-- Copy bytes of a core's scratchpad to the same offsets of another's, poison with them. -/
def copyScratch (s : State) (c0 c lo n : Nat) : State :=
  let src := span (scratchPa s c0 lo) n
  let dst := span (scratchPa s c lo) n
  let bad := (src.zip dst).filterMap fun (a, b) => if isPsn s a then some b else none
  let s := putBytes s 0 (dst.zip (rdBytes s 0 src)) false
  { s with poison := poisonAfter bad true s.poison }

/-- MOVING A FRAME (R232): the frame, its granules and the reply table that word 62 names, if that is good, are copied;
its held messages and pending faults go with it; its arrivals are forwarded until the launch ends. An entry for the same
number at the new place ends (log 96). -/
def moveFrame (s : State) (c0 c wp gran tag : Nat) : State :=
  if c = c0 then s
  else
    let f := wp / 512
    let tab := (rd64 s (scratchPa s c0 (wp + 8 * 62))).toNat
    let s := copyScratch s c0 c wp (512 + 128 * gran)
    let s := if tab % 128 = 0 && tab + 128 ≤ 0x30000 then copyScratch s c0 c tab 128 else s
    let held := (getCore s c0).held.filter (·.frame = f)
    let late := (getCore s c0).late.filter (·.frame = f)
    let groups := (getCore s c0).groups.filter (·.1 = f)
    let s := modCore s c0 fun k => { k with
      held := k.held.filter (·.frame ≠ f), late := k.late.filter (·.frame ≠ f), groups := k.groups.filter (·.1 ≠ f)
      fwd := k.fwd.filter (·.1 ≠ f) ++ [(f, c, tag)] }
    modCore s c fun k => { k with held := k.held ++ held, late := k.late ++ late, groups := k.groups ++ groups, fwd := k.fwd.filter (·.1 ≠ f) }

/-- The words of a saved hart's record: as the ring holds them now, or as Keystone keeps them (R226, R229, R234; log 95). -/
def recordWords (s : State) (v : Saved) : List Word :=
  if v.kept then v.words
  else ((launchBy s v.tag).bind fun l => peekWords s none l.qasid (l.ctx + 32 * v.pos) 4).getD v.words

/-- The slot that a saved hart is installed in (R226, R228, R234, R353): the PC, the status word and the WP come from the
record; the slot's own registers stay, TIMECMP and WAKEVAL at their values at a resume. On another core its reads find no line
that was filled before `now`: its stores until then have not changed that core's copies (R200). -/
def Slot.resumed (x : Slot) (v : Saved) (pc hsw kt : Word) (wp asid : Nat) (uid : Option Nat) (h now : Nat) : Slot :=
  { x.vacate with
    st := .ready, pc := pc, hsw := hsw, wp := wp, ktvec := kt, asid := asid, bound := uid
    loop := (x.loop <|> v.loop).map fun l => (512 * (h % 4), l.2.1, l.2.2)
    timecmp := BitVec.allOnes 64, timDone := false, wakeval := 0
    entryFault := v.bad, acqAt := if coreOf h = coreOf v.hart then v.acqAt else some now }

/-- WP, granules, PC and status word of a saved hart's record (R229). -/
def recordFields (s : State) (v : Saved) : Nat × Nat × Word × Word :=
  let ws := recordWords s v
  (fld (ws.getD 2 0) 24 16 * 512, fld (ws.getD 2 0) 8 0, ws.getD 0 0, hswClean (ws.getD 1 0))

/-- Has a saved hart still writes of its task in flight (R57)? -/
def savedBusy (s : State) (v : Saved) : Bool :=
  noticesPending s || s.flight.any fun a => a.isWrite && a.hart = v.hart && a.tag = some v.tag

/-- A save record whose WP is bad: nothing is installed, and the hart's transaction ends as by an unhandled trap, TXEND applied,
once its writes are acknowledged (R11, R57, R58). -/
def endSaved (s : State) (v : Saved) (wp : Nat) (pc hsw : Word) : State :=
  let gone := fun (s : State) => modKs s fun k => { k with saved := k.saved.erase v }
  let report := fun (s : State) => jlog s 6 0 (4 * 256 + 4) (podHart s v.hart) (wd wp) pc
  match v.txn.bind (txnBy s) with
  | none => gone (report s)
  | some t =>
    if savedBusy s v then s
    else
      let s := dropRefused (report s) v.hart t.uid (t.num.getD 0)
      let s := if t.ended then s else releaseTxn s t.uid
      let s := addAcc s (coreOf v.hart) t.tag (stTrapped ||| (if bit hsw 7 then stPoisoned else 0) ||| wd (2 ^ 32))
      gone (dropTxn s t.uid)

/-- Install a saved hart in a slot (R226, R228, R234): READY at its save PC, KTVEC from word 63, the ASID of its launch,
its slot's own loop, and the CUT bit (R334). A bad record ends it; else its array context is made active again, where that is
possible (R11, R231). -/
def install (s : State) (v : Saved) (h : Nat) : State :=
  let (wp, gran, pc, hsw) := recordFields s v
  if !wpOk (wd wp) gran then endSaved s v wp pc hsw
  else
    let c := coreOf h
    match resumeArray s c v with
    | none => s
    | some s =>
      let t := v.txn.bind (txnBy s)
      let s := moveFrame s (coreOf v.hart) c wp gran v.tag
      let s := retagFrame s v.hart h (wp / 512)
      let kt := rd64 s (scratchPa s c (wp + 8 * 63))
      let asid := (t.map (·.asid)).getD (((launchBy s v.tag).map (·.asid)).getD 0)
      let now := s.cycle
      let s := modSlot s h fun x => x.resumed v pc hsw kt wp asid (t.map (·.uid)) h now
      let s := setRerun s (clusterOf c) v.lines
      let s := modKs s fun k => { k with saved := k.saved.erase v }
      match t with
      | none => s
      | some t => addAcc (modTxn s t.uid fun t => { t with core := some c }) c t.tag stCut

/-- HART_RESUME (R232, R234): saved hart `i`, of no gang, resumes on its own core in a FREE slot, the lowest record
position of the stage first. -/
def execHartResume (i core slot : Nat) (s : State) : Out :=
  .next (match s.ks.saved[i]? with
  | none => s
  | some v =>
    let first := s.ks.saved.all fun w => !(w.gang.isNone && coreOf w.hart = core && w.stage = v.stage && w.pos < v.pos)
    if v.gang.isSome || coreOf v.hart ≠ core || 4 ≤ slot || (getCore s core).stage ≠ v.stage || !first ||
        (switchOf s core).isSome || (getSlot s (core * 4 + slot)).st ≠ .free then s
    else install s v (core * 4 + slot))

/-- The saved record of a transaction. -/
def savedOf (s : State) (uid : Nat) : Option Saved := s.ks.saved.find? (·.txn == some uid)

/-- The FREE slots of a core. -/
def freeSlots (s : State) (c : Nat) : List Nat := (span (c * 4) 4).filter fun h => (getSlot s h).st = .free

/-- May a cut gang be placed at a rectangle (R29, R32, R39, R232)? -/
def mayPlace (s : State) (g : Gang) (p : Nat × Nat × Nat) : Bool :=
  let cs := rectCores g.w g.h p
  let s' := modGang s g.id fun x => { x with place := none }
  let members := (g.uids.zip cs).filter fun m => ((txnBy s m.1).map (·.st)) ≠ some .retired
  let moved := members.filterMap fun (u, c) => (savedOf s u).bind fun v => if coreOf v.hart = c then none else some (coreOf v.hart)
  cs.all (serves s g.stage) && (freeLane s' cs).isSome &&
  members.all (fun (u, c) =>
    match savedOf s u with
    | some v =>
      let r := recordFields s v
      (if wpOk (wd r.1) r.2.1 then !(freeSlots s c).isEmpty && (resumeArray s c v).isSome else !savedBusy s v) &&
      (coreOf v.hart = c || (v.ctx.isNone && !reservedFrom s (some g.id) c && (onCore s c).length < 8))
    | none => g.recs.contains u && takesNew s g.stage (some g.id) c && !pushWaits s u c) &&
  moved.eraseDups.all fun c => (getCore s c).fwd.length + (moved.filter (· = c)).length ≤ 32

/-- Put one member of a gang back: the saved hart, or its untaken record (R32). -/
def placeMember (s : State) (u c : Nat) : State :=
  match savedOf s u with
  | none => if ((txnBy s u).map (·.st)) = some .retired then s else sendTo s u c
  | some v =>
    match (freeSlots s c).head? with
    | some h => install (if coreOf v.hart = c then s else modTxn s u fun t => { t with ent := freeEnt s c }) v h
    | none => s

/-- GANG_RESUME (R32, R232): a gang whose every member is saved or unstarted is placed again, all in one cycle, on the
first rectangle that can take it. -/
def execGangResume (gang deck x y : Nat) (s : State) : Out :=
  .next (match s.ks.gangs.find? (·.id == gang) with
  | none => s
  | some g =>
    let live := (gangTxns s gang).filter (·.st ≠ .retired)
    let whole := !live.isEmpty && g.place.isSome && live.all (fun t => (savedOf s t.uid).isSome || g.recs.contains t.uid) &&
      live.any fun t => (savedOf s t.uid).isSome || g.recs.contains t.uid
    if !whole || (places g.w g.h).find? (mayPlace s g) ≠ some (deck, x, y) then s
    else
      let cs := rectCores g.w g.h (deck, x, y)
      let lane := (freeLane (modGang s gang fun x => { x with place := none }) cs).getD 0
      let s := modGang s gang fun q => { q with place := some (deck, x, y), lane := lane, recs := [] }
      (g.uids.zip cs).foldl (fun s (u, c) => placeMember s u c) s)

/-- RESIDENT_LOOP_START (R10, R27): firmware starts a hart in a FREE slot, at a PC and frame and with a status. -/
def execResidentLoopStart (h : Nat) (pc : Word) (wp : Nat) (hsw : Word) (s : State) : Out :=
  .next (if (getSlot s h).st ≠ .free || !wpOk (wd wp) 0 || 8192 ≤ h then s
  else modSlot s h fun x => { x with
    st := .ready, pc := setFld pc 1 0 0, wp := (wd wp).toNat, hsw := hswClean hsw, bound := none, scout := false, region := none
    outs := [], vpend := [], inside := false, latch := [], kept := [], answer := none, since := s.cycle })

/-! Cut markers (R69, R70). Units: 0 Keystone, 1 to 128 the abutments, 129 the front end, 130 + c core c, 2178 + cl the
engine of cluster cl. -/

/-- The inputs of a unit. -/
def unitInputs (s : State) (u : Nat) : List Nat :=
  if u = 0 then (if s.ks.group.isSome then [0, 1] else [0])
  else if u ≤ 128 then
    [0, 1] ++ (match s.ks.group with
      | some g => ((span 0 g.n).filter (· ≠ g.pos)).map (· + 2)
      | none => [])
  else if u = 129 then
    span 0 128 ++ (match s.ks.group with
      | some g => ((span 0 g.n).filter (· ≠ g.pos)).flatMap fun p => span (128 * (p + 1)) 128
      | none => [])
  else if u < 2178 then [0, 1]
  else if u < 2306 then span 0 16
  else []

/-- The running members of a gang. -/
def gangHarts (s : State) (g : Nat) : List Nat :=
  (s.slots.map (·.1)).filter fun h => ((boundTxn s h).bind (·.gang)).any (·.1 == g)

/-- The harts of a core that a cut marker cuts: those whose launch has a ring with a position left; a gang's only together
(R32, R69, R229). -/
def markHarts (s : State) (c : Nat) : List Nat :=
  (span (c * 4) 4).foldl (fun l h =>
    match (tagOf s h).bind (launchBy s), (boundTxn s h).bind (·.gang) with
    | none, _ => l
    | some x, none => if x.ctx ≠ 0 && ringsFit s (dueHarts s ++ l ++ [h]).eraseDups then l ++ [h] else l
    | some x, some g =>
      if gangDue s g.1 || (x.ctx ≠ 0 && ringsFit s (dueHarts s ++ l ++ gangHarts s g.1).eraseDups) then l ++ [h] else l) []

/-- The untaken records of gangs that a cut marker cuts return to Keystone, which keeps them with their numbers (R31, R32). -/
def returnGangs (s : State) : State :=
  let ours := fun (e : InboxEnt) => ((txnBy s e.txn).bind (·.gang)).any fun g => gangDue s g.1
  s.cores.foldl (fun s (c, k) =>
    (k.inbox.filter ours).foldl (fun s e =>
      match (txnBy s e.txn).bind (·.gang) with
      | none => s
      | some (g, _) =>
        let s := modCore s c fun k => { k with inbox := k.inbox.filter (·.ent ≠ e.ent) }
        modGang (modTxn s e.txn fun t => { t with core := none }) g fun x => { x with recs := x.recs ++ [e.txn] }) s) s

/-- What a unit records (R69, R70): an abutment the entries before the marker's number. -/
def recordOf (s : State) (n u : Nat) : CutRec :=
  if u = 0 then .keystone s.ks.openB s.ks.closed (s.ks.txns.map fun t => (t.uid, t.restart)) s.ks.voids
  else if u ≤ 128 then .abutment (u - 1) ((s.ks.locks.filter fun e => abutOf e.1 = s.module * 128 + (u - 1)).map fun e =>
    (e.1, e.2.filter (·.num < n)))
  else if u = 129 then .frontEnd (s.ks.txns.map fun t => (t.uid, t.held)) (s.ks.txns.map fun t => (t.uid, t.pushBuf, t.pushPsn))
  else if u < 2178 then
    .core (u - 130) (getCore s (u - 130)).inbox ((span ((u - 130) * 4) 4).filter fun h => (getSlot s h).st ≠ .free)
  else .engine (u - 2178) (getCluster s (u - 2178)).jobs

/-- Has a unit recorded its state in a cut (R69)? -/
def recorded (s : State) (c : CutSt) (u : Nat) : Bool := (unitInputs s u).all fun i => c.seen.contains (u, i)

/-- Has the unit that sends the marker to an input sent it (R69)? The front end's come from the abutments, other modules' at any
time, a core's from the front end, an engine's from the cores. An abutment's release channels have no unit that sends in this
order (log 47). -/
def markerSent (s : State) (c : CutSt) (u i : Nat) : Bool :=
  if u = 129 then 128 ≤ i || recorded s c (1 + i)
  else if 130 ≤ u && u < 2178 then recorded s c 129
  else if 2178 ≤ u then recorded s c (130 + (u - 2178) * 16 + i)
  else true

/-- The marker of a cut arrives at an input: with a unit's last one the unit records, and a core's harts are cut (R69). -/
def markInput (s : State) (unit input : Nat) (c : CutSt) : CutSt :=
  let seen := c.seen ++ [(unit, input)]
  let c := { c with seen := seen }
  if !recorded s c unit then c
  else { c with
    recs := c.recs ++ [recordOf s c.num unit]
    harts := c.harts ++ (if 130 ≤ unit && unit < 2178 then markHarts s (unit - 130) else []) }

/-- Change the first entry of a list that a test picks. -/
def modFirst {α : Type} (p : α → Bool) (f : α → α) : List α → List α
  | [] => []
  | a :: t => if p a then f a :: t else a :: modFirst p f t

/-- MARKER_ARRIVAL (R69, R70): the oldest marker that has not reached an input of a unit arrives there, once its sender
has recorded. On an abutment's request channel it stands in order. -/
def execMarkerArrival (unit input : Nat) (s : State) : Out :=
  .next (
    let ab := s.module * 128 + (unit - 1)
    let chan := 1 ≤ unit && unit ≤ 128 && input = 0
    let new := fun (c : CutSt) => !c.seen.contains (unit, input)
    match s.ks.cutSt.find? new with
    | none => s
    | some c =>
      if !(unitInputs s unit).contains input || (chan && (tget [] s.ks.chans ab).head? ≠ some .marker) ||
          !markerSent s c unit input then s
      else
        let rest := (tget [] s.ks.chans ab).drop 1
        let s := if chan then modKs s fun k => { k with chans := if rest.isEmpty then tdel ab k.chans else tput ab rest k.chans } else s
        let s := modKs s fun k => { k with cutSt := modFirst new (markInput s unit input) k.cutSt }
        if 130 ≤ unit && unit < 2178 then returnGangs s else s)

/-! The done tree (R35, R337). -/

/-- The node to which a core passes its word; none for the root (R14, R35). -/
def treeParent (c : Nat) : Option Nat :=
  if c % 4 ≠ 0 then some (c - c % 4)
  else if c / 4 % 4 ≠ 0 then some (c - c / 4 % 4 * 4)
  else if c / 16 % 8 ≠ 0 then some (c - c / 16 % 8 * 16)
  else if c / 128 % 8 ≠ 0 then some (c - c / 128 % 8 * 128)
  else if c = 1024 then some 0
  else none

/-- The children of a node. -/
def treeKids (c : Nat) : List Nat :=
  let k1 := if c % 4 = 0 then [c + 1, c + 2, c + 3] else []
  let k2 := if c % 16 = 0 then [c + 4, c + 8, c + 12] else []
  let k3 := if c % 128 = 0 then (span 1 7).map fun i => c + 16 * i else []
  let k4 := if c % 1024 = 0 then (span 1 7).map fun i => c + 128 * i else []
  k1 ++ k2 ++ k3 ++ k4 ++ (if c = 0 then [1024] else [])

/-- Is a core done with a launch: no write of the launch by one of its harts is on its way, in flight or in a result of a vector
execution, and no engine job of the launch is unfinished (R35)? -/
def coreDone (s : State) (tag core : Nat) : Bool :=
  !(s.flight.any fun a => coreOf a.hart = core && a.isWrite && a.tag.getD tag = tag) &&
  ((span (core * 4) 4).all fun h => !((getSlot s h).outs.any (·.mem.isSome) && (tagOf s h).getD tag = tag)) &&
  (getCluster s (clusterOf core)).jobs.all fun j => j.tag ≠ some tag

/-- DONE_TREE_REPORT (R34, R35): a node that has seen the marker, whose own work is done and whose children have reported,
passes up the combined word; the root's goes to Keystone, which posts it (R36). -/
def execDoneTreeReport (tag core : Nat) (s : State) : Out :=
  .next (match launchBy s tag with
  | none => s
  | some l =>
    let got := fun c => (tfind l.reports c)
    if !l.marked || 2048 ≤ core || (got core).isSome || !((treeKids core).all fun c => (got c).isSome) || !coreDone s tag core then s
    else
      let own := tget 0 (getCore s core).accs tag
      let w := (treeKids core).foldl (fun w c => combine w ((got c).getD 0)) own
      let s := modLaunch s tag fun l => { l with reports := tput core w l.reports }
      let s := if own = 0 then s else modCore s core fun c => { c with accs := tdel tag c.accs }
      if (treeParent core).isNone then modKs s fun k => { k with posts := k.posts ++ [(tag, w)] } else s)

end Sys2Proof.Machine
end

