-- ==== Sys2Proof/Machine/Trestle.lean ====
section
/-! DEFINITION. Trestle's queues and packets (R394, R396 to R402), launches (R403), task graphs (R404), and the writes of
its registers (R394, R415, R430). -/

namespace Sys2Proof.Machine

/-! Notifications and wakes. -/

/-- Send a message over the Control Port. -/
def cpSend (s : State) (m : CpMsg) : State := modTr s fun t => { t with cpOut := t.cpOut ++ [m] }

/-- A wake write reaches a slot (R355). -/
def wakeHart (s : State) (h : Nat) (v : Word) : State := modSlot (setPending s h 8) h fun x => { x with wakeval := v }

/-- A configuration write refused (R394). -/
def cfgErr (s : State) : State := bumpTr s 0x50

/-- A Control Port write refused (R394, R395, R415). -/
def cpRefuse (s : State) : State := bumpTr s 0x38

/-! Queues. -/

/-- A command queue. -/
def getCq (s : State) (q : Nat) : CmdQueue := tget {} s.tr.cqs q

/-- Change a command queue. -/
def modCq (s : State) (q : Nat) (f : CmdQueue → CmdQueue) : State := modTr s fun t => { t with cqs := tmod {} q f t.cqs }

/-- The words of a queue's ring, its address space, and whether it is enabled (R394). -/
def ringSize (c : CmdQueue) : Nat := 2 ^ fld c.cfg 20 16
def cqAsid (c : CmdQueue) : Nat := fld c.cfg 9 0
def cqOn (c : CmdQueue) : Bool := bit c.cfg 24

/-- The words the ring holds (R394). -/
def ringHas (c : CmdQueue) : Nat := (c.wptr % ringSize c + ringSize c - c.rptr % ringSize c) % ringSize c

/-- The words that the thread may parse now: of the innermost indirect buffer, or of the ring (R399). -/
def hasWords (c : CmdQueue) : Nat :=
  match c.stack with
  | b :: _ => b.left
  | [] => ringHas c

/-- Is the queue on a thread? -/
def onThread (c : CmdQueue) : Bool := c.st = .mapped || c.st = .waiting

/-- Word `k` of the packet at hand, or the queue fault (R398, R399). -/
def packetWord (s : State) (c : CmdQueue) (k : Nat) : Except Nat (BitVec 32) :=
  let va := match c.stack with
    | b :: _ => b.va + 4 * k
    | [] => c.base + 4 * ((c.rptr + k) % ringSize c)
  match peek s none (cqAsid c) va 4 with
  | some bs => .ok (BitVec.ofNat 32 (leNat bs))
  | none => .error (if c.stack.isEmpty then 4 else 6)

/-- The word index of the packet at hand, or of its outermost INDIRECT (R398, R399). -/
def packetAt (c : CmdQueue) : Nat :=
  match c.stack with
  | b :: _ => b.whr
  | [] => c.rptr

/-- A 64-bit value of payload words `i` and `i + 1` (R397). -/
def long (p : List (BitVec 32)) (i : Nat) : Nat := (p.getD i 0).toNat + (p.getD (i + 1) 0).toNat * 2 ^ 32

/-- A field of payload word `i`. -/
def pf (p : List (BitVec 32)) (i hi lo : Nat) : Nat := bits (p.getD i 0).toNat lo (hi + 1 - lo)

/-- Does a WAIT's condition hold (R400)? -/
def waitHolds (s : State) (c : CmdQueue) (p : List (BitVec 32)) : Bool :=
  if pf p 0 29 29 = 1 then (launchBy s (pf p 0 3 0)).isNone
  else
    match peekWords s none (cqAsid c) (long p 1) 1 with
    | none => false
    | some l =>
      let m := wd (long p 5)
      let v := l.headD 0 &&& m
      let r := wd (long p 3) &&& m
      match pf p 0 31 30 with
      | 0 => v = r
      | 1 => v ≠ r
      | 2 => r.ule v
      | _ => v.ult r

/-- The launch that a pending LAUNCH has started and not finished submitting. -/
def ownLaunch (s : State) (q : Nat) (p : Pend) : Option Launch :=
  (launchBy s (pf p.words 0 31 28)).filter fun l => l.queue = some q && l.whr = p.whr && !l.ended

/-- Has a queue something to parse or to go on with: words of its ring, an indirect buffer, a LAUNCH under way (R401; log 108)? -/
def leftOver (c : CmdQueue) : Bool :=
  decide (c.wptr % ringSize c ≠ c.rptr % ringSize c) || !c.stack.isEmpty || c.pend.isSome

/-- At a packet boundary a QCFG write that clears EN takes effect (R394). -/
def boundary (s : State) (q : Nat) : State :=
  modCq s q fun c =>
    match c.cfgNext, c.pend with
    | some v, none => { c with cfg := v, cfgNext := none }
    | _, _ => c

/-- A queue becomes RUNNABLE and joins the list (R401). -/
def makeRunnable (s : State) (q : Nat) : State :=
  modTr (modCq s q fun c => { c with st := .runnable }) fun t =>
    { t with runlist := if t.runlist.contains q then t.runlist else t.runlist ++ [q] }

/-- UNMAPPING a queue (R401): it stands before a packet whose effect has not begun, IDLE, the latch swapped for 0; and RUNNABLE
again if the latch was set or it has something left. -/
def unmapQueue (s : State) (q : Nat) : State :=
  let s := boundary (modCq s q fun c => { c with st := .idle, thread := 0, pend := c.pend.filter (·.begun) }) q
  let c := getCq s q
  let s := modCq s q fun c => { c with latch := false }
  if c.latch || leftOver c then makeRunnable s q else s

/-- Map the oldest runnable queue on a thread, which clears its latch when it begins to parse (R401, R402). -/
def mapOldest (s : State) (t : Nat) : State :=
  match s.tr.runlist with
  | [] => s
  | q :: rest =>
    modCq (modTr s fun x => { x with runlist := rest }) q fun c =>
      { c with st := if c.pend.isSome then .waiting else .mapped, thread := t, blocked := true, waitAt := s.cycle }

/-- The queue on a thread. -/
def queueOn (s : State) (t : Nat) : Option Nat := (s.tr.cqs.find? fun e => onThread e.2 && e.2.thread = t).map (·.1)

/-- A free thread, the lowest first. -/
def freeThread (s : State) : Option Nat := (span 0 32).find? fun t => (queueOn s t).isNone

/-- A queue on a thread that is empty, or disabled, and in no wait (R394, R402). -/
def idleQueue (s : State) : Option Nat :=
  (s.tr.cqs.find? fun e => e.2.st = .mapped && e.2.pend.isNone && (hasWords e.2 = 0 || !cqOn e.2)).map (·.1)

/-- Map runnable queues on free threads, and in place of empty ones, at once (R402). No queue is mapped while an update
has quiesced the threads (R418). -/
def mapQueues : Nat → State → State
  | 0, s => s
  | n + 1, s =>
    if s.tr.runlist.isEmpty || s.tr.quiesce then s
    else
      match freeThread s with
      | some t => mapQueues n (mapOldest s t)
      | none =>
        match idleQueue s with
        | none => s
        | some q => mapQueues n (mapOldest (unmapQueue s q) (getCq s q).thread)

/-- Map all that can be mapped. -/
def remap (s : State) : State := mapQueues 64 s

/-- Set a queue's wake latch (R401). -/
def setLatch (s : State) (q : Nat) : State :=
  let s := modCq s q fun c => { c with latch := true }
  if (getCq s q).st = .idle then remap (makeRunnable s q) else s

/-- A QUEUE FAULT (R398): the queue stops at the packet and is unmapped. -/
def queueFault (s : State) (q code : Nat) : State :=
  let w := packetAt (getCq s q)
  let s := modCq s q fun c => { c with st := .faulted, fault := code, faultAt := w, thread := 0, pend := none }
  remap (jlog (boundary s q) 10 q code w 0 0)

/-- Leave the indirect buffers that are at their end (R399). -/
def popBufs : Nat → State → Nat → State
  | 0, s, _ => s
  | n + 1, s, q =>
    match (getCq s q).stack with
    | b :: rest =>
      if b.left = 0 then
        let s := modCq s q fun c => { c with stack := rest }
        popBufs n (if b.notify then cpSend s (.notify q b.whr) else s) q
      else s
    | [] => s

/-- A packet is behind its thread (R396): its notification if it has completed, the buffers that it ends, and the boundary; with
no word left the thread blocks (R401). -/
def packetDone (s : State) (q flags whr : Nat) : State :=
  let s := if flags / 2 % 2 = 1 then cpSend s (.notify q whr) else s
  let s := popBufs 5 (modCq s q fun c => { c with pend := none, st := if c.st = .waiting then .mapped else c.st }) q
  remap (boundary (modCq s q fun c => { c with blocked := c.blocked || decide (hasWords c = 0) }) q)

/-- The COUNT of a type (R397): none for NOP, which takes any. -/
def countOf : Nat → Option Nat
  | 2 => some 8 | 3 => some 0 | 4 => some 7 | 5 => some 5 | 6 => some 3 | 7 => some 3 | 8 => some 3 | 9 => some 1
  | 10 => some 2 | 11 => some 2 | 12 => some 3 | _ => none

/-- Payload words, or the fault of the first that cannot be read. -/
def payloadWords (s : State) (c : CmdQueue) : Nat → Nat → Except Nat (List (BitVec 32))
  | 0, _ => .ok []
  | n + 1, k =>
    match packetWord s c k with
    | .error e => .error e
    | .ok w =>
      match payloadWords s c n (k + 1) with
      | .error e => .error e
      | .ok l => .ok (w :: l)

/-- Does a virtual range translate for an access under the queue's address space (R398)? -/
def reaches (s : State) (c : CmdQueue) (k : AccKind) (va n : Nat) : Bool :=
  decide (va + n ≤ window0) && (match pagesX s ⟨0, cqAsid c, true⟩ k (n / 65536 + 2) va n with
    | .ok _ => true
    | .error _ => false)

/-- The checks of a packet's payload in the order of their codes (R397, R398): reserved bits and ranges, addresses,
indirect depth. -/
def payloadFault (s : State) (c : CmdQueue) (typ : Nat) (p : List (BitVec 32)) : Option Nat :=
  let bad3 := match typ with
    | 2 => pf p 0 27 10 ≠ 0 || long p 3 % 2 ^ 32 = 0 || 65536 < long p 3 % 2 ^ 32
    | 4 => pf p 0 28 4 ≠ 0
    | 5 => pf p 0 31 1 ≠ 0
    | 6 => pf p 0 31 24 ≠ 0 || pf p 0 23 0 = 0
    | 7 => pf p 0 31 24 ≠ 0 || pf p 0 23 13 ≠ s.module
    | 8 => pf p 0 30 14 ≠ 0
    | 9 => pf p 0 31 1 ≠ 0
    | 10 => pf p 0 27 11 ≠ 0 || pf p 1 31 11 ≠ 0 || pf p 1 10 0 < pf p 0 10 0
    | 11 => pf p 0 15 0 ≠ 0 || pf p 1 31 12 ≠ 0 || pf p 1 11 0 = 0 || 2048 < pf p 1 11 0 ||
        pf p 0 27 24 < pf p 0 31 28 || pf p 0 19 16 < pf p 0 23 20
    | 12 => pf p 0 27 0 ≠ 0
    | _ => false
  let bad4 := match typ with
    | 2 =>
      let ctx := long p 4
      let done := long p 6
      long p 1 % 64 ≠ 0 || ctx % 65536 ≠ 0 || done % 8 ≠ 0 || !reaches s c .read (long p 1) (64 * (long p 3 % 2 ^ 32)) ||
        (ctx ≠ 0 && !reaches s c .write ctx 65536) || (done ≠ 0 && !reaches s c .write done 8)
    | 4 => pf p 0 29 29 = 0 && (long p 1 % 8 ≠ 0 || (peek s none (cqAsid c) (long p 1) 8).isNone)
    | 5 => long p 1 % 8 ≠ 0 || !reaches s c .write (long p 1) 8 || (pf p 0 0 0 = 1 &&
        (match xlate s ⟨0, cqAsid c, true⟩ (long p 1) .write with
         | .ok x => !isHbm x.pa
         | .error _ => true))
    | 6 => long p 1 % 4 ≠ 0
    | 12 => long p 1 % 64 ≠ 0
    | _ => false
  if bad3 then some 3 else if bad4 then some 4 else if typ = 6 && 4 ≤ c.stack.length then some 5 else none

/-- What a packet meets before its effect begins: it may begin, it must wait (R400, R402 to R404), or it is at fault. -/
inductive Ready where
  | go | wait
  | fault (code : Nat)
  deriving DecidableEq, Repr

/-- Do the threads stand: an update has quiesced them (R418), or a KEYCMD is in progress (R414; log 107)? -/
def standStill (s : State) : Bool := s.tr.quiesce || s.tr.keyCmd.isSome

/-- A thread begins to parse: after a block it clears the latch (R401). -/
def beginParse (s : State) (q : Nat) : State :=
  modCq s q fun c => if c.blocked then { c with latch := false, blocked := false } else c

/-- A packet is consumed (R396): its thread is past it, and the ACCEPTED entry is written. -/
def takePacket (s : State) (q typ whr : Nat) (p : List (BitVec 32)) : State :=
  let n := p.length
  let s := modCq s q fun x =>
    let c : CmdQueue := { x with pend := none, st := if x.st = .waiting then .mapped else x.st }
    match c.stack with
    | b :: rest => { c with stack := { b with va := b.va + 4 * (n + 1), left := b.left - (n + 1) } :: rest }
    | [] => { c with rptr := (c.rptr + n + 1) % ringSize c }
  jlog s 1 q typ whr (if 2 ≤ n then wd (long p 0) else 0) 0

/-- The queue's thread blocks at a packet: before it, at its header, or with its effect begun (R400, R402; log 108). -/
def block (s : State) (q typ f w : Nat) (p : List (BitVec 32)) (begun : Bool) : State :=
  modCq s q fun c =>
    { c with st := .waiting, pend := some ⟨typ, f, w, p, begun⟩, blocked := true
             waitAt := if c.st = .waiting then c.waitAt else s.cycle }

/-- A packet whose checks have passed begins its effect, being consumed, or waits at its header, or faults there. -/
def tryPacket (s : State) (q typ f w : Nat) (p : List (BitVec 32)) (ready : State → CmdQueue → List (BitVec 32) → Ready)
    (k : State → Nat → Nat → List (BitVec 32) → State) : State :=
  match ready s (getCq s q) p with
  | .go => k (takePacket s q typ w p) f w p
  | .wait => block s q typ f w p false
  | .fault e => queueFault s q e

/-- THE PARSE OF A PACKET of a type at the head of a mapped queue (R396 to R399): its faults, then, once it is ready, it is
consumed, the ACCEPTED entry is written, and its effect begins. A packet that the thread is blocked at is tried again. Nothing
happens while the packet is not whole, is of another type, or is held by BARRIER. -/
def packet (s : State) (q typ : Nat) (ready : State → CmdQueue → List (BitVec 32) → Ready)
    (k : State → Nat → Nat → List (BitVec 32) → State) : State :=
  let c := getCq s q
  if standStill s then s
  else
    match c.pend with
    | some p => if c.st = .waiting && p.typ = typ && !p.begun then tryPacket s q typ p.flags p.whr p.words ready k else s
    | none =>
      if c.st ≠ .mapped || !cqOn c || hasWords c = 0 then s
      else
        match packetWord s c 0 with
        | .error e => queueFault (beginParse s q) q e
        | .ok hdr =>
          let t := bits hdr.toNat 24 8
          let n := bits hdr.toNat 8 16
          let f := bits hdr.toNat 0 8
          if t = 0 || 12 < t then queueFault (beginParse s q) q 1
          else if t ≠ typ then s
          else
            let s := beginParse s q
            if (countOf t).any (· ≠ n) then queueFault s q 2
            else if hasWords c ≤ n then
              (if c.stack.isEmpty then modCq s q fun c => { c with blocked := true } else queueFault s q 2)
            else
              match payloadWords s c n 1 with
              | .error e => queueFault s q e
              | .ok p =>
                match (if 4 ≤ f then some 3 else payloadFault s c t p) with
                | some e => queueFault s q e
                | none =>
                  if f % 2 = 1 && s.ks.launches.any (·.queue == some q) then s
                  else tryPacket s q typ f (packetAt c) p ready k

/-- A packet that nothing holds up. -/
def atOncePacket (_ : State) (_ : CmdQueue) (_ : List (BitVec 32)) : Ready := .go

/-- A packet that completes when its effect is performed, which is at once. -/
def simplePacket (s : State) (q typ : Nat) (k : State → List (BitVec 32) → State) : Out :=
  .next (packet s q typ atOncePacket fun s f w p => packetDone (k s p) q f w)

/-- Has the effect of a packet been performed: the store of a WRITE, the moves of a STAGE or SWITCH (R396)? -/
def Owed.paid (s : State) (o : Owed) : Bool :=
  (o.uid.all fun u => !s.flight.any (·.uid == u)) &&
    o.cores.all fun c => (switchOf s c).isNone && (getCore s c).move.isNone

/-- Notify the completions of a queue's packets of a type that have come, if any has (R396). -/
def payOwed (s : State) (q typ : Nat) : Option State :=
  let l := s.tr.owed.filter fun o => o.queue = q && o.typ = typ && o.paid s
  if l.isEmpty then none
  else some (modTr s fun t => { t with
    owed := t.owed.filter fun o => !l.contains o, cpOut := t.cpOut ++ l.map fun o => .notify q o.whr })

/-- A packet whose effect may last: the thread goes on, and NOTIFY is answered when the effect is performed, at once if it is
already (R396). `k` gives the state, the access and the cores that it lasts for. -/
def lastingPacket (s : State) (q typ : Nat) (k : State → List (BitVec 32) → State × Option Nat × List Nat) : Out :=
  .next (match payOwed s q typ with
  | some s => s
  | none => packet s q typ atOncePacket fun s f w p =>
    let r := k s p
    let o : Owed := ⟨q, typ, w, r.2.1, r.2.2⟩
    if f / 2 % 2 = 1 && !o.paid r.1 then packetDone (modTr r.1 fun t => { t with owed := t.owed ++ [o] }) q 0 w
    else packetDone r.1 q f w)

/-- NOP (R397). -/
def execNop (q : Nat) (s : State) : Out := simplePacket s q 1 fun s _ => s

/-- CLOSE (R47, R397). -/
def execClose (q : Nat) (s : State) : Out := simplePacket s q 3 fun s _ => closeBatch s

/-- The effect of WRITE (R88, R397): a store at its point of coherence, with the full/empty effect of a put; the access, if it
does not last. -/
def writePacket (s : State) (q : Nat) (p : List (BitVec 32)) : State × Option Nat :=
  match xlBytes s ⟨0, cqAsid (getCq s q), true⟩ (long p 1) 8 .write with
  | .error _ => (s, none)
  | .ok (pas, x) =>
    let v := wBytes (wd (long p 3))
    if pf p 0 0 0 = 1 then
      let s := setFull (putBytes s x.key (pas.zip v) false) x.pa true
      (retryScan (s.flight.length + 1) s x.pa, none)
    else
      let a : Access := { uid := s.uid, hart := 8192, va := wd (long p 1), pas := pas, key := x.key, cache := false,
                          op := .store v, psn := false, dest := .nothing, st := .flying }
      (arrive { s with uid := s.uid + 1, flight := s.flight ++ [a] } a, some s.uid)

/-- WRITE (R397): a release at device scope. It completes when it is performed, which a full FIFO may hold up (R81, R396). -/
def execWrite (q : Nat) (s : State) : Out :=
  lastingPacket s q 5 fun s p => let r := writePacket s q p; (r.1, r.2, [])

/-- WAKE (R355, R397). -/
def execWake (q : Nat) (s : State) : Out := simplePacket s q 7 fun s p => wakeHart s (pf p 0 12 0) (wd (long p 1))

/-- INDIRECT (R399): the thread parses the buffer next; the packet completes at the buffer's end. -/
def execIndirect (q : Nat) (s : State) : Out :=
  .next (packet s q 6 atOncePacket fun s f w p =>
    modCq s q fun c => { c with stack := ⟨long p 1, pf p 0 23 0, w, f / 2 % 2 = 1⟩ :: c.stack })

/-- STAGE (R29, R397): it completes when the cores have moved. -/
def execStage (q : Nat) (s : State) : Out :=
  lastingPacket s q 10 fun s p =>
    let cs := span (pf p 0 10 0) (pf p 1 10 0 + 1 - pf p 0 10 0)
    let s := markMoves s cs (pf p 0 31 28)
    (s, none, cs.filter fun c => (getCore s c).move.isSome)

/-- SWITCH (R30, R397): it completes when its cores serve their new stages. -/
def execSwitch (q : Nat) (s : State) : Out :=
  lastingPacket s q 11 fun s p =>
    let old := s.ks.switching.map (·.1)
    let s := switchCores s (pf p 0 31 28) (pf p 0 27 24) (pf p 0 23 20) (pf p 0 19 16) (pf p 1 11 0)
    (s, none, (s.ks.switching.map (·.1)).filter fun c => !old.contains c)

/-- Has the open batch room for one more entry, or can it close (R47, R49)? -/
def entryRoom (s : State) : Bool :=
  decide (s.ks.openB.length < 1024) || !(s.ks.group.isSome && decide (4 ≤ s.ks.closed.length))

/-- CUT (R68): the marker takes the next entry of the open batch, and the batch closes at once. The packet waits while
there is no entry for the marker. -/
def execCut (q : Nat) (s : State) : Out :=
  if entryRoom s then simplePacket s q 9 fun s p => closeBatch (placeEnts s [.marker (pf p 0 0 0 = 1)]) else .next s

/-! WAIT (R400, R402). -/

/-- A WAIT begins its effect, which is to complete, once its condition holds (R400). -/
def waitReady (s : State) (c : CmdQueue) (p : List (BitVec 32)) : Ready := if waitHolds s c p then .go else .wait

/-- WAIT (R400). -/
def execWait (q : Nat) (s : State) : Out := .next (packet s q 4 waitReady fun s f w _ => packetDone s q f w)

/-- WAIT_CONDITION_READ (R400): the condition of a blocked WAIT is read again. -/
def execWaitConditionRead (q : Nat) (s : State) : Out :=
  if (getCq s q).pend.isSome then execWait q s else .next s

/-- The queues that wait on a thread. -/
def waiters (s : State) : List (Nat × CmdQueue) := s.tr.cqs.filter fun e => e.2.st = .waiting

/-- WAIT_SLICE_EXPIRY (R402): after 100 µs with a runnable queue, the wait that began earliest gives up its thread. -/
def execWaitSliceExpiry (q : Nat) (s : State) : Out :=
  .next (
    let c := getCq s q
    if c.st ≠ .waiting || s.tr.runlist.isEmpty || standStill s || s.cycle < c.waitAt + 100 * Config.cyclesPerUs ||
        !((waiters s).all fun e => c.waitAt ≤ e.2.waitAt) then s
    else mapOldest (bumpTr (unmapQueue s q) 0x48) c.thread)

/-- µs since a cycle. -/
def usSince (s : State) (c : Nat) : Nat := (s.cycle - c) / Config.cyclesPerUs

/-- WAIT_DEADLOCK (R402): no queue is runnable and every mapped queue has waited for WDOG µs. -/
def execWaitDeadlock (s : State) : Out :=
  .next (
    let wdog := (trReg s 0x20).toNat * Config.cyclesPerUs
    let mapped := s.tr.cqs.filter fun e => onThread e.2
    let old := mapped.all fun e => e.2.st = .waiting && decide (e.2.waitAt + wdog ≤ s.cycle)
    let first := mapped.foldl (fun (b : Option (Nat × CmdQueue)) e =>
      match b with
      | none => some e
      | some d => if e.2.waitAt < d.2.waitAt then some e else b) none
    match first with
    | none => s
    | some (q, c) =>
      if !s.tr.runlist.isEmpty || !old || s.cycle < max s.tr.watch c.waitAt + wdog then s
      else
        let w := (c.pend.map (·.whr)).getD 0
        let s := bumpTr (jlog s 7 q 0 w (wd (usSince s c.waitAt)) 0) 0x40
        modTr (cpSend s (.deadlock q)) fun t => { t with watch := s.cycle })

/-! Launches (R403). -/

/-- The first kernel header that fails its check: REASON, header and descriptor index (R380, R403). -/
def badHeader (s : State) (asid : Nat) (entries : List (Nat × Word)) : Option (Nat × Word × Nat) :=
  (entries.foldl (fun (seen, r) (i, e) =>
    if r.isSome || seen.contains e then (seen, r)
    else
      match checkHeader s asid e.toNat with
      | .error k => (e :: seen, some (k, e, i))
      | .ok _ => (e :: seen, none)) (([] : List Word), (none : Option (Nat × Word × Nat)))).2

/-- The descriptors that a launch has still to submit, from its next one on. -/
def launchDesc (s : State) (l : Launch) (k : Nat) : Option (List Word) :=
  if l.copy.isEmpty then descAt s ⟨none, l.asid, true, l.tag⟩ l.desc (l.next + k)
  else if l.next + k < l.ndesc then some ((l.copy.drop (8 * (l.next + k))).take 8) else none

/-- Submit a launch's descriptors in order, until the intake is full or they are all submitted; then send the
launch-end marker (R403, R404). Each rejected submission is journaled with the descriptor that failed; one for which the intake
has no room waits and is not journaled, a gang too that does not fit in what remains of the 4,096 while fewer than four batches
are closed: the model's choice between R44 and R49 (log 106). -/
def submitAll : Nat → State → Nat → State
  | 0, s, _ => s
  | fuel + 1, s, tag =>
    match launchBy s tag with
    | none => s
    | some l =>
      if l.ndesc ≤ l.next then modLaunch s tag fun l => { l with ended := true }
      else
        let w0 := (((launchDesc s l) 0).getD []).getD 0 0
        let r := submit s ⟨none, l.asid, true, tag⟩ true (launchDesc s l) (l.ndesc - l.next)
        let code := fld r.2 3 0
        if code = 1 then s
        else
          let s := if code = 0 then r.1
            else jlog r.1 4 (l.queue.getD 0) code l.whr (wd (l.next + fld r.2 31 24)) (wd (fld r.2 23 16))
          submitAll fuel (modLaunch s tag fun l => { l with next := l.next + gangSize w0 }) tag

/-- Start a launch (R403): its headers are checked; then the tag is in use and its descriptors are submitted. The state
and whether it started. -/
def startLaunch (s : State) (l : Launch) : State × Bool :=
  let entries := (span 0 l.ndesc).filterMap fun i =>
    (if l.copy.isEmpty then (peekWords s none l.qasid (l.desc + 64 * i + 8) 1).map (·.headD 0)
     else some (l.copy.getD (8 * i + 1) 0)).map fun e => (i, e)
  match badHeader s l.asid entries with
  | some (r, e, i) => (jlog s 3 (l.queue.getD 0) r l.whr e (wd i), false)
  | none => (submitAll (l.ndesc + 1) (modKs s fun k => { k with launches := k.launches ++ [l] }) l.tag, true)

/-- A LAUNCH begins once its tag is free and the intake has room (R34, R49, R402, R403). -/
def launchReady (s : State) (_ : CmdQueue) (p : List (BitVec 32)) : Ready :=
  if (launchBy s (pf p 0 31 28)).isSome || intakeFull s then .wait else .go

/-- A LAUNCH has submitted what it could: it is behind its thread, or blocks with its effect begun (R402, R403). -/
def launchGo (s : State) (q f w : Nat) (p : List (BitVec 32)) : State :=
  if (ownLaunch s q ⟨2, f, w, p, true⟩).isSome then block s q 2 f w p true else packetDone s q 0 w

/-- LAUNCH (R403): at its beginning, or going on with its submissions. -/
def execLaunch (q : Nat) (s : State) : Out :=
  .next (match (getCq s q).pend.filter fun p => p.begun && (getCq s q).st = .waiting with
  | some p => if standStill s || intakeFull s then s
    else launchGo (submitAll 65537 s (pf p.words 0 31 28)) q p.flags p.whr p.words
  | none => packet s q 2 launchReady fun s f w p =>
    let c := getCq s q
    let l : Launch := {
      tag := pf p 0 31 28, queue := some q, whr := w, asid := pf p 0 9 0, qasid := cqAsid c, ctx := long p 4
      doneAt := long p 6, notify := f / 2 % 2 = 1, live := 0, last := 0, ended := false, marked := false
      reports := [], desc := long p 1, copy := [], ndesc := long p 3 % 2 ^ 32, next := 0 }
    let r := startLaunch s l
    if r.2 then launchGo r.1 q f w p else packetDone r.1 q f w)

/-- A launch's completion is taken by Trestle (R36, R403): the done word, the entry, the notification, the tag. Its
forwarding entries end (R232), and the records of harts with no transaction that its ring holds (R229; log 104). -/
def completeLaunch (s : State) (l : Launch) (w : Word) : State :=
  let s := if l.doneAt = 0 then s else pokeWords s l.qasid l.doneAt [w]
  let s := jlog s 2 (l.queue.getD 0) l.tag l.whr w (wd l.last)
  let s := match l.queue with
    | some q => if l.notify then cpSend s (.notify q l.whr) else s
    | none => s
  let s := { s with cores := s.cores.map fun c => (c.1, { c.2 with fwd := c.2.fwd.filter (·.2.2 ≠ l.tag) }) }
  modKs s fun k => { k with
    launches := k.launches.filter (·.tag ≠ l.tag)
    saved := k.saved.filter fun v => v.tag ≠ l.tag || v.txn.isSome
    posts := k.posts.filter (·.1 ≠ l.tag) }

/-- LAUNCH_COMPLETION (R36, R403, R418): the oldest posting, unless the threads are quiesced. -/
def execLaunchCompletion (tag : Nat) (s : State) : Out :=
  .next (match s.ks.posts.head?, launchBy s tag with
  | some (t, w), some l => if t = tag && !s.tr.quiesce then completeLaunch s l w else s
  | _, _ => s)

/-! Task graphs (R404). -/

/-- Read the nodes of a graph image: none if it cannot be read, an empty list if a reserved bit is set. NNODE runs to 4,096 in
twelve bits, which 0 names (log 109). -/
def readGraph (s : State) (asid va : Nat) : Option (List (List Word)) :=
  match peekWords s none asid va 1 with
  | none => none
  | some l =>
    let h := l.headD 0
    if fld h 63 12 ≠ 0 then some []
    else
      let ns := (span 0 (if fld h 11 0 = 0 then 4096 else fld h 11 0)).map fun i => peekWords s none asid (va + 64 + 64 * i) 8
      if ns.all Option.isSome then some (ns.filterMap id) else none

/-- A GRAPH waits while a running trigger uses its slot; then its image is checked (R398, R404). -/
def graphReady (s : State) (c : CmdQueue) (p : List (BitVec 32)) : Ready :=
  if ((tfind s.tr.graphs (pf p 0 31 28)).bind (·.busy)).isSome then .wait
  else
    match readGraph s (cqAsid c) (long p 1) with
    | none => .fault 4
    | some [] => .fault 3
    | some _ => .go

/-- GRAPH (R404). -/
def execGraph (q : Nat) (s : State) : Out :=
  .next (packet s q 12 graphReady fun s f w p =>
    let asid := cqAsid (getCq s q)
    let ns := (readGraph s asid (long p 1)).getD []
    packetDone (modTr s fun t => { t with graphs := tput (pf p 0 31 28) ⟨ns, asid, none⟩ t.graphs }) q f w)

/-- The patches of a list, in order; none for a bad one (R404). -/
def readPatches (s : State) (asid va nnode : Nat) : Option (List (Nat × Nat × Word)) :=
  if va = 0 then some []
  else
    match peekWords s none asid va 1 with
    | none => none
    | some l =>
      let n := (l.headD 0).toNat
      if 1024 < n then none
      else
        let es := (span 0 n).map fun i =>
          (peekWords s none asid (va + 16 + 16 * i) 2).bind fun e =>
            let w := e.getD 0 0
            if fld w 63 52 < nnode && 1 ≤ fld w 51 49 && fld w 51 49 ≤ 4 && fld w 48 0 = 0 then
              some (fld w 63 52, fld w 51 49, e.getD 1 0)
            else none
        if es.all Option.isSome then some (es.filterMap id) else none

/-- Is a trigger still submitting? -/
def graphBusy (s : State) : Bool := s.tr.graphs.any fun e => e.2.busy.isSome

/-- GSTAT after a trigger of a slot with a status (R394). -/
def setGstat (s : State) (slot st : Nat) : State := modTr s fun t => { t with gstat := wd (slot * 2 ^ 56 + st) }

/-- The slot is free again once its trigger's launch has submitted its last node. -/
def graphIdle (s : State) : State :=
  modTr s fun t => { t with graphs := t.graphs.map fun (k, g) =>
    (k, if g.busy.any fun tag => ((launchBy s tag).map (·.ended)).getD true then { g with busy := none } else g) }

/-- A write of GTRIG (R404): it starts a launch of a patched copy, or is refused. -/
def graphWrite (s : State) (v : Word) : State :=
  let slot := fld v 63 60
  let tag := fld v 59 56
  let refuse := fun st => jlog (setGstat s slot st) 11 0 st 0 v 0
  if fld v 3 0 ≠ 0 then cfgErr s
  else if graphBusy s then refuse 2
  else
    match tfind s.tr.graphs slot with
    | none => refuse 1
    | some g =>
      if (launchBy s tag).isSome then refuse 2
      else
        match readPatches s g.asid (fld v 55 0) g.nodes.length with
        | none => refuse 3
        | some ps =>
          let copy := ps.foldl (fun (c : List Word) (n, w, x) => c.set (8 * n + w) x) g.nodes.flatten
          let l : Launch := {
            tag := tag, queue := none, whr := 0xFFFFFFFF, asid := g.asid, qasid := g.asid, ctx := 0, doneAt := 0
            notify := false, live := 0, last := 0, ended := false, marked := false, reports := [], desc := 0, copy := copy
            ndesc := g.nodes.length, next := 0 }
          let s := modTr (setGstat s slot 0) fun t => { t with graphs := tput slot { g with busy := some tag } t.graphs }
          graphIdle (startLaunch s l).1

/-- Are the module's registers served: not in recovery, where the Control Port serves only management and SPDM messages and no
firmware runs (R416)? -/
def served (s : State) (k : State → State) : Out := .next (if s.tr.fw = .recovery then s else k s)

/-- GRAPH_TRIGGER (R404): a write of GTRIG. -/
def execGraphTrigger (v : Word) (s : State) : Out := served s fun s => graphWrite s v

/-- LAUNCH_END_MARKER (R35, R337): forwarded once Trestle has sent it and the launch's count is zero. A trigger that has still
nodes to submit goes on with them first, once the intake has room (R404). -/
def execLaunchEndMarker (tag : Nat) (s : State) : Out :=
  .next (match launchBy s tag with
  | none => s
  | some l =>
    if !l.ended then (if l.queue.isSome || intakeFull s || standStill s then s else graphIdle (submitAll 4097 s tag))
    else if l.live = 0 && !l.marked then modLaunch s tag fun l => { l with marked := true }
    else s)

/-! Register writes (R394, R415, R430). -/

/-- The registers that a write of any value clears (R394, R430). -/
def trCounter (off : Nat) : Bool :=
  off = 0x18 || off = 0x38 || off = 0x40 || off = 0x48 || off = 0x50 || (0x200 ≤ off && off ≤ 0x230 && off % 8 = 0) ||
  (0x240 ≤ off && off < 0x300 && off % 8 = 0) || (0x300 ≤ off && off < 0x380 && off % 8 = 0) || off = 0x380 ||
  off = 0x398 || off = 0x3B0

/-- A write of a counter register clears it; of THROTUS the time counted short of a µs too (R430). -/
def clearTr (s : State) (off : Nat) : State :=
  let s := setTrReg s off 0
  if off = 0x3B0 then
    { s with fab := { s.fab with throtOdd := 0, throtAt := s.fab.throtAt.map fun _ => s.cycle } }
  else s

/-- A write of QWPTR, which wraps modulo the ring's size (R394, R401). -/
def qwptr (s : State) (q : Nat) (v : Word) : State :=
  if fld v 63 32 ≠ 0 then cfgErr s else setLatch (modCq s q fun c => { c with wptr := v.toNat % ringSize c }) q

/-- A write of QCFG: one that clears EN takes effect at the next packet boundary (R394). -/
def qcfg (s : State) (q : Nat) (v : Word) : State :=
  if fld v 63 25 ≠ 0 || fld v 23 21 ≠ 0 || fld v 15 10 ≠ 0 || fld v 20 16 < 6 || 24 < fld v 20 16 then cfgErr s
  else remap (modCq s q fun c =>
    if cqOn c && !bit v 24 && c.pend.isSome then { c with cfgNext := some v } else { c with cfg := v, cfgNext := none })

/-- A faulted queue goes on at its packet, or past it (R394, R398); past a packet of an indirect buffer whose header
cannot be read is past the buffer. -/
def qfault (s : State) (q : Nat) (skip : Bool) : State :=
  let c := getCq s q
  if c.st ≠ .faulted then s
  else
    let n := match packetWord s c 0 with
      | .ok h => min (1 + bits h.toNat 8 16) (hasWords c)
      | .error _ => if c.stack.isEmpty then min 1 (hasWords c) else hasWords c
    let s := modCq s q fun c => { c with fault := 0, faultAt := 0 }
    let s := if !skip then s
      else modCq s q fun c =>
        match c.stack with
        | b :: rest => { c with stack := { b with va := b.va + 4 * n, left := b.left - n } :: rest }
        | [] => { c with rptr := (c.rptr + n) % ringSize c }
    remap (makeRunnable (popBufs 5 s q) q)

/-- A write of one of a queue's registers (R394). -/
def cqWrite (s : State) (q off : Nat) (v : Word) : State :=
  let c := getCq s q
  match off with
  | 0x00 => if v.toNat % 64 ≠ 0 || cqOn c then cfgErr s else modCq s q fun c => { c with base := v.toNat }
  | 0x08 => qcfg s q v
  | 0x10 => qwptr s q v
  | 0x20 => setLatch s q
  | 0x30 => if v = 1 then qfault s q false else if v = 2 then qfault s q true else cfgErr s
  | _ => s

/-- A MONSEND write (R355, R394). -/
def monWrite (s : State) (cp : Bool) (v : Word) : State :=
  if cp then cpRefuse s
  else if fld v 63 13 ≠ 0 then cfgErr s
  else modSlot (setPending s v.toNat 10) v.toNat fun x => { x with monword := trReg s 0x80 }

/-- A WAKESEND write (R355, R394). -/
def wakeWrite (s : State) (v : Word) : State :=
  if fld v 63 13 ≠ 0 then cfgErr s else wakeHart s v.toNat (trReg s 0x90)

/-- Do the units still use what an invalidation by TLBINV affects (R236)? -/
def tlbStill (s : State) (e : Option Nat × Option Nat × Nat) : Bool := translating s e.1 e.2.1 e.2.2

/-- An invalidation by TLBINV (R236, R415): BUSY until no unit still uses a translation from before it. -/
def tlbinv (s : State) (cp : Bool) (asid va : Option Nat) : State :=
  if cp then cpRefuse s
  else
    let s := invalidate s asid va
    modTr s fun t => { t with tlbWait := t.tlbWait.filter (tlbStill s) ++ [(asid, va, s.uid)] }

/-- Is an invalidation still waiting (R236, R415)? -/
def tlbBusy (s : State) : Bool := s.tr.tlbWait.any (tlbStill s)

/-- A KEYCMD (R414, R415): KEYDATA as written now, or zeros. -/
def keyCommand (s : State) (cp load : Bool) (slot : Nat) : State :=
  if cp then cpRefuse s
  else if slot = 0 || 8191 < slot || s.tr.keyCmd.isSome then cfgErr s
  else
    let ks := if load then (span 0 8).map fun i => trReg s (0x118 + 8 * i) else List.replicate 8 0
    modTr s fun t => { t with keyCmd := some (slot, ks) }

/-- IMGVER of an image, and HOVER, the version of the record that it writes (R416, R419). -/
def imgVer (img : List Byte) : Nat := bits (leNat ((img.drop 8).take 8)) 32 32
def hover (img : List Byte) : Nat := bits (leNat ((img.drop 0x128).take 8)) 0 16

/-- The image in the active slot. -/
def activeImage (s : State) : List Byte := tget [] s.tr.flash s.tr.active

/-- The fields ENTRY and LEN of an image, and its body (R416). -/
def imgEntry (img : List Byte) : Nat := leNat ((img.drop 0x20).take 8)
def imgLen (img : List Byte) : Nat := leNat ((img.drop 0x18).take 8)
def imgBody (img : List Byte) : List Byte := (img.drop 0x200).take (imgLen img)

/-- The threads enter the image of the active slot at its ENTRY (R416, R418, R419); where the body stands in memory is
not in the spec (log 5). -/
def enterImage (s : State) : State :=
  let img := activeImage s
  let body := imgBody img
  let s := putBytes s 0 ((span Config.fwBase body.length).zip body) false
  modTr { s with lrs := [] } fun t => { t with
    threads := (span 0 32).map fun k => (k, { pc := wd (Config.fwBase + imgEntry img) }), turn := 0 }

/-- HOMIN and HOMAX of an image: does it accept a record of a version (R416, R419)? -/
def acceptsRecord (img : List Byte) (v : Nat) : Bool :=
  let w := leNat ((img.drop 8).take 8)
  decide (bits w 16 16 ≤ v) && decide (v ≤ bits w 0 16)

/-- The end of a trial (R419): the entries held are written, the postings held are taken in order, then the update's entry is
written. -/
def endTrial (s : State) (ok : Bool) (entry : State → State) : State :=
  let s := modTr s fun t => { t with
    fw := .running, quiesce := false, handover := none, updated := t.updated || ok
    active := if ok then t.active else 1 - t.active }
  let s := if ok then s else enterImage s
  let s := s.tr.jheld.foldl jwrite (modTr s fun t => { t with jheld := [] })
  let s := s.ks.posts.foldl (fun s (tag, w) =>
    match launchBy s tag with
    | some l => completeLaunch s l w
    | none => s) s
  remap (entry s)

/-- A write of FWHB (R415, R419); outside a trial it does nothing. OK stands only for an image that accepts the record's version:
any other has not answered (log 111). -/
def fwhbWrite (s : State) (cp ok : Bool) : State :=
  if cp then cpRefuse s
  else if s.tr.fw ≠ .trial then s
  else if ok && !((s.tr.handover.map (acceptsRecord (activeImage s))).getD false) then s
  else if ok then endTrial s true fun s => jlog s 12 0 0 0 (wd (imgVer (activeImage s))) 0
  else endTrial s false fun s => jlog s 13 0 1 0 0 0

/-- A write of Trestle's register block (R394, R415, R430); `cp` says that the Control Port makes it. -/
def trWrite (s : State) (cp : Bool) (off : Nat) (v : Word) : State :=
  if off % 8 ≠ 0 then s
  else if trCounter off then clearTr s off
  else if 0x10000 ≤ off && off < 0x14000 then cqWrite s ((off - 0x10000) / 64) (off % 64) v
  else if 0x118 ≤ off && off ≤ 0x150 then (if cp then cpRefuse s else setTrReg s off v)
  else
    match off with
    | 0x00 => if fld v 63 52 ≠ 0 || fld v 11 0 ≠ 0 || bit (trReg s 8) 8 then cfgErr s else setTrReg s off v
    | 0x08 => if fld v 63 9 ≠ 0 || fld v 7 5 ≠ 0 || fld v 4 0 < 10 || 20 < fld v 4 0 then cfgErr s else setTrReg s off v
    | 0x20 => if v.toNat < 10000 || 60000000 < v.toNat then cfgErr s else setTrReg s off v
    | 0x28 => graphWrite s v
    | 0x80 => if cp then cpRefuse s else setTrReg s off v
    | 0x88 => monWrite s cp v
    | 0x90 => setTrReg s off v
    | 0x98 => wakeWrite s v
    | 0x100 => if cp then cpRefuse s else if fld v 63 52 ≠ 0 || fld v 12 1 ≠ 0 then cfgErr s else setTrReg s off v
    | 0x108 =>
      if cp then cpRefuse s
      else if fld v 63 62 = 3 || fld v 61 58 ≠ 0 || fld v 47 40 ≠ 0 then cfgErr s
      else
        match fld v 63 62 with
        | 0 => tlbinv s false none none
        | 1 => tlbinv s false (some (fld v 57 48)) none
        | _ => tlbinv s false (some (fld v 57 48)) (some (fld v 39 0 * 2 ^ 16))
    | 0x110 =>
      if cp then cpRefuse s
      else if fld v 61 13 ≠ 0 || fld v 63 62 = 0 || fld v 63 62 = 3 then cfgErr s
      else keyCommand s false (fld v 63 62 = 1) (fld v 12 0)
    | 0x188 => if cp then cpRefuse s else if v = 1 then fwhbWrite s false true else if v = 2 then fwhbWrite s false false else cfgErr s
    | 0x3A8 => if v.toNat < 1000 || 3400 < v.toNat then cfgErr s else setTrReg s off v
    | _ => s

/-- The states of a queue as QSTATE shows them (R394). -/
def QSt.code : QSt → Nat
  | .idle => 0 | .runnable => 1 | .mapped => 2 | .waiting => 3 | .faulted => 4

/-- A read of one of a queue's registers (R394). -/
def cqRead (s : State) (q off : Nat) : Word :=
  let c := getCq s q
  match off with
  | 0x00 => wd c.base
  | 0x08 => c.cfg
  | 0x10 => wd (c.wptr % ringSize c)
  | 0x18 => wd (c.rptr % ringSize c)
  | 0x20 => wd (b2n c.latch)
  | 0x28 => wd (c.st.code * 2 ^ 60 + c.thread * 2 ^ 48 + c.stack.length * 2 ^ 40 +
      (if c.st = .waiting then usSince s c.waitAt % 2 ^ 32 else 0))
  | 0x30 => wd (c.fault * 2 ^ 32 + c.faultAt)
  | _ => 0

/-- The bits of RUNPEND in one of its words (R394). -/
def runpend (s : State) (i : Nat) : Word :=
  wd ((s.tr.runlist.filter fun q => q / 64 = i).map fun q => 2 ^ (q % 64)).sum

/-- The states of FWSTAT (R415). -/
def FwSt.code : FwSt → Nat
  | .running => 0 | .trial => 1 | .recovery => 2

/-- A read of Trestle's register block (R394, R415, R430). -/
def trRead (s : State) (off : Nat) : Word :=
  if off % 8 ≠ 0 then 0
  else if 0x10000 ≤ off && off < 0x14000 then cqRead s ((off - 0x10000) / 64) (off % 64)
  else if 0x60 ≤ off && off < 0x80 then runpend s ((off - 0x60) / 8)
  else if 0x118 ≤ off && off ≤ 0x150 then 0
  else
    match off with
    | 0x10 => wd s.tr.seq
    | 0x30 => setBit s.tr.gstat 63 (graphBusy s)
    | 0x108 => wd (b2n (tlbBusy s))
    | 0x110 => wd (b2n s.tr.keyCmd.isSome * 2 ^ 63)
    | 0x180 => wd (s.tr.fw.code * 2 ^ 62 + s.tr.active * 2 ^ 56 + s.tr.svn * 2 ^ 48 + hover (activeImage s))
    | 0x3A0 => wd (s.fab.power % 65536)
    | 0x3B0 => trReg s off + wd ((s.fab.throtOdd + (s.fab.throtAt.map (s.cycle - ·)).getD 0) / Config.cyclesPerUs)
    | 0x3B8 => wd (s.fab.temp % 256 * 2 ^ 24 + s.fab.inlet % 256 * 2 ^ 8 + s.fab.flow % 256)
    | _ => if off ≤ 0x3B0 then trReg s off else 0

/-! The register blocks by name (R407). -/

/-- A write of a register of a block. A cluster's records are read with the address space 0 (log 7). -/
def regWrite (s : State) (cp : Bool) (sp : RegSpace) (off : Nat) (v : Word) : State :=
  match sp with
  | .cluster n => if n < 128 then clWrite s n off ⟨n * 16, 0, true⟩ v else s
  | .keystone => ksStore s off v
  | .trestle => trWrite s cp off v

/-- A read of a register of a block. -/
def regRead (s : State) (sp : RegSpace) (off : Nat) : Word :=
  match sp with
  | .cluster n => if n < 128 then clRead s n off else 0
  | .keystone => ksRead s off
  | .trestle => trRead s off

/-- The register block and offset of a physical address of this module (R407). -/
def regAt (s : State) (pa : Nat) : Option (RegSpace × Nat) :=
  if moduleOf pa ≠ s.module then none
  else
    match targetOf (offsetOf pa) with
    | .clBlock n => some (.cluster n, offsetOf pa % 0x10000)
    | .ksBlock => some (.keystone, offsetOf pa % 0x10000)
    | .trBlock => some (.trestle, offsetOf pa % 0x20000)
    | _ => none

/-- REGWRITE (R190, R394, R397). -/
def execRegwrite (q : Nat) (s : State) : Out :=
  simplePacket s q 8 fun s p =>
    regWrite s false (if pf p 0 31 31 = 1 then .trestle else .keystone) (8 * pf p 0 13 0) (wd (long p 1))

/-- REGISTER_WRITE (R394, R407). -/
def execRegisterWrite (cp : Bool) (sp : RegSpace) (off : Nat) (v : Word) (s : State) : Out :=
  served s fun s => regWrite s cp sp off v

/-- COUNTER_CLEAR (R146, R165, R181, R190, R394): a write of any value clears the counter. -/
def execCounterClear (sp : RegSpace) (off : Nat) (s : State) : Out :=
  served s fun s => match sp with
  | .cluster n => if clCounter off && n < 128 then modCluster s n fun c => { c with cnt := tput off 0 c.cnt } else s
  | .keystone => if ksCounter off then modKs s fun k => { k with regs := tput off 0 k.regs } else s
  | .trestle => if trCounter off then clearTr s off else s

def execQwptrWrite (q : Nat) (v : Word) (s : State) : Out := served s fun s => if q < 256 then qwptr s q v else s
def execQwakeWrite (q : Nat) (s : State) : Out := served s fun s => if q < 256 then setLatch s q else s
def execQfaultResume (q : Nat) (s : State) : Out := served s fun s => qfault s q false
def execQfaultSkip (q : Nat) (s : State) : Out := served s fun s => qfault s q true
def execMonsend (cp : Bool) (v : Word) (s : State) : Out := served s fun s => monWrite s cp v
def execWakesend (v : Word) (s : State) : Out := served s fun s => wakeWrite s v
def execTlbinvAll (cp : Bool) (s : State) : Out := served s fun s => tlbinv s cp none none
def execTlbinvAsid (cp : Bool) (asid : Nat) (s : State) : Out := served s fun s => tlbinv s cp (some (asid % 1024)) none
def execTlbinvPage (cp : Bool) (asid va : Nat) (s : State) : Out := served s fun s => tlbinv s cp (some (asid % 1024)) (some (va % 2 ^ 56))
def execKeycmdLoad (cp : Bool) (slot : Nat) (s : State) : Out := served s fun s => keyCommand s cp true slot
def execKeycmdClear (cp : Bool) (slot : Nat) (s : State) : Out := served s fun s => keyCommand s cp false slot

/-- KEY_SLOT_INSTALLED (R414): the new keys hold, and what waited for the slot goes on; the sync-mode accesses that stand in a
retry list are tried again. -/
def execKeySlotInstalled (s : State) : Out :=
  .next (match s.tr.keyCmd with
  | none => s
  | some (k, ws) =>
    let s := modTr s fun t => { t with keys := tput k ws t.keys, keyCmd := none }
    let stood := s.flight.filter fun a => (a.keyed.any (·.2 == k)) && (match a.st, a.op with
      | .retry _, .sync _ _ => true
      | _, _ => false)
    (stood.map fun a => a.pas.headD 0).foldl (fun s pa => retryScan (s.flight.length + 1) s pa) s)

def execCsbmodeWrite (cl : Nat) (v : Word) (s : State) : Out := served s fun s => if cl < 128 then csbWrite s cl v else s
def execFifocntWrite (cl b : Nat) (s : State) : Out := served s fun s => if cl < 128 && b < 16 then modFifo s cl b fun _ => {} else s
def execEvlineWrite (cl e : Nat) (s : State) : Out :=
  served s fun s => if cl < 128 && e < 32 then clWrite s cl (0x400 + 8 * e) ⟨cl * 16, 0, true⟩ 0 else s
def execWlrecWrite (cl l : Nat) (v : Word) (s : State) : Out :=
  served s fun s => if cl < 128 && l < 4 then wlrecWrite s cl l ⟨cl * 16, 0, true⟩ v else s
def execQrecWrite (q : Nat) (v : Word) (s : State) : Out := served s fun s => if 16 ≤ q && q < 256 then serve (qrecWrite s q v) q else s
def execSgthrWrite (st : Nat) (v : Word) (s : State) : Out := served s fun s => if st < 16 then sgthrWrite s st v else s
def execPushpoolWrite (v : Word) (s : State) : Out := served s fun s => pushpoolWrite s v

/-! The Control Port (R395, R405). -/

/-- The entries of a table of `n` words that may not be zero: those with a listed byte, or in a sector under a key. -/
def tableEntries (s : State) (base n : Nat) : List Nat :=
  ((s.mem.filterMap fun c => if base ≤ c.1 && c.1 < base + 8 * n then some ((c.1 - base) / 8) else none) ++
   s.keytag.flatMap fun e => (span (e.1 * 4) 4).filterMap fun w =>
     if base / 8 ≤ w && w < base / 8 + n then some (w - base / 8) else none).eraseDups

/-- Is the 64 KiB frame of a physical address mapped as sealed by the module's tables (R45, R395, R408, R409)? -/
def sealedFrame (s : State) (pa : Nat) : Bool :=
  let at0 := trReg s 0x100
  let word := fun (base i : Nat) => (tableWord s (base + 8 * i)).getD 0
  let leaf := fun (e : Word) (big : Bool) =>
    leafOk e big && bit e 59 && (if big then fld e 51 29 = pa / 2 ^ 29 else fld e 51 16 = pa / 2 ^ 16)
  let t0 := fld at0 51 13 * 2 ^ 13
  bit at0 0 && (tableEntries s t0 1024).any fun a =>
    let e0 := word t0 a
    let t1 := fld e0 51 17 * 2 ^ 17
    bit e0 63 && (tableEntries s t1 16384).any fun i =>
      let e1 := word t1 i
      let t2 := fld e1 51 16 * 2 ^ 16
      fld e1 1 0 = 1 && (tableEntries s t2 8192).any fun j =>
        let e2 := word t2 j
        let t3 := fld e2 51 16 * 2 ^ 16
        (fld e2 1 0 = 2 && leaf e2 true) ||
        (fld e2 1 0 = 1 && (tableEntries s t3 8192).any fun k =>
          let e3 := word t3 k
          fld e3 1 0 = 3 && leaf e3 false)

/-- CONTROL_PORT_WRITE (R45, R395, R407): to a register, or to storage in clear; refused at a sealed page, and in
recovery (R416). -/
def execControlPortWrite (pa : Nat) (data : List Byte) (s : State) : Out :=
  .next (if s.tr.fw = .recovery then s
  else
    match regAt s pa with
    | some (sp, off) => if data.length = 8 && off % 8 = 0 then regWrite s true sp off (ofBytes data) else s
    | none =>
      let pas := span pa data.length
      if (bases 65536 pas).any (sealedFrame s) then cpRefuse (jlog s 8 0 0 0 (wd pa) 0)
      else if !stores s pas then s
      else putBytes s 0 (pas.zip data) false)

/-- CONTROL_PORT_READ (R394, R405): a word of a register or of storage; a read of a journal entry sets the SEQ last
read. -/
def execControlPortRead (pa : Nat) (s : State) : Out :=
  .next (if s.tr.fw = .recovery then s
  else
    let data := match regAt s pa with
      | some (sp, off) => some (wBytes (regRead s sp off))
      | none => if stores s (span pa 8) then some (rdBytes s 0 (span pa 8)) else none
    let base := (trReg s 0).toNat
    let n := 2 ^ fld (trReg s 8) 4 0
    let s := if bit (trReg s 8) 8 && base ≤ pa && pa < base + 32 * n then
        modTr s fun t => { t with readSeq := (rd64 s (pa / 32 * 32)).toNat }
      else s
    match data with
    | some bs => cpSend s (.data pa bs)
    | none => s)

/-! The heartbeat of a new image (R419). -/

def execFwhbOk (cp : Bool) (s : State) : Out := served s fun s => fwhbWrite s cp true
def execFwhbRefuse (cp : Bool) (s : State) : Out := served s fun s => fwhbWrite s cp false

/-- FWHB_TIMEOUT (R419): nothing written within 50 ms of the image's first instruction. -/
def execFwhbTimeout (s : State) : Out :=
  .next (if s.tr.fw = .trial && s.tr.trialAt + 50000 * Config.cyclesPerUs ≤ s.cycle then
    endTrial s false fun s => jlog s 13 0 2 0 0 0 else s)

end Sys2Proof.Machine
end

