-- ==== Sys2Proof/Machine/Fabric.lean ====
section
/-! DEFINITION. The Causeway group (R65 to R67, R428, R429), the routing table (R422), and power and heat (R430 to R432). -/

namespace Sys2Proof.Machine

/-! The Causeway group. -/

/-- The positions that have not departed, in token order (R428, R429). -/
def live (g : Group) : List Nat := (span 0 g.n).filter fun p => !g.gone.contains p

/-- The batch and position of the frame that comes next in the Causeway's frame order (R66). -/
def frameNext (g : Group) : Nat × Nat :=
  match g.last with
  | none => (g.next, (live g).headD 0)
  | some (b, p) =>
    match (live g).find? (p < ·) with
    | some q => (b, q)
    | none => (b + 1, (live g).headD 0)

/-- Change the group. -/
def modGroup (s : State) (f : Group → Group) : State := modKs s fun k => { k with group := k.group.map f }

/-- The manifest at a hold (R65): the oldest closed batch, or else the open batch, even if it is empty. -/
def holdBatch (s : State) : List BatchEnt × State :=
  match s.ks.closed with
  | b :: rest => (b, modKs s fun k => { k with closed := rest })
  | [] => (s.ks.openB, modKs s fun k => { k with openB := [] })

/-- TOKEN_HOLD (R65, R66, R209, R428): the member's manifest is numbered, sent and received, then its group-scope SC
frames, each placed among the current window's announcements. -/
def execTokenHold (s : State) : Out :=
  .next (match s.ks.group with
  | none => s
  | some g =>
    let early := match g.heldAt with
      | some c => decide (s.cycle < c + 18 * g.trot)
      | none => false
    if early || g.gone.contains g.pos || frameNext g ≠ (g.next, g.pos) then s
    else
      let r := holdBatch s
      let n := numberBatch r.2 r.1 g.next g.pos
      let s := closeAgain (cutNote (feed n.1 g.pos g.next true n.2) 0 1 (.manifest g.pos g.next n.2))
      let s := modKs s fun k => { k with
        batch := g.next
        sc := k.sc ++ (g.frames.take 64).map fun o => { o with scope := .device, cycle := s.cycle } }
      modGroup s fun x => { x with next := g.next + 1, last := some (g.next, g.pos), heldAt := some s.cycle, heard := s.cycle
                                   frames := x.frames.drop 64 })

/-- Has the frame order passed a frame (R66)? -/
def framePast (g : Group) (pos batch : Nat) : Bool :=
  match g.last with
  | none => false
  | some (b, p) => batch < b || (batch = b && pos < p)

/-- MANIFEST_RECEIVE (R66): the manifest that is next in frame order is fed to the abutments; of a member that returned,
an empty manifest that it missed (R429). -/
def execManifestReceive (pos batch : Nat) (es : List ManifestEntry) (s : State) : Out :=
  .next (match s.ks.group with
  | none => s
  | some g =>
    if pos = g.pos || !(live g).contains pos || 1024 < es.length then s
    else if frameNext g = (batch, pos) then
      modGroup (cutNote (feed s pos batch false es) 0 1 (.manifest pos batch es)) fun x => { x with last := some (batch, pos), heard := s.cycle }
    else if framePast g pos batch && es.isEmpty then feed s pos batch false es
    else s)

/-- TOKEN_LOSS (R429): the member whose frame is next, and that has sent nothing for 100 µs, is declared departed, and the
regeneration of the token is counted. -/
def execTokenLoss (pos : Nat) (s : State) : Out :=
  .next (match s.ks.group with
  | none => s
  | some g =>
    if (frameNext g).2 ≠ pos || g.gone.contains pos || s.cycle < g.heard + 100 * Config.cyclesPerUs then s
    else bumpTr (modGroup s fun x => { x with gone := x.gone ++ [pos], heard := s.cycle }) 0x398)

/-- GROUP_FORMATION (R428): the open batch is closed and numbered under the member's own counter, then the member
joins. -/
def execGroupFormation (pos n trot b0 : Nat) (mods : List Nat) (s : State) : Out :=
  .next (
    let s' := closeBatch s
    if s.ks.group.isSome || 64 < n || n ≤ pos || mods.length ≠ n || mods[pos]? ≠ some s.module || 400 < trot ||
        b0 ≤ s'.ks.batch then s
    else modKs s' fun k => { k with group := some ⟨pos, n, trot, mods, b0, none, [], none, s.cycle, []⟩ })

/-- GROUP_REFORM (R429): a departed member returns at its old position; when it is this member, the manifests that it
missed are sent with no entries. -/
def execGroupReform (pos : Nat) (s : State) : Out :=
  .next (match s.ks.group with
  | none => s
  | some g =>
    if !g.gone.contains pos then s
    else
      let s := modGroup s fun x => { x with gone := x.gone.filter (· ≠ pos), heard := s.cycle }
      let s := (s.ks.locks.map (·.1)).foldl regrant s
      if pos ≠ g.pos then s
      else
        let missed := match g.last with
          | none => 0
          | some (b, p) => (if g.pos < p then b + 1 else b) - g.next
        let s := (span g.next missed).foldl (fun s b => feed s pos b true []) s
        modGroup s fun x => { x with next := g.next + missed })

/-! Routes. -/

/-- ROUTING_TABLE_FAILED_MARK (R422): a link of a module, or with direction 8 the module, is marked failed. Later packets take
another way (`wayTo`), and a module marked failed answers no more (`answers`). -/
def execRoutingTableFailedMark (module dir : Nat) (s : State) : Out :=
  .next (if 2048 ≤ module || 8 < dir || s.fab.routes.contains (module, dir) then s
  else modFab s fun x => { x with routes := x.routes ++ [(module, dir)] })

/-! Power and heat. -/

/-- One step down in issue duty (R431): the arrays, then the vector units, then all issue; none to zero, since
throttling changes timing only. -/
def stepDown (x : Fabric) : Fabric :=
  if 1 < x.dutyArr then { x with dutyArr := x.dutyArr - 1 }
  else if 1 < x.dutyVec then { x with dutyVec := x.dutyVec - 1 }
  else if 1 < x.dutyAll then { x with dutyAll := x.dutyAll - 1 } else x

/-- One step up, in the opposite order. -/
def stepUp (x : Fabric) : Fabric :=
  if x.dutyAll < 16 then { x with dutyAll := x.dutyAll + 1 }
  else if x.dutyVec < 16 then { x with dutyVec := x.dutyVec + 1 }
  else if x.dutyArr < 16 then { x with dutyArr := x.dutyArr + 1 } else x

/-- Is any issue duty reduced? -/
def throttled (x : Fabric) : Bool := x.dutyArr < 16 || x.dutyVec < 16 || x.dutyAll < 16

/-- Count the time spent throttled up to now in whole µs, the rest kept for the next count (R430). -/
def countThrottle (s : State) : State :=
  match s.fab.throtAt with
  | none => s
  | some c =>
    let n := s.fab.throtOdd + (s.cycle - c)
    let s := modFab s fun x => { x with throtAt := some s.cycle, throtOdd := n % Config.cyclesPerUs }
    modTr s fun t => { t with regs := tmod 0 0x3B0 (· + wd (n / Config.cyclesPerUs)) t.regs }

/-- Change the issue duty, throttled time beginning or ending with it (R430, R431). -/
def setDuty (s : State) (f : Fabric → Fabric) : State :=
  modFab (countThrottle s) fun x =>
    let y := f x
    { y with throtAt := if throttled y then some (x.throtAt.getD s.cycle) else none }

/-- POWER_CAP_CHECK (R430, R431), with what the sensors measure: every 100 µs the average power against PCAP. -/
def execPowerCapCheck (watts temp inlet flow : Nat) (s : State) : Out :=
  .next (if s.cycle < s.fab.checked + 100 * Config.cyclesPerUs then s
  else
    let cap := fld (trReg s 0x3A8) 15 0
    setDuty s fun x =>
      let x := { x with power := watts, temp := temp, inlet := inlet, flow := flow, checked := s.cycle }
      if cap < watts || 100 ≤ temp then stepDown x else if watts * 100 < cap * 95 then stepUp x else x)

/-- THERMAL_THROTTLE (R432): at 100 °C firmware throttles, whatever PCAP says. -/
def execThermalThrottle (temp : Nat) (s : State) : Out :=
  .next (if temp < 100 then s else setDuty s fun x => stepDown { x with temp := temp })

/-- THERMAL_TRIP (R432): at 110 °C issue stops on every core; the entry is journaled and the host notified. -/
def execThermalTrip (temp : Nat) (s : State) : Out :=
  .next (if temp < 110 || s.fab.stopped then s
  else cpSend (jlog (modFab s fun x => { x with temp := temp, stopped := true }) 14 0 0 0 0 0) .thermal)

/-- THERMAL_RESUME (R432): below 90 °C issue resumes, with nothing lost. -/
def execThermalResume (temp : Nat) (s : State) : Out :=
  .next (if 90 ≤ temp || !s.fab.stopped then s else modFab s fun x => { x with temp := temp, stopped := false })

end Sys2Proof.Machine
end

