-- ==== Sys2Proof/Machine/Vector.lean ====
section
/-! DEFINITION. Majors 0x20 to 0x28: stream pointers, the execution of one vector instruction under REP and FMT
(R222, R284 to R296), and the functions (R297 to R310). -/

namespace Sys2Proof.Machine

/-! Stream pointers (R284, R285). -/

/-- The workspace word of a pointer. -/
def sWord (n : Nat) : Nat := 32 + n

/-- The effective address of a descriptor (R284). -/
def sAddr (w : Word) : Nat :=
  let a := fld w 47 0
  if bit w 47 then 0x00FF000000000000 + a else a

/-- A descriptor after one step (R285). -/
def sStep (w : Word) : Word :=
  let c := fld w 63 58
  let a := ((fld w 47 0 : Int) + 8 * sint 10 (fld w 57 48)) % 2 ^ 48
  let w := setFld w 47 0 a.toNat
  if 1 ≤ c && c ≤ 62 then setFld w 63 58 (c - 1) else w

/-- An operand of an execution: its pointer and its bytes. -/
structure VOp where
  ref : SRef
  n   : Nat
  deriving DecidableEq, Repr

/-- The place of the part of an operand on one page: no register block, no bank in cache or FIFO mode (R286). -/
def vecPage (s : State) (va : Nat) (k : AccKind) (x : Xl) (pas : List Nat) : Except Trap Xl :=
  match targetOf (offsetOf x.pa) with
  | .clBlock _ => .error (trap .accessFault k.sub (wd va))
  | .sram _ => if (bankModes s pas).all (· = 0) then .ok x else .error (trap .accessFault k.sub (wd va))
  | _ => .ok x

/-- Translation of an operand of at most 128 bytes (R286, R288): the pages it touches in order, each with storage. -/
def vecPlace (s : State) (va n : Nat) (k : AccKind) : Except Trap (List Nat × Xl) :=
  let page := fun (va n : Nat) =>
    match xlate s (who s s.cur) va k with
    | .error t => Except.error t
    | .ok x => vecPage s va k x (span x.pa n)
  let left := 65536 - va % 65536
  match page va (min n left) with
  | .error t => .error t
  | .ok x =>
    if n ≤ left then .ok (span x.pa n, x)
    else
      match page (va + left) (n - left) with
      | .error t => .error t
      | .ok y =>
        if (x.win || y.win) && targetOf (offsetOf x.pa) ≠ targetOf (offsetOf y.pa) then
          .error (trap .accessFault k.sub (wd (va + left)))
        else .ok (span x.pa left ++ span y.pa (n - left), x.join y left)

/-- A source operand as read: its bytes, and whether each is poisoned. -/
structure VSrc where
  bytes : List Byte
  psn   : List Bool
  deriving DecidableEq, Repr

/-- The element of a number. -/
def vElems (z : Nat) (bs : List Byte) : List Nat := (span 0 (bs.length / z)).map fun i => leNat ((bs.drop (i * z)).take z)

/-- The bytes of elements. -/
def vBytes (z : Nat) (vs : List Nat) : List Byte := vs.flatMap (leBytes z)

/-- What a function does: its result bytes, and of each result byte whether it comes from poison. -/
abbrev VFun := List VSrc → List Byte × List Bool

/-- A function that poisons all it writes when it reads any poison (R291). -/
def vAll (f : List (List Byte) → List Byte) : VFun := fun ss =>
  let r := f (ss.map (·.bytes))
  let p := ss.any fun x => x.psn.any id
  (r, r.map fun _ => p)

/-! Reading sources (R289, R290). -/

/-- A word of a source: the bytes of the operand that lie in one aligned 8-byte word, with the key slot of their page. -/
structure VWord where
  va  : Nat
  pas : List Nat
  key : Nat
  deriving DecidableEq, Repr

/-- The key slot of byte `i` of an operand (R413). -/
def Xl.keyOf (x : Xl) (i : Nat) : Nat :=
  match x.past with
  | some o => if o.n ≤ i then o.key else x.key
  | none => x.key

/-- The words of an operand, in order (R197, R290). -/
def vecWords (va : Nat) (pas : List Nat) (x : Xl) : List VWord :=
  let l := pas.zip (span 0 pas.length)
  ((pas.map (· / 8)).eraseDups).filterMap fun w =>
    match l.filter fun e => e.1 / 8 = w with
    | [] => none
    | e :: es => some ⟨va + e.2, e.1 :: es.map (·.1), x.keyOf e.2⟩

/-- The bytes of a word that can be read at once, with the poison of each: from the own storage, or from a cache (R84, R175,
R198, R289). -/
def wordNow (s : State) (x : Xl) (w : VWord) : Option (List Byte × List Bool × State) :=
  if !atOnce s s.cur w.pas false then none
  else if x.own then some (rdBytes s 0 w.pas, w.pas.map (isPsn s), s)
  else if x.cache then cacheRead s s.cur w.key w.pas
  else none

/-- Of each byte of a word, whether the place that would serve it now holds it poisoned (R95, R96). -/
def wordMarks (s : State) (x : Xl) (w : VWord) : List Bool :=
  match wordNow s x w with
  | some (_, ps, _) => ps
  | none => w.pas.map (isPsn s)

/-- Read a word, or send for it as a load does (R272, R289): the words of one execution do not wait for one another. -/
def wordGet (s : State) (x : Xl) (grp : Nat) (w : VWord) : (Option Nat × List Byte × List Bool) × State :=
  match wordNow s x w with
  | some (bs, ps, s) => ((none, bs, ps), s)
  | none =>
    let r := send s { uid := 0, hart := s.cur, va := wd w.va, pas := w.pas, key := w.key, cache := x.cache, op := .load
                      psn := false, dest := .vec, st := .flying, grp := some grp }
    ((some r.2, [], []), r.1)

/-- Read or send for the words of a source in order. -/
def vecRead (x : Xl) (grp : Nat) : List VWord → State → List (Option Nat × List Byte × List Bool) × State
  | [], s => ([], s)
  | w :: ws, s =>
    let r := wordGet s x grp w
    let q := vecRead x grp ws r.2
    (r.1 :: q.1, q.2)

/-- A source once all its words are there. -/
def srcOf (l : List (Option Nat × List Byte × List Bool)) : VSrc := ⟨l.flatMap (·.2.1), l.flatMap (·.2.2)⟩

/-! Writing the destination (R289). -/

/-- A byte of a destination: its index in the result, its physical and virtual address, and the key slot of its page. -/
structure VCell where
  i   : Nat
  pa  : Nat
  va  : Nat
  key : Nat
  deriving DecidableEq, Repr

/-- What an execution writes: of each byte of the result its value and its poison; nothing while it waits for its sources. -/
abbrev VRes := Option (List Byte × List Bool)

/-- The bytes of a destination, but those of pointer words that the execution steps (R285). -/
def vecCells (va : Nat) (d : List Nat × Xl) (steps : List Nat) : List VCell :=
  (d.1.zip (span 0 d.1.length)).filterMap fun (pa, i) =>
    if steps.contains pa then none else some ⟨i, pa, va + i, d.2.keyOf i⟩

/-- Is any of these bytes of a result poisoned? -/
def resPsn (r : VRes) (is : List Nat) : Bool := r.any fun r => is.any fun i => r.2.getD i false

/-- The bytes of a destination grouped by a unit of their addresses. -/
def cellGroups (z : Nat) (cells : List VCell) : List (List VCell) :=
  ((cells.map fun c => c.pa / z).eraseDups).map fun w => cells.filter fun c => c.pa / z = w

/-- The result in the own storage: one outstanding result for each aligned 8-byte word (R289). -/
def vecOwn (s : State) (uid : Nat) (cells : List VCell) (r : VRes) : State :=
  let h := s.cur
  let outs := (cellGroups 8 cells).map fun g : List VCell =>
    ({ dest := g.map fun c => (c.pa, c.i), val := r.map (·.1), psn := resPsn r (g.map (·.i)), src := none,
       rep := repOn s h, mem := some uid, seq := uid, vec := if r.isSome then none else some uid } : Outst)
  modSlot (dropOuts s h (cells.map (·.pa))) h fun x => { x with outs := x.outs ++ outs }

/-- Does a result write the whole HBM sector of an address, clean (R95, R291)? -/
def sweeps (cells : List (Nat × Nat)) (r : VRes) (pa : Nat) : Bool :=
  r.any fun r => isHbm pa && (span (pa / 32 * 32) 32).all fun a => cells.any fun c => c.1 = a && !(r.2.getD c.2 false)

/-- The write of one aligned word of a result on its way (R197, R290), outstanding until it is acknowledged (R367); its
number is noted while the result is not there. -/
def vecWord (cache : Bool) (dest : AccDest) (uid : Nat) (all : List VCell) (r : VRes) (s : State × List (Nat × List Nat))
    (g : List VCell) : State × List (Nat × List Nat) :=
  let h := s.1.cur
  let c := g.headD ⟨0, 0, 0, 0⟩
  let is := g.map (·.i)
  let q := send s.1 { uid := 0, hart := h, va := wd c.va, pas := g.map (·.pa), key := c.key, cache := cache
                      op := .store (is.map fun i => (r.getD ([], [])).1.getD i 0), psn := resPsn r is, dest := dest
                      st := if r.isSome then .flying else .unready, wide := sweeps (all.map fun c => (c.pa, c.i)) r c.pa }
  let o : Outst := { dest := [], val := none, psn := false, src := some q.2, seq := uid, vec := if r.isSome then none else some uid }
  (modSlot q.1 h fun x => { x with outs := x.outs ++ [o] }, s.2 ++ [(q.2, is)])

/-- One posted chunk of a result: its words under one journal entry (R289). -/
def vecPost (cache : Bool) (uid : Nat) (all : List VCell) (r : VRes) (s : State × List (Nat × List Nat)) (cells : List VCell) :
    State × List (Nat × List Nat) :=
  let h := s.1.cur
  let gs := cellGroups 8 cells
  let q := takeEntries s.1 h false ((cells.headD ⟨0, 0, 0, 0⟩).va % 2 ^ 56) gs.length
  gs.foldl (vecWord cache (.journal (coreOf h) ((getSlot s.1 h).wp / 512) q.2) uid all r) (q.1, s.2)

/-- The result anywhere else: posted chunk by chunk, superseding older results to its bytes (R17, R289). A result in the own
storage that must follow an access or a job of the hart goes the same way, under no entry (R175, R198). -/
def vecFar (s : State) (own cache : Bool) (uid : Nat) (cells : List VCell) (r : VRes) : State × List (Nat × List Nat) :=
  let s := dropOuts s s.cur (cells.map (·.pa))
  if own then (cellGroups 8 cells).foldl (vecWord false .result uid cells r) (s, [])
  else (cellGroups 64 cells).foldl (vecPost cache uid cells r) (s, [])

/-- Are the results of earlier executions of this REP sequence that an execution reads still to come (R295)? -/
def repWaits (s : State) (pas : List Nat) : Bool :=
  repOn s s.cur && (getSlot s s.cur).outs.any fun o => o.rep && o.val.isNone && o.dest.any fun d => pas.contains d.1

/-- The writes of the executions of this REP sequence that an execution reads are performed first, those whose values are
there (R295). -/
def repFlush (s : State) (pas : List Nat) : State :=
  let h := s.cur
  let hit := fun (o : Outst) => o.rep && o.val.isSome && o.dest.any fun d => pas.contains d.1
  let s' := ((getSlot s h).outs.filter hit).foldl (fun s o =>
    match o.val with
    | some v => putBytes (notePsn s h o.psn) 0 (o.dest.map fun (a, k) => (a, v.getD k 0)) o.psn
    | none => s) s
  if repOn s h then modSlot s' h fun x => { x with outs := x.outs.filter fun o => !hit o } else s

/-- An execution is over: under REP the next one follows at the same PC, else the instruction retires (R222, R295). -/
def vecRetire (s : State) (sw : Bool) : State :=
  let h := s.cur
  if repOn s h && repcnt s h ≠ 1 then
    modSlot s h fun x => { x with hsw := setFld x.hsw 63 48 (fld x.hsw 63 48 - 1), inside := false, latch := [], repped := true }
  else retire (if repOn s h then modHsw s h fun w => setFld w 63 48 0 else s) sw

/-- Step the pointers of the fields that say so, each once (R285). -/
def vecStep (s : State) (ops : List VOp) : State :=
  ((ops.filter (·.ref.inc)).map fun o => o.ref.ptr.val).eraseDups.foldl (fun s p =>
    writeReg s s.cur (sWord p) (sStep (readReg s s.cur (sWord p))) (regPsn s s.cur (sWord p))) s

/-- The first byte of an operand whose target does not answer a load (R262). -/
def noAnswer (s : State) (va : Nat) (pas : List Nat) : Option Word :=
  (pas.findIdx? fun a => !answers s (moduleOf a) || (match targetOf (offsetOf a) with
    | .hbm | .scratch _ | .sram _ => false
    | _ => true)).map fun i => wd (va + i)

/-- The sources of an execution, in field order: their words read or sent for. -/
def vecReads (grp : Nat) : List (VOp × Nat × List Nat × Xl) → State →
    List (List (Option Nat × List Byte × List Bool)) × State
  | [], s => ([], s)
  | x :: xs, s =>
    let r := vecRead x.2.2.2 grp (vecWords x.2.1 x.2.2.1 x.2.2.2) s
    let q := vecReads grp xs r.2
    (r.1 :: q.1, q.2)

/-- The poison that the words of a source show now (R96). -/
def vecMarks (s : State) (va : Nat) (pas : List Nat) (x : Xl) : List Bool := (vecWords va pas x).flatMap (wordMarks s x)

/-- The execution with its places known: hold-ups, refusals, poison, reads, result, writes, pointer steps (R287, R289,
R291). A refused source read is a fault of the execution, precise like every other one (R262, R288; log 78). When source
words are on their way, the result is outstanding until they have come (R289). -/
def vecGo (i : Instr) (s : State) (sw : Bool) (d : VOp) (dva : Nat) (dp : List Nat × Xl)
    (srcs : List (VOp × Nat × List Nat × Xl)) (f : VFun) : State :=
  let h := s.cur
  let s := repFlush s (srcs.flatMap fun x => x.2.2.1)
  let ops := d :: srcs.map (·.1)
  let steps := (ops.filter (·.ref.inc)).flatMap fun o => span (regPa s h (sWord o.ref.ptr)) 8
  let chunks := ((dp.1.filter fun p => !steps.contains p).map (· / 64)).eraseDups.length
  if repWaits s (srcs.flatMap fun x => x.2.2.1) then parkFor s .results []
  else
  match pendBank s ((srcs.flatMap fun x => x.2.2.1) ++ dp.1) with
  | some b => parkFor s (.bank b) []
  | none =>
    match srcs.findSome? fun x => noAnswer s x.2.1 x.2.2.1 with
    | some v => raise s (trap .accessFault 1 v)
    | none =>
      if ops.any fun o => regPsn s h (sWord o.ref.ptr) then raise (setPoisoned s h) (trap .poison 0 0)
      else if !dp.2.own && !journalRooms s h chunks then parkFor s (.journal chunks) []
      else
        match (if pteOf s h then srcs.findSome? fun x => firstMark x.2.1 (vecMarks s x.2.1 x.2.2.1 x.2.2.2) else none) with
        | some v => raise s (trap .poison 0 v)
        | none =>
          let uid := s.uid
          let q := vecReads uid srcs { s with uid := s.uid + 1 }
          let there := q.1.all (·.all (·.1.isNone))
          let r : VRes := if there then some (f (q.1.map srcOf)) else none
          let s := noteWrite (notePsn q.2 h (there && q.1.any fun l => (srcOf l).psn.any id)) h dp.1
          let cells := vecCells dva dp steps
          let w := if dp.2.own && atOnce s h dp.1 true then (vecOwn s uid cells r, []) else vecFar s dp.2.own dp.2.cache uid cells r
          let s := if there then w.1
            else modSlot w.1 h fun x => { x with
              vpend := x.vpend ++ [⟨uid, i, x.hsw, q.1, w.2⟩]
              outs := if cells.isEmpty then x.outs ++ [{ dest := [], val := none, psn := false, src := none, vec := some uid }]
                else x.outs }
          vecRetire (vecStep s ops) sw

/-- The places of the sources, in field order (R288). -/
def vecSrcs (s : State) : List VOp → Except Trap (List (VOp × Nat × List Nat × Xl))
  | [] => .ok []
  | o :: os =>
    let va := sAddr (readReg s s.cur (sWord o.ref.ptr))
    match vecPlace s va o.n .read with
    | .error t => .error t
    | .ok (pas, x) =>
      match vecSrcs s os with
      | .error t => .error t
      | .ok l => .ok ((o, va, pas, x) :: l)

/-- ONE EXECUTION of a vector instruction, its types settled: COUNT, places and write checks in the order of R288. -/
def vecExec (i : Instr) (s : State) (sw : Bool) (d : VOp) (srcs : List VOp) (f : VFun) : State :=
  let h := s.cur
  let ptrs := (d :: srcs).flatMap fun o => span (regPa s h (sWord o.ref.ptr)) 8
  let s := repFlush s ptrs
  if repWaits s ptrs then parkFor s .results []
  else
  match (d :: srcs).find? fun o => fld (readReg s h (sWord o.ref.ptr)) 63 58 = 0 with
  | some o => raise s (trap .accessFault 4 (wd (sWord o.ref.ptr)))
  | none =>
    let dva := sAddr (readReg s h (sWord d.ref.ptr))
    match vecPlace s dva d.n .write with
    | .error t => raise s t
    | .ok dp =>
      match wrCheck s h dva dp.2 dp.1 with
      | some t => raise s t
      | none =>
        match vecSrcs s srcs with
        | .error t => raise s t
        | .ok l => vecGo i s sw d dva dp l f

/-- A vector instruction as R293 gives it: the type in force from the options (R296), and the operands and the function for
it. -/
structure VShape where
  ty : Fmt → Option ElemType
  go : ElemType → Fmt → VOp × List VOp × VFun

/-- A vector instruction: prefix gate, then the element type in force by R296, then one execution. -/
def vec (i : Instr) (sw : Bool) (v : VShape) (s : State) : State :=
  issue i .vec 0 s fun s =>
    match v.ty (fmtOf s) with
    | none => raise s (illegal i)
    | some t =>
      let r := v.go t (fmtOf s)
      vecExec i s sw r.1 r.2.1 r.2.2

/-- ST replaces ET and DT is illegal: the type must be one that the function takes (R293, R296). -/
def tyOf (t : ElemType) (ok : ElemType → Bool) (f : Fmt) : Option ElemType :=
  let t := f.st.getD t
  if f.dt.isNone && ok t then some t else none

/-- The classes of types of R293. -/
def notLg (t : ElemType) : Bool := t ≠ .lg6
def anyTy (_ : ElemType) : Bool := true

/-- Elementwise functions of one, two and three sources of 64 bytes. -/
def map1 (z : Nat) (f : Nat → Nat) : List (List Byte) → List Byte
  | [a] => vBytes z ((vElems z a).map f)
  | _ => []
def map2 (z : Nat) (f : Nat → Nat → Nat) : List (List Byte) → List Byte
  | [a, b] => vBytes z (((vElems z a).zip (vElems z b)).map fun p => f p.1 p.2)
  | _ => []
def map3 (z : Nat) (f : Nat → Nat → Nat → Nat) : List (List Byte) → List Byte
  | [a, b, c] => vBytes z (((vElems z a).zip ((vElems z b).zip (vElems z c))).map fun p => f p.1 p.2.1 p.2.2)
  | _ => []

/-- The forms with 64-byte operands throughout. -/
def shape1 (d a : SRef) (t : ElemType) (ok : ElemType → Bool) (f : ElemType → Fmt → Nat → Nat) : VShape :=
  ⟨tyOf t ok, fun t o => (⟨d, 64⟩, [⟨a, 64⟩], vAll (map1 (esize t) (f t o)))⟩
def shape2 (d a b : SRef) (t : ElemType) (ok : ElemType → Bool) (f : ElemType → Fmt → Nat → Nat → Nat) : VShape :=
  ⟨tyOf t ok, fun t o => (⟨d, 64⟩, [⟨a, 64⟩, ⟨b, 64⟩], vAll (map2 (esize t) (f t o)))⟩
def shape3 (d a b c : SRef) (t : ElemType) (ok : ElemType → Bool) (f : ElemType → Fmt → Nat → Nat → Nat → Nat) : VShape :=
  ⟨tyOf t ok, fun t o => (⟨d, 64⟩, [⟨a, 64⟩, ⟨b, 64⟩, ⟨c, 64⟩], vAll (map3 (esize t) (f t o)))⟩

/-! Arithmetic (R297, R298). -/

/-- An operation by its float and its integer meaning, both exact, rounded or narrowed once. -/
def ar1 (ff : Num → Num) (fi : ElemType → Int → Int) (t : ElemType) (o : Fmt) (a : Nat) : Nat :=
  if eFloat t then fpRnd t o.ftz o.sat (ff (fpDec t o.ftz a)) else eFit t o.sat (fi t (eVal t a))
def ar2 (ff : Num → Num → Num) (fi : Int → Int → Int) (t : ElemType) (o : Fmt) (a b : Nat) : Nat :=
  if eFloat t then fpRnd t o.ftz o.sat (ff (fpDec t o.ftz a) (fpDec t o.ftz b)) else eFit t o.sat (fi (eVal t a) (eVal t b))
def ar3 (ff : Num → Num → Num → Num) (fi : Int → Int → Int → Int) (t : ElemType) (o : Fmt) (a b c : Nat) : Nat :=
  if eFloat t then fpRnd t o.ftz o.sat (ff (fpDec t o.ftz a) (fpDec t o.ftz b) (fpDec t o.ftz c))
  else eFit t o.sat (fi (eVal t a) (eVal t b) (eVal t c))

/-- The smaller and the larger, −0 below +0, NaN if either is (R298). -/
def numMin (a b : Num) : Num := if a = .nan || b = .nan then .nan else if numLt true b a then b else a
def numMax (a b : Num) : Num := if a = .nan || b = .nan then .nan else if numLt true a b then b else a

/-- |x|. -/
def numAbs (a : Num) : Num := if a.neg then numNeg a else a

/-- Integer division (R297, R298): by zero all ones, else toward zero and then narrowed. -/
def divElem (t : ElemType) (o : Fmt) (a b : Nat) : Nat :=
  if !eFloat t && b = 0 then 2 ^ (8 * esize t) - 1 else ar2 numDiv Int.tdiv t o a b

def shapeVadd (d a b : SRef) (t : ElemType) : VShape :=
  shape2 d a b t notLg (ar2 numAdd (· + ·))
def execVadd (sw : Bool) (d a b : SRef) (t : ElemType) (s : State) : Out := .next (vec (.vadd sw d a b t) sw (shapeVadd d a b t) s)
def shapeVsub (d a b : SRef) (t : ElemType) : VShape :=
  shape2 d a b t notLg (ar2 (fun x y => numAdd x (numNeg y)) (· - ·))
def execVsub (sw : Bool) (d a b : SRef) (t : ElemType) (s : State) : Out := .next (vec (.vsub sw d a b t) sw (shapeVsub d a b t) s)
def shapeVmul (d a b : SRef) (t : ElemType) : VShape :=
  shape2 d a b t notLg (ar2 numMul (· * ·))
def execVmul (sw : Bool) (d a b : SRef) (t : ElemType) (s : State) : Out := .next (vec (.vmul sw d a b t) sw (shapeVmul d a b t) s)
def shapeVdiv (d a b : SRef) (t : ElemType) : VShape :=
  shape2 d a b t notLg divElem
def execVdiv (sw : Bool) (d a b : SRef) (t : ElemType) (s : State) : Out := .next (vec (.vdiv sw d a b t) sw (shapeVdiv d a b t) s)
def shapeVmin (d a b : SRef) (t : ElemType) : VShape :=
  shape2 d a b t notLg (ar2 numMin min)
def execVmin (sw : Bool) (d a b : SRef) (t : ElemType) (s : State) : Out := .next (vec (.vmin sw d a b t) sw (shapeVmin d a b t) s)
def shapeVmax (d a b : SRef) (t : ElemType) : VShape :=
  shape2 d a b t notLg (ar2 numMax max)
def execVmax (sw : Bool) (d a b : SRef) (t : ElemType) (s : State) : Out := .next (vec (.vmax sw d a b t) sw (shapeVmax d a b t) s)
def shapeVabs (d a : SRef) (t : ElemType) : VShape :=
  shape1 d a t notLg (ar1 numAbs fun _ v => v.natAbs)
def execVabs (sw : Bool) (d a : SRef) (t : ElemType) (s : State) : Out := .next (vec (.vabs sw d a t) sw (shapeVabs d a t) s)
def shapeVneg (d a : SRef) (t : ElemType) : VShape :=
  shape1 d a t notLg (ar1 numNeg fun _ v => -v)
def execVneg (sw : Bool) (d a : SRef) (t : ElemType) (s : State) : Out := .next (vec (.vneg sw d a t) sw (shapeVneg d a t) s)
def shapeVsqrt (d a : SRef) (t : ElemType) : VShape :=
  shape1 d a t eFloat (ar1 numSqrt fun _ v => v)
def execVsqrt (sw : Bool) (d a : SRef) (t : ElemType) (s : State) : Out := .next (vec (.vsqrt sw d a t) sw (shapeVsqrt d a t) s)
def shapeVfma (d a b c : SRef) (t : ElemType) : VShape :=
  shape3 d a b c t notLg (ar3 (fun x y z => numAdd (numMul x y) z) fun x y z => x * y + z)
def execVfma (sw : Bool) (d a b c : SRef) (t : ElemType) (s : State) : Out := .next (vec (.vfma sw d a b c t) sw (shapeVfma d a b c t) s)
def shapeVfms (d a b c : SRef) (t : ElemType) : VShape :=
  shape3 d a b c t notLg (ar3 (fun x y z => numAdd (numMul x y) (numNeg z)) fun x y z => x * y - z)
def execVfms (sw : Bool) (d a b c : SRef) (t : ElemType) (s : State) : Out := .next (vec (.vfms sw d a b c t) sw (shapeVfms d a b c t) s)
def shapeVfnma (d a b c : SRef) (t : ElemType) : VShape :=
  shape3 d a b c t notLg
    (ar3 (fun x y z => numAdd (numNeg (numMul x y)) z) fun x y z => -(x * y) + z)
def execVfnma (sw : Bool) (d a b c : SRef) (t : ElemType) (s : State) : Out := .next (vec (.vfnma sw d a b c t) sw (shapeVfnma d a b c t) s)
def shapeVfnms (d a b c : SRef) (t : ElemType) : VShape :=
  shape3 d a b c t notLg
    (ar3 (fun x y z => numAdd (numNeg (numMul x y)) (numNeg z)) fun x y z => -(x * y) - z)
def execVfnms (sw : Bool) (d a b c : SRef) (t : ElemType) (s : State) : Out := .next (vec (.vfnms sw d a b c t) sw (shapeVfnms d a b c t) s)

/-! Bitwise functions, shifts and compares (R299, R300). -/

/-- The count of an element shift: modulo the element's width. -/
def vCount (t : ElemType) (b : Nat) : Nat := b % (8 * esize t)

/-- An arithmetic right shift of an element of any integer type: copies of its top bit (R299). -/
def vSra (t : ElemType) (a b : Nat) : Nat :=
  let k := 8 * esize t
  ((sint k a / 2 ^ vCount t b) % 2 ^ k).toNat

def shapeVand (d a b : SRef) (t : ElemType) : VShape :=
  shape2 d a b t anyTy (fun _ _ x y => x &&& y)
def execVand (sw : Bool) (d a b : SRef) (t : ElemType) (s : State) : Out := .next (vec (.vand sw d a b t) sw (shapeVand d a b t) s)
def shapeVor (d a b : SRef) (t : ElemType) : VShape :=
  shape2 d a b t anyTy (fun _ _ x y => x ||| y)
def execVor (sw : Bool) (d a b : SRef) (t : ElemType) (s : State) : Out := .next (vec (.vor sw d a b t) sw (shapeVor d a b t) s)
def shapeVxor (d a b : SRef) (t : ElemType) : VShape :=
  shape2 d a b t anyTy (fun _ _ x y => x ^^^ y)
def execVxor (sw : Bool) (d a b : SRef) (t : ElemType) (s : State) : Out := .next (vec (.vxor sw d a b t) sw (shapeVxor d a b t) s)
def shapeVandn (d a b : SRef) (t : ElemType) : VShape :=
  shape2 d a b t anyTy (fun t _ x y => x &&& (2 ^ (8 * esize t) - 1 - y))
def execVandn (sw : Bool) (d a b : SRef) (t : ElemType) (s : State) : Out := .next (vec (.vandn sw d a b t) sw (shapeVandn d a b t) s)
def shapeVnot (d a : SRef) (t : ElemType) : VShape :=
  shape1 d a t anyTy (fun t _ x => 2 ^ (8 * esize t) - 1 - x)
def execVnot (sw : Bool) (d a : SRef) (t : ElemType) (s : State) : Out := .next (vec (.vnot sw d a t) sw (shapeVnot d a t) s)
def shapeVshl (d a b : SRef) (t : ElemType) : VShape :=
  shape2 d a b t eInt (fun t _ x y => x * 2 ^ vCount t y % 2 ^ (8 * esize t))
def execVshl (sw : Bool) (d a b : SRef) (t : ElemType) (s : State) : Out := .next (vec (.vshl sw d a b t) sw (shapeVshl d a b t) s)
def shapeVshr (d a b : SRef) (t : ElemType) : VShape :=
  shape2 d a b t eInt (fun t _ x y => x / 2 ^ vCount t y)
def execVshr (sw : Bool) (d a b : SRef) (t : ElemType) (s : State) : Out := .next (vec (.vshr sw d a b t) sw (shapeVshr d a b t) s)
def shapeVshra (d a b : SRef) (t : ElemType) : VShape :=
  shape2 d a b t eInt (fun t _ x y => vSra t x y)
def execVshra (sw : Bool) (d a b : SRef) (t : ElemType) (s : State) : Out := .next (vec (.vshra sw d a b t) sw (shapeVshra d a b t) s)

/-- A compare (R300): all ones or all zeros. -/
def cmpElem (ff : Num → Num → Bool) (fi : Int → Int → Bool) (t : ElemType) (o : Fmt) (a b : Nat) : Nat :=
  let r := if eFloat t then ff (fpDec t o.ftz a) (fpDec t o.ftz b) else fi (eVal t a) (eVal t b)
  if r then 2 ^ (8 * esize t) - 1 else 0

def shapeVceq (d a b : SRef) (t : ElemType) : VShape :=
  shape2 d a b t notLg (cmpElem numEq fun x y => x == y)
def execVceq (sw : Bool) (d a b : SRef) (t : ElemType) (s : State) : Out := .next (vec (.vceq sw d a b t) sw (shapeVceq d a b t) s)
def shapeVcne (d a b : SRef) (t : ElemType) : VShape :=
  shape2 d a b t notLg (cmpElem (fun x y => !numEq x y) fun x y => x != y)
def execVcne (sw : Bool) (d a b : SRef) (t : ElemType) (s : State) : Out := .next (vec (.vcne sw d a b t) sw (shapeVcne d a b t) s)
def shapeVclt (d a b : SRef) (t : ElemType) : VShape :=
  shape2 d a b t notLg (cmpElem (numLt false) fun x y => decide (x < y))
def execVclt (sw : Bool) (d a b : SRef) (t : ElemType) (s : State) : Out := .next (vec (.vclt sw d a b t) sw (shapeVclt d a b t) s)
def shapeVcle (d a b : SRef) (t : ElemType) : VShape :=
  shape2 d a b t notLg (cmpElem (fun x y => numLt false x y || numEq x y) fun x y => decide (x ≤ y))
def execVcle (sw : Bool) (d a b : SRef) (t : ElemType) (s : State) : Out := .next (vec (.vcle sw d a b t) sw (shapeVcle d a b t) s)

/-! Selection, permutes and moves (R301, R305 to R308): bytes are copied with their poison. -/

/-- The bytes of element `i` of a source, with their poison. -/
def vAt (z : Nat) (x : VSrc) (i : Nat) : List (Byte × Bool) := ((x.bytes.zip x.psn).drop (i * z)).take z

/-- A copying function from its elements, each a source's element and whether its selector is poisoned. -/
def vCopy (es : List (List (Byte × Bool) × Bool)) : List Byte × List Bool :=
  let l := es.flatMap fun (e, p) => e.map fun (b, q) => (b, q || p)
  (l.map (·.1), l.map (·.2))

/-- VSEL (R301). -/
def selF (z : Nat) : VFun := fun ss =>
  match ss with
  | [m, a, b] => vCopy ((span 0 (64 / z)).map fun i =>
      let e := vAt z m i
      (if e.any fun p => p.1 ≠ 0 then vAt z a i else vAt z b i, e.any (·.2)))
  | _ => ([], [])

/-- VPERM (R305). -/
def permF (z : Nat) : VFun := fun ss =>
  match ss with
  | [a, x, c] => vCopy ((span 0 (64 / z)).map fun i =>
      let j := (x.bytes.getD i 0).toNat % (2 * (64 / z))
      (if j < 64 / z then vAt z a j else vAt z c (j - 64 / z), x.psn.getD i false))
  | _ => ([], [])

/-- VBCAST, VROT (R306), VZIP and VUNZIP (R307), VMOV (R308). -/
def bcastF (z : Nat) : VFun := fun ss => vCopy ((span 0 (64 / z)).map fun _ => (vAt z (ss.headD ⟨[], []⟩) 0, false))
def rotF (z : Nat) : VFun := fun ss =>
  match ss with
  | [a, b] =>
    let k := leNat b.bytes % (64 / z)
    vCopy ((span 0 (64 / z)).map fun i => (vAt z a ((i + k) % (64 / z)), b.psn.any id))
  | _ => ([], [])
def zipF (z : Nat) : VFun := fun ss =>
  match ss with
  | [a, b] => vCopy ((span 0 (128 / z)).map fun i => (vAt z (if i % 2 = 0 then a else b) (i / 2), false))
  | _ => ([], [])
def unzipF (z : Nat) : VFun := fun ss =>
  vCopy ((span 0 (128 / z)).map fun i => (vAt z (ss.headD ⟨[], []⟩) (if i < 64 / z then 2 * i else 2 * (i - 64 / z) + 1), false))
def movF : VFun := fun ss => ((ss.headD ⟨[], []⟩).bytes, (ss.headD ⟨[], []⟩).psn)

def shapeVsel (d a b c : SRef) (t : ElemType) : VShape :=
  ⟨(tyOf t anyTy), (fun t _ => (⟨d, 64⟩, [⟨a, 64⟩, ⟨b, 64⟩, ⟨c, 64⟩], selF (esize t)))⟩
def execVsel (sw : Bool) (d a b c : SRef) (t : ElemType) (s : State) : Out := .next (vec (.vsel sw d a b c t) sw (shapeVsel d a b c t) s)
def shapeVperm (d a b c : SRef) (t : ElemType) : VShape :=
  ⟨(tyOf t anyTy), (fun t _ => (⟨d, 64⟩, [⟨a, 64⟩, ⟨b, 64 / esize t⟩, ⟨c, 64⟩], permF (esize t)))⟩
def execVperm (sw : Bool) (d a b c : SRef) (t : ElemType) (s : State) : Out := .next (vec (.vperm sw d a b c t) sw (shapeVperm d a b c t) s)
def shapeVbcast (d a : SRef) (t : ElemType) : VShape :=
  ⟨(tyOf t anyTy), (fun t _ => (⟨d, 64⟩, [⟨a, esize t⟩], bcastF (esize t)))⟩
def execVbcast (sw : Bool) (d a : SRef) (t : ElemType) (s : State) : Out := .next (vec (.vbcast sw d a t) sw (shapeVbcast d a t) s)
def shapeVrot (d a b : SRef) (t : ElemType) : VShape :=
  ⟨(tyOf t anyTy), (fun t _ => (⟨d, 64⟩, [⟨a, 64⟩, ⟨b, 8⟩], rotF (esize t)))⟩
def execVrot (sw : Bool) (d a b : SRef) (t : ElemType) (s : State) : Out := .next (vec (.vrot sw d a b t) sw (shapeVrot d a b t) s)
def shapeVzip (d a b : SRef) (t : ElemType) : VShape :=
  ⟨(tyOf t anyTy), (fun t _ => (⟨d, 128⟩, [⟨a, 64⟩, ⟨b, 64⟩], zipF (esize t)))⟩
def execVzip (sw : Bool) (d a b : SRef) (t : ElemType) (s : State) : Out := .next (vec (.vzip sw d a b t) sw (shapeVzip d a b t) s)
def shapeVunzip (d a : SRef) (t : ElemType) : VShape :=
  ⟨(tyOf t anyTy), (fun t _ => (⟨d, 128⟩, [⟨a, 128⟩], unzipF (esize t)))⟩
def execVunzip (sw : Bool) (d a : SRef) (t : ElemType) (s : State) : Out := .next (vec (.vunzip sw d a t) sw (shapeVunzip d a t) s)
def shapeVmov (d a : SRef) (t : ElemType) : VShape :=
  ⟨(tyOf t anyTy), (fun _ _ => (⟨d, 64⟩, [⟨a, 64⟩], movF))⟩
def execVmov (sw : Bool) (d a : SRef) (t : ElemType) (s : State) : Out := .next (vec (.vmov sw d a t) sw (shapeVmov d a t) s)
def shapeVzero (d : SRef) (t : ElemType) : VShape :=
  ⟨(tyOf t anyTy), (fun _ _ => (⟨d, 64⟩, [], vAll fun _ => List.replicate 64 0))⟩
def execVzero (sw : Bool) (d : SRef) (t : ElemType) (s : State) : Out := .next (vec (.vzero sw d t) sw (shapeVzero d t) s)

/-! Conversions (R302 to R304). -/

/-- One element from a type to another (R98, R102). -/
def cvtElem (st dt : ElemType) (o : Fmt) (a : Nat) : Nat :=
  if eFloat st then
    let x := fpDec st o.ftz a
    if eFloat dt then fpRnd dt o.ftz o.sat x
    else eFit dt true (numInt x)
  else if eFloat dt then fpRnd dt o.ftz o.sat (intNum (eVal st a))
  else eFit dt o.sat (eVal st a)

/-- The types of VCVT under FMT: source and destination (R296). -/
def cvtTypes (dt st : ElemType) (o : Fmt) : Option (ElemType × ElemType) :=
  let st := o.st.getD st
  let dt := o.dt.getD dt
  if st ≠ .lg6 && dt ≠ .lg6 then some (st, dt) else none

def shapeVcvt (d a : SRef) (dt st : ElemType) : VShape :=
  ⟨(fun o => (cvtTypes dt st o).map (·.2)), (fun dt o =>
    let st := o.st.getD st
    let n := 64 / max (esize st) (esize dt)
    (⟨d, n * esize dt⟩, [⟨a, n * esize st⟩], vAll fun ss =>
      vBytes (esize dt) ((vElems (esize st) (ss.headD [])).map (cvtElem st dt o))))⟩
def execVcvt (sw : Bool) (d a : SRef) (dt st : ElemType) (s : State) : Out := .next (vec (.vcvt sw d a dt st) sw (shapeVcvt d a dt st) s)

/-- VPACK6 (R303): DT may only name lg6. -/
def shapeVpack6 (d a b : SRef) (t : ElemType) : VShape :=
  ⟨(fun o =>
      let t := o.st.getD t
      if eFloat t && (o.dt = none || o.dt = some .lg6) then some t else none), (fun t o =>
    (⟨d, 64 / esize t⟩, [⟨a, 64⟩, ⟨b, 4⟩], vAll fun ss =>
      (vElems (esize t) (ss.headD [])).map fun e =>
        BitVec.ofNat 8 (lgPack o.nan o.ftz (fpDec t false e) (fpDec .fp32 false (leNat (ss.getD 1 []))))))⟩
def execVpack6 (sw : Bool) (d a b : SRef) (t : ElemType) (s : State) : Out := .next (vec (.vpack6 sw d a b t) sw (shapeVpack6 d a b t) s)

/-- VUNPK6 (R304): ST may only name lg6. -/
def shapeVunpk6 (d a b : SRef) (t : ElemType) : VShape :=
  ⟨(fun o =>
      let t := o.dt.getD t
      if eFloat t && (o.st = none || o.st = some .lg6) then some t else none), (fun t o =>
    (⟨d, 64⟩, [⟨a, 64 / esize t⟩, ⟨b, 4⟩], vAll fun ss =>
      vBytes (esize t) ((ss.headD []).map fun c =>
        fpRnd t o.ftz o.sat (fpDec .fp32 false
          (lgUnpack o.nan o.sat c.toNat (fpDec .fp32 false (leNat (ss.getD 1 []))))))))⟩
def execVunpk6 (sw : Bool) (d a b : SRef) (t : ElemType) (s : State) : Out := .next (vec (.vunpk6 sw d a b t) sw (shapeVunpk6 d a b t) s)

/-! Reductions (R309, R310). -/

/-- The reduction type (R294). -/
def redType (t : ElemType) : ElemType := if eFloat t then .fp32 else if eSigned t then .i64 else .n64

/-- An addition rounded to fp32. -/
def fAdd (o : Fmt) (a b : Num) : Num := fpDec .fp32 false (fpRnd .fp32 o.ftz o.sat (numAdd a b))

/-- An integer addition reduced to the reduction type. -/
def iAdd (t : ElemType) (o : Fmt) (a b : Int) : Int := eVal t (eFit t o.sat (a + b))

/-- The tree of a sum and its accumulator, as a pattern of the reduction type. -/
def redSum (t : ElemType) (o : Fmt) (acc : Nat) (fs : List Num) (is : List Int) : Nat :=
  if eFloat t then fpRnd .fp32 o.ftz o.sat (numAdd (fpDec .fp32 o.ftz acc) (tree (.fin false 0 0) (fAdd o) 8 fs))
  else
    let r := redType t
    eFit r o.sat (eVal r acc + tree 0 (iAdd r o) 8 is)

def shapeVrsum (d a b : SRef) (t : ElemType) : VShape :=
  ⟨(tyOf t notLg), (fun t o =>
    let r := esize (redType t)
    (⟨d, r⟩, [⟨a, 64⟩, ⟨b, r⟩], vAll fun ss =>
      let es := vElems (esize t) (ss.headD [])
      leBytes r (redSum t o (leNat (ss.getD 1 [])) (es.map (fpDec t o.ftz)) (es.map (eVal t)))))⟩
def execVrsum (sw : Bool) (d a b : SRef) (t : ElemType) (s : State) : Out := .next (vec (.vrsum sw d a b t) sw (shapeVrsum d a b t) s)

/-- VRMAX and VRMIN: the extreme of the accumulator and the elements (R309). -/
def shapeExt (d a b : SRef) (t : ElemType) (ff : Num → Num → Num) (fi : Int → Int → Int) : VShape :=
  ⟨tyOf t notLg, fun t o =>
    let z := esize t
    (⟨d, z⟩, [⟨a, 64⟩, ⟨b, z⟩], vAll fun ss =>
      let acc := leNat (ss.getD 1 [])
      leBytes z ((vElems z (ss.headD [])).foldl (fun m e => ar2 ff fi t o m e) (ar1 id (fun _ v => v) t o acc)))⟩

def shapeVrmax (d a b : SRef) (t : ElemType) : VShape :=
  shapeExt d a b t numMax max
def execVrmax (sw : Bool) (d a b : SRef) (t : ElemType) (s : State) : Out := .next (vec (.vrmax sw d a b t) sw (shapeVrmax d a b t) s)
def shapeVrmin (d a b : SRef) (t : ElemType) : VShape :=
  shapeExt d a b t numMin min
def execVrmin (sw : Bool) (d a b : SRef) (t : ElemType) (s : State) : Out := .next (vec (.vrmin sw d a b t) sw (shapeVrmin d a b t) s)

/-- A product of VRDOT (R310): exact for bf16 and fp16, rounded once for fp32. -/
def dotNum (t : ElemType) (o : Fmt) (a b : Nat) : Num :=
  let p := numMul (fpDec t o.ftz a) (fpDec t o.ftz b)
  if t = .fp32 then fpDec .fp32 false (fpRnd .fp32 o.ftz o.sat p) else p

def shapeVrdot (d a b c : SRef) (t : ElemType) : VShape :=
  ⟨(tyOf t notLg), (fun t o =>
    let r := redType t
    (⟨d, esize r⟩, [⟨a, 64⟩, ⟨b, 64⟩, ⟨c, esize r⟩], vAll fun ss =>
      let ps := (vElems (esize t) (ss.headD [])).zip (vElems (esize t) (ss.getD 1 []))
      leBytes (esize r) (redSum t o (leNat (ss.getD 2 [])) (ps.map fun p => dotNum t o p.1 p.2)
        (ps.map fun p => eVal r (eFit r o.sat (eVal t p.1 * eVal t p.2))))))⟩
def execVrdot (sw : Bool) (d a b c : SRef) (t : ElemType) (s : State) : Out := .next (vec (.vrdot sw d a b c t) sw (shapeVrdot d a b c t) s)

/-! Results whose sources have come (R289). -/

/-- The shape of a vector instruction. -/
def vecShape : Instr → Option VShape
  | .vadd _ d a b t => some (shapeVadd d a b t)
  | .vsub _ d a b t => some (shapeVsub d a b t)
  | .vmul _ d a b t => some (shapeVmul d a b t)
  | .vdiv _ d a b t => some (shapeVdiv d a b t)
  | .vmin _ d a b t => some (shapeVmin d a b t)
  | .vmax _ d a b t => some (shapeVmax d a b t)
  | .vabs _ d a t => some (shapeVabs d a t)
  | .vneg _ d a t => some (shapeVneg d a t)
  | .vsqrt _ d a t => some (shapeVsqrt d a t)
  | .vfma _ d a b c t => some (shapeVfma d a b c t)
  | .vfms _ d a b c t => some (shapeVfms d a b c t)
  | .vfnma _ d a b c t => some (shapeVfnma d a b c t)
  | .vfnms _ d a b c t => some (shapeVfnms d a b c t)
  | .vand _ d a b t => some (shapeVand d a b t)
  | .vor _ d a b t => some (shapeVor d a b t)
  | .vxor _ d a b t => some (shapeVxor d a b t)
  | .vandn _ d a b t => some (shapeVandn d a b t)
  | .vnot _ d a t => some (shapeVnot d a t)
  | .vshl _ d a b t => some (shapeVshl d a b t)
  | .vshr _ d a b t => some (shapeVshr d a b t)
  | .vshra _ d a b t => some (shapeVshra d a b t)
  | .vceq _ d a b t => some (shapeVceq d a b t)
  | .vcne _ d a b t => some (shapeVcne d a b t)
  | .vclt _ d a b t => some (shapeVclt d a b t)
  | .vcle _ d a b t => some (shapeVcle d a b t)
  | .vsel _ d a b c t => some (shapeVsel d a b c t)
  | .vperm _ d a b c t => some (shapeVperm d a b c t)
  | .vbcast _ d a t => some (shapeVbcast d a t)
  | .vrot _ d a b t => some (shapeVrot d a b t)
  | .vzip _ d a b t => some (shapeVzip d a b t)
  | .vunzip _ d a t => some (shapeVunzip d a t)
  | .vmov _ d a t => some (shapeVmov d a t)
  | .vzero _ d t => some (shapeVzero d t)
  | .vcvt _ d a dt st => some (shapeVcvt d a dt st)
  | .vpack6 _ d a b t => some (shapeVpack6 d a b t)
  | .vunpk6 _ d a b t => some (shapeVunpk6 d a b t)
  | .vrsum _ d a b t => some (shapeVrsum d a b t)
  | .vrmax _ d a b t => some (shapeVrmax d a b t)
  | .vrmin _ d a b t => some (shapeVrmin d a b t)
  | .vrdot _ d a b c t => some (shapeVrdot d a b c t)
  | _ => none

/-- The result of a waiting execution once every access that brings a source word has been performed. -/
def vecResult (s : State) (p : VPend) : VRes :=
  let word := fun (w : Option Nat × List Byte × List Bool) =>
    match w.1 with
    | none => some w.2
    | some u => (s.flight.find? (·.uid == u)).bind fun a =>
      match a.st with
      | .done v q => some (v, v.map fun _ => q)
      | _ => none
  let srcs := p.srcs.map fun l => l.map word
  if srcs.all (·.all Option.isSome) then
    (vecShape p.ins).bind fun v => (v.ty (fmtWord p.hsw)).map fun t =>
      (v.go t (fmtWord p.hsw)).2.2 (srcs.map fun l =>
        ⟨(l.filterMap id).flatMap (·.1), (l.filterMap id).flatMap (·.2)⟩)
  else none

/-- A waiting execution of a hart is made: its source accesses leave, its results have their values, and its writes go on
their way (R289). -/
def vecMake (s : State) (h : Nat) (p : VPend) (r : List Byte × List Bool) : State :=
  let us := p.srcs.flatMap fun l => l.filterMap (·.1)
  let q := s.flight.any fun a => us.contains a.uid && (match a.st with | .done _ b => b | _ => false)
  let psn := q || p.srcs.any fun l => l.any fun w => w.1.isNone && w.2.2.any id
  let cells := p.writes.flatMap fun w => ((s.flight.find? (·.uid == w.1)).map fun a => a.pas.zip w.2).getD []
  let fl := (s.flight.filter fun a => !us.contains a.uid).map fun a =>
    match p.writes.find? (·.1 == a.uid) with
    | none => a
    | some w => { a with op := .store (w.2.map fun i => r.1.getD i 0), psn := resPsn (some r) w.2, st := .flying
                         wide := sweeps cells (some r) (a.pas.headD 0) }
  modSlot (notePsn { s with flight := fl } h psn) h fun x => { x with
    vpend := x.vpend.filter (·.uid ≠ p.uid)
    outs := x.outs.map fun o => if o.vec = some p.uid then
        (if o.src.isSome then { o with vec := none }
         else { o with vec := none, val := some r.1, psn := resPsn (some r) (o.dest.map (·.2)) })
      else o }

/-- The waiting execution whose result outstanding result `i` of a hart is. -/
def vecOf (s : State) (h i : Nat) : Option VPend :=
  (getSlot s h).outs[i]?.bind fun o => o.vec.bind fun u => (getSlot s h).vpend.find? (·.uid == u)

end Sys2Proof.Machine
end

