-- ==== Sys2Proof/Machine/Fetch.lean ====
section
/-! DEFINITION. Fetching an instruction word (R84, R216, R358) and choosing the next thing a step does: an event of the
agenda, the instruction of an issuing hart (R16, R18), or what is due at that hart's boundary (R19, R216, R217, R355). -/

namespace Sys2Proof.Machine

/-- A cluster-cache line that the core's fetches may use: filled after the core's last ICINV (R358). -/
def fetchLine (s : State) (core key pa : Nat) : Option Line :=
  clLine s (clusterOf core) key (getCore s core).icAt pa

/-- The bytes of a cacheable fetch, from the instruction cache, the cluster cache, or the home slice, and the caches
after (R84, R358, R433). -/
def cachedFetch (s : State) (core key : Nat) (pas : List Nat) : List Byte × State :=
  match fromLines (lineAt (getCore s core).icache 32 key s.cycle (s.cycle + 1)) pas with
  | some (bs, _) => (bs, modCore s core fun c => { c with icache := touchLines c.icache (bases 32 pas) key })
  | none =>
    let base := pas.headD 0 / 32 * 32
    let l := match fetchLine s core key base with
      | some l => l.part base s.cycle
      | none => homeLine s base 32 key
    let s := match fetchLine s core key base with
      | some _ => s
      | none =>
        if cWays s (clusterOf core) = 0 then s
        else modCluster s (clusterOf core) fun c =>
          { c with ccache := fillLine c.ccache (homeLine s (base / 256 * 256) 256 key) cSet (cWays s (clusterOf core)) s.cycle cLife }
    (pas.map fun a => l.bytes.getD (a - base) 0,
      modCore s core fun c => { c with icache := fillLine c.icache l dSet 4 s.cycle (s.cycle + 1) })

/-- Has the place of a fetch instruction storage: not a register block, an absent module, or a bank in cache or FIFO
mode (R74, R75, R80; log 8)? -/
def fetchable (s : State) (x : Xl) : Bool :=
  answers s (moduleOf x.pa) &&
  (match targetOf (offsetOf x.pa) with
   | .hbm | .scratch _ => true
   | .sram _ => moduleOf x.pa ≠ s.module || (bankModes s [x.pa]).all (· = 0)
   | _ => false)

/-- Does a hart's next fetch wait for the mode change of the bank it reads (R83), or for a KEYCMD (R414)? -/
def fetchWaits (s : State) (h : Nat) : Bool :=
  match xlate s (who s h) (getSlot s h).pc.toNat .fetch with
  | .error _ => false
  | .ok x => (pendBank s [x.pa]).isSome || keyHeld s [(x.pa, x.key)]

/-- FETCH of the word at a hart's PC: the word and the state after, or the fetch fault (R216). -/
def fetchWord (s : State) (h : Nat) : Except Trap (IWord × State) :=
  let pc := (getSlot s h).pc
  if let some (_, v) := (getSlot s h).entryFault.filter fun f => f.1 == pc then .error (trap .accessFault 2 v)
  else if pc.toNat % 4 ≠ 0 then .error (trap .misaligned 0 pc)
  else
    match xlate s (who s h) pc.toNat .fetch with
    | .error t => .error t
    | .ok x =>
      if !fetchable s x then .error (trap .accessFault 0 pc)
      else
        let s := tlbFill s (who s h) pc.toNat
        let pas := span x.pa 4
        let r := if x.cache then cachedFetch s (coreOf h) x.key pas else (rdBytes s x.key pas, s)
        .ok (BitVec.ofNat 32 (leNat r.1), r.2)

/-- The row that the word at a hart's PC runs: its instruction, or UNASSIGNED_ENCODING, or FETCH_FAULT. -/
def nextInstr (s : State) (h : Nat) : Instr × State :=
  match fetchWord s h with
  | .error _ => (.fetchFault, s)
  | .ok (w, s') =>
    match decodeWord w.toNat with
    | .ok i => (i, s')
    | .error _ => (.unassignedEncoding w, s')

/-- May the core issue: it is not stopped by the thermal trip (R432)? -/
def mayIssue (s : State) (core : Nat) : Bool := !s.fab.stopped && decide (core < 2048)

/-- The hart of a core that issues: the ISSUING one, or the first READY one in rotation, one whose fetch waits for a bank
aside (R18, R83). -/
def issuer (s : State) (core : Nat) : Option Nat :=
  if !mayIssue s core then none
  else
    let hs := (rotation (getCore s core).lastSlot).map (core * 4 + ·)
    match hs.find? fun h => (getSlot s h).st = .issuing with
    | some h => if fetchWaits s h then none else some h
    | none => hs.find? fun h => (getSlot s h).st = .ready && !fetchWaits s h

/-- Give issue to a hart (R18): a turn begins when it was READY. -/
def giveIssue (s : State) (h : Nat) : State :=
  let s := { s with cur := h }
  if (getSlot s h).st = .ready then
    modCore (modSlot s h fun x => { x with st := .issuing, since := s.cycle }) (coreOf h) fun c => { c with lastSlot := h % 4 }
  else s

/-- What an issuing hart does next: at a boundary a pending asynchronous trap, an enabled interrupt, the timer, or a
forced park that is due; else the instruction at its PC (R19, R216, R355). -/
def hartStep (s : State) (h : Nat) : Instr × State :=
  if (asyncTrap s h).isSome then (.asyncTrapEntry h, s)
  else if !(getSlot s h).inside && (pendingInt s h).isSome then (.interruptEntry h, s)
  else if s.cycle ≥ (getSlot s h).since + 4096 then (.forcedPark (coreOf h), s)
  else if (getSlot s h).timecmp.toNat ≤ s.cycle && !(getSlot s h).timDone then (.timerInterrupt h, s)
  else nextInstr s h

/-- The cores with a hart that may issue, in rising order. -/
def issuers (s : State) : List Nat :=
  ((s.slots.filter fun x => x.2.st = .issuing || x.2.st = .ready).map fun x => coreOf x.1).eraseDups.filter fun c =>
    (issuer s c).isSome

/-- The core that issues when the schedule names none: the next one after the last in rising order. -/
def nextCore (s : State) : Option Nat :=
  match (issuers s).find? fun c => coreOf s.cur < c with
  | some c => some c
  | none => (issuers s).head?

/-- Time passes: one cycle, or as many as the schedule says (log 4), none for steps of one cycle; one open choice is used up, and the soft error that
the schedule has now, if it has one, is detected (R94; log 93). -/
def tick (s : State) : State :=
  let s := match s.sched.errors with
    | some e :: _ => softError s e
    | _ => s
  { s with cycle := s.cycle + s.sched.stalls.headD 1
           sched := { s.sched with
             phase := if s.sched.stalls.headD 1 = 0 then s.sched.phase else 0
             stalls := s.sched.stalls.drop 1, choices := s.sched.choices.drop 1, errors := s.sched.errors.drop 1 } }

/-! Steps at the boundary of a hart. -/

/-- RESULT_RETURN (R16, R17, R289): outstanding result `i` of hart `h` is written, if it is there; one of a vector execution
comes to be there once all its source words have come. -/
def execResultReturn (h i : Nat) (s : State) : Out :=
  .next (match vecOf s h i with
  | none => returnResult s h i
  | some p =>
    match vecResult s p with
    | none => s
    | some r => vecMake s h p r)

/-- FORCED_PARK (R19): the issuing hart parks as though its last instruction had been marked; counted in the
forced-park counter (R378). -/
def execForcedPark (core : Nat) (s : State) : Out :=
  .next (match (rotation (getCore s core).lastSlot).map (core * 4 + ·) |>.find? fun h => (getSlot s h).st = .issuing with
  | none => s
  | some h =>
    if s.cycle < (getSlot s h).since + 4096 then s
    else modSlot (bumpCl s (clusterOf core) (0x600 + core % 16 * 8) 1) h fun x => { x with st := .parked .results none })

/-- May a hart take an interrupt now: between instructions with no asynchronous trap pending, or in a wait that is no
park (R20, R216)? -/
def atBoundary (s : State) (h : Nat) : Bool :=
  match (getSlot s h).st with
  | .issuing | .ready => !(getSlot s h).inside && (asyncTrap s h).isNone
  | .waiting _ => true
  | _ => false

/-- Take the pending enabled interrupt of a hart, its wait withdrawn (R20, R216, R218). -/
def takeInterrupt (s : State) (h : Nat) : State :=
  match pendingInt s h with
  | none => s
  | some k =>
    let v := intValue s h k
    let s := withdraw s h
    let i := match k with
      | .wake => 8
      | .timer => 9
      | _ => 10
    let s := modHsw s h fun w => setBit w i false
    takeTrap s h ⟨k, 0, false, v⟩ (getSlot s h).pc

/-- INTERRUPT_ENTRY (R20, R21, R82, R216): at a boundary, or in a wait. A full/empty access, in a controller or at
a FIFO, is cancelled first, and the interrupt is taken when the answer comes. A hart that its barrier or vote has
released takes it after the instruction (R193, R194). -/
def execInterruptEntry (h : Nat) (s : State) : Out :=
  .next (
    if !atBoundary s h || (pendingInt s h).isNone || wireReleased s h then s
    else
      match (getSlot s h).st with
      | .waiting (.memory u) =>
        if s.flight.any (·.uid = u) then
          modSlot s h fun x => { x with cancel := true }
        else takeInterrupt s h
      | _ => takeInterrupt s h)

/-- CANCEL_ANSWER (R21): the access was not performed, so its entry is removed and the interrupt is taken. An access
that was performed has ended its wait, and the interrupt is taken at the next boundary. -/
def execCancelAnswer (h : Nat) (s : State) : Out :=
  .next (match (getSlot s h).st with
  | .waiting (.memory _) => if (getSlot s h).cancel then takeInterrupt s h else s
  | _ => s)

/-- ASYNC_TRAP_ENTRY (R216, R217, R223, R224, R262): the oldest refused entry of the frame, else the oldest pending
fault, is taken at a boundary, and the entry is freed. -/
def execAsyncTrapEntry (h : Nat) (s : State) : Out :=
  .next (
    let ready := match (getSlot s h).st with
      | .issuing | .ready => true
      | _ => false
    if !ready then s
    else
      match asyncTrap s h with
      | none => s
      | some t =>
        let s := match refusedEntry s h with
          | some e => modPools s fun l => l.erase e
          | none => dropLate s h
        takeTrap s h t (getSlot s h).pc)

/-- TIMER_INTERRUPT (R355): CYCLE has reached TIMECMP; IPTIM sets, once for each value of TIMECMP. -/
def execTimerInterrupt (h : Nat) (s : State) : Out :=
  .next (if (getSlot s h).timecmp.toNat ≤ s.cycle && !(getSlot s h).timDone then
    modSlot (setPending s h 9) h fun x => { x with timDone := true } else s)

/-- UNASSIGNED_ENCODING (R256): ILLEGAL_INSTRUCTION with the word. -/
def execUnassignedEncoding (w : IWord) (s : State) : Out :=
  .next (match decodeWord w.toNat with
  | .ok _ => s
  | .error _ => raise s (trap .illegal 0 (w.setWidth 64)))

/-- FETCH_FAULT (R216): the fault of the fetch at the PC. -/
def execFetchFault (s : State) : Out :=
  .next (match fetchWord s s.cur with
  | .error t => raise s t
  | .ok _ => s)

end Sys2Proof.Machine
end

