-- ==== Sys2Proof/Machine/Firmware.lean ====
section
/-! DEFINITION. Reset and secure boot (R416, R433), the SPDM responder (R417), and the update of the firmware (R418,
R419). -/

namespace Sys2Proof.Machine

/-! Images. -/

/-- The 64-bit word of an image at a byte offset. -/
def imgWord (img : List Byte) (o : Nat) : Word := ofBytes ((img.drop o).take 8)

/-- Are the bytes of an image from `o` on zero? -/
def imgZero (img : List Byte) (o n : Nat) : Bool := ((img.drop o).take n).all (· = 0)

/-- The acceptance of an image (R416): MAGIC and reserved bytes, the key, the signature, the body's digest, SVN. Digests and
numbers of signatures stand most significant byte first, as their standards have them (log 110). -/
def imgOk (s : State) (img : List Byte) : Bool :=
  let idx := fld (imgWord img 0x28) 1 0
  let key := (img.drop 0xC0).take 97
  decide (0x200 ≤ img.length) && imgWord img 0 = 0x4B4E534446570001 &&
  fld (imgWord img 0x10) 63 6 = 0 && fld (imgWord img 0x28) 63 2 = 0 && fld (imgWord img 0x128) 63 16 = 0 &&
  imgZero img 0x121 7 && imgZero img 0x130 0xD0 &&
  beNat (sha384 key) = (Config.fusedKeyHash idx).toNat && !Config.keyRevoked idx &&
  ecdsaVerify key (sha384 (img.take 0x60)) ((img.drop 0x60).take 96) &&
  sha384 (imgBody img) = (img.drop 0x30).take 48 &&
  decide (s.tr.svn ≤ fld (imgWord img 0x10) 5 0)

/-- The image of a slot of the boot flash. -/
def slotImage (s : State) (n : Nat) : List Byte := tget [] s.tr.flash n

/-- The boot of a slot: STATE is running, and the threads enter its image (R416). -/
def bootSlot (s : State) (n : Nat) : State :=
  remap (enterImage (modTr s fun t => { t with active := n, fw := .running, booted := true, quiesce := false }))

/-- SECURE_BOOT (R416): at reset, or in recovery when an image has been written, the active slot is tried, then the
other; when both fail STATE is recovery, in which no firmware runs. -/
def execSecureBoot (s : State) : Out :=
  .next (if s.tr.booted && s.tr.fw ≠ .recovery then s
  else if imgOk s (slotImage s s.tr.active) then bootSlot s s.tr.active
  else if imgOk s (slotImage s (1 - s.tr.active)) then bootSlot s (1 - s.tr.active)
  else modTr s fun t => { t with fw := .recovery, booted := true, quiesce := true })

/-- RESET (R88, R433): the state of `State.reset`. What is no state of the module's logic stays: its number and the pod's
populated set, the boot flash with ACTIVE and SVNFLOOR, what the sensors measure, and the schedule. -/
def execReset (s : State) : Out :=
  .next { State.reset with
    module := s.module, populated := s.populated, sched := s.sched
    tr := { State.reset.tr with flash := s.tr.flash, active := s.tr.active, svn := s.tr.svn }
    fab := { State.reset.fab with power := s.fab.power, temp := s.fab.temp, flow := s.fab.flow, inlet := s.fab.inlet } }

/-- Is a LAUNCH or a graph's launch being submitted (R403, R418)? -/
def submitting (s : State) : Bool :=
  s.tr.graphs.any (fun g => g.2.busy.isSome) || s.tr.cqs.any fun e => e.2.pend.any (·.begun)

/-- What the hand-over record says of a queue (R418): its registers and mapping, its indirect buffers, and the packet that its
thread is blocked at. -/
def queueRecord (q : Nat) (c : CmdQueue) : List Nat :=
  [q, c.base, c.cfg.toNat, c.wptr, c.rptr, b2n c.latch, c.st.code, c.thread, c.fault, c.faultAt, c.stack.length] ++
  c.stack.flatMap (fun b => [b.va, b.left, b.whr, b2n b.notify]) ++
  (match c.pend with
   | none => [0]
   | some p => [1, p.typ, p.flags, p.whr, p.words.length] ++ p.words.map BitVec.toNat)

/-- The contents of the hand-over record (R418): its version, the queues, the runnable list, the tags in use, the graph slots and
SEQ. -/
def recordContents (s : State) (version : Nat) : List Nat :=
  let counted := fun (l : List Nat) => l.length :: l
  [version, s.tr.seq, s.tr.cqs.length] ++ s.tr.cqs.flatMap (fun e => queueRecord e.1 e.2) ++ counted s.tr.runlist ++
  counted (s.ks.launches.map (·.tag)) ++ [s.tr.graphs.length] ++
  s.tr.graphs.flatMap fun g => [g.1, g.2.asid, g.2.nodes.length] ++ g.2.nodes.flatten.map BitVec.toNat

/-- Write the hand-over record to its area of HBM (R418; log 111). -/
def writeRecord (s : State) (version : Nat) : State :=
  let bs := Config.handoverBytes (recordContents s version)
  putBytes s 0 ((span (s.module * 2 ^ 41 + Config.handoverBase % 2 ^ 39) bs.length).zip bs) false

/-- The threads stand at packet boundaries; one blocked at a packet stands before it, to resume at its header (R400, R418). -/
def quiesce (s : State) : State :=
  modTr s fun t => { t with
    quiesce := true
    cqs := t.cqs.map fun (q, c) => (q, if c.st = .waiting then { c with st := .mapped, pend := none } else c) }

/-- FIRMWARE_UPDATE (R417, R418): inside a secured session the image in the inactive slot is verified, and refused if it fails;
else, once every thread is at a packet boundary, the record is written under the running image's HOVER and the new image is
entered on trial. -/
def execFirmwareUpdate (s : State) : Out :=
  .next (if s.tr.fw ≠ .running || s.tr.spdm ≠ .ready || !imgOk s (slotImage s (1 - s.tr.active)) || submitting s then s
  else
    let v := hover (activeImage s)
    enterImage (modTr (quiesce (writeRecord s v)) fun t => { t with
      handover := some v, active := 1 - t.active, fw := .trial, trialAt := s.cycle }))

/-- SVNFLOOR_RAISE (R419): only after an update has completed, not during a trial, and only upwards. -/
def execSvnfloorRaise (v : Nat) (s : State) : Out :=
  .next (if s.tr.updated && s.tr.fw = .running && s.tr.svn < v && v < 64 then modTr s fun t => { t with svn := v } else s)

/-! The SPDM responder (R417). -/

/-- The measurements by index (R417): the boot ROM's digest, the running body's, IMGVER and SVN, HOVER. -/
def measurements (s : State) : List (Nat × List Byte) :=
  let img := activeImage s
  [(1, beBytes 48 Config.romDigest.toNat), (2, sha384 (imgBody img)),
   (3, leBytes 4 (imgVer img) ++ leBytes 1 (fld (imgWord img 0x10) 5 0)), (4, leBytes 2 (hover img))]

/-- The order of the responder's states. -/
def SpdmSt.rank : SpdmSt → Nat
  | .start => 0 | .version => 1 | .caps => 2 | .algs => 3 | .session => 4 | .ready => 5

/-- A byte of a message. -/
def msgByte (msg : List Byte) (i : Nat) : Nat := (msg.getD i 0).toNat

/-- Is a message a request of a code in its version: 1.3, or 1.0 for GET_VERSION itself (R417; log 112)? -/
def requestOf (code : Nat) (msg : List Byte) : Bool :=
  decide (4 ≤ msg.length) && msgByte msg 1 = code && msgByte msg 0 = if code = 0x84 then 0x10 else 0x13

/-- AN SPDM REQUEST: one of its code that comes in its order, offers what it must and verifies is answered, moves the responder on
and joins the transcript; any other is answered by an error. -/
def spdm (s : State) (code : Nat) (msg : List Byte) (ok : SpdmSt → Bool) (ans : SpdmAnswer) (f : Trestle → Trestle) : State :=
  if requestOf code msg && ok s.tr.spdm && Config.spdmAccepts msg s.tr.transcript then
    modTr (cpSend s (.answer ans)) fun t => { f t with transcript := (f t).transcript ++ msg }
  else cpSend s (.answer .error)

/-- The responder's signature over what has been said. -/
def signed (s : State) (msg : List Byte) : List Byte := Config.deviceSign s.tr.transcript msg

/-- GET_VERSION begins a negotiation anew; the version is 1.3. -/
def execGetVersion (msg : List Byte) (s : State) : Out :=
  .next (spdm s 0x84 msg (fun _ => true) (.version 1 3) fun t => { t with spdm := .version, transcript := [] })

/-- GET_CAPABILITIES: what R417 lists. -/
def execGetCapabilities (msg : List Byte) (s : State) : Out :=
  .next (spdm s 0xE1 msg (· == .version) (.capabilities true true true true true) fun t => { t with spdm := .caps })

/-- NEGOTIATE_ALGORITHMS: with ECDSA P-384 and SHA-384 only; a host that offers them not is refused. -/
def execNegotiateAlgorithms (msg : List Byte) (s : State) : Out :=
  .next (spdm s 0xE3 msg (fun x => x == .caps && (msgByte msg 8).testBit 7 && (msgByte msg 12).testBit 1)
    (.algorithms .ecdsaP384 .sha384 .aes256Gcm) fun t => { t with spdm := .algs })

/-- The requests that need the algorithms and leave the responder's state. -/
def spdmQuery (s : State) (code : Nat) (msg : List Byte) (ans : SpdmAnswer) : State :=
  spdm s code msg (fun x => 3 ≤ x.rank) ans id

def execGetDigests (msg : List Byte) (s : State) : Out :=
  .next (spdmQuery s 0x81 msg (.digests (BitVec.ofNat 384 (beNat (sha384 Config.deviceChain)))))
def execGetCertificate (msg : List Byte) (s : State) : Out := .next (spdmQuery s 0x82 msg (.certificate Config.deviceChain))
def execChallenge (msg : List Byte) (s : State) : Out := .next (spdmQuery s 0x83 msg (.challengeAuth (signed s msg)))

/-- GET_MEASUREMENTS: of the index that it names, or, for 255, all. -/
def execGetMeasurements (msg : List Byte) (s : State) : Out :=
  .next (spdmQuery s 0xE0 msg
    (.measurements ((measurements s).filter fun m => msgByte msg 3 = 255 || m.1 = msgByte msg 3) (signed s msg)))

/-- KEY_EXCHANGE opens a session, with its secret. -/
def execKeyExchange (msg : List Byte) (s : State) : Out :=
  .next (spdm s 0xE4 msg (fun x => 3 ≤ x.rank) (.keyExchange (Config.keyShare s.tr.transcript msg) (signed s msg)) fun t =>
    { t with spdm := .session, secret := Config.spdmSecret msg s.tr.transcript, secSeq := 0 })

/-- FINISH completes it. -/
def execFinish (msg : List Byte) (s : State) : Out :=
  .next (spdm s 0xE5 msg (· == .session) .finish fun t => { t with spdm := .ready })

/-- Image data written to the inactive slot of the boot flash, which holds a header and up to 16 MiB. -/
def flashWrite (s : State) (o : Nat) (bs : List Byte) : State :=
  if 0x1000200 < o + bs.length then s
  else
    let old := slotImage s (1 - s.tr.active)
    let old := old ++ List.replicate (o - old.length) 0
    modTr s fun t => { t with flash := tput (1 - t.active) (old.take o ++ bs ++ old.drop (o + bs.length)) t.flash }

/-- A secured message of the session opened: AES-256-GCM under the session's key, its nonce that of the session with the message's
number (R417; log 112). -/
def openSecured (s : State) (data : List Byte) : Option (List Byte) :=
  if s.tr.spdm ≠ .ready then none
  else
    gcmOpen (Config.sessionKey s.tr.secret) (beBytes 12 (Config.sessionNonce s.tr.secret ^^^ s.tr.secSeq)) [] data

/-- SECURED_MESSAGE (R417): inside a session, the keys of slot `n` (a KEYCMD load by the firmware, R414), or image data at
byte `n` of the inactive slot. -/
def execSecuredMessage (key : Bool) (n : Nat) (data : List Byte) (s : State) : Out :=
  .next (match openSecured s data with
  | none => s
  | some bs =>
    let s := modTr s fun t => { t with secSeq := t.secSeq + 1 }
    if !key then flashWrite s n bs
    else if bs.length ≠ 64 || n = 0 || 8191 < n || s.tr.keyCmd.isSome || s.tr.fw = .recovery then s
    else modTr s fun t => { t with keyCmd := some (n, (span 0 8).map fun i => ofBytes ((bs.drop (8 * i)).take 8)) })

end Sys2Proof.Machine
end

