-- ==== Sys2Proof/Machine/Mask.lean ====
section
/-! DEFINITION. The mask unit (R148 to R165, R325, R326): mask programs, tile classification, element masks, counters and
KVCOMMIT. -/

namespace Sys2Proof.Machine

/-! Contexts (R148, R149). -/

/-- A mask context. -/
def getMask (s : State) (cl c : Nat) : MaskCtx := tget {} (getCluster s cl).mctx c

/-- Change a mask context. -/
def modMask (s : State) (cl c : Nat) (f : MaskCtx → MaskCtx) : State :=
  modCluster s cl fun k => { k with mctx := tmod {} c f k.mctx }

/-- MASK_PROGRAM (R152). -/
def maskTrap (reason whr off : Nat) : Trap := trap .maskProgram 0 (wd (reason * 2 ^ 60 + whr * 2 ^ 54 + off % 2 ^ 32))

/-- The run that holds a position, if it has a document (R149). -/
def docOf (m : MaskCtx) (p : Nat) : Option Nat :=
  if m.limit ≤ p then none else ((m.segs.filter fun r => r.1 ≤ p).getLast?).map (·.2)

/-- PRE and POST of a tree entry that is a node. -/
def nodeEntry (e : Nat) : Option (Nat × Nat) := if flag e 31 then some (bits e 0 12, bits e 16 12) else none

/-- The tree numbers of a position that is a node (R149). -/
def nodeOf (m : MaskCtx) (p : Nat) : Option (Nat × Nat) :=
  if p < m.tbase then none else (m.tree[p - m.tbase]?).bind nodeEntry

/-- The nodes of a range of positions. -/
def nodesIn (m : MaskCtx) (lo hi : Nat) : List (Nat × Nat) :=
  let a := max lo m.tbase
  let b := min (hi + 1) (m.tbase + m.tree.length)
  (span a (b - a)).filterMap (nodeOf m)

/-! Instructions (R151). -/

/-- The fields of an instruction: OP, D, X, Y, Z. -/
def mOp (i : BitVec 16) : Nat := bits i.toNat 12 4
def mD (i : BitVec 16) : Nat := bits i.toNat 9 3
def mX (i : BitVec 16) : Nat := bits i.toNat 6 3
def mY (i : BitVec 16) : Nat := bits i.toNat 3 3
def mZ (i : BitVec 16) : Nat := bits i.toNat 0 3

/-- Which of the fields D, X, Y, Z an opcode uses (R151); none for an illegal one. -/
def mUses (op : Nat) : Option (Bool × Bool × Bool × Bool) :=
  match op with
  | 1 | 2 | 11 => some (true, true, false, false)
  | 3 | 4 | 8 | 9 | 10 => some (true, true, true, false)
  | 5 | 6 | 7 | 13 => some (true, false, false, false)
  | 12 => some (true, true, true, true)
  | 14 => some (false, true, false, false)
  | _ => none

/-- The predicates that an instruction reads. -/
def mReads (i : BitVec 16) : List Nat :=
  match mOp i with
  | 8 | 9 | 10 => [mX i, mY i]
  | 11 | 14 => [mX i]
  | 12 => [mX i, mY i, mZ i]
  | _ => []

/-- The checks of the instructions in ascending order: the first failure's reason and instruction (R152). -/
def mCheck (nseg ntree n : Nat) : List (BitVec 16) → Nat → List Nat → Option (Nat × Nat)
  | [], _, _ => none
  | i :: r, k, written =>
    match mUses (mOp i) with
    | none => some (2, k)
    | some (d, x, y, z) =>
      if (!d && mD i ≠ 0) || (!x && mX i ≠ 0) || (!y && mY i ≠ 0) || (!z && mZ i ≠ 0) || ((mOp i = 14) ≠ (k + 1 = n)) then
        some (2, k)
      else if (mReads i).any fun p => !written.contains p then some (3, k)
      else if (mOp i = 5 && nseg = 0) || ((mOp i = 6 || mOp i = 7 || mOp i = 13) && ntree = 0) then some (4, k)
      else mCheck nseg ntree n r (k + 1) (if d then mD i :: written else written)

/-- A constant of a context. -/
def mConst (m : MaskCtx) (k : Nat) : Int := (m.consts.getD k 0).toInt

/-- The element rule of an instruction (R151), from the predicates before it. -/
def mElem (m : MaskCtx) (q k : Nat) (p : List Bool) (i : BitVec 16) : Bool :=
  let a := p.getD (mX i) false
  let b := p.getD (mY i) false
  let cx := mConst m (mX i)
  let cy := mConst m (mY i)
  match mOp i with
  | 1 => cx ≤ (q : Int) - k
  | 2 => (q : Int) - k < cx
  | 3 => cx ≤ k && (k : Int) < cy
  | 4 => cx ≤ q && (q : Int) < cy
  | 5 => (docOf m q).isSome && docOf m q = docOf m k
  | 6 =>
    (match nodeOf m q, nodeOf m k with
     | some (qp, qo), some (kp, ko) => kp ≤ qp && qo ≤ ko
     | _, _ => false)
  | 7 => (nodeOf m k).isSome
  | 8 => a && b
  | 9 => a || b
  | 10 => a && !b
  | 11 => !a
  | 12 => if a then b else p.getD (mZ i) false
  | 13 => (nodeOf m q).isSome
  | _ => a

/-- The result of a program for one element. -/
def mEval (m : MaskCtx) (q k : Nat) : List (BitVec 16) → List Bool → Bool
  | [], _ => false
  | i :: r, p => if mOp i = 14 then mElem m q k p i else mEval m q k r (p.set (mD i) (mElem m q k p i))

/-! Tile classification (R154 to R157). -/

/-- A tile value: T, F, or undecided. -/
abbrev Tri := Option Bool

/-- T when the first holds, F when the second does. -/
def tri (t f : Bool) : Tri := if t then some true else if f then some false else none

/-- The rules of R157. -/
def triAnd (a b : Tri) : Tri := tri (a = some true && b = some true) (a = some false || b = some false)
def triNot (a : Tri) : Tri := a.map (!·)
def triOr (a b : Tri) : Tri := triNot (triAnd (triNot a) (triNot b))
def triSel (a b c : Tri) : Tri :=
  match a with
  | some true => b
  | some false => c
  | none => if b = c then b else none

/-- The runs that overlap a range of positions (R156). -/
def runsIn (m : MaskCtx) (lo hi : Nat) : List Nat :=
  let ends := (m.segs.drop 1).map (·.1) ++ [m.limit]
  (m.segs.zip ends).filterMap fun (r, e) => if r.1 ≤ hi && lo < e then some r.2 else none

/-- Has a range a position without a document? -/
def noneIn (m : MaskCtx) (lo hi : Nat) : Bool := hi < lo || lo < ((m.segs.head?).map (·.1)).getD 0 || m.limit ≤ hi

/-- Segment entries read for a tile (R156). -/
def tileReads (m : MaskCtx) (q0 q1 k0 k1 : Nat) : Nat := (runsIn m q0 q1).length + (runsIn m k0 k1).length

/-- Is a tile over the limit of R156? -/
def overLimit (m : MaskCtx) (q0 q1 k0 k1 : Nat) : Bool :=
  m.prog.any (fun i => mOp i = 5) && 64 < tileReads m q0 q1 k0 k1

/-- SDOC over a tile (R156). -/
def tileDoc (m : MaskCtx) (q0 q1 k0 k1 : Nat) : Tri :=
  if 64 < tileReads m q0 q1 k0 k1 then none
  else
    let dq := (runsIn m q0 q1).eraseDups
    let dk := (runsIn m k0 k1).eraseDups
    let one := dq.length = 1 && dq = dk && !noneIn m q0 q1 && !noneIn m k0 k1
    tri one (!dq.any fun d => dk.contains d)

/-- The least and greatest of a list that is not empty. -/
def least (l : List Nat) : Nat := l.foldl min (l.headD 0)
def most (l : List Nat) : Nat := l.foldl max 0

/-- ANC over a tile (R155). -/
def tileAnc (m : MaskCtx) (q0 q1 k0 k1 : Nat) : Tri :=
  let nq := nodesIn m q0 q1
  let nk := nodesIn m k0 k1
  let f := nq.isEmpty || nk.isEmpty || most (nq.map (·.1)) < least (nk.map (·.1)) || most (nk.map (·.2)) < least (nq.map (·.2))
  let t := nq.length = q1 + 1 - q0 && nk.length = k1 + 1 - k0 && most (nk.map (·.1)) ≤ least (nq.map (·.1)) &&
    most (nq.map (·.2)) ≤ least (nk.map (·.2))
  if f then some false else if t then some true else none

/-- Node membership of a range (R154). -/
def tileNode (m : MaskCtx) (lo hi : Nat) : Tri :=
  tri ((nodesIn m lo hi).length = hi + 1 - lo) (nodesIn m lo hi).isEmpty

/-- The tile rule of an instruction (R154 to R157). -/
def mTile (m : MaskCtx) (q0 q1 k0 k1 : Nat) (p : List Tri) (i : BitVec 16) : Tri :=
  let a := p.getD (mX i) none
  let b := p.getD (mY i) none
  let cx := mConst m (mX i)
  let cy := mConst m (mY i)
  let within := fun (lo hi : Nat) => tri (cx ≤ lo && (hi : Int) < cy) ((hi : Int) < cx || cy ≤ lo || cy ≤ cx)
  match mOp i with
  | 1 => tri (cx ≤ (q0 : Int) - k1) ((q1 : Int) - k0 < cx)
  | 2 => tri ((q1 : Int) - k0 < cx) (cx ≤ (q0 : Int) - k1)
  | 3 => within k0 k1
  | 4 => within q0 q1
  | 5 => tileDoc m q0 q1 k0 k1
  | 6 => tileAnc m q0 q1 k0 k1
  | 7 => tileNode m k0 k1
  | 8 => triAnd a b
  | 9 => triOr a b
  | 10 => triAnd a (triNot b)
  | 11 => triNot a
  | 12 => triSel a b (p.getD (mZ i) none)
  | 13 => tileNode m q0 q1
  | _ => a

/-- The class of a tile (R157). -/
def mClass (m : MaskCtx) (q0 q1 k0 k1 : Nat) : List (BitVec 16) → List Tri → Tri
  | [], _ => none
  | i :: r, p =>
    if mOp i = 14 then mTile m q0 q1 k0 k1 p i else mClass m q0 q1 k0 k1 r (p.set (mD i) (mTile m q0 q1 k0 k1 p i))

/-! Reading and writing for a command (R161). -/

/-- A command starts once its hart's earlier stores are acknowledged, after a KVCOMMIT whose take has been performed (R161),
and while no KEYCMD is in progress (R414; log 107). -/
def maskGo (i : Instr) (ops : List Nat) (s : State) (k : State → List Word → State) : State :=
  issue i .none 0 s fun s =>
    let vs := operands s ops
    if takeDone s (clusterOf (coreOf s.cur)) then parkFor s .take vs
    else if s.tr.keyCmd.isSome then parkFor s .key vs
    else if writesPending s s.cur then parkFor s .writes vs
    else k s vs

/-- A record or table of `n` bytes at an address aligned to `al`. -/
def withBytes (s : State) (ops : List Word) (va n al : Nat) (k : State → List Byte → Bool → State) : State :=
  if n = 0 then k s [] false
  else if va % al ≠ 0 then raise s (trap .misaligned 1 (wd va))
  else
    match readUnit s va n with
    | .later n => parkFor s n ops
    | .fault t => raise s t
    | .ok bs p => k (afterUnit s va n bs p) bs p

/-- The words of a byte list. -/
def words (bs : List Byte) : List Word := (span 0 (bs.length / 8)).map fun i => ofBytes ((bs.drop (8 * i)).take 8)

/-- The first poisoned address of a range that has been read. -/
def psnAt (s : State) (va n : Nat) : Word :=
  match xlBytes s (who s s.cur) va n .read with
  | .ok (pas, _) => (firstPsn s va pas).getD (wd va)
  | .error _ => wd va

/-- POISON of the ranges read, in order: the trap under PTE, else the sticky bit (R96). -/
def eatPoison (s : State) (rs : List (Nat × Nat × Bool)) (k : State → State) : State :=
  match rs.find? (·.2.2) with
  | none => k s
  | some (va, n, _) => if pteOf s s.cur then raise s (trap .poison 0 (psnAt s va n)) else k (setPoisoned s s.cur)

/-- The pages of a destination, with every check of a write: translation, TX_FOOTPRINT and TX_CHECK_LATE (R45, R60). -/
def destRegion (s : State) (va n : Nat) : Except Trap (List (Nat × Xl)) :=
  match regionX s va n .write with
  | .error t => .error t
  | .ok l =>
    match regionFault s l va n with
    | some a => .error (trap .txFootprint 0 (wd a))
    | none => if regionLate s l va n then .error (trap .txCheckLate 0 (wd va)) else .ok l

/-- The places of a range by page images. -/
def placesIn (l : List (Nat × Xl)) (va n : Nat) : List (Nat × Nat) := (span va n).filterMap (imageOf (imagesOf l))

/-- What a command's writes wait for: the hart's earlier loads and jobs at those bytes, a bank's mode change, or slots of a
FIFO (R81, R83, R175, R198). -/
def writeNeed (s : State) (l : List (Nat × Xl)) (va n : Nat) : Option Need :=
  let cells := placesIn l va n
  ((jobNeed s s.cur (cells.map (·.1)) true).or ((pendBank s (cells.map (·.1))).map .bank)).or ((portRuns s cells).findSome? fun (k, r) => k.bind fun (cl, b) =>
    let m := (slotPieces (bankSlot s cl b) (r.map (·.1))).length
    if fifoCap s cl b - (fifoOf s cl b).fill < m then some (.fifo cl b m true) else none)

/-- Go on once a command's writes have no bank to wait for. -/
def whenRoom (s : State) (l : List (Nat × Xl)) (va n : Nat) (ops : List Word) (k : State → State) : State :=
  match writeNeed s l va n with
  | some e => parkFor s e ops
  | none => k s

/-- Write bytes through page images, where the target takes them; the answer is the first refused address (R161, R262).
The issuer's core keeps no older copies (R213). -/
def writeOut (s : State) (l : List (Nat × Xl)) (va : Nat) (bs : List Byte) (psn : Bool) : State × Option Nat :=
  let places := placesIn l va bs.length
  let good := (places.zip bs).filter fun c => engineOk s [c.1.1]
  (dropCopies (writeRuns psn (portRuns s (good.map (·.1))) s (good.map (·.2))) (coreOf s.cur) (places.map (·.1)),
    (places.findIdx? fun c => !engineOk s [c.1]).map (va + ·))

/-- A refused access of a command, a write by its SUB 2, is reported at the next boundary of its hart's frame (R161). -/
def reportAt (s : State) (h sub : Nat) (bad : Option Nat) : State :=
  match bad with
  | none => s
  | some a => addLate s (coreOf h) ((getSlot s h).wp / 512) ⟨.accessFault, sub, true, wd a⟩ none

/-- A refused write of a command (R161). -/
def reportRefused (s : State) (h : Nat) (bad : Option Nat) : State := reportAt s h 2 bad

/-! MSKLD (R150, R152, R153). -/

/-- The halfwords of the record. -/
def maskHalves (w : List Word) : List (BitVec 16) :=
  (span 0 16).map fun i => BitVec.ofNat 16 (fld (w.getD (4 + i / 4) 0) (16 * (i % 4) + 15) (16 * (i % 4)))

/-- The checks of the record (R152). -/
def maskRecordTrap (w : List Word) : Option Trap :=
  let w0 := w.getD 0 0
  let nins := fld w0 4 0
  let nseg := fld w0 47 32
  let ntree := fld w0 31 16
  let hs := maskHalves w
  if fld w0 63 48 ≠ 0 || fld w0 15 5 ≠ 0 then some (maskTrap 0 0 0)
  else
    match (span 12 4).find? fun i => w.getD i 0 ≠ 0 with
    | some i => some (maskTrap 0 0 (8 * i))
    | none =>
      if nins = 0 || 16 < nins || 4096 < nseg || 4096 < ntree then some (maskTrap 1 0 0)
      else if 2 ^ 32 < fld (w.getD 3 0) 31 0 + ntree then some (maskTrap 1 0 24)
      else
        match (span nins (16 - nins)).find? fun i => hs.getD i 0 ≠ 0 with
        | some i => some (maskTrap 0 0 (32 + 2 * i))
        | none => (mCheck nseg ntree nins (hs.take nins) 0 []).map fun (r, i) => maskTrap r 0 (32 + 2 * i)

/-- The first segment entry that does not rise (R152). -/
def segTrap (limit : Nat) : List (Nat × Nat) → Nat → Option Trap
  | [], _ => none
  | [r], i => if limit ≤ r.1 then some (maskTrap 5 1 (8 * i)) else none
  | r :: t :: l, i => if t.1 ≤ r.1 then some (maskTrap 5 1 (8 * i)) else segTrap limit (t :: l) (i + 1)

/-- The first tree entry with a reserved bit (R152). -/
def treeTrap (es : List Nat) : Option Trap :=
  ((es.zip (span 0 es.length)).find? fun e => bits e.1 28 3 ≠ 0 || bits e.1 12 4 ≠ 0).map fun e => maskTrap 6 2 (4 * e.2)

/-- MSKLD (R150, R152, R153). The record and its instructions are checked before the segment table is read, and the
segment entries before the tree table is: the order of their faults is log 84's choice. -/
def execMskld (sw : Bool) (ctx : Fin 4) (b : Fin 32) (s : State) : Out :=
  .next (maskGo (.mskld sw ctx b) [b.val] s fun s ops =>
    let h := s.cur
    let cl := clusterOf (coreOf h)
    let va := (ops.getD 0 0).toNat
    withBytes s ops va 128 64 fun s rb rp =>
      let w := words rb
      match maskRecordTrap w with
      | some t => raise s t
      | none =>
        let w0 := w.getD 0 0
        let nseg := fld w0 47 32
        let ntree := fld w0 31 16
        let limit := fld (w.getD 3 0) 63 32
        let sa := (w.getD 1 0).toNat
        let ta := (w.getD 2 0).toNat
        withBytes s ops sa (8 * nseg) 8 fun s sb sp =>
          let segs := (words sb).map fun e => (fld e 31 0, fld e 63 32)
          match segTrap limit segs 0 with
          | some t => raise s t
          | none => withBytes s ops ta (4 * ntree) 4 fun s tb tp =>
            let tree := (span 0 ntree).map fun j => leNat ((tb.drop (4 * j)).take 4)
            match treeTrap tree with
            | some t => raise s t
            | none => consume s [b.val] fun s _ =>
              eatPoison s [(va, 128, rp), (sa, 8 * nseg, sp), (ta, 4 * ntree, tp)] fun s =>
                let consts := (span 0 8).map fun i => BitVec.ofNat 32 (fld (w.getD (8 + i / 2) 0) (32 * (i % 2) + 31) (32 * (i % 2)))
                let s := modMask s cl ctx.val fun m =>
                  { prog := (maskHalves w).take (fld w0 4 0), consts := consts, segs := segs, tree := tree, limit := limit
                    tbase := fld (w.getD 3 0) 31 0, gen := m.gen + 1, psn := rp || sp || tp }
                retire s true)

/-! MSKCLS (R159, R165). -/

/-- The classes of all tiles of a grid in order, each with its over-limit mark. -/
def gridClasses (m : MaskCtx) (qb ql kb kl : Nat) : List (Nat × Bool) :=
  (span 0 ((ql + 127) / 128)).flatMap fun i => (span 0 ((kl + 127) / 128)).map fun j =>
    let q0 := qb + 128 * i
    let k0 := kb + 128 * j
    let q1 := min (q0 + 127) (qb + ql - 1)
    let k1 := min (k0 + 127) (kb + kl - 1)
    let c := match (if m.psn then none else mClass m q0 q1 k0 k1 m.prog (List.replicate 8 none)) with
      | some true => 2
      | some false => 0
      | none => 1
    (c, overLimit m q0 q1 k0 k1 && c = 1)

/-- Two-bit codes packed four to a byte. -/
def packCodes : List Nat → List Byte
  | a :: b :: c :: d :: t => BitVec.ofNat 8 (a + 4 * b + 16 * c + 64 * d) :: packCodes t
  | [] => []
  | [a] => [BitVec.ofNat 8 a]
  | [a, b] => [BitVec.ofNat 8 (a + 4 * b)]
  | [a, b, c] => [BitVec.ofNat 8 (a + 4 * b + 16 * c)]

/-- MSKCLS (R159, R165). Poison of the address or of the record marks the map and the count (R96). -/
def execMskcls (sw : Bool) (ctx : Fin 4) (a b : Fin 32) (s : State) : Out :=
  .next (maskGo (.mskcls sw ctx a b) [b.val] s fun s ops =>
    let h := s.cur
    let cl := clusterOf (coreOf h)
    let va := (ops.getD 0 0).toNat
    withBytes s ops va 32 32 fun s rb rp =>
      let w := words rb
      let qb := fld (w.getD 0 0) 31 0
      let kb := fld (w.getD 0 0) 63 32
      let ql := fld (w.getD 1 0) 31 0
      let kl := fld (w.getD 1 0) 63 32
      let dest := (w.getD 2 0).toNat
      let nt := (ql + 127) / 128 * ((kl + 127) / 128)
      let m := getMask s cl ctx.val
      if w.getD 3 0 ≠ 0 || ql = 0 || kl = 0 || 2 ^ 24 < ql || 2 ^ 24 < kl || 2 ^ 32 < qb + ql || 2 ^ 32 < kb + kl ||
          65536 < nt then raise s (trap .accessFault 4 (wd va))
      else if dest % 8 ≠ 0 then raise s (trap .misaligned 2 (wd dest))
      else if m.prog.isEmpty then raise s (maskTrap 7 3 0)
      else
        match destRegion s dest ((nt + 3) / 4) with
        | .error t => raise s t
        | .ok l => consume s [b.val] fun s p => eatPoison s [(va, 32, rp)] fun s =>
          whenRoom s l dest ((nt + 3) / 4) ops fun s =>
          let cs := gridClasses m qb ql kb kl
          let count := fun (c : Nat) => (cs.filter (·.1 = c)).length
          let r := writeOut (noteRegion s h l dest ((nt + 3) / 4)) l dest (packCodes (cs.map (·.1))) (p || rp)
          let s := modMask r.1 cl ctx.val fun m => { m with
            full := m.full + wd (count 2), part := m.part + wd (count 1), empty := m.empty + wd (count 0)
            forced := m.forced + wd (cs.filter (·.2)).length }
          retire (reportRefused (writeReg s h a.val (wd (count 1 * 2 ^ 32 + count 2)) (p || rp)) h r.2) true)

/-! MSKEL (R160). -/

/-- One byte of a row: keys `k` to `k + 7`. -/
def maskByte (m : MaskCtx) (q k : Nat) : Byte :=
  BitVec.ofNat 8 (((span 0 8).map fun i =>
    if q < 2 ^ 32 && k + i < 2 ^ 32 && mEval m q (k + i) m.prog (List.replicate 8 false) then 2 ^ i else 0).foldl (· + ·) 0)

/-- The 2,048 bytes of an element mask. -/
def maskBytes (m : MaskCtx) (wq wk : Nat) : List Byte :=
  (span 0 128).flatMap fun r => (span 0 16).map fun b => maskByte m (wq + r) (wk + 8 * b)

/-- MSKEL (R160). Poison of an operand or of the context marks the mask (R96, R153). -/
def execMskel (sw : Bool) (ctx : Fin 4) (a b c : Fin 32) (s : State) : Out :=
  .next (maskGo (.mskel sw ctx a b c) [a.val, b.val, c.val] s fun s ops =>
    let h := s.cur
    let va := (ops.getD 0 0).toNat
    let wq := (ops.getD 1 0).toNat
    let wk := (ops.getD 2 0).toNat
    let m := getMask s (clusterOf (coreOf h)) ctx.val
    match [wq, wk].find? fun v => 2 ^ 32 ≤ v with
    | some v => raise s (trap .accessFault 4 (wd v))
    | none =>
      if va % 64 ≠ 0 then raise s (trap .misaligned 2 (wd va))
      else if m.prog.isEmpty then raise s (maskTrap 7 3 0)
      else
        match destRegion s va 2048 with
        | .error t => raise s t
        | .ok l => consume s [a.val, b.val, c.val] fun s p => whenRoom s l va 2048 ops fun s =>
          let r := writeOut (noteRegion s h l va 2048) l va (maskBytes m wq wk) (p || m.psn)
          retire (reportRefused r.1 h r.2) true)

/-! MSKCNT (R165). -/

/-- MSKCNT (R165). -/
def execMskcnt (sw : Bool) (ctx : Fin 4) (a : Fin 32) (clr : Bool) (s : State) : Out :=
  .next (issue (.mskcnt sw ctx a clr) .none 0 s fun s =>
    let h := s.cur
    let cl := clusterOf (coreOf h)
    let m := getMask s cl ctx.val
    let s := addResult (addResult (addResult (addResult s h a.val m.full false) h (a.val + 1) m.part false)
      h (a.val + 2) m.empty false) h (a.val + 3) m.forced false
    retire (if clr then modMask s cl ctx.val fun m => { m with full := 0, part := 0, empty := 0, forced := 0 } else s) true)

/-! KVCOMMIT (R163, R164, R326). -/

/-- The fields of a descriptor, if they are good: ESZ, CAP and ND (R163). -/
def kvFields (w : List Word) : Option (Nat × Nat × Nat) :=
  let w3 := w.getD 3 0
  let w6 := w.getD 6 0
  let cap := fld w3 47 32
  let esz := fld w3 14 0
  let nd := fld w6 7 0
  if fld w3 63 48 = 0 && fld w3 31 15 = 0 && fld w6 63 11 = 0 && w.getD 7 0 = 0 && 1 ≤ nd && nd ≤ 128 && 1 ≤ cap &&
      64 ≤ esz && esz ≤ 16384 && esz % 64 = 0 && fld w6 10 8 ≤ 4 &&
      !(window0 ≤ (w.getD 0 0).toNat && (w.getD 0 0).toNat < 2 ^ 56) then some (esz, cap, nd)
  else none

/-- The length word: translated for the fill's write, with SUB 1; it must lie in HBM (R89, R163). -/
def kvLength (s : State) (va : Nat) : Except Trap (List Nat × Xl) :=
  match xlBytes s (who s s.cur) va 8 .write with
  | .error t => .error { t with sub := if t.sub = 2 then 1 else t.sub }
  | .ok (pas, x) =>
    if !isHbm x.pa then .error (trap .accessFault 1 (wd va))
    else
      match wrCheck s s.cur va x pas with
      | some t => .error t
      | none => .ok (pas, x)

/-- KVCOMMIT up to its take: the hart enters the full/empty wait (R163, R164). -/
def execKvcommit (sw : Bool) (a b : Fin 32) (s : State) : Out :=
  .next (maskGo (.kvcommit sw a b) [b.val] s fun s ops =>
    let h := s.cur
    let va := (ops.getD 0 0).toNat
    withBytes s ops va 64 64 fun s rb rp =>
      let w := words rb
      match kvFields w with
      | none => raise s (trap .accessFault 4 (wd va))
      | some _ =>
        let len := (w.getD 0 0).toNat
        let bad := [(len, 8, 1), ((w.getD 1 0).toNat, 64, 2), ((w.getD 2 0).toNat, 64, 2)].find? fun x => x.1 % x.2.1 ≠ 0
        match bad with
        | some x => raise s (trap .misaligned x.2.2 (wd x.1))
        | none =>
          match kvLength s len with
          | .error t => raise s t
          | .ok (pas, x) => consume s [b.val] fun s p => eatPoison s [(va, 64, rp)] fun s =>
            let s := dropLine (tlbFill s (who s h) len) (coreOf h) x.pa
            let acc : Access := { uid := 0, hart := h, va := wd len, pas := pas, key := x.key, cache := false
                                  op := .sync .take none, psn := false, dest := .kvTake, st := .flying
                                  acq := some (syncScope s x.pa) }
            let r := send s acc
            waitFor r.1 (.memory r.2) (w ++ [wd a.val, wb (p || rp)]) none)

/-- The fill of the length word, with the scan of its waiters (R90, R163). The core keeps no older copies of it (R213). A
target that no longer answers refuses it: the word stays empty, and the address is the answer (R161). -/
def kvFill (s : State) (a : Access) (v : Nat) (psn : Bool) : State × Option Nat :=
  let pa := a.pas.headD 0
  if !engineOk s a.pas then (s, some a.va.toNat)
  else
    let s := noteWrite (dropCopies s (coreOf a.hart) a.pas) a.hart a.pas
    (retryScan (s.flight.length + 1) (setFull (putBytes s a.key (a.pas.zip (wBytes (wd v))) psn) pa true) pa, none)

/-- Must a piece wait at its bank: one whose mode is changing, or a FIFO without room (R81, R83)? -/
def pieceWaits (s : State) (write : Bool) (cells : List (Nat × Nat)) : Bool :=
  (pendBank s (cells.map (·.1))).isSome || keyHeld s cells ||
    (portRuns s cells).any fun (k, r) => k.any fun e => !fifoRoom s e.1 e.2 write (r.map (·.1)) s.uid

/-- The size of the unit of poison at a place of a plane (R95). -/
def kvUnit (l : List (Nat × Xl)) (va : Nat) : Nat :=
  if ((placesIn l va 1).head?.map fun c => isHbm c.1).getD false then 32 else 8

/-- Move the `n` bytes of an entry in pieces of the destination's unit of poison, ascending: each is read before it is written
(R163). A piece with a source byte that its target refuses is not written, as a refused load writes nothing, and is reported
with SUB 1: the model's choice (R262; log 102). None where a piece must wait: the commit is then held back whole (log 97). -/
def kvMove (l : List (Nat × Xl)) : Nat → State → Nat → Nat → Nat → Option (Nat × Nat) → Option (State × Option (Nat × Nat))
  | 0, s, _, _, _, bad => some (s, bad)
  | fuel + 1, s, src, dst, n, bad =>
    if n = 0 then some (s, bad)
    else
      let z := kvUnit l dst
      let src' := placesIn l src z
      if pieceWaits s false src' then none
      else
        match src'.findIdx? (unitBad s ·.1) with
        | some i => kvMove l fuel s (src + z) (dst + z) (n - z) (bad.or (some (1, src + i)))
        | none =>
          let g := readRuns (portRuns s src') s [] false
          if pieceWaits g.2.2 true (placesIn l dst z) then none
          else
            let r := writeOut g.2.2 l dst g.1 g.2.1
            kvMove l fuel r.1 (src + z) (dst + z) (n - z) (bad.or (r.2.map fun a => (2, a)))

/-- An entry moved from place `i` to place `n` behind the committed prefix, in both planes (R163). -/
def kvEntry (planes : List (Nat × List (Nat × Xl))) (len esz i n : Nat) (s : State) (bad : Option (Nat × Nat)) :
    Option (State × Option (Nat × Nat)) :=
  planes.foldl (fun (q : Option (State × Option (Nat × Nat))) p => q.bind fun q =>
    kvMove p.2 (esz / 8) q.1 (p.1 + (len + i) * esz) (p.1 + (len + n) * esz) esz q.2) (some (s, bad))

/-- The accepted entries moved, in both planes, with their number; none where one must wait (R163). -/
def kvEntries (planes : List (Nat × List (Nat × Xl))) (len esz : Nat) :
    List Bool → Nat → Nat → State → Option (Nat × Nat) → Option (State × Nat × Option (Nat × Nat))
  | [], _, n, s, bad => some (s, n, bad)
  | acc :: r, i, n, s, bad =>
    if !acc then kvEntries planes len esz r (i + 1) n s bad
    else if n = i then kvEntries planes len esz r (i + 1) (n + 1) s bad
    else
      match kvEntry planes len esz i n s bad with
      | none => none
      | some q => kvEntries planes len esz r (i + 1) (n + 1) q.1 q.2

/-- KVCOMMIT_TAKE_PERFORMED (R163, R164): the commit runs to completion, or to one of its traps with the length put
back; where one of its pieces must wait at a bank, it has not begun (log 97). -/
def execKvcommitTakePerformed (cl i : Nat) (s : State) : Out :=
  .next (match s.flight[i]? with
  | none => s
  | some a =>
    match a.dest, a.st with
    | .kvTake, .done val psn =>
      if clusterOf (coreOf a.hart) ≠ cl then s
      else
        let h := a.hart
        let u := notePsn (dropAcc { s with cur := h } a.uid) h psn
        let w := (getSlot u h).latch
        let p := psn || w.getD 9 0 = 1
        let len := leNat (val.take 8)
        let pc := (getSlot u h).pc
        match kvFields w with
        | none => u
        | some (esz, cap, nd) =>
          let back := fun (t : Trap) =>
            let f := kvFill u a len psn
            takeTrap (reportRefused f.1 h f.2) h t pc
          if cap < len + nd then back (trap .accessFault 4 a.va)
          else
            let kb := (w.getD 1 0).toNat
            let vb := (w.getD 2 0).toNat
            let place := fun (b : Nat) => destRegion u (b + len * esz) (nd * esz)
            match place kb, (if vb = 0 then .ok [] else place vb) with
            | .error t, _ => back t
            | .ok _, .error t => back t
            | .ok kl, .ok vl =>
              let planes := if vb = 0 then [(kb, kl)] else [(kb, kl), (vb, vl)]
              let accept := (span 0 nd).map fun i => bit (w.getD (4 + i / 64) 0) (i % 64)
              match kvEntries planes len esz accept 0 0
                  (noteRegion (noteRegion u h kl (kb + len * esz) (nd * esz)) h vl (vb + len * esz) (nd * esz)) none with
              | none => s
              | some (v, n, bad) =>
                let f := kvFill v a (len + n) p
                let bad := bad.or (f.2.map fun a => (2, a))
                completeWait (reportAt (writeReg f.1 h (w.getD 8 0).toNat (wd (len + n)) p) h ((bad.map (·.1)).getD 2)
                  (bad.map (·.2))) h true
    | _, _ => s)

end Sys2Proof.Machine
end

