-- ==== Sys2Proof/Machine/Memory.lean ====
section
/-! DEFINITION. Majors 0x18 to 0x1C: loads, stores, remote loads, load-multiple and store-multiple (R272 to R278). -/

namespace Sys2Proof.Machine

/-- LD (R272). -/
def execLd (sw : Bool) (d a : Fin 32) (imm : BitVec 15) (s : State) : Out :=
  .next (issue (.ld sw d a imm) .imm 0 s fun s =>
    plainLoad s (reg s a + immOf s imm).toNat 8 d.val false [a.val] sw)

/-- ST (R272): its operands are kept while it waits for room in the journal. -/
def execSt (sw : Bool) (base data : Fin 32) (imm : BitVec 15) (s : State) : Out :=
  .next (issue (.st sw base data imm) .imm 0 s fun s =>
    let ops := operands s [base.val, data.val]
    plainStore s (ops.getD 0 0 + immOf s imm).toNat 8 (ops.getD 1 0) [base.val, data.val] ops sw)

/-- The indexed loads of R273: a plain load, or a sync-mode access, which needs SIZE 3. -/
def indexedLoad (i : Instr) (sw : Bool) (d a b : Fin 32) (m : SyncMode) (n : Nat) (signed : Bool) (s : State) : State :=
  issue i .none 0 s fun s =>
    let ops := operands s [a.val, b.val]
    let va := (ops.getD 0 0 + ops.getD 1 0).toNat
    match m with
    | .plain => plainLoad s va n d.val signed [a.val, b.val] sw
    | _ => syncAccess s va n d.val m none [a.val, b.val] ops sw

def execLxb (sw : Bool) (d a b : Fin 32) (m : SyncMode) (s : State) : Out := .next (indexedLoad (.lxb sw d a b m) sw d a b m 1 true s)
def execLxbn (sw : Bool) (d a b : Fin 32) (m : SyncMode) (s : State) : Out := .next (indexedLoad (.lxbn sw d a b m) sw d a b m 1 false s)
def execLxh (sw : Bool) (d a b : Fin 32) (m : SyncMode) (s : State) : Out := .next (indexedLoad (.lxh sw d a b m) sw d a b m 2 true s)
def execLxhn (sw : Bool) (d a b : Fin 32) (m : SyncMode) (s : State) : Out := .next (indexedLoad (.lxhn sw d a b m) sw d a b m 2 false s)
def execLxw (sw : Bool) (d a b : Fin 32) (m : SyncMode) (s : State) : Out := .next (indexedLoad (.lxw sw d a b m) sw d a b m 4 true s)
def execLxwn (sw : Bool) (d a b : Fin 32) (m : SyncMode) (s : State) : Out := .next (indexedLoad (.lxwn sw d a b m) sw d a b m 4 false s)
def execLxd (sw : Bool) (d a b : Fin 32) (m : SyncMode) (s : State) : Out := .next (indexedLoad (.lxd sw d a b m) sw d a b m 8 false s)

/-- The indexed stores of R274. -/
def indexedStore (i : Instr) (sw : Bool) (d a b : Fin 32) (m : SyncMode) (n : Nat) (s : State) : State :=
  issue i .none 0 s fun s =>
    let ops := operands s [a.val, b.val, d.val]
    let va := (ops.getD 0 0 + ops.getD 1 0).toNat
    match m with
    | .plain => plainStore s va n (ops.getD 2 0) [a.val, b.val, d.val] ops sw
    | _ => syncAccess s va n 0 m (some (ops.getD 2 0)) [a.val, b.val, d.val] ops sw

def execSxb (sw : Bool) (d a b : Fin 32) (m : SyncMode) (s : State) : Out := .next (indexedStore (.sxb sw d a b m) sw d a b m 1 s)
def execSxh (sw : Bool) (d a b : Fin 32) (m : SyncMode) (s : State) : Out := .next (indexedStore (.sxh sw d a b m) sw d a b m 2 s)
def execSxw (sw : Bool) (d a b : Fin 32) (m : SyncMode) (s : State) : Out := .next (indexedStore (.sxw sw d a b m) sw d a b m 4 s)
def execSxd (sw : Bool) (d a b : Fin 32) (m : SyncMode) (s : State) : Out := .next (indexedStore (.sxd sw d a b m) sw d a b m 8 s)

/-- The remote load into a message slot (R224, R233, R276). The address faults come before the reply-table check,
which is the instruction's own (group 3 before group 4 of R216). A word of the own cluster's register block is read at the
block (R74), and its reply comes like another's. -/
def execLxdRemote (sw : Bool) (slot : Fin 16) (a b : Fin 32) (m : SyncMode) (s : State) : Out :=
  .next (issue (.lxdRemote sw slot a b m) .none 0 s fun s =>
    let h := s.cur
    let ops := operands s [a.val, b.val]
    let va := (ops.getD 0 0 + ops.getD 1 0).toNat
    let w62 := rd64 s (regPa s h 62)
    if w62.toNat % 128 ≠ 0 || 0x30000 < w62.toNat + 128 then raise s (trap .accessFault 4 w62)
    else if let some b := (if m = .plain then pendFor s va 8 .read else none) then parkFor s (.bank b) ops
    else
      let chk := if m = .plain then
          match xlBytes s (who s h) va 8 .read with
          | .error t => Except.error t
          | .ok (pas, x) =>
            match placeFault s va 8 .read x pas with
            | some t => .error t
            | none => .ok (pas, x)
        else wordCheck s va .read true (va % 8 = 0)
      match chk with
      | .error t => raise s t
      | .ok (pas, x) => consume s [a.val, b.val] fun s p =>
        let stored := match fifoPort s pas with
          | some (cl, b) => fifoPas s cl b pas false
          | none => pas
        match (if pteOf s h then firstPsn s va stored else none) with
        | some v => raise s (trap .poison 0 v)
        | none =>
          if bit (rd64 s (replyPa s h slot.val)) 63 then parkFor s (.reply slot.val) ops
          else
            let s := tlbFills s (who s h) va x
            let s := put64 s (replyPa s h slot.val) (wd (2 ^ 63 + va % 2 ^ 56)) false
            let op := if m = .plain then AccOp.load else .sync m none
            let s := if m = .plain then s else dropLine s (coreOf h) x.pa
            let st : AccSt := match targetOf (offsetOf x.pa) with
              | .clBlock cl => .done (wBytes (clRead s cl (offsetOf x.pa % 0x10000))) false
              | _ => .flying
            retire (send s { uid := 0, hart := h, va := wd va, pas := pas, key := x.key, cache := false, op := op, psn := p,
                             dest := .slot ((getSlot s h).wp / 512) slot.val (nanOf s h), st := st, past := x.rest }).1 sw)

/-! Load-multiple and store-multiple (R277, R278). -/

/-- The words of a multiple access: address, bytes and place of each, or the first fault. -/
def multiWords (s : State) (k : AccKind) (hbmOnly : Bool) : Nat → Nat → Except Trap (List (Nat × List Nat × Xl))
  | _, 0 => .ok []
  | va, n + 1 =>
    match xlBytes s (who s s.cur) va 8 k with
    | .error t => .error t
    | .ok (pas, x) =>
      let bad := if hbmOnly then
          (if targetOf (offsetOf x.pa) = .hbm then none else some (trap .accessFault k.sub (wd va)))
        else placeFault s va 8 k x pas
      match bad, (if k = .write then wrCheck s s.cur va x pas else none) with
      | some t, _ => .error t
      | none, some t => .error t
      | none, none =>
        match multiWords s k hbmOnly (va + 8) n with
        | .error t => .error t
        | .ok l => .ok ((va, pas, x) :: l)

/-- A bank whose mode is changing among the words of a multiple access in the own storage (R83). -/
def multiPend (s : State) (k : AccKind) (va n : Nat) : Option Nat :=
  (span 0 n).findSome? fun i => pendFor s (va + 8 * i) 8 k

/-- Where the next word of an LDM or STM stands: 0, or the resume point that REPCNT holds under MRES (R277, R278). -/
def resumeAt (s : State) (n : Nat) : Option Nat :=
  if mres s s.cur then (if repcnt s s.cur ≤ n then some (n - repcnt s s.cur) else none) else some 0

/-- A completed LDM or STM leaves REPCNT 0 and MRES clear (R278). -/
def clearMres (s : State) : State := modHsw (dropGroup s s.cur) s.cur fun w => setFld (setFld w 63 48 0) 42 42 0

/-- The number that the words of the LDM or STM at the PC go under: one for the whole instruction, over an interrupt or a
trap between its words too (R262, R278). -/
def groupOf (s : State) : Nat :=
  if mres s s.cur then (((getCore s (coreOf s.cur)).groups.find? fun g => (g.1, g.2.1) = here s s.cur).map (·.2.2)).getD s.uid
  else s.uid

/-- Save the resume point of an LDM or STM before its next word (R278). -/
def saveMres (s : State) (left : Nat) : State :=
  let g := groupOf s
  let at0 := here s s.cur
  modHsw (modCore { s with uid := s.uid + 1 } (coreOf s.cur) fun c => { c with
    groups := (at0.1, at0.2, g) :: c.groups.filter fun e => (e.1, e.2.1) ≠ at0 }) s.cur fun w =>
    setFld (setFld w 63 48 left) 42 42 1

/-- The words of one 64-byte chunk at the head of a list. -/
def chunkSplit : List (Nat × List Nat × Xl) → List (Nat × List Nat × Xl) × List (Nat × List Nat × Xl)
  | [] => ([], [])
  | w :: ws =>
    match ws with
    | [] => ([w], [])
    | v :: _ => if v.1 / 64 = w.1 / 64 then let (a, b) := chunkSplit ws; (w :: a, b) else ([w], ws)

/-- The values that LDM reads, chunk by chunk: a later chunk sees what an earlier one wrote (R277). -/
def ldmValues : Nat → State → Nat → List (Nat × List Nat × Xl) → List (Word × Bool)
  | 0, _, _, _ => []
  | fuel + 1, s, d, ws =>
    let (c, rest) := chunkSplit ws
    if c.isEmpty then []
    else
      let vs := c.map fun (_, pas, x) => (ofBytes (rdBytes s x.key pas), anyPsn s pas)
      let s := (vs.zip (span d vs.length)).foldl (fun s ((v, p), r) => writeReg s s.cur r v p) s
      vs ++ ldmValues fuel s (d + c.length) rest

/-- Is the address in a register block? -/
def regBlock (x : Xl) : Option Nat :=
  match targetOf (offsetOf x.pa) with
  | .clBlock cl => some cl
  | _ => none

/-- One word of an LDM whose words are not all at once: read at the block or from a cache, or an access in flight. -/
def ldmWord (s : State) (g r : Nat) (w : Nat × List Nat × Xl) (rp : Bool) : State :=
  let h := s.cur
  let (va, pas, x) := w
  match regBlock x with
  | some cl => addResult s h r (clRead s cl (offsetOf x.pa % 0x10000)) rp
  | none =>
    match (if x.cache && atOnce s h pas false then cacheRead s h x.key pas else none) with
    | some (bs, ps, s) => addResult (notePsn s h (ps.any id)) h r (ofBytes bs) (ps.any id || rp)
    | none =>
      let q := send s { uid := 0, hart := h, va := wd va, pas := pas, key := x.key, cache := x.cache, op := .load, psn := false,
                        dest := .result, st := .flying, grp := some g }
      expect q.1 h r q.2 rp none

/-- LDM of words that can be read at issue, or else one access in flight per word (R278). -/
def ldmGo (s : State) (d : Nat) (ws : List (Nat × List Nat × Xl)) (rp : Bool) (sw : Bool) : State :=
  let h := s.cur
  if ws.all fun (_, pas, x) => x.own && (regBlock x).isNone && atOnce s h pas false then
    let vs := ldmValues (ws.length + 1) s d ws
    let s := if vs.any (·.2) then setPoisoned s h else s
    let s := (vs.zip (span d vs.length)).foldl (fun s ((v, p), r) => addResult s h r v (p || rp)) s
    retire (clearMres s) sw
  else
    let g := groupOf s
    let s := { s with uid := s.uid + 1 }
    retire (clearMres ((ws.zip (span d ws.length)).foldl (fun s (w, r) => ldmWord s g r w rp) s)) sw

/-- The next word of an LDM or STM that waits for each word: a sync mode, which is a release too (R204), or a FIFO port
(R81, R278). The base is kept (R277). -/
def multiNext (s : State) (w : Nat × List Nat × Xl) (left d : Nat) (op : AccOp) (m : SyncMode) (psn sw : Bool)
    (base : Word) : State :=
  let h := s.cur
  let (va, pas, x) := w
  let s := saveMres s left
  let ops := [base]
  let ps := poisonedOps s
  let a : Access := { uid := s.uid, hart := h, va := wd va, pas := pas, key := x.key, cache := false, op := op, psn := psn,
                      dest := .multi d left sw, st := .flying, grp := some (groupOf s)
                      acq := if m = .plain then none else some (syncScope s x.pa) }
  if m = .plain then fifoGo s x a ops fun s v p => deliver (modSlot s h fun y => { y with latch := ops, lpsn := ps }) a v p
  else if writesPending s h then parkFor s .writes ops
  else sendWait (dropLine s (coreOf h) x.pa) a ops

/-- LDM (R277, R278). -/
def execLdm (sw : Bool) (a b c : Fin 32) (m : SyncMode) (s : State) : Out :=
  .next (issue (.ldm sw a b c m) .none 0 s fun s =>
    let n := c.val + 1
    let base := (operands s [a.val]).getD 0 0
    if base.toNat % 8 ≠ 0 then raise s (trap .misaligned 1 base)
    else if let some b := (if m = .plain then multiPend s .read base.toNat n else none) then parkFor s (.bank b) [base]
    else
      match resumeAt s n with
      | none => raise s (illegal (.ldm sw a b c m))
      | some k =>
        match multiWords s .read (m ≠ .plain) base.toNat n with
        | .error t => raise s t
        | .ok ws => consume s [a.val] fun s rp =>
          let bad := (ws.drop k).findSome? fun (va, pas, x) => firstMark va (readMarks s s.cur pas x)
          let s := tlbFill (tlbFill s (who s s.cur) base.toNat) (who s s.cur) (base.toNat + 8 * c.val)
          let fifo := ws.any fun (_, pas, _) => isFifo s pas
          if m = .plain && !fifo then
            match (if pteOf s s.cur then bad else none) with
            | some v => raise s (trap .poison 0 v)
            | none => ldmGo s (b.val + k) (ws.drop k) rp sw
          else
            match ws[k]? with
            | none => retire (clearMres s) sw
            | some w => multiNext s w (n - k) (b.val + k) (if m = .plain then .load else .sync m none) m rp sw base)

/-- The words of a plain STM that is parked between the words of a chunk: what it has read of the chunk and not written. -/
def stmKept (s : State) : List (Word × Bool) :=
  match (getSlot s s.cur).latch with
  | _ :: m :: vs => if (getSlot s s.cur).inside then (vs.zip (span 0 vs.length)).map fun (v, i) => (v, bit m i) else []
  | _ => []

/-- What such a park keeps: the base, and the values with the poison of each. -/
def stmOps (base : Word) (vs : List (Word × Bool)) : List Word :=
  base :: wd (((vs.zip (span 0 vs.length)).map fun (v, i) => b2n v.2 * 2 ^ i).sum) :: vs.map (·.1)

/-- The words of a plain STM, in order: those of a chunk are read before any of it is written, and a chunk is read after the
writes of the chunks before it (R277). A posted word needs a journal entry; without room the hart parks with the resume
point saved (R183). -/
def stmGo : Nat → State → Nat → List (Nat × List Nat × Xl) → List (Word × Bool) → Bool → Word → Bool → State
  | 0, s, _, _, _, _, _, sw => retire (clearMres s) sw
  | fuel + 1, s, d, ws, kept, rp, base, sw =>
    match ws with
    | [] => retire (clearMres s) sw
    | (va, pas, x) :: rest =>
      if kept.isEmpty && frameBusy s s.cur then parkFor (saveMres s ws.length) .writes [base]
      else
        let vs := if kept.isEmpty then (span d (chunkSplit ws).1.length).map fun r => (readReg s s.cur r, regPsn s s.cur r)
          else kept
        if !x.own && !journalRoom s s.cur then parkFor (saveMres s ws.length) (.journal 1) (stmOps base vs)
        else
          let (v, p) := vs.headD (0, false)
          let s := match regBlock x with
            | some cl => clWrite s cl (offsetOf x.pa % 0x10000) (who s s.cur) v
            | none => storeNow s va pas x (wBytes v) (p || rp) (.store (wBytes v))
          stmGo fuel s (d + 1) rest (vs.drop 1) rp base sw

/-- STM (R277, R278). -/
def execStm (sw : Bool) (a b c : Fin 32) (m : SyncMode) (s : State) : Out :=
  .next (issue (.stm sw a b c m) .none 0 s fun s =>
    let n := c.val + 1
    let base := (operands s [a.val]).getD 0 0
    if base.toNat % 8 ≠ 0 then raise s (trap .misaligned 2 base)
    else if let some b := (if m = .plain then multiPend s .write base.toNat n else none) then
      parkFor s (.bank b) (operands s [a.val])
    else
      match resumeAt s n with
      | none => raise s (illegal (.stm sw a b c m))
      | some k =>
        match multiWords s .write (m ≠ .plain) base.toNat n with
        | .error t => raise s t
        | .ok ws =>
          let fifo := ws.any fun (_, pas, x) => x.own && isFifo s pas
          let rs := if m = .plain && !fifo then a.val :: span (b.val + k) (n - k) else [a.val, b.val + k]
          if k = n then retire (clearMres s) sw
          else
            let s0 := if m = .plain && !fifo then s else saveMres s (n - k)
            let psn := fun r => if r = a.val then opPsn s r else regPsn s s.cur r
            consumeBy (if pteOf s s.cur && rs.any psn then s0 else s) psn rs fun s _ =>
            let s := tlbFill (tlbFill s (who s s.cur) base.toNat) (who s s.cur) (base.toNat + 8 * c.val)
            let ap := opPsn s a.val
            if m = .plain && !fifo then stmGo 40 s (b.val + k) (ws.drop k) (stmKept s) ap base sw
            else
              match ws[k]? with
              | none => retire (clearMres s) sw
              | some w =>
                let v := readReg s s.cur (b.val + k)
                multiNext (noteWrite s s.cur w.2.1) w (n - k) 0
                  (if m = .plain then .store (wBytes v) else .sync m (some v)) m (regPsn s s.cur (b.val + k) || ap) sw base)

end Sys2Proof.Machine
end

