-- ==== Sys2Proof/Machine/Riscv.lean ====
section
/-! DEFINITION. TRESTLE_INSTRUCTION (R393): one RV64IMAC instruction of a Trestle thread, with Zicsr and Zifencei, in
Machine or User mode with 16 PMP entries. The encodings and effects are those of the ratified RISC-V manuals, which R393
names; what those leave to an implementation is chosen in log 10. -/

namespace Sys2Proof.Machine

/-! Threads. -/

/-- A thread, and a change of it. -/
def getThread (s : State) (k : Nat) : Thread := tget {} s.tr.threads k
def modThread (s : State) (k : Nat) (f : Thread → Thread) : State :=
  modTr s fun t => { t with threads := tmod {} k f t.threads }

/-- Register `r`; x0 reads zero and discards writes. -/
def rx (s : State) (k r : Nat) : Word := if r = 0 then 0 else tget 0 (getThread s k).x r
def setRx (s : State) (k r : Nat) (v : Word) : State :=
  if r = 0 then s else modThread s k fun t => { t with x := tput r v t.x }

/-- A stored CSR. -/
def csrOf (s : State) (k c : Nat) : Word := tget 0 (getThread s k).csr c
def setCsr (s : State) (k c : Nat) (v : Word) : State := modThread s k fun t => { t with csr := tput c v t.csr }

/-- A sign-extended field of `n` bits. -/
def sext (n v : Nat) : Word := (BitVec.ofNat n v).signExtend 64

/-- An exception: its cause and trap value. -/
abbrev RvTrap := Nat × Word

/-! PMP. -/

/-- The trailing ones of a number, up to a fuel. -/
def ones : Nat → Nat → Nat
  | 0, _ => 0
  | n + 1, v => if v % 2 = 1 then 1 + ones n (v / 2) else 0

/-- The configuration byte and the address of PMP entry `i`. -/
def pmpCfg (s : State) (k i : Nat) : Nat := bits (csrOf s k (0x3A0 + i / 8 * 2)).toNat (i % 8 * 8) 8
def pmpAddr (s : State) (k i : Nat) : Nat := (csrOf s k (0x3B0 + i)).toNat

/-- The range of a PMP entry, from its first byte to past its last. -/
def pmpRange (s : State) (k i : Nat) : Nat × Nat :=
  let a := pmpAddr s k i
  match bits (pmpCfg s k i) 3 2 with
  | 0 => (0, 0)
  | 1 => ((if i = 0 then 0 else pmpAddr s k (i - 1) * 4), a * 4)
  | 2 => (a * 4, a * 4 + 4)
  | _ => let z := 2 ^ (ones 54 a + 3)
         (a * 4 / z * z, a * 4 / z * z + z)

/-- May an access to `n` bytes at `pa` go ahead? `right` is 0 read, 1 write, 2 execute. The first entry that matches any
byte decides; it must match every byte. An empty range matches nothing. -/
def pmpOk (s : State) (k : Nat) (user : Bool) (right pa n : Nat) : Bool :=
  match (span 0 16).find? fun i => let r := pmpRange s k i; r.1 < r.2 && r.1 < pa + n && pa < r.2 with
  | none => !user
  | some i =>
    (pmpRange s k i).1 ≤ pa && pa + n ≤ (pmpRange s k i).2 &&
    ((!user && !(pmpCfg s k i).testBit 7) || (pmpCfg s k i).testBit right)

/-- The mode of loads and stores: MPP's under MPRV. -/
def dataUser (s : State) (k : Nat) : Bool :=
  if bit (csrOf s k 0x300) 17 then fld (csrOf s k 0x300) 12 11 ≠ 3 else (getThread s k).user

/-! Memory (R393, R407): registers by 64-bit words; storage in clear at its point of coherence. -/

/-- A load of `n` bytes. -/
def rvLoad (s : State) (k : Nat) (va : Word) (n : Nat) : Except RvTrap Nat :=
  let pa := va.toNat
  if pa % n ≠ 0 then .error (4, va)
  else if 2 ^ 52 ≤ pa || !pmpOk s k (dataUser s k) 0 pa n then .error (5, va)
  else
    match regAt s pa with
    | some (sp, off) => if n = 8 then .ok (regRead s sp off).toNat else .error (5, va)
    | none =>
      if stores s (span pa n) && !anyPsn s (span pa n) then .ok (leNat (rdBytes s 0 (span pa n))) else .error (5, va)

/-- A store of `n` bytes. -/
def rvStore (s : State) (k : Nat) (va : Word) (n v : Nat) : Except RvTrap State :=
  let pa := va.toNat
  if pa % n ≠ 0 then .error (6, va)
  else if 2 ^ 52 ≤ pa || !pmpOk s k (dataUser s k) 1 pa n then .error (7, va)
  else
    match regAt s pa with
    | some (sp, off) => if n = 8 then .ok (regWrite s false sp off (wd v)) else .error (7, va)
    | none => if stores s (span pa n) then .ok (putBytes s 0 ((span pa n).zip (leBytes n v)) false) else .error (7, va)

/-- A word of storage that an A-extension operation reads; registers take none. -/
def rvAmoRead (s : State) (k : Nat) (va : Word) (n : Nat) (lr : Bool) : Except RvTrap Nat :=
  let pa := va.toNat
  if pa % n ≠ 0 then .error (if lr then 4 else 6, va)
  else if 2 ^ 52 ≤ pa || !pmpOk s k (dataUser s k) (if lr then 0 else 1) pa n || (regAt s pa).isSome ||
      !stores s (span pa n) || anyPsn s (span pa n) then .error (if lr then 5 else 7, va)
  else .ok (leNat (rdBytes s 0 (span pa n)))

/-! Compressed instructions, as the 32-bit words that they stand for. -/

def encI (imm rs f rd op : Nat) : Nat := imm % 4096 * 2 ^ 20 + rs * 2 ^ 15 + f * 2 ^ 12 + rd * 2 ^ 7 + op
def encR (f7 rs2 rs1 f rd op : Nat) : Nat := f7 * 2 ^ 25 + rs2 * 2 ^ 20 + rs1 * 2 ^ 15 + f * 2 ^ 12 + rd * 2 ^ 7 + op
def encS (imm rs2 rs1 f op : Nat) : Nat := encR (bits imm 5 7) rs2 rs1 f (bits imm 0 5) op
def encB (imm rs2 rs1 f : Nat) : Nat :=
  encR (bits imm 12 1 * 64 + bits imm 5 6) rs2 rs1 f (bits imm 1 4 * 2 + bits imm 11 1) 0x63
def encJ (imm rd : Nat) : Nat :=
  bits imm 20 1 * 2 ^ 31 + bits imm 1 10 * 2 ^ 21 + bits imm 11 1 * 2 ^ 20 + bits imm 12 8 * 2 ^ 12 + rd * 2 ^ 7 + 0x6F

/-- A field of `n` bits sign-extended to 32, as a number. -/
def sx (n v : Nat) : Nat := ((BitVec.ofNat n v).signExtend 32).toNat

/-- The expansion of a compressed instruction. -/
def expandC (c : Nat) : Option Nat :=
  let r1 := bits c 7 5
  let r2 := bits c 2 5
  let p1 := bits c 7 3 + 8
  let p2 := bits c 2 3 + 8
  let i6 := bits c 12 1 * 32 + r2
  let s6 := sx 6 i6
  let uw := bits c 10 3 * 8 + bits c 6 1 * 4 + bits c 5 1 * 64
  let ud := bits c 10 3 * 8 + bits c 5 2 * 64
  match c % 4, bits c 13 3 with
  | 0, 0 =>
    let n := bits c 11 2 * 16 + bits c 7 4 * 64 + bits c 6 1 * 4 + bits c 5 1 * 8
    if n = 0 then none else some (encI n 2 0 p2 0x13)
  | 0, 2 => some (encI uw p1 2 p2 0x03)
  | 0, 3 => some (encI ud p1 3 p2 0x03)
  | 0, 6 => some (encS uw p2 p1 2 0x23)
  | 0, 7 => some (encS ud p2 p1 3 0x23)
  | 1, 0 => some (encI s6 r1 0 r1 0x13)
  | 1, 1 => if r1 = 0 then none else some (encI s6 r1 0 r1 0x1B)
  | 1, 2 => some (encI s6 0 0 r1 0x13)
  | 1, 3 =>
    if i6 = 0 then none
    else if r1 = 2 then
      let n := bits c 12 1 * 512 + bits c 6 1 * 16 + bits c 5 1 * 64 + bits c 3 2 * 128 + bits c 2 1 * 32
      some (encI (sx 10 n) 2 0 2 0x13)
    else some (s6 % 2 ^ 20 * 2 ^ 12 + r1 * 2 ^ 7 + 0x37)
  | 1, 4 =>
    match bits c 10 2 with
    | 0 => some (encI i6 p1 5 p1 0x13)
    | 1 => some (encI (i6 + 0x400) p1 5 p1 0x13)
    | 2 => some (encI s6 p1 7 p1 0x13)
    | _ =>
      match bits c 12 1, bits c 5 2 with
      | 0, 0 => some (encR 0x20 p2 p1 0 p1 0x33)
      | 0, 1 => some (encR 0 p2 p1 4 p1 0x33)
      | 0, 2 => some (encR 0 p2 p1 6 p1 0x33)
      | 0, _ => some (encR 0 p2 p1 7 p1 0x33)
      | _, 0 => some (encR 0x20 p2 p1 0 p1 0x3B)
      | _, 1 => some (encR 0 p2 p1 0 p1 0x3B)
      | _, _ => none
  | 1, 5 =>
    let n := bits c 12 1 * 2048 + bits c 11 1 * 16 + bits c 9 2 * 256 + bits c 8 1 * 1024 + bits c 7 1 * 64 + bits c 6 1 * 128 +
      bits c 3 3 * 2 + bits c 2 1 * 32
    some (encJ (sx 12 n) 0)
  | 1, f =>
    let n := bits c 12 1 * 256 + bits c 10 2 * 8 + bits c 5 2 * 64 + bits c 3 2 * 2 + bits c 2 1 * 32
    if f = 6 then some (encB (sx 9 n) 0 p1 0) else if f = 7 then some (encB (sx 9 n) 0 p1 1) else none
  | 2, 0 => some (encI i6 r1 1 r1 0x13)
  | 2, 2 => if r1 = 0 then none else some (encI (bits c 12 1 * 32 + bits c 4 3 * 4 + bits c 2 2 * 64) 2 2 r1 0x03)
  | 2, 3 => if r1 = 0 then none else some (encI (bits c 12 1 * 32 + bits c 5 2 * 8 + bits c 2 3 * 64) 2 3 r1 0x03)
  | 2, 4 =>
    if bits c 12 1 = 0 then
      if r2 = 0 then (if r1 = 0 then none else some (encI 0 r1 0 0 0x67)) else some (encR 0 r2 0 0 r1 0x33)
    else if r2 = 0 then (if r1 = 0 then some 0x00100073 else some (encI 0 r1 0 1 0x67))
    else some (encR 0 r2 r1 0 r1 0x33)
  | 2, 6 => some (encS (bits c 9 4 * 4 + bits c 7 2 * 64) r2 2 2 0x23)
  | 2, 7 => some (encS (bits c 10 3 * 8 + bits c 7 3 * 64) r2 2 3 0x23)
  | _, _ => none

/-! Arithmetic. -/

/-- Signed division and remainder at the corners of RISC-V: by zero, and the most negative by −1. -/
def rvDiv (n : Nat) (a b : BitVec n) : BitVec n := if b = 0 then BitVec.allOnes n else a.sdiv b
def rvRem (n : Nat) (a b : BitVec n) : BitVec n := if b = 0 then a else a.srem b
def rvDivu (n : Nat) (a b : BitVec n) : BitVec n := if b = 0 then BitVec.allOnes n else a / b
def rvRemu (n : Nat) (a b : BitVec n) : BitVec n := if b = 0 then a else a % b

/-- The 64-bit register operations by funct7 and funct3. -/
def rvOp (f7 f : Nat) (a b : Word) : Option Word :=
  let sh := b.toNat % 64
  match f7, f with
  | 0, 0 => some (a + b) | 0x20, 0 => some (a - b)
  | 0, 1 => some (a <<< sh) | 0, 2 => some (wd (b2n (a.slt b))) | 0, 3 => some (wd (b2n (a.ult b)))
  | 0, 4 => some (a ^^^ b) | 0, 5 => some (a >>> sh) | 0x20, 5 => some (a.sshiftRight sh)
  | 0, 6 => some (a ||| b) | 0, 7 => some (a &&& b)
  | 1, 0 => some (a * b)
  | 1, 1 => some (BitVec.ofInt 64 (a.toInt * b.toInt / 2 ^ 64))
  | 1, 2 => some (BitVec.ofInt 64 (a.toInt * b.toNat / 2 ^ 64))
  | 1, 3 => some (wd (a.toNat * b.toNat / 2 ^ 64))
  | 1, 4 => some (rvDiv 64 a b) | 1, 5 => some (rvDivu 64 a b) | 1, 6 => some (rvRem 64 a b) | 1, 7 => some (rvRemu 64 a b)
  | _, _ => none

/-- The 32-bit register operations. -/
def rvOpW (f7 f : Nat) (a b : Word) : Option Word :=
  let x : BitVec 32 := a.truncate 32
  let y : BitVec 32 := b.truncate 32
  let sh := y.toNat % 32
  let r : Option (BitVec 32) := match f7, f with
    | 0, 0 => some (x + y) | 0x20, 0 => some (x - y) | 0, 1 => some (x <<< sh)
    | 0, 5 => some (x >>> sh) | 0x20, 5 => some (x.sshiftRight sh)
    | 1, 0 => some (x * y) | 1, 4 => some (rvDiv 32 x y) | 1, 5 => some (rvDivu 32 x y)
    | 1, 6 => some (rvRem 32 x y) | 1, 7 => some (rvRemu 32 x y)
    | _, _ => none
  r.map (·.signExtend 64)

/-- The immediate operations: the shifts take funct6 or funct7 from the immediate. -/
def rvOpImm (w f : Nat) (a : Word) : Option Word :=
  let imm := bits w 20 12
  match f with
  | 1 => if imm / 64 = 0 then rvOp 0 1 a (wd (imm % 64)) else none
  | 5 => if imm / 64 = 0 then rvOp 0 5 a (wd (imm % 64)) else if imm / 64 = 0x10 then rvOp 0x20 5 a (wd (imm % 64)) else none
  | _ => rvOp 0 f a (sext 12 imm)

/-- The same on 32 bits. -/
def rvOpImmW (w f : Nat) (a : Word) : Option Word :=
  let imm := bits w 20 12
  match f with
  | 0 => rvOpW 0 0 a (sext 12 imm)
  | 1 => if imm / 32 = 0 then rvOpW 0 1 a (wd (imm % 32)) else none
  | 5 => if imm / 32 = 0 then rvOpW 0 5 a (wd (imm % 32)) else if imm / 32 = 0x20 then rvOpW 0x20 5 a (wd (imm % 32)) else none
  | _ => none

/-- Is a branch taken? -/
def rvBranch (f : Nat) (a b : Word) : Option Bool :=
  match f with
  | 0 => some (a == b) | 1 => some (a != b) | 4 => some (a.slt b) | 5 => some (!a.slt b)
  | 6 => some (a.ult b) | 7 => some (!a.ult b) | _ => none

/-- The new value of an atomic operation on `n` bits. -/
def rvAmo (n f5 : Nat) (m v : BitVec n) : Option (BitVec n) :=
  match f5 with
  | 0 => some (m + v) | 1 => some v | 4 => some (m ^^^ v) | 8 => some (m ||| v) | 0x0C => some (m &&& v)
  | 0x10 => some (if m.slt v then m else v) | 0x14 => some (if m.slt v then v else m)
  | 0x18 => some (if m.ult v then m else v) | 0x1C => some (if m.ult v then v else m)
  | _ => none

/-! CSRs. -/

/-- The CSRs that a thread has. -/
def csrKnown (c : Nat) : Bool :=
  [0x300, 0x301, 0x304, 0x305, 0x306, 0x30A, 0x320, 0x340, 0x341, 0x342, 0x343, 0x344, 0x3A0, 0x3A2, 0xF11, 0xF12, 0xF13, 0xF14,
   0xF15].contains c || (0x3B0 ≤ c && c < 0x3C0) || (0xB00 ≤ c && c < 0xB20 && c ≠ 0xB01) || (0x323 ≤ c && c < 0x340)

/-- A Trestle cycle count at 1.2 GHz (R3, R393). -/
def trCycles (s : State) : Word := wd (s.cycle * 2 / 3)

/-- The value of a CSR. The instruction that reads minstret has already been counted, and is not in the value. -/
def csrRead (s : State) (k c : Nat) : Word :=
  match c with
  | 0x300 => csrOf s k c ||| wd (2 ^ 33)
  | 0x301 => wd (2 ^ 63 + 2 ^ 20 + 2 ^ 12 + 2 ^ 8 + 2 ^ 2 + 1)
  | 0xB00 => csrOf s k c + trCycles s
  | 0xB02 => csrOf s k c - 1
  | 0xF14 => wd k
  | _ => csrOf s k c

/-- A PMP configuration word: locked bytes stay, reserved bits are zero, and W without R is no right. -/
def pmpCfgWord (old v : Word) : Word :=
  ofBytes ((span 0 8).map fun i =>
    let o := bits old.toNat (8 * i) 8
    let n := bits v.toNat (8 * i) 8
    let n := n - bits n 5 2 * 32
    BitVec.ofNat 8 (if o.testBit 7 then o else if n % 4 = 2 then n - 2 else n))

/-- Is PMP address `i` locked: by its own entry, or as the base of a locked TOR entry? -/
def pmpLocked (s : State) (k i : Nat) : Bool :=
  (pmpCfg s k i).testBit 7 || (i < 15 && (pmpCfg s k (i + 1)).testBit 7 && bits (pmpCfg s k (i + 1)) 3 2 = 1)

/-- The write of a CSR, legal values only. -/
def csrWrite (s : State) (k c : Nat) (v : Word) : State :=
  match c with
  | 0x300 =>
    let mpp := fld v 12 11
    let o := csrOf s k c
    let keep := if mpp = 0 || mpp = 3 then mpp else fld o 12 11
    setCsr s k c (setFld (v &&& wd (2 ^ 3 + 2 ^ 7 + 2 ^ 17 + 2 ^ 21)) 12 11 keep)
  | 0x304 => setCsr s k c (v &&& 0x888)
  | 0x305 => setCsr s k c (v &&& (BitVec.allOnes 64 - 2))
  | 0x30A => setCsr s k c (v &&& 1)
  | 0x340 | 0x342 | 0x343 | 0xB02 => setCsr s k c v
  | 0x341 => setCsr s k c (v &&& (BitVec.allOnes 64 - 1))
  | 0x3A0 | 0x3A2 => setCsr s k c (pmpCfgWord (csrOf s k c) v)
  | 0xB00 => setCsr s k c (v - trCycles s)
  | _ =>
    if 0x3B0 ≤ c && c < 0x3C0 then
      if pmpLocked s k (c - 0x3B0) then s else setCsr s k c (v &&& wd (2 ^ 54 - 1))
    else s

/-- A CSR instruction: the old value into rd, the new one written unless the source says that there is none. -/
def rvCsr (s : State) (k w : Nat) : Option State :=
  let c := bits w 20 12
  let f := bits w 12 3
  let src := bits w 15 5
  let writes := f % 4 = 1 || src ≠ 0
  if !csrKnown c || (getThread s k).user || (writes && c / 1024 = 3) then none
  else
    let old := csrRead s k c
    let v := if 4 ≤ f then wd src else rx s k src
    let new := if f % 4 = 1 then v else if f % 4 = 2 then old ||| v else old &&& ~~~v
    let s := if writes then csrWrite s k c new else s
    some (setRx s k (bits w 7 5) old)

/-- Enter a trap in Machine mode. -/
def rvTrap (s : State) (k : Nat) (tr : RvTrap) : State :=
  let th := getThread s k
  let m := csrOf s k 0x300
  let m' := setFld (setBit (setBit m 7 (bit m 3)) 3 false) 12 11 (if th.user then 0 else 3)
  modThread s k fun t => { t with
    csr := tput 0x300 m' (tput 0x341 t.pc (tput 0x342 (wd tr.1) (tput 0x343 tr.2 t.csr)))
    user := false, pc := csrOf s k 0x305 &&& (BitVec.allOnes 64 - 3) }

/-- MRET. -/
def rvMret (s : State) (k : Nat) : State :=
  let m := csrOf s k 0x300
  let user := fld m 12 11 ≠ 3
  let m' := setFld (setBit (setBit m 3 (bit m 7)) 7 true) 12 11 0
  modThread s k fun t => { t with
    csr := tput 0x300 (if user then setBit m' 17 false else m') t.csr, user := user, pc := csrOf s k 0x341 }

/-! Execution. -/

/-- Set the pc. -/
def goTo (s : State) (k : Nat) (pc : Word) : State := modThread s k fun t => { t with pc := pc &&& (BitVec.allOnes 64 - 1) }

/-- An A-extension instruction. The model performs each access at once, so aq and rl order nothing more (R206, R210). -/
def rvAtomic (s : State) (k w : Nat) (next : Word) (ill : RvTrap) : Except RvTrap State :=
  let f := bits w 12 3
  let f5 := bits w 27 5
  let rd := bits w 7 5
  let rs2 := bits w 20 5
  let va := rx s k (bits w 15 5)
  let n := if f = 2 then 4 else 8
  let reg := fun (v : Nat) => if n = 4 then sext 32 v else wd v
  let put := fun (s : State) (v : Nat) => putBytes s 0 ((span va.toNat n).zip (leBytes n v)) false
  if f ≠ 2 && f ≠ 3 then .error ill
  else if f5 = 2 then
    if rs2 ≠ 0 then .error ill
    else match rvAmoRead s k va n true with
      | .error e => .error e
      | .ok v => .ok (goTo (setRx { s with lrs := tput k (va.toNat / 8) s.lrs } k rd (reg v)) k next)
  else if f5 = 3 then
    match rvAmoRead s k va n false with
    | .error e => .error e
    | .ok _ =>
      let ok := tfind s.lrs k = some (va.toNat / 8)
      let s := if ok then put s (rx s k rs2).toNat else s
      .ok (goTo (setRx { s with lrs := tdel k s.lrs } k rd (wd (b2n !ok))) k next)
  else
    match rvAmoRead s k va n false with
    | .error e => if (rvAmo 64 f5 0 0).isNone then .error ill else .error e
    | .ok m =>
      let v := (rx s k rs2).toNat
      let r := if n = 4 then (rvAmo 32 f5 (BitVec.ofNat 32 m) (BitVec.ofNat 32 v)).map (·.toNat)
        else (rvAmo 64 f5 (BitVec.ofNat 64 m) (BitVec.ofNat 64 v)).map (·.toNat)
      match r with
      | none => .error ill
      | some x => .ok (goTo (setRx (put s x) k rd (reg m)) k next)

/-- A SYSTEM instruction. -/
def rvSystem (s : State) (k w : Nat) (next : Word) (ill : RvTrap) : Except RvTrap State :=
  let user := (getThread s k).user
  if bits w 12 3 ≠ 0 then
    if bits w 12 3 = 4 then .error ill
    else match rvCsr s k w with
      | none => .error ill
      | some s => .ok (goTo s k next)
  else if w = 0x00000073 then .error (if user then 8 else 11, 0)
  else if w = 0x00100073 then .error (3, (getThread s k).pc)
  else if w = 0x30200073 then if user then .error ill else .ok (rvMret s k)
  else if w = 0x10500073 then if user && bit (csrOf s k 0x300) 21 then .error ill else .ok (goTo s k next)
  else .error ill

/-- A 32-bit instruction of thread `k`; `next` is the address after it, `ill` its illegal-instruction exception. -/
def rvExec (s : State) (k w : Nat) (next : Word) (ill : RvTrap) : Except RvTrap State :=
  let pc := (getThread s k).pc
  let rd := bits w 7 5
  let f := bits w 12 3
  let a := rx s k (bits w 15 5)
  let b := rx s k (bits w 20 5)
  let imm := sext 12 (bits w 20 12)
  let put := fun (v : Option Word) => (match v with
    | some v => .ok (goTo (setRx s k rd v) k next)
    | none => .error ill : Except RvTrap State)
  match w % 128 with
  | 0x37 => put (some (sext 32 (w / 4096 * 4096)))
  | 0x17 => put (some (pc + sext 32 (w / 4096 * 4096)))
  | 0x6F =>
    let off := sext 21 (bits w 31 1 * 2 ^ 20 + bits w 12 8 * 2 ^ 12 + bits w 20 1 * 2 ^ 11 + bits w 21 10 * 2)
    .ok (goTo (setRx s k rd next) k (pc + off))
  | 0x67 => if f ≠ 0 then .error ill else .ok (goTo (setRx s k rd next) k (a + imm))
  | 0x63 =>
    let off := sext 13 (bits w 31 1 * 2 ^ 12 + bits w 7 1 * 2 ^ 11 + bits w 25 6 * 32 + bits w 8 4 * 2)
    (match rvBranch f a b with
     | none => .error ill
     | some t => .ok (goTo s k (if t then pc + off else next)))
  | 0x03 =>
    if f = 7 then .error ill
    else
      let n := 2 ^ (f % 4)
      (match rvLoad s k (a + imm) n with
       | .error e => .error e
       | .ok v => .ok (goTo (setRx s k rd (if f < 4 then sext (8 * n) v else wd v)) k next))
  | 0x23 =>
    if 4 ≤ f then .error ill
    else
      rvStore (goTo s k next) k (a + sext 12 (bits w 25 7 * 32 + rd)) (2 ^ f) b.toNat
  | 0x13 => put (rvOpImm w f a)
  | 0x1B => put (rvOpImmW w f a)
  | 0x33 => put (rvOp (bits w 25 7) f a b)
  | 0x3B => put (rvOpW (bits w 25 7) f a b)
  | 0x0F => if f = 0 || f = 1 then .ok (goTo s k next) else .error ill
  | 0x2F => rvAtomic s k w next ill
  | 0x73 => rvSystem s k w next ill
  | _ => .error ill

/-- A 16-bit parcel of the instruction stream. -/
def rvParcel (s : State) (k : Nat) (pc : Word) : Except RvTrap Nat :=
  let pas := span pc.toNat 2
  if 2 ^ 52 ≤ pc.toNat || !pmpOk s k (getThread s k).user 2 pc.toNat 2 || (regAt s pc.toNat).isSome || !stores s pas || anyPsn s pas then
    .error (1, pc)
  else .ok (leNat (rdBytes s 0 pas))

/-- Fetch and execute one instruction of a thread. -/
def rvStep (s : State) (k : Nat) : Except RvTrap State :=
  let pc := (getThread s k).pc
  match rvParcel s k pc with
  | .error e => .error e
  | .ok lo =>
    if lo % 4 ≠ 3 then
      match expandC lo with
      | none => .error (2, wd lo)
      | some w => rvExec s k w (pc + 2) (2, wd lo)
    else
      match rvParcel s k (pc + 2) with
      | .error e => .error e
      | .ok hi => rvExec s k (hi * 65536 + lo) (pc + 4) (2, wd (hi * 65536 + lo))

/-- TRESTLE_INSTRUCTION (R393): the thread whose turn it is issues one instruction, once the boot ROM has entered an
image; the turn passes on. -/
def execTrestleInstruction (t : Nat) (s : State) : Out :=
  .next (if t ≠ s.tr.turn || !s.tr.booted || s.tr.fw = .recovery then s
  else
    let counted := modThread s t fun x => { x with csr := tmod 0 0xB02 (· + 1) x.csr }
    let s' := match rvStep counted t with
      | .error e => rvTrap s t e
      | .ok s' => s'
    modTr s' fun x => { x with turn := (t + 1) % 32 })

end Sys2Proof.Machine
end

