-- ==== Sys2Proof/Machine/Scalar.lean ====
section
/-! DEFINITION. Majors 0x01 to 0x0C: integer register and immediate operations (R263 to R266). -/

namespace Sys2Proof.Machine

/-- An integer clamped to the signed 64-bit range (R263). -/
def clamp64 (v : Int) : Word :=
  if v > 2 ^ 63 - 1 then wd (2 ^ 63 - 1) else if v < -(2 ^ 63) then wd (2 ^ 63) else BitVec.ofInt 64 v

/-- The count of a shift: bits 5..0 (R263). -/
def shamt (b : Word) : Nat := b.toNat % 64

/-- Leading zero bits; 64 for zero (R263). -/
def clz (a : Word) : Nat := if a = 0 then 64 else 63 - Nat.log2 a.toNat

/-- Trailing zero bits; 64 for zero (R263). -/
def ctz (a : Word) : Nat := ((span 0 64).find? fun i => bit a i).getD 64

/-- Number of one bits (R263). -/
def popc (a : Word) : Nat := ((span 0 64).filter fun i => bit a i).length

/-- Bit i moved to bit 63 - i (R263). -/
def brev (a : Word) : Word := wd ((span 0 64).foldl (fun n i => n * 2 + b2n (bit a i)) 0)

/-- The high half of the exact signed product (R263). -/
def mulhi (a b : Word) : Word := BitVec.ofInt 64 (a.toInt * b.toInt / 2 ^ 64)

/-- The high half of the exact unsigned product (R263). -/
def mulhiN (a b : Word) : Word := wd (a.toNat * b.toNat / 2 ^ 64)

/-- Signed quotient toward zero, with the corners of R264. -/
def divS (a b : Word) : Word := if b = 0 then BitVec.allOnes 64 else a.sdiv b
/-- Unsigned quotient (R264). -/
def divU (a b : Word) : Word := if b = 0 then BitVec.allOnes 64 else a / b
/-- Signed remainder with the sign of A (R264). -/
def remS (a b : Word) : Word := if b = 0 then a else a.srem b
/-- Unsigned remainder (R264). -/
def remU (a b : Word) : Word := if b = 0 then a else a % b

def execAdd (sw : Bool) (d a b : Fin 32) (s : State) : Out := .next (scalar (.add sw d a b) sw d [a, b] (reg s a + reg s b) s)
def execSub (sw : Bool) (d a b : Fin 32) (s : State) : Out := .next (scalar (.sub sw d a b) sw d [a, b] (reg s a - reg s b) s)
def execAnd (sw : Bool) (d a b : Fin 32) (s : State) : Out := .next (scalar (.and sw d a b) sw d [a, b] (reg s a &&& reg s b) s)
def execOr (sw : Bool) (d a b : Fin 32) (s : State) : Out := .next (scalar (.or sw d a b) sw d [a, b] (reg s a ||| reg s b) s)
def execXor (sw : Bool) (d a b : Fin 32) (s : State) : Out := .next (scalar (.xor sw d a b) sw d [a, b] (reg s a ^^^ reg s b) s)
def execAndn (sw : Bool) (d a b : Fin 32) (s : State) : Out := .next (scalar (.andn sw d a b) sw d [a, b] (reg s a &&& ~~~reg s b) s)
def execAddsat (sw : Bool) (d a b : Fin 32) (s : State) : Out :=
  .next (scalar (.addsat sw d a b) sw d [a, b] (clamp64 ((reg s a).toInt + (reg s b).toInt)) s)
def execSubsat (sw : Bool) (d a b : Fin 32) (s : State) : Out :=
  .next (scalar (.subsat sw d a b) sw d [a, b] (clamp64 ((reg s a).toInt - (reg s b).toInt)) s)
def execSll (sw : Bool) (d a b : Fin 32) (s : State) : Out := .next (scalar (.sll sw d a b) sw d [a, b] (reg s a <<< shamt (reg s b)) s)
def execSrl (sw : Bool) (d a b : Fin 32) (s : State) : Out := .next (scalar (.srl sw d a b) sw d [a, b] (reg s a >>> shamt (reg s b)) s)
def execSra (sw : Bool) (d a b : Fin 32) (s : State) : Out :=
  .next (scalar (.sra sw d a b) sw d [a, b] ((reg s a).sshiftRight (shamt (reg s b))) s)
def execRol (sw : Bool) (d a b : Fin 32) (s : State) : Out :=
  .next (scalar (.rol sw d a b) sw d [a, b] ((reg s a).rotateLeft (shamt (reg s b))) s)
def execRor (sw : Bool) (d a b : Fin 32) (s : State) : Out :=
  .next (scalar (.ror sw d a b) sw d [a, b] ((reg s a).rotateRight (shamt (reg s b))) s)
def execClz (sw : Bool) (d a : Fin 32) (s : State) : Out := .next (scalar (.clz sw d a) sw d [a] (wd (clz (reg s a))) s)
def execCtz (sw : Bool) (d a : Fin 32) (s : State) : Out := .next (scalar (.ctz sw d a) sw d [a] (wd (ctz (reg s a))) s)
def execPopc (sw : Bool) (d a : Fin 32) (s : State) : Out := .next (scalar (.popc sw d a) sw d [a] (wd (popc (reg s a))) s)
def execBrev (sw : Bool) (d a : Fin 32) (s : State) : Out := .next (scalar (.brev sw d a) sw d [a] (brev (reg s a)) s)
def execBswap (sw : Bool) (d a : Fin 32) (s : State) : Out :=
  .next (scalar (.bswap sw d a) sw d [a] (ofBytes (wBytes (reg s a)).reverse) s)

def execMul (sw : Bool) (d a b : Fin 32) (s : State) : Out := .next (scalarLate (.mul sw d a b) sw d [a, b] (reg s a * reg s b) s)
def execMulh (sw : Bool) (d a b : Fin 32) (s : State) : Out := .next (scalarLate (.mulh sw d a b) sw d [a, b] (mulhi (reg s a) (reg s b)) s)
def execMulhn (sw : Bool) (d a b : Fin 32) (s : State) : Out :=
  .next (scalarLate (.mulhn sw d a b) sw d [a, b] (mulhiN (reg s a) (reg s b)) s)
def execDiv (sw : Bool) (d a b : Fin 32) (s : State) : Out := .next (scalarLate (.div sw d a b) sw d [a, b] (divS (reg s a) (reg s b)) s)
def execDivn (sw : Bool) (d a b : Fin 32) (s : State) : Out := .next (scalarLate (.divn sw d a b) sw d [a, b] (divU (reg s a) (reg s b)) s)
def execRem (sw : Bool) (d a b : Fin 32) (s : State) : Out := .next (scalarLate (.rem sw d a b) sw d [a, b] (remS (reg s a) (reg s b)) s)
def execRemn (sw : Bool) (d a b : Fin 32) (s : State) : Out := .next (scalarLate (.remn sw d a b) sw d [a, b] (remU (reg s a) (reg s b)) s)

def execSlt (sw : Bool) (d a b : Fin 32) (s : State) : Out := .next (scalar (.slt sw d a b) sw d [a, b] (wb ((reg s a).slt (reg s b))) s)
def execSltn (sw : Bool) (d a b : Fin 32) (s : State) : Out := .next (scalar (.sltn sw d a b) sw d [a, b] (wb ((reg s a).ult (reg s b))) s)
def execSeq (sw : Bool) (d a b : Fin 32) (s : State) : Out := .next (scalar (.seq sw d a b) sw d [a, b] (wb (reg s a == reg s b)) s)
def execMin (sw : Bool) (d a b : Fin 32) (s : State) : Out :=
  .next (scalar (.min sw d a b) sw d [a, b] (if (reg s b).slt (reg s a) then reg s b else reg s a) s)
def execMax (sw : Bool) (d a b : Fin 32) (s : State) : Out :=
  .next (scalar (.max sw d a b) sw d [a, b] (if (reg s a).slt (reg s b) then reg s b else reg s a) s)
def execMinn (sw : Bool) (d a b : Fin 32) (s : State) : Out :=
  .next (scalar (.minn sw d a b) sw d [a, b] (if (reg s b).ult (reg s a) then reg s b else reg s a) s)
def execMaxn (sw : Bool) (d a b : Fin 32) (s : State) : Out :=
  .next (scalar (.maxn sw d a b) sw d [a, b] (if (reg s a).ult (reg s b) then reg s b else reg s a) s)

def execAddi (sw : Bool) (d a : Fin 32) (imm : BitVec 15) (s : State) : Out := .next (scalarImm (.addi sw d a imm) sw d a imm (· + ·) s)
def execAndi (sw : Bool) (d a : Fin 32) (imm : BitVec 15) (s : State) : Out := .next (scalarImm (.andi sw d a imm) sw d a imm (· &&& ·) s)
def execOri (sw : Bool) (d a : Fin 32) (imm : BitVec 15) (s : State) : Out := .next (scalarImm (.ori sw d a imm) sw d a imm (· ||| ·) s)
def execXori (sw : Bool) (d a : Fin 32) (imm : BitVec 15) (s : State) : Out := .next (scalarImm (.xori sw d a imm) sw d a imm (· ^^^ ·) s)
def execSlti (sw : Bool) (d a : Fin 32) (imm : BitVec 15) (s : State) : Out :=
  .next (scalarImm (.slti sw d a imm) sw d a imm (fun x y => wb (x.slt y)) s)
def execSltin (sw : Bool) (d a : Fin 32) (imm : BitVec 15) (s : State) : Out :=
  .next (scalarImm (.sltin sw d a imm) sw d a imm (fun x y => wb (x.ult y)) s)
/-- LAPC reads no register: its base is its own address, under LIX too (R265). -/
def execLapc (sw : Bool) (d : Fin 32) (imm : BitVec 15) (s : State) : Out :=
  .next (issue (.lapc sw d imm) .imm 0 s fun s =>
    retire (writeReg s s.cur d.val ((getSlot s s.cur).pc + immOf s imm) false) sw)
def execSlli (sw : Bool) (d a : Fin 32) (n : Fin 64) (s : State) : Out := .next (scalar (.slli sw d a n) sw d [a] (reg s a <<< n.val) s)
def execSrli (sw : Bool) (d a : Fin 32) (n : Fin 64) (s : State) : Out := .next (scalar (.srli sw d a n) sw d [a] (reg s a >>> n.val) s)
def execSrai (sw : Bool) (d a : Fin 32) (n : Fin 64) (s : State) : Out :=
  .next (scalar (.srai sw d a n) sw d [a] ((reg s a).sshiftRight n.val) s)
def execRori (sw : Bool) (d a : Fin 32) (n : Fin 64) (s : State) : Out :=
  .next (scalar (.rori sw d a n) sw d [a] ((reg s a).rotateRight n.val) s)

end Sys2Proof.Machine
end

