-- ==== Sys2Proof/Machine/Dispatch.lean ====
section
/-! DEFINITION. The meaning of every row, one arm per constructor. -/

namespace Sys2Proof.Machine

/-- The meaning of an instruction or step. -/
def exec (i : Instr) (s : State) : Host.Outcome State Fault Refusal :=
  match i with
  | .add sw d a b => Sys2Proof.Machine.execAdd sw d a b s
  | .sub sw d a b => Sys2Proof.Machine.execSub sw d a b s
  | .and sw d a b => Sys2Proof.Machine.execAnd sw d a b s
  | .or sw d a b => Sys2Proof.Machine.execOr sw d a b s
  | .xor sw d a b => Sys2Proof.Machine.execXor sw d a b s
  | .andn sw d a b => Sys2Proof.Machine.execAndn sw d a b s
  | .addsat sw d a b => Sys2Proof.Machine.execAddsat sw d a b s
  | .subsat sw d a b => Sys2Proof.Machine.execSubsat sw d a b s
  | .sll sw d a b => Sys2Proof.Machine.execSll sw d a b s
  | .srl sw d a b => Sys2Proof.Machine.execSrl sw d a b s
  | .sra sw d a b => Sys2Proof.Machine.execSra sw d a b s
  | .rol sw d a b => Sys2Proof.Machine.execRol sw d a b s
  | .ror sw d a b => Sys2Proof.Machine.execRor sw d a b s
  | .clz sw d a => Sys2Proof.Machine.execClz sw d a s
  | .ctz sw d a => Sys2Proof.Machine.execCtz sw d a s
  | .popc sw d a => Sys2Proof.Machine.execPopc sw d a s
  | .brev sw d a => Sys2Proof.Machine.execBrev sw d a s
  | .bswap sw d a => Sys2Proof.Machine.execBswap sw d a s
  | .mul sw d a b => Sys2Proof.Machine.execMul sw d a b s
  | .mulh sw d a b => Sys2Proof.Machine.execMulh sw d a b s
  | .mulhn sw d a b => Sys2Proof.Machine.execMulhn sw d a b s
  | .div sw d a b => Sys2Proof.Machine.execDiv sw d a b s
  | .divn sw d a b => Sys2Proof.Machine.execDivn sw d a b s
  | .rem sw d a b => Sys2Proof.Machine.execRem sw d a b s
  | .remn sw d a b => Sys2Proof.Machine.execRemn sw d a b s
  | .slt sw d a b => Sys2Proof.Machine.execSlt sw d a b s
  | .sltn sw d a b => Sys2Proof.Machine.execSltn sw d a b s
  | .seq sw d a b => Sys2Proof.Machine.execSeq sw d a b s
  | .min sw d a b => Sys2Proof.Machine.execMin sw d a b s
  | .max sw d a b => Sys2Proof.Machine.execMax sw d a b s
  | .minn sw d a b => Sys2Proof.Machine.execMinn sw d a b s
  | .maxn sw d a b => Sys2Proof.Machine.execMaxn sw d a b s
  | .addi sw d a imm => Sys2Proof.Machine.execAddi sw d a imm s
  | .andi sw d a imm => Sys2Proof.Machine.execAndi sw d a imm s
  | .ori sw d a imm => Sys2Proof.Machine.execOri sw d a imm s
  | .xori sw d a imm => Sys2Proof.Machine.execXori sw d a imm s
  | .slti sw d a imm => Sys2Proof.Machine.execSlti sw d a imm s
  | .sltin sw d a imm => Sys2Proof.Machine.execSltin sw d a imm s
  | .lapc sw d imm => Sys2Proof.Machine.execLapc sw d imm s
  | .slli sw d a n => Sys2Proof.Machine.execSlli sw d a n s
  | .srli sw d a n => Sys2Proof.Machine.execSrli sw d a n s
  | .srai sw d a n => Sys2Proof.Machine.execSrai sw d a n s
  | .rori sw d a n => Sys2Proof.Machine.execRori sw d a n s
  | .beq sw a b off => Sys2Proof.Machine.execBeq sw a b off s
  | .bne sw a b off => Sys2Proof.Machine.execBne sw a b off s
  | .blt sw a b off => Sys2Proof.Machine.execBlt sw a b off s
  | .bge sw a b off => Sys2Proof.Machine.execBge sw a b off s
  | .bltn sw a b off => Sys2Proof.Machine.execBltn sw a b off s
  | .bgen sw a b off => Sys2Proof.Machine.execBgen sw a b off s
  | .jal sw off => Sys2Proof.Machine.execJal sw off s
  | .jalr sw d a => Sys2Proof.Machine.execJalr sw d a s
  | .jtb sw d a b => Sys2Proof.Machine.execJtb sw d a b s
  | .ld sw d a imm => Sys2Proof.Machine.execLd sw d a imm s
  | .st sw base data imm => Sys2Proof.Machine.execSt sw base data imm s
  | .lxb sw d a b m => Sys2Proof.Machine.execLxb sw d a b m s
  | .lxbn sw d a b m => Sys2Proof.Machine.execLxbn sw d a b m s
  | .lxh sw d a b m => Sys2Proof.Machine.execLxh sw d a b m s
  | .lxhn sw d a b m => Sys2Proof.Machine.execLxhn sw d a b m s
  | .lxw sw d a b m => Sys2Proof.Machine.execLxw sw d a b m s
  | .lxwn sw d a b m => Sys2Proof.Machine.execLxwn sw d a b m s
  | .lxd sw d a b m => Sys2Proof.Machine.execLxd sw d a b m s
  | .lxdRemote sw slot a b m => Sys2Proof.Machine.execLxdRemote sw slot a b m s
  | .sxb sw d a b m => Sys2Proof.Machine.execSxb sw d a b m s
  | .sxh sw d a b m => Sys2Proof.Machine.execSxh sw d a b m s
  | .sxw sw d a b m => Sys2Proof.Machine.execSxw sw d a b m s
  | .sxd sw d a b m => Sys2Proof.Machine.execSxd sw d a b m s
  | .ldm sw a b c m => Sys2Proof.Machine.execLdm sw a b c m s
  | .stm sw a b c m => Sys2Proof.Machine.execStm sw a b c m s
  | .aswap sw a b c r => Sys2Proof.Machine.execAswap sw a b c r s
  | .aadd sw a b c r => Sys2Proof.Machine.execAadd sw a b c r s
  | .aand sw a b c r => Sys2Proof.Machine.execAand sw a b c r s
  | .aor sw a b c r => Sys2Proof.Machine.execAor sw a b c r s
  | .axor sw a b c r => Sys2Proof.Machine.execAxor sw a b c r s
  | .amin sw a b c r => Sys2Proof.Machine.execAmin sw a b c r s
  | .amax sw a b c r => Sys2Proof.Machine.execAmax sw a b c r s
  | .aminn sw a b c r => Sys2Proof.Machine.execAminn sw a b c r s
  | .amaxn sw a b c r => Sys2Proof.Machine.execAmaxn sw a b c r s
  | .acas sw a b c r => Sys2Proof.Machine.execAcas sw a b c r s
  | .fence sw o sc => Sys2Proof.Machine.execFence sw o sc s
  | .ldsc sw a b sc => Sys2Proof.Machine.execLdsc sw a b sc s
  | .stsc sw a b sc => Sys2Proof.Machine.execStsc sw a b sc s
  | .vadd sw d a b t => Sys2Proof.Machine.execVadd sw d a b t s
  | .vsub sw d a b t => Sys2Proof.Machine.execVsub sw d a b t s
  | .vmul sw d a b t => Sys2Proof.Machine.execVmul sw d a b t s
  | .vdiv sw d a b t => Sys2Proof.Machine.execVdiv sw d a b t s
  | .vmin sw d a b t => Sys2Proof.Machine.execVmin sw d a b t s
  | .vmax sw d a b t => Sys2Proof.Machine.execVmax sw d a b t s
  | .vabs sw d a t => Sys2Proof.Machine.execVabs sw d a t s
  | .vneg sw d a t => Sys2Proof.Machine.execVneg sw d a t s
  | .vsqrt sw d a t => Sys2Proof.Machine.execVsqrt sw d a t s
  | .vfma sw d a b c t => Sys2Proof.Machine.execVfma sw d a b c t s
  | .vfms sw d a b c t => Sys2Proof.Machine.execVfms sw d a b c t s
  | .vfnma sw d a b c t => Sys2Proof.Machine.execVfnma sw d a b c t s
  | .vfnms sw d a b c t => Sys2Proof.Machine.execVfnms sw d a b c t s
  | .vand sw d a b t => Sys2Proof.Machine.execVand sw d a b t s
  | .vor sw d a b t => Sys2Proof.Machine.execVor sw d a b t s
  | .vxor sw d a b t => Sys2Proof.Machine.execVxor sw d a b t s
  | .vandn sw d a b t => Sys2Proof.Machine.execVandn sw d a b t s
  | .vnot sw d a t => Sys2Proof.Machine.execVnot sw d a t s
  | .vshl sw d a b t => Sys2Proof.Machine.execVshl sw d a b t s
  | .vshr sw d a b t => Sys2Proof.Machine.execVshr sw d a b t s
  | .vshra sw d a b t => Sys2Proof.Machine.execVshra sw d a b t s
  | .vceq sw d a b t => Sys2Proof.Machine.execVceq sw d a b t s
  | .vcne sw d a b t => Sys2Proof.Machine.execVcne sw d a b t s
  | .vclt sw d a b t => Sys2Proof.Machine.execVclt sw d a b t s
  | .vcle sw d a b t => Sys2Proof.Machine.execVcle sw d a b t s
  | .vsel sw d a b c t => Sys2Proof.Machine.execVsel sw d a b c t s
  | .vcvt sw d a dt st => Sys2Proof.Machine.execVcvt sw d a dt st s
  | .vpack6 sw d a b t => Sys2Proof.Machine.execVpack6 sw d a b t s
  | .vunpk6 sw d a b t => Sys2Proof.Machine.execVunpk6 sw d a b t s
  | .vperm sw d a b c t => Sys2Proof.Machine.execVperm sw d a b c t s
  | .vbcast sw d a t => Sys2Proof.Machine.execVbcast sw d a t s
  | .vrot sw d a b t => Sys2Proof.Machine.execVrot sw d a b t s
  | .vzip sw d a b t => Sys2Proof.Machine.execVzip sw d a b t s
  | .vunzip sw d a t => Sys2Proof.Machine.execVunzip sw d a t s
  | .vrsum sw d a b t => Sys2Proof.Machine.execVrsum sw d a b t s
  | .vrmax sw d a b t => Sys2Proof.Machine.execVrmax sw d a b t s
  | .vrmin sw d a b t => Sys2Proof.Machine.execVrmin sw d a b t s
  | .vrdot sw d a b c t => Sys2Proof.Machine.execVrdot sw d a b c t s
  | .vmov sw d a t => Sys2Proof.Machine.execVmov sw d a t s
  | .vzero sw d t => Sys2Proof.Machine.execVzero sw d t s
  | .lease sw a b c => Sys2Proof.Machine.execLease sw a b c s
  | .unlease sw => Sys2Proof.Machine.execUnlease sw s
  | .unleaseDiscard sw => Sys2Proof.Machine.execUnleaseDiscard sw s
  | .acswap sw acc => Sys2Proof.Machine.execAcswap sw acc s
  | .acswapZero sw acc => Sys2Proof.Machine.execAcswapZero sw acc s
  | .tbspill sw tb => Sys2Proof.Machine.execTbspill sw tb s
  | .tbfill sw tb => Sys2Proof.Machine.execTbfill sw tb s
  | .tbuild sw tb b c kind st mc => Sys2Proof.Machine.execTbuild sw tb b c kind st mc s
  | .tbuildRcv sw tb => Sys2Proof.Machine.execTbuildRcv sw tb s
  | .mmt sw acc b c form signed last tb => Sys2Proof.Machine.execMmt sw acc b c form signed last tb s
  | .mmd sw acc b c ta tb => Sys2Proof.Machine.execMmd sw acc b c ta tb s
  | .acrd sw acc b => Sys2Proof.Machine.execAcrd sw acc b s
  | .acrdWorking sw acc b => Sys2Proof.Machine.execAcrdWorking sw acc b s
  | .mskld sw ctx b => Sys2Proof.Machine.execMskld sw ctx b s
  | .mskcls sw ctx a b => Sys2Proof.Machine.execMskcls sw ctx a b s
  | .mskel sw ctx a b c => Sys2Proof.Machine.execMskel sw ctx a b c s
  | .mskcnt sw ctx a clr => Sys2Proof.Machine.execMskcnt sw ctx a clr s
  | .kvcommit sw a b => Sys2Proof.Machine.execKvcommit sw a b s
  | .copy sw a => Sys2Proof.Machine.execCopy sw a s
  | .gather sw a => Sys2Proof.Machine.execGather sw a s
  | .scatter sw a => Sys2Proof.Machine.execScatter sw a s
  | .scadd sw a => Sys2Proof.Machine.execScadd sw a s
  | .idem sw => Sys2Proof.Machine.execIdem sw s
  | .idemClose sw => Sys2Proof.Machine.execIdemClose sw s
  | .evwait sw a line l => Sys2Proof.Machine.execEvwait sw a line l s
  | .wlpush sw list b => Sys2Proof.Machine.execWlpush sw list b s
  | .wlins sw list a b => Sys2Proof.Machine.execWlins sw list a b s
  | .wlpopb sw list a nm1 l => Sys2Proof.Machine.execWlpopb sw list a nm1 l s
  | .txsub sw a b => Sys2Proof.Machine.execTxsub sw a b s
  | .txscout sw b => Sys2Proof.Machine.execTxscout sw b s
  | .txchk sw b c => Sys2Proof.Machine.execTxchk sw b c s
  | .txend sw => Sys2Proof.Machine.execTxend sw s
  | .inbox sw a => Sys2Proof.Machine.execInbox sw a s
  | .done sw a => Sys2Proof.Machine.execDone sw a s
  | .send sw a b => Sys2Proof.Machine.execSend sw a b s
  | .recv sw a slot => Sys2Proof.Machine.execRecv sw a slot s
  | .qpush sw a b l => Sys2Proof.Machine.execQpush sw a b l s
  | .qpop sw a b l => Sys2Proof.Machine.execQpop sw a b l s
  | .barw sw kind l => Sys2Proof.Machine.execBarw sw kind l s
  | .vote sw a b op l => Sys2Proof.Machine.execVote sw a b op l s
  | .rett sw a => Sys2Proof.Machine.execRett sw a s
  | .ctlr sw a n => Sys2Proof.Machine.execCtlr sw a n s
  | .ctlw sw a n => Sys2Proof.Machine.execCtlw sw a n s
  | .wpsw sw a => Sys2Proof.Machine.execWpsw sw a s
  | .idle sw => Sys2Proof.Machine.execIdle sw s
  | .tlball sw => Sys2Proof.Machine.execTlball sw s
  | .tlbasid sw a => Sys2Proof.Machine.execTlbasid sw a s
  | .tlbpage sw a b => Sys2Proof.Machine.execTlbpage sw a b s
  | .icinv sw => Sys2Proof.Machine.execIcinv sw s
  | .dcinv sw => Sys2Proof.Machine.execDcinv sw s
  | .trap sw code a => Sys2Proof.Machine.execTrap sw code a s
  | .fmt st dt nm ftz sat => Sys2Proof.Machine.execFmt st dt nm ftz sat s
  | .rep count => Sys2Proof.Machine.execRep count s
  | .lix hi => Sys2Proof.Machine.execLix hi s
  | .resultReturn h idx => Sys2Proof.Machine.execResultReturn h idx s
  | .forcedPark core => Sys2Proof.Machine.execForcedPark core s
  | .interruptEntry h => Sys2Proof.Machine.execInterruptEntry h s
  | .asyncTrapEntry h => Sys2Proof.Machine.execAsyncTrapEntry h s
  | .cancelAnswer h => Sys2Proof.Machine.execCancelAnswer h s
  | .timerInterrupt h => Sys2Proof.Machine.execTimerInterrupt h s
  | .unassignedEncoding w => Sys2Proof.Machine.execUnassignedEncoding w s
  | .messageArrival idx => Sys2Proof.Machine.execMessageArrival idx s
  | .messageResend idx => Sys2Proof.Machine.execMessageResend idx s
  | .remoteLoadReply idx => Sys2Proof.Machine.execRemoteLoadReply idx s
  | .remoteLoadRefusal idx => Sys2Proof.Machine.execRemoteLoadRefusal idx s
  | .postedStoreAck idx => Sys2Proof.Machine.execPostedStoreAck idx s
  | .postedStoreRefusal idx => Sys2Proof.Machine.execPostedStoreRefusal idx s
  | .loadRefusal idx => Sys2Proof.Machine.execLoadRefusal idx s
  | .remoteAccessArrival idx => Sys2Proof.Machine.execRemoteAccessArrival idx s
  | .syncAccessArrival idx => Sys2Proof.Machine.execSyncAccessArrival idx s
  | .accessResend idx => Sys2Proof.Machine.execAccessResend idx s
  | .bankModeChangeDone cl b => Sys2Proof.Machine.execBankModeChangeDone cl b s
  | .fifoAccessResume cl b => Sys2Proof.Machine.execFifoAccessResume cl b s
  | .deadlockProbe h => Sys2Proof.Machine.execDeadlockProbe h s
  | .probeReceive idx => Sys2Proof.Machine.execProbeReceive idx s
  | .victimNotice idx => Sys2Proof.Machine.execVictimNotice idx s
  | .waitBoundExpiry h => Sys2Proof.Machine.execWaitBoundExpiry h s
  | .leaseTimeout h => Sys2Proof.Machine.execLeaseTimeout h s
  | .barrierRelease gang kind dom => Sys2Proof.Machine.execBarrierRelease gang kind dom s
  | .voteResult gang => Sys2Proof.Machine.execVoteResult gang s
  | .lockRequest ab => Sys2Proof.Machine.execLockRequest ab s
  | .lockRelease idx => Sys2Proof.Machine.execLockRelease idx s
  | .grantArrival idx => Sys2Proof.Machine.execGrantArrival idx s
  | .dispatch stage => Sys2Proof.Machine.execDispatch stage s
  | .gangDispatch stage => Sys2Proof.Machine.execGangDispatch stage s
  | .gangReservation stage => Sys2Proof.Machine.execGangReservation stage s
  | .stageMove core => Sys2Proof.Machine.execStageMove core s
  | .hartCut h => Sys2Proof.Machine.execHartCut h s
  | .saveRecordWrite h => Sys2Proof.Machine.execSaveRecordWrite h s
  | .sealedBudgetExpiry h => Sys2Proof.Machine.execSealedBudgetExpiry h s
  | .hartResume idx core slot => Sys2Proof.Machine.execHartResume idx core slot s
  | .gangResume gang deck x y => Sys2Proof.Machine.execGangResume gang deck x y s
  | .markerArrival unit input => Sys2Proof.Machine.execMarkerArrival unit input s
  | .doneTreeReport tag core => Sys2Proof.Machine.execDoneTreeReport tag core s
  | .launchEndMarker tag => Sys2Proof.Machine.execLaunchEndMarker tag s
  | .launchCompletion tag => Sys2Proof.Machine.execLaunchCompletion tag s
  | .leaseGrant cl => Sys2Proof.Machine.execLeaseGrant cl s
  | .leasePeriodExpiry cl => Sys2Proof.Machine.execLeasePeriodExpiry cl s
  | .leaseIdleExpiry cl => Sys2Proof.Machine.execLeaseIdleExpiry cl s
  | .tableBuildComplete cl idx => Sys2Proof.Machine.execTableBuildComplete cl idx s
  | .mmtComplete cl idx => Sys2Proof.Machine.execMmtComplete cl idx s
  | .mmdComplete cl idx => Sys2Proof.Machine.execMmdComplete cl idx s
  | .accumulatorExchange cl idx => Sys2Proof.Machine.execAccumulatorExchange cl idx s
  | .multicastCopyArrival cl idx => Sys2Proof.Machine.execMulticastCopyArrival cl idx s
  | .staleNotice cl idx => Sys2Proof.Machine.execStaleNotice cl idx s
  | .kvcommitTakePerformed cl idx => Sys2Proof.Machine.execKvcommitTakePerformed cl idx s
  | .jobStart cl idx => Sys2Proof.Machine.execJobStart cl idx s
  | .jobFinish cl idx => Sys2Proof.Machine.execJobFinish cl idx s
  | .nop q => Sys2Proof.Machine.execNop q s
  | .launch q => Sys2Proof.Machine.execLaunch q s
  | .close q => Sys2Proof.Machine.execClose q s
  | .wait q => Sys2Proof.Machine.execWait q s
  | .write q => Sys2Proof.Machine.execWrite q s
  | .indirect q => Sys2Proof.Machine.execIndirect q s
  | .wake q => Sys2Proof.Machine.execWake q s
  | .regwrite q => Sys2Proof.Machine.execRegwrite q s
  | .cut q => Sys2Proof.Machine.execCut q s
  | .stage q => Sys2Proof.Machine.execStage q s
  | .switch q => Sys2Proof.Machine.execSwitch q s
  | .graph q => Sys2Proof.Machine.execGraph q s
  | .waitConditionRead q => Sys2Proof.Machine.execWaitConditionRead q s
  | .waitSliceExpiry q => Sys2Proof.Machine.execWaitSliceExpiry q s
  | .trestleInstruction t => Sys2Proof.Machine.execTrestleInstruction t s
  | .fetchFault => Sys2Proof.Machine.execFetchFault s
  | .scWindowClose => Sys2Proof.Machine.execScWindowClose s
  | .batchCloseTimer => Sys2Proof.Machine.execBatchCloseTimer s
  | .tokenHold => Sys2Proof.Machine.execTokenHold s
  | .manifestReceive pos batch es => Sys2Proof.Machine.execManifestReceive pos batch es s
  | .groupScFrame module core slot pa store => Sys2Proof.Machine.execGroupScFrame module core slot pa store s
  | .tokenLoss pos => Sys2Proof.Machine.execTokenLoss pos s
  | .groupFormation pos n trot b0 mods => Sys2Proof.Machine.execGroupFormation pos n trot b0 mods s
  | .groupReform pos => Sys2Proof.Machine.execGroupReform pos s
  | .stageGovernorEvaluation => Sys2Proof.Machine.execStageGovernorEvaluation s
  | .pushpoolResize => Sys2Proof.Machine.execPushpoolResize s
  | .dataCacheLineExpiry core idx => Sys2Proof.Machine.execDataCacheLineExpiry core idx s
  | .clusterCacheLineExpiry cl idx => Sys2Proof.Machine.execClusterCacheLineExpiry cl idx s
  | .controlPortWrite pa data => Sys2Proof.Machine.execControlPortWrite pa data s
  | .controlPortRead pa => Sys2Proof.Machine.execControlPortRead pa s
  | .waitDeadlock => Sys2Proof.Machine.execWaitDeadlock s
  | .graphTrigger v => Sys2Proof.Machine.execGraphTrigger v s
  | .qwptrWrite q v => Sys2Proof.Machine.execQwptrWrite q v s
  | .qwakeWrite q => Sys2Proof.Machine.execQwakeWrite q s
  | .qfaultResume q => Sys2Proof.Machine.execQfaultResume q s
  | .qfaultSkip q => Sys2Proof.Machine.execQfaultSkip q s
  | .monsend cp v => Sys2Proof.Machine.execMonsend cp v s
  | .wakesend v => Sys2Proof.Machine.execWakesend v s
  | .tlbinvAll cp => Sys2Proof.Machine.execTlbinvAll cp s
  | .tlbinvAsid cp asid => Sys2Proof.Machine.execTlbinvAsid cp asid s
  | .tlbinvPage cp asid va => Sys2Proof.Machine.execTlbinvPage cp asid va s
  | .keycmdLoad cp slot => Sys2Proof.Machine.execKeycmdLoad cp slot s
  | .keycmdClear cp slot => Sys2Proof.Machine.execKeycmdClear cp slot s
  | .keySlotInstalled => Sys2Proof.Machine.execKeySlotInstalled s
  | .fwhbOk cp => Sys2Proof.Machine.execFwhbOk cp s
  | .fwhbRefuse cp => Sys2Proof.Machine.execFwhbRefuse cp s
  | .fwhbTimeout => Sys2Proof.Machine.execFwhbTimeout s
  | .csbmodeWrite cl v => Sys2Proof.Machine.execCsbmodeWrite cl v s
  | .fifocntWrite cl b => Sys2Proof.Machine.execFifocntWrite cl b s
  | .evlineWrite cl e => Sys2Proof.Machine.execEvlineWrite cl e s
  | .wlrecWrite cl l v => Sys2Proof.Machine.execWlrecWrite cl l v s
  | .qrecWrite q v => Sys2Proof.Machine.execQrecWrite q v s
  | .sgthrWrite st v => Sys2Proof.Machine.execSgthrWrite st v s
  | .pushpoolWrite v => Sys2Proof.Machine.execPushpoolWrite v s
  | .counterClear sp off => Sys2Proof.Machine.execCounterClear sp off s
  | .registerWrite cp sp off v => Sys2Proof.Machine.execRegisterWrite cp sp off v s
  | .firmwareUpdate => Sys2Proof.Machine.execFirmwareUpdate s
  | .svnfloorRaise v => Sys2Proof.Machine.execSvnfloorRaise v s
  | .reset => Sys2Proof.Machine.execReset s
  | .secureBoot => Sys2Proof.Machine.execSecureBoot s
  | .getVersion msg => Sys2Proof.Machine.execGetVersion msg s
  | .getCapabilities msg => Sys2Proof.Machine.execGetCapabilities msg s
  | .negotiateAlgorithms msg => Sys2Proof.Machine.execNegotiateAlgorithms msg s
  | .getDigests msg => Sys2Proof.Machine.execGetDigests msg s
  | .getCertificate msg => Sys2Proof.Machine.execGetCertificate msg s
  | .challenge msg => Sys2Proof.Machine.execChallenge msg s
  | .getMeasurements msg => Sys2Proof.Machine.execGetMeasurements msg s
  | .keyExchange msg => Sys2Proof.Machine.execKeyExchange msg s
  | .finish msg => Sys2Proof.Machine.execFinish msg s
  | .securedMessage key n data => Sys2Proof.Machine.execSecuredMessage key n data s
  | .linkTraining dir umpel => Sys2Proof.Machine.execLinkTraining dir umpel s
  | .flitReceive dir st flit => Sys2Proof.Machine.execFlitReceive dir st flit s
  | .replayRequest dir st good => Sys2Proof.Machine.execReplayRequest dir st good s
  | .flitAcknowledge dir st upto => Sys2Proof.Machine.execFlitAcknowledge dir st upto s
  | .bitmapAcknowledge dir st map => Sys2Proof.Machine.execBitmapAcknowledge dir st map s
  | .retrainComplete dir st wl => Sys2Proof.Machine.execRetrainComplete dir st wl s
  | .routingTableFailedMark module dir => Sys2Proof.Machine.execRoutingTableFailedMark module dir s
  | .powerCapCheck watts temp inlet flow => Sys2Proof.Machine.execPowerCapCheck watts temp inlet flow s
  | .thermalThrottle temp => Sys2Proof.Machine.execThermalThrottle temp s
  | .thermalTrip temp => Sys2Proof.Machine.execThermalTrip temp s
  | .thermalResume temp => Sys2Proof.Machine.execThermalResume temp s
  | .residentLoopStart h pc wp hsw => Sys2Proof.Machine.execResidentLoopStart h pc wp hsw s

end Sys2Proof.Machine
end

