-- ==== Sys2Proof/Machine/Banks.lean ====
section
/-! DEFINITION. Scratchpad bank conflicts (R76, R373): the chunks that an instruction reads when it issues, and the stall
cycles that are counted in BSTALL (R378). Cycles themselves are the schedule's (log 4). -/

namespace Sys2Proof.Machine

/-- The workspace words that a word of a scalar or memory major reads as operands, by its fields (R242, R247 to R250). -/
def fieldWords (w : Nat) : List Nat :=
  let m := bits w 25 6
  let a := bits w 20 5
  let b := bits w 15 5
  let c := bits w 10 5
  if (1 ≤ m && m ≤ 4) || m = 0x17 || m = 0x1A then [b, c]
  else if (5 ≤ m && m ≤ 0xC) || m = 0x18 then [b]
  else if (0x10 ≤ m && m ≤ 0x15) || m = 0x19 then [a, b]
  else if m = 0x1B then [a, b, c]
  else if m = 0x1C then (if w % 2 = 1 then a :: span b (c + 1) else [a])
  else if m = 0x1D then (if bits w 6 4 = 9 then [a, b, c] else [b, c])
  else if m = 0x1E then (if bits w 5 5 = 2 then [a, b] else [b])
  else []

/-- The workspace words that an instruction reads as operands (R252, R253): MMD's scale words by its effective types (R323). -/
def readWords (s : State) : Instr → List Nat
  | .lease _ a b c => [a.val, b.val, c.val]
  | .tbuild _ _ b c _ _ _ => [b.val, c.val]
  | .mmt _ _ b c _ _ _ _ => [b.val, c.val, c.val + 1]
  | .mmd _ _ b c ta tb =>
    [b.val, c.val] ++ (if (mmdTypes ta tb (fmtOf s)).any (·.1 = .lg6) then [c.val + 1, c.val + 2] else [])
  | .acrd _ _ b | .acrdWorking _ _ b | .mskld _ _ b => [b.val]
  | .mskcls _ _ _ b => [b.val]
  | .mskel _ _ a b c => [a.val, b.val, c.val]
  | .kvcommit _ _ b | .txsub _ _ b | .txscout _ b | .qpop _ _ b _ | .vote _ _ b _ _ => [b.val]
  | .copy _ a | .gather _ a | .scatter _ a | .scadd _ a | .done _ a | .rett _ a | .wpsw _ a | .ctlw _ a _
  | .tlbasid _ a | .trap _ _ a => [a.val]
  | .wlpush _ _ b | .wlins _ _ _ b => [b.val]
  | .send _ a b | .qpush _ a b _ | .tlbpage _ a b => [a.val, b.val]
  | .txchk _ b c => [b.val, c.val]
  | .recv _ _ m => [40 + m.val]
  | .unassignedEncoding _ | .fetchFault => []
  | i => fieldWords (encodeNat i)

/-- The sources of a vector instruction, with their sizes under the options in force (R293, R294). -/
def vecSources (s : State) (i : Instr) : List VOp :=
  match vecShape i with
  | none => []
  | some v => ((v.ty (fmtOf s)).map fun t => (v.go t (fmtOf s)).2.1).getD []

/-- The addresses and lengths that an instruction reads as memory operands, those of atomics, SC loads and remote loads among
them. -/
def readMem (s : State) : Instr → List (Nat × Nat)
  | .ld _ _ a imm => [((reg s a + immOf s imm).toNat, 8)]
  | .lxb _ _ a b _ | .lxbn _ _ a b _ => [((reg s a + reg s b).toNat, 1)]
  | .lxh _ _ a b _ | .lxhn _ _ a b _ => [((reg s a + reg s b).toNat, 2)]
  | .lxw _ _ a b _ | .lxwn _ _ a b _ => [((reg s a + reg s b).toNat, 4)]
  | .lxd _ _ a b _ | .lxdRemote _ _ a b _ => [((reg s a + reg s b).toNat, 8)]
  | .ldm _ a _ c _ => [((reg s a).toNat, 8 * (c.val + 1))]
  | .aswap _ _ b _ _ | .aadd _ _ b _ _ | .aand _ _ b _ _ | .aor _ _ b _ _ | .axor _ _ b _ _ | .amin _ _ b _ _
  | .amax _ _ b _ _ | .aminn _ _ b _ _ | .amaxn _ _ b _ _ | .acas _ _ b _ _ | .ldsc _ _ b _ => [((reg s b).toNat, 8)]
  | .jtb _ _ a b => [((reg s a).toNat, 8), ((reg s a + 8 + 4 * reg s b).toNat, 4)]
  | i => (vecSources s i).map fun r => (sAddr (readReg s s.cur (sWord r.ref.ptr.val)), r.n)

/-- Is an instruction a vector instruction: does it read the pointer chunk (R285)? -/
def isVec (i : Instr) : Bool := let m := bits (encodeNat i) 25 6; 0x20 ≤ m && m ≤ 0x28

/-- The scratchpad chunks that an instruction of the executing hart reads when it issues (R76, R373). -/
def readChunks (s : State) (i : Instr) : List Nat :=
  let h := s.cur
  let c := coreOf h
  let ws := (((readWords s i).filter (· ≠ 0)).map fun n => (getSlot s h).wp + 8 * n) ++
    (if isVec i then [(getSlot s h).wp + 8 * 32] else [])
  let ms := (readMem s i).flatMap fun (va, n) =>
    match xlBytes s (who s h) va n .read with
    | .ok (pas, x) => if x.own then (pas.filter (inScratch s c)).map fun p => p - scratchPa s c 0 else []
    | .error _ => []
  ((ws ++ ms).map (· / 64)).eraseDups

/-- The stall of an instruction: one less than the reads of the busiest bank (R76). -/
def bankStall (s : State) (i : Instr) : Nat :=
  let n := fun b => ((readChunks s i).filter fun k => k % 3 = b).length
  max (n 0) (max (n 1) (n 2)) - 1

/-- Count the stall cycles of an instruction that issues in its core's BSTALL (R373, R378); one that goes on after a park
has read its operands. The delay itself is the schedule's (log 92). -/
def countStall (s : State) (i : Instr) : State :=
  if (getSlot s s.cur).inside then s
  else
    let n := bankStall s i
    if n = 0 then s else bumpCl s (clusterOf (coreOf s.cur)) (0x680 + coreOf s.cur % 16 * 8) n

end Sys2Proof.Machine
end

