-- ==== Sys2Proof/Machine/Schedule.lean ====
section
/-! DEFINITION. The schedule (log 2): what the next step does. The agenda names events of the environment and chosen
orders; `turns` names the cores that issue; else the next core with a hart to issue and what is due in the module take turns. -/

namespace Sys2Proof.Machine

/-- The events that the accesses in flight may bring. -/
def accessEvents (s : State) : List Instr :=
  (span 0 s.flight.length).flatMap fun i =>
    [.remoteAccessArrival i, .syncAccessArrival i, .messageArrival i, .messageResend i, .remoteLoadReply i,
     .remoteLoadRefusal i, .postedStoreAck i, .postedStoreRefusal i, .loadRefusal i, .accessResend i]

/-- The events of the harts. -/
def hartEvents (s : State) : List Instr :=
  s.slots.flatMap fun (h, x) =>
    (span 0 x.outs.length).map (Instr.resultReturn h) ++
    (match x.st with
     | .waiting _ => [.interruptEntry h, .waitBoundExpiry h, .leaseTimeout h, .deadlockProbe h, .cancelAnswer h]
     | _ => []) ++ [.timerInterrupt h, .hartCut h, .sealedBudgetExpiry h, .saveRecordWrite h]

/-- The events of the units of the clusters. -/
def clusterEvents (s : State) : List Instr :=
  s.clusters.flatMap fun (cl, c) =>
    (span 0 c.arr.cmds.length).flatMap (fun i =>
      [.tableBuildComplete cl i, .mmtComplete cl i, .mmdComplete cl i, .accumulatorExchange cl i]) ++
    (span 0 c.arr.copies.length).map (Instr.multicastCopyArrival cl) ++
    (span 0 c.arr.notices.length).map (Instr.staleNotice cl) ++
    (span 0 c.jobs.length).flatMap (fun i => [.jobStart cl i, .jobFinish cl i]) ++
    (span 0 s.flight.length).map (Instr.kvcommitTakePerformed cl) ++
    (span 0 16).flatMap (fun b => [.fifoAccessResume cl b, .bankModeChangeDone cl b]) ++
    [.leaseGrant cl, .leasePeriodExpiry cl, .leaseIdleExpiry cl]

/-- The events of Keystone, the abutments, the gangs and the probes. -/
def keystoneEvents (s : State) : List Instr :=
  let k := s.ks
  k.chans.map (fun e => Instr.lockRequest e.1) ++
  (span 0 k.relq.length).map Instr.lockRelease ++ (span 0 k.grants.length).map Instr.grantArrival ++
  k.ready.flatMap (fun e => [.dispatch e.1, .gangDispatch e.1, .gangReservation e.1]) ++
  s.cores.map (fun e => Instr.stageMove e.1) ++
  k.gangs.flatMap (fun g =>
    (g.arr.map fun (m, c) => Instr.barrierRelease g.id (if c = 0 then .row else if c = 1 then .col else .rect) m) ++
    [.voteResult g.id] ++ (((places g.w g.h).find? (mayPlace s g)).toList.map fun p => Instr.gangResume g.id p.1 p.2.1 p.2.2)) ++
  (span 0 k.probes.length).map Instr.probeReceive ++ (span 0 k.notices.length).map Instr.victimNotice ++
  ((k.saved.zip (span 0 k.saved.length)).flatMap fun (v, i) =>
    (freeSlots s (coreOf v.hart)).map fun h => Instr.hartResume i (coreOf v.hart) (h % 4)) ++
  (if !k.cutSt.isEmpty then (span 0 2306).flatMap fun u => (unitInputs s u).map (Instr.markerArrival u) else []) ++
  [.scWindowClose, .batchCloseTimer, .tokenHold, .stageGovernorEvaluation, .pushpoolResize]

/-- The events of the launches, the queues and Trestle. -/
def trestleEvents (s : State) : List Instr :=
  s.ks.launches.flatMap (fun l =>
    [.launchEndMarker l.tag, .launchCompletion l.tag] ++
    (if l.marked then ((span 0 2048).filter fun c => (tfind l.reports c).isNone &&
        (treeKids c).all fun d => (tfind l.reports d).isSome).map (Instr.doneTreeReport l.tag) else [])) ++
  s.tr.cqs.flatMap (fun e =>
    let q := e.1
    [.nop q, .launch q, .close q, .wait q, .write q, .indirect q, .wake q, .regwrite q, .cut q, .stage q, .switch q,
     .graph q, .waitConditionRead q, .waitSliceExpiry q]) ++
  [.keySlotInstalled, .waitDeadlock, .fwhbTimeout, .trestleInstruction s.tr.turn]

/-- The events that the module itself may bring about now. -/
def moduleEvents (s : State) : List Instr :=
  accessEvents s ++ hartEvents s ++ clusterEvents s ++ keystoneEvents s ++ trestleEvents s

/-- Does an event change the state? -/
def changes (s : State) (i : Instr) : Bool :=
  match exec i s with
  | .next t => decide (t ≠ s)
  | _ => false

/-- A hardware event that is due: one that changes the state, sought from a place that moves with the cycle, so that
none is passed over for ever. -/
def autoEvent (s : State) : Option Instr :=
  let l := moduleEvents s
  let k := s.cycle % max 1 l.length
  (l.drop k ++ l.take k).find? (changes s)

/-- The rank of a withdrawal from a barrier or vote among the steps of a cycle: its member index, after every core (R363). -/
def withdrawalRank (s : State) (h : Nat) : Nat :=
  match (getSlot s h).st, (boundTxn s h).bind (·.gang) with
  | .waiting (.barrier _), some (_, m, _, _) | .waiting .vote, some (_, m, _, _) => 3000 + m
  | _, _ => 0

/-- The rank of an event among the steps of a cycle, 0 for one that nothing orders: withdrawals come after the instructions of the
cores, and the submissions of the command queues last (R336, R363). -/
def eventRank (s : State) : Instr → Nat
  | .waitBoundExpiry h | .interruptEntry h | .hartCut h => withdrawalRank s h
  | .launch _ | .graphTrigger _ | .launchEndMarker _ => 4000
  | _ => 0

/-- The steps of one cycle keep their order: instructions by rising core, one for each core (R78, R180, R336), rank 1 for core 0; then
the other ranks. A step whose place in this cycle is past is one of the next cycle. -/
def inTurn (s : State) (k : Nat) : State :=
  if k = 0 then s
  else if s.sched.phase < k || (2048 < k && s.sched.phase = k) then { s with sched := { s.sched with phase := k } }
  else { s with cycle := s.cycle + 1, sched := { s.sched with phase := k } }

/-- An event in its turn. -/
def eventStep (e : Option Instr) (s : State) : Option Instr × State :=
  match e with
  | none => (none, s)
  | some i => (some i, inTurn s (eventRank s i))

/-- The instruction or boundary event of a core's issuing hart, with that hart given issue in the core's turn. -/
def coreStep (s : State) (core : Nat) : Option Instr × State :=
  match issuer s core with
  | none => (none, s)
  | some h => let r := hartStep (giveIssue (inTurn s (1 + core)) h) h; (some r.1, countStall r.2 r.1)

/-- The next thing a step does, and the state in which it is done (log 2). -/
def pick (s : State) : Option Instr × State :=
  match s.sched.agenda with
  | i :: rest => eventStep (some i) { s with sched := { s.sched with agenda := rest } }
  | [] =>
    let s := settle s
    match s.sched.turns with
    | 0 :: rest => eventStep (autoEvent s) { s with sched := { s.sched with turns := rest } }
    | c :: rest => coreStep { s with sched := { s.sched with turns := rest } } (c - 1)
    | [] =>
      let e := if s.cycle % 2 = 1 then autoEvent s else none
      if e.isSome then eventStep e s
      else
        match nextCore s with
        | some c => coreStep s c
        | none => eventStep (autoEvent s) s

/-- The window address of byte 0x4000 of the own scratchpad, where `State.withFetchWord` places its words. -/
def fetchAt : Nat := window0 + 0x4000

/-- The state in which hart 0 fetches next from `fetchAt`, in Kernel mode with its frame at 0x800. -/
def fetchReady (s : State) : State :=
  modSlot { s with sched := { s.sched with agenda := [], turns := [1] }, cur := 0 } 0 fun x =>
    { x with st := .issuing, pc := wd fetchAt, wp := 0x800, hsw := 1, since := s.cycle, inside := false, latch := [] }

/-- The bytes of a word of the table stored at `fetchAt`, and zeros above them. -/
def placeWord (s : State) (nbits w : Nat) : State :=
  putBytes s 0 ((span (scratchPa s 0 0x4000) 8).zip (leBytes 8 (w % 2 ^ nbits))) false

end Sys2Proof.Machine
end

