-- ==== Sys2Proof/Machine/Step.lean ====
section
/-! DEFINITION. One step of the module: the row that the schedule picks, executed, and the time it takes. -/

namespace Sys2Proof.Machine

/-- ONE STEP: the picked row's meaning (log 2); with nothing to do only time passes. -/
def step (s : State) : Host.Outcome State Fault Refusal :=
  match pick s with
  | (none, s) => .next (tick s)
  | (some i, s) =>
    match exec i s with
    | .next t => .next (tick t)
    | .fault f => .fault f
    | .refused r => .refused r

/-- The state with a word of the opcode table stored where the next step fetches: hart 0 issues next, from the own
scratchpad (log 9). -/
def State.withFetchWord (s : State) (nbits w : Nat) : State := fetchReady (placeWord s nbits w)

end Sys2Proof.Machine
end

