-- ==== Sys2Proof/Safety.lean ====
section
/-! DEFINITION. The terms in which claims are stated: when an instruction issues and executes, and what it is for a
step to change a word, an outstanding result, or nothing, and to leave all else as it was. -/

namespace Sys2Proof.Machine

/-- A hart whose number and frame are those of a machine: a slot of one of the 2048 cores, its frame of 512 bytes a
multiple of 512 within the scratchpad (R11, R14). -/
def Placed (s : State) (h : Nat) : Prop := h < 8192 ∧ (getSlot s h).wp + 512 ≤ 0x30000 ∧ (getSlot s h).wp % 512 = 0

/-- The executing hart has its frame, and memory is in its canonical form. -/
def Ordinary (s : State) : Prop := Placed s s.cur ∧ Memory.wf s.mem = true

/-- The instruction passes the gate of group 2 of R216: the mode of the hart allows it, and no pending prefix forbids
it (R254, R255, R311). No write of the hart to its own frame is on its way through a range that is not its own (R12, R198). -/
def MayIssue (s : State) (g : Gov) (mode : Nat) : Prop :=
  mode ≤ modeOf s s.cur ∧ prefixOk s s.cur g = true ∧ frameBusy s s.cur = false

/-- Which prefixes may govern an instruction: the row of the table of R255 that names it. -/
def governs : Instr → Gov
  | .addi .. | .andi .. | .ori .. | .xori .. | .slti .. | .sltin .. | .lapc .. | .ld .. | .st .. => .imm
  | .tbuild .. | .tbuildRcv .. | .mmd .. | .acrd .. | .acrdWorking .. => .fmt
  | .fmt .. => .fmtWord
  | i => if isVec i then .vec else .none

/-- The lowest mode in which an instruction may execute (R332, R350 to R352, R356, R357); of CTLR and CTLW the register decides
(R353). -/
def lowestMode : Instr → Nat
  | .inbox .. | .idle .. | .rett .. | .wpsw .. | .tlball .. | .tlbasid .. | .tlbpage .. => 1
  | _ => 0

/-- None of these words is poisoned as an operand of the executing hart's instruction, as they stood at its issue (R94, R96,
R311). -/
def Clean (s : State) (rs : List Nat) : Prop := ∀ r ∈ rs, opPsn s r = false

/-- No result of the executing hart is outstanding: a trap is entered at once (R218). -/
def Drained (s : State) : Prop := (getSlot s s.cur).outs = []

/-- Two states that differ in nothing but their cores and clusters. -/
def SameButUnits (s t : State) : Prop := { t with cores := s.cores, clusters := s.clusters } = s

/-- The bytes of a workspace word: none for w0, whose writes are discarded (R12, R257). -/
def regBytes (s : State) (h d : Nat) : List Nat := if d = 0 then [] else span (regPa s h d) 8

/-- Cores and clusters are as before but for the tables whose watch the bytes touch, their counter and their notices
(R135, R136); with no such table they are as before. -/
def UnitsKept (s t : State) (pas : List Nat) : Prop :=
  (∀ c, { getCore t c with arr := [] } = { getCore s c with arr := [] }) ∧
  (∀ c, { getCluster t c with cnt := [], arr := { (getCluster t c).arr with notices := [] } } =
    { getCluster s c with cnt := [], arr := { (getCluster s c).arr with notices := [] } }) ∧
  ((∀ e ∈ s.cores, watchHits pas e.2 = []) → t.cores = s.cores ∧ t.clusters = s.clusters)

/-- The architectural registers of a slot other than PC, hart status word and state are as before. -/
def SlotRegsKept (x y : Slot) : Prop :=
  y.wp = x.wp ∧ y.ktvec = x.ktvec ∧ y.asid = x.asid ∧ y.timecmp = x.timecmp ∧ y.wakeval = x.wakeval ∧
  y.monword = x.monword ∧ y.ksaddr = x.ksaddr ∧ y.scout = x.scout ∧ y.sret = x.sret ∧ y.loop = x.loop ∧
  y.bound = x.bound ∧ y.region = x.region ∧ y.timDone = x.timDone

/-- The executing hart has gone on at `pc`: a pending FMT or LIX is used up (R114, R254), a marked instruction parks
it (R16), and its other registers are as before. -/
def WentOn (s t : State) (sw : Bool) (pc : Word) : Prop :=
  (getSlot t s.cur).pc = pc ∧
  (getSlot t s.cur).hsw = (if pfxOf s s.cur then clearPfx (getSlot s s.cur).hsw else (getSlot s s.cur).hsw) ∧
  (getSlot t s.cur).st = (if sw then .parked .results none else (getSlot s s.cur).st) ∧
  SlotRegsKept (getSlot s s.cur) (getSlot t s.cur)

/-- Everything outside the executing core's storage is as before: the other harts, the units, what is in flight. -/
def RestKept (s t : State) : Prop :=
  t.module = s.module ∧ t.populated = s.populated ∧ t.cycle = s.cycle ∧ t.cur = s.cur ∧ t.empty = s.empty ∧
  t.keytag = s.keytag ∧ t.flags = s.flags ∧ t.flight = s.flight ∧ t.uid = s.uid ∧ t.ks = s.ks ∧ t.tr = s.tr ∧ t.fab = s.fab ∧
  t.sched = s.sched ∧ ∀ k, k ≠ s.cur → getSlot t k = getSlot s k

/-- FRAME of the harts: the executing hart's registers other than PC, status word and state, and every other hart. -/
def HartKept (s t : State) : Prop :=
  SlotRegsKept (getSlot s s.cur) (getSlot t s.cur) ∧ ∀ k, k ≠ s.cur → getSlot t k = getSlot s k

/-- COMPLETION: the instruction executes and answers a next state, of which `P` holds. -/
def Does (i : Instr) (s : State) (P : State → Prop) : Prop := ∃ t, exec i s = .next t ∧ P t

/-- Word `n` of the executing hart (R257). -/
def rg (s : State) (n : Fin 32) : Word := readReg s s.cur n.val

/-- The PC of the executing hart. -/
def pcOf (s : State) : Word := (getSlot s s.cur).pc

/-- RESULT AND FRAME of an instruction that writes workspace word `d` with `v` (poisoned if `p`) and goes on at `pc`:
the word, every other register, every other byte and its poison, the hart and the rest of the module. -/
def WroteReg (s t : State) (sw : Bool) (d : Nat) (v : Word) (p : Bool) (pc : Word) : Prop :=
  (∀ n, n < 64 → readReg t s.cur n = if n = d ∧ n ≠ 0 then v else readReg s s.cur n) ∧
  (∀ n, n < 64 → regPsn t s.cur n = if n = d ∧ n ≠ 0 then p else regPsn s s.cur n) ∧
  (∀ a, a ∉ regBytes s s.cur d → memGet t.mem a = memGet s.mem a) ∧
  WentOn s t sw pc ∧ UnitsKept s t (regBytes s s.cur d) ∧ RestKept s t

/-- RESULT AND FRAME of an instruction whose result `v` for word `d` is outstanding (R16, R17, R258): no byte of
memory and no register changes yet; the result stands last among the hart's, and the older ones no longer write the
word. -/
def WillWrite (s t : State) (sw : Bool) (d : Nat) (v : Word) (p : Bool) (pc : Word) : Prop :=
  (getSlot t s.cur).outs = (if d = 0 then (getSlot s s.cur).outs else
    (getSlot s s.cur).outs.map (fun o =>
      { o with dest := o.dest.filter fun e => !(span (regPa s s.cur d) 8).contains e.1 }) ++
    [{ dest := (span (regPa s s.cur d) 8).zip (span 0 8), val := some (wBytes v), psn := p, src := none, seq := s.uid }]) ∧
  t.mem = s.mem ∧ t.poison = s.poison ∧ t.cores = s.cores ∧ t.clusters = s.clusters ∧ t.lrs = s.lrs ∧
  WentOn s t sw pc ∧ RestKept s t

/-- The instruction at the PC is not one that a park has suspended: its operands are read now (R16). -/
def Fresh (s : State) : Prop := (getSlot s s.cur).inside = false

/-- The executing hart's own scratchpad serves these `n` bytes from offset `o` at the issue of a read, or of a write:
they lie in it, no earlier access or job of the hart to them is unfinished, and the module is one of the pod that answers
(R272). -/
def Home (s : State) (o n : Nat) (write : Bool) : Prop :=
  o + n ≤ 0x30000 ∧ answers s s.module = true ∧
  atOnce s s.cur (span (scratchPa s (coreOf s.cur) o) n) write = true

/-- The bytes of the own scratchpad from offset `o` (R73). -/
def homePas (s : State) (o n : Nat) : List Nat := span (scratchPa s (coreOf s.cur) o) n

/-- The little-endian number of `n` bytes of the own scratchpad from offset `o` (R4). -/
def homeNat (s : State) (o n : Nat) : Nat := leNat ((homePas s o n).map (memGet s.mem))

/-- The bytes at these addresses are clean (R94). -/
def CleanAt (s : State) (pas : List Nat) : Prop := anyPsn s pas = false

/-- RESULT AND FRAME of a store of bytes at its issue: those bytes, every other byte, the hart, and the rest of the
module, in which Keystone has noted a write under a passed check (R60). -/
def Stored (s t : State) (sw : Bool) (pas : List Nat) (bs : List Byte) (pc : Word) : Prop :=
  pas.map (memGet t.mem) = bs ∧ (∀ a, a ∉ pas → memGet t.mem a = memGet s.mem a) ∧
  WentOn s t sw pc ∧ UnitsKept s t pas ∧ RestKept (noteWrite s s.cur pas) t

/-- An access of the executing hart goes on its way: the last in flight, with the next number (R16, R212). -/
def Sent (s t : State) (pas : List Nat) (op : AccOp) (P : Access → Prop) : Prop :=
  ∃ a : Access, t.flight = s.flight ++ [a] ∧ t.uid = s.uid + 1 ∧ a.uid = s.uid ∧ a.hart = s.cur ∧ a.pas = pas ∧
    a.op = op ∧ a.st = .flying ∧ P a ∧ HartKept s t

/-- The address of an access leaves the hart's own storage and passes every check of its group (R216, R259, R260):
translated, in no register block, and allowed where it is a write. -/
def Reaches (s : State) (va n : Nat) (k : AccKind) (pas : List Nat) (x : Xl) : Prop :=
  xlBytes s (who s s.cur) va n k = .ok (pas, x) ∧ x.own = false ∧ targetOf (offsetOf x.pa) = .hbm ∧
  (k = .write → wrCheck s s.cur va x pas = none)

/-- CONSUMPTION of poison in the operand words `rs`, read in this order by an instruction that its other checks let pass, the
machine then being `u`: with PTE set the POISON trap with the window address of the first poisoned word, before any write;
else the sticky POISONED bit is set and the instruction goes on, so that `P` holds (R96, R216, R311). -/
def Consumes (u s : State) (i : Instr) (rs : List Nat) (P : State → Prop) : Prop :=
  ∀ r, rs.find? (regPsn s s.cur) = some r →
    (pteOf s s.cur = true →
      exec i s = .next (raise u (trap .poison 0 (wd (window0 + (getSlot s s.cur).wp + 8 * r))))) ∧
    (pteOf s s.cur = false → Does i s fun t => (getSlot t s.cur).hsw.getLsbD 7 = true ∧ P t)

/-- The result for word `d` is outstanding and poisoned. -/
def PoisonPending (s t : State) (d : Nat) : Prop :=
  d ≠ 0 → ∃ e ∈ (getSlot t s.cur).outs, e.dest = (span (regPa s s.cur d) 8).zip (span 0 8) ∧ e.psn = true

/-- The first poisoned byte of these addresses, as an index (R96). -/
def firstPsnAt (s : State) (pas : List Nat) : Option Nat := pas.findIdx? (isPsn s)

/-! Vector instructions. -/

/-- A field's pointer names offset `o` of the own scratchpad, and its COUNT is not 0 (R284, R288). -/
def PtrTo (s : State) (r : SRef) (o : Nat) : Prop :=
  fld (readReg s s.cur (32 + r.ptr.val)) 63 58 ≠ 0 ∧ sAddr (readReg s s.cur (32 + r.ptr.val)) = window0 + o

/-- The word of a field's pointer is clean (R291). -/
def PtrClean (s : State) (r : SRef) : Prop := regPsn s s.cur (32 + r.ptr.val) = false

/-- A field's pointer names offset `o` of the own scratchpad, its word clean. -/
def PtrAt (s : State) (r : SRef) (o : Nat) : Prop := PtrTo s r o ∧ PtrClean s r

/-- The bytes of the stream pointers of the executing hart's fields. -/
def ptrBytes (s : State) (rs : List SRef) : List Nat := rs.flatMap fun r => span (regPa s s.cur (32 + r.ptr.val)) 8

/-- The bytes of source operands in the own scratchpad, each a field with its offset and number of bytes. -/
def srcPas (s : State) (srcs : List (SRef × Nat × Nat)) : List Nat := srcs.flatMap fun x => homePas s x.2.1 x.2.2

/-- The machine once the results of earlier executions of the REP sequence that this one reads have been performed (R295): as it
was, where no REP is pending. -/
def afterRep (s : State) (rs : List SRef) (pas : List Nat) : State := repFlush (repFlush s (ptrBytes s rs)) pas

/-- A vector instruction whose prefixes may stand before it and whose operands lie in the own scratchpad, nothing of the hart
unfinished on them (R175, R198, R255, R284 to R289, R295). -/
def VecPlaced (s : State) (d : SRef) (od nd : Nat) (srcs : List (SRef × Nat × Nat)) : Prop :=
  Ordinary s ∧ frameBusy s s.cur = false ∧ prefixOk s s.cur .vec = true ∧
  repWaits s (ptrBytes s (d :: srcs.map (·.1)) ++ srcPas s srcs) = false ∧ PtrTo s d od ∧ Home s od nd true ∧
  ∀ x ∈ srcs, PtrTo s x.1 x.2.1 ∧ Home s x.2.1 x.2.2 false

/-- Such a vector instruction whose pointers and sources are clean. -/
def VecHome (s : State) (d : SRef) (od nd : Nat) (srcs : List (SRef × Nat × Nat)) : Prop :=
  VecPlaced s d od nd srcs ∧ PtrClean s d ∧ ∀ x ∈ srcs, PtrClean s x.1 ∧ CleanAt s (homePas s x.2.1 x.2.2)

/-- The first of the source bytes in field order that is poisoned, as an offset in the own scratchpad (R96, R291). -/
def firstPoison (s : State) (srcs : List (SRef × Nat × Nat)) : Option Nat :=
  (srcs.flatMap fun x => span x.2.1 x.2.2).find? fun o => isPsn s (scratchPa s (coreOf s.cur) o)

/-- The functions that copy, of which a destination word is poisoned only where it comes from poison (R291); VZERO reads
nothing. -/
def copies : Instr → Bool
  | .vmov .. | .vsel .. | .vperm .. | .vbcast .. | .vrot .. | .vzip .. | .vunzip .. | .vzero .. => true
  | _ => false

/-- The bytes of the own scratchpad from offset `o`. -/
def homeBytes (s : State) (o n : Nat) : List Byte := (homePas s o n).map (memGet s.mem)

/-- An outstanding result of the hart will write this byte at this address, poisoned or not (R16, R289). -/
def PendingAs (t : State) (h pa : Nat) (b : Byte) (p : Bool) : Prop :=
  ∃ e ∈ (getSlot t h).outs, ∃ j v, (pa, j) ∈ e.dest ∧ e.val = some v ∧ v.getD j 0 = b ∧ e.psn = p

/-- An outstanding result of the hart will write this byte, clean. -/
def Pending (t : State) (h pa : Nat) (b : Byte) : Prop := PendingAs t h pa b false

/-- The bytes of the pointers that the fields step. -/
def StepsAt (s : State) (rs : List SRef) (a : Nat) : Prop := ∃ r ∈ rs, r.inc = true ∧ a ∈ span (regPa s s.cur (32 + r.ptr.val)) 8

/-- Where the hart stands after one execution: at the same PC, with one execution fewer to make, while a REP has more than one
left, and else past the instruction, its prefixes used up (R114, R222). -/
def VecWentOn (s t : State) : Prop :=
  let x := getSlot s s.cur
  let y := getSlot t s.cur
  if repOn s s.cur = true ∧ repcnt s s.cur ≠ 1 then y.pc = x.pc ∧ y.hsw = setFld x.hsw 63 48 (repcnt s s.cur - 1)
  else y.pc = x.pc + 4 ∧ y.hsw = (let w := if repOn s s.cur then setFld x.hsw 63 48 0 else x.hsw
                                   if pfxOf s s.cur then clearPfx w else w)

/-- What an execution leaves but its result: a pointer that a field steps is stepped once and wins over the result (R285), no
other byte changes, and the hart goes on. -/
def VecLeft (s t : State) (rs : List SRef) : Prop :=
  (∀ r ∈ rs, r.inc = true → readReg t s.cur (32 + r.ptr.val) = sStep (readReg s s.cur (32 + r.ptr.val))) ∧
  (∀ a, ¬ StepsAt s rs a → memGet t.mem a = memGet s.mem a) ∧
  t.tr = s.tr ∧ t.cycle = s.cycle ∧ VecWentOn s t ∧ HartKept s t

/-- RESULT AND FRAME of one execution in the own scratchpad: the result bytes are outstanding, and the rest is as `VecLeft`
says. -/
def VecDone (s t : State) (rs : List SRef) (od : Nat) (bs : List Byte) : Prop :=
  (∀ i, i < bs.length → ¬ StepsAt s rs (scratchPa s (coreOf s.cur) (od + i)) →
    Pending t s.cur (scratchPa s (coreOf s.cur) (od + i)) (bs.getD i 0)) ∧
  t.flight = s.flight ∧ VecLeft s t rs

/-- COMPLETION of a vector instruction whose operands lie in the own scratchpad: it executes once, and what it writes is a
function of the machine that it reads. -/
def VecDoes (s : State) (i : Instr) (d : SRef) (od nd : Nat) (srcs : List (SRef × Nat × Nat)) (bs : State → List Byte) : Prop :=
  let rs := d :: srcs.map (·.1)
  let u := afterRep s rs (srcPas s srcs)
  VecHome u d od nd srcs → Does i s fun t => VecDone u t rs od (bs u)

/-- The elements of a type among the bytes of the own scratchpad from offset `o`. -/
def elemsAt (t : ElemType) (u : State) (o n : Nat) : List Nat := vElems (esize t) (homeBytes u o n)

/-- An exact integer narrowed to an element: clamped to its range under SAT, else wrapped (R98). -/
def narrow (t : ElemType) (sat : Bool) (v : Int) : Nat :=
  let k := 8 * esize t
  let lo : Int := if eSigned t then -(2 ^ (k - 1)) else 0
  let hi : Int := if eSigned t then 2 ^ (k - 1) - 1 else 2 ^ k - 1
  ((if sat then max lo (min hi v) else v) % 2 ^ k).toNat

/-- An element's float value, and a value rounded once to the type, under the options in force (R99 to R102). -/
def flt (o : Fmt) (t : ElemType) (a : Nat) : Num := fpDec t o.ftz a
def rnd (o : Fmt) (t : ElemType) (x : Num) : Nat := fpRnd t o.ftz o.sat x

/-! Unit commands. -/

/-- The state in which the array has noted a command of the executing hart's core, not accepted yet (R121). -/
def stamped (s : State) : State :=
  modSlot (modArr s (clusterOf (coreOf s.cur)) fun a => { a with lastCmd := s.cycle }) s.cur fun y => { y with arrCmd := true }

/-- An array command that names this accumulator may start: the core's lease is ACTIVE, it claims the accumulator (R121,
R122, R314), and no key slot is being written (R414; log 107). -/
def ArrayTurn (s : State) (acc : Option Nat) : Prop :=
  (actCtx s (coreOf s.cur)).lease = .active ∧ s.tr.keyCmd = none ∧
  acc.filter (fun n => !(actCtx s (coreOf s.cur)).mask.testBit n) = none

/-- Every earlier command of the core on these tables and this accumulator has finished, the hart's writes are acknowledged
(R126, R322), and for a command of the period no command of an ended one is left (R121). -/
def EarlierDone (s : State) (tbs : List Nat) (acc : Option Nat) (period : Bool) : Prop :=
  needMet s s.cur (.array tbs acc period) = true

/-- A clean 64-byte record stands at an address that is a multiple of 64, its eight words `d` (R127, R312). -/
def RecordAt (s : State) (va : Word) (d : List Word) : Prop :=
  va.toNat % 64 = 0 ∧ ∃ bs, readUnit s va.toNat 64 = .ok bs false ∧ d = (span 0 8).map fun i => ofBytes ((bs.drop (8 * i)).take 8)

/-- The machine once a unit has read these bytes for the executing hart: at a FIFO port their slots are free (R81). -/
def afterRead (s : State) (va n : Nat) : State :=
  match readUnit s va n with
  | .ok bs p => afterUnit s va n bs p
  | _ => s

/-- These bytes are served at once, and at no FIFO port: a populated place in no bank that is in cache mode or changes its
mode (R81, R83, R89). -/
def PlainAt (s : State) (pas : List Nat) : Prop :=
  changing s pas = none ∧ engineOk s pas = true ∧ ∀ a ∈ pas, fifoPort s [a] = none

/-- The executing hart's instruction is accepted by its unit: it goes on at the next word and parks (R20, R125). Its mode,
enables and pending interrupts, its frame and its special registers are as before. -/
def Accepted (s t : State) : Prop :=
  let x := getSlot s s.cur
  let y := getSlot t s.cur
  y.pc = pcOf s + 4 ∧ y.st = .parked .results none ∧ (∀ k, k < 11 → k ≠ 7 → y.hsw.getLsbD k = x.hsw.getLsbD k) ∧
  y.wp = x.wp ∧ y.ktvec = x.ktvec ∧ y.asid = x.asid ∧ y.timecmp = x.timecmp ∧ y.wakeval = x.wakeval ∧
  y.monword = x.monword ∧ y.ksaddr = x.ksaddr ∧ y.sret = x.sret ∧ y.loop = x.loop

/-- A command of the executing hart stands last in its cluster's array, with the next sequence number (R126). -/
def Queued (s t : State) (op : ArrOp) : Prop :=
  let cl := clusterOf (coreOf s.cur)
  ∃ c, (getArr t cl).cmds = (getArr s cl).cmds ++ [c] ∧ c.op = op ∧ c.core = coreOf s.cur ∧ c.hart = s.cur ∧
    c.seq = (getArr s cl).seq ∧ (getArr t cl).seq = (getArr s cl).seq + 1

/-- A finished command has left the array (R126). -/
def Finished (t : State) (cl : Nat) (c : ArrCmd) : Prop := ∀ d ∈ (getArr t cl).cmds, d.seq ≠ c.seq

/-- Four consecutive results, outstanding (R165). -/
def FourPending (s t : State) (a : Nat) (vs : List Word) : Prop :=
  ∀ k, k < 4 → a + k ≠ 0 → ∃ e ∈ (getSlot t s.cur).outs,
    e.dest = (span (regPa s s.cur (a + k)) 8).zip (span 0 8) ∧ e.val = some (wBytes (vs.getD k 0))

/-- FRAME of an instruction that changes no storage: every byte and its poison, so every workspace word, and every
other hart are as before. -/
def Quiet (s t : State) : Prop :=
  t.mem = s.mem ∧ t.poison = s.poison ∧ (getSlot t s.cur).wp = (getSlot s s.cur).wp ∧
  ∀ k, k ≠ s.cur → getSlot t k = getSlot s k

/-- The executing slot is bound to transaction `t` (R333). -/
def Bound (s : State) (t : Txn) : Prop := boundTxn s s.cur = some t

/-- TXCHK is not owed, or it has passed (R60). -/
def Passed (t : Txn) : Prop := t.checked = true → t.passed = true

/-! Command queues (R394 to R401). -/

/-- The packet of type `typ` with flags `f` and payload `p` stands whole and good at the head of mapped queue `q`, not
held by BARRIER, and no other queue is runnable (R396 to R398). -/
def Parses (s : State) (q typ f : Nat) (p : List (BitVec 32)) : Prop :=
  let c := getCq s q
  c.st = .mapped ∧ cqOn c = true ∧ c.pend = none ∧ standStill s = false ∧ s.tr.runlist = [] ∧ 1 ≤ typ ∧ typ ≤ 12 ∧ f < 4 ∧
  (∃ hdr, packetWord s c 0 = .ok hdr ∧ bits hdr.toNat 24 8 = typ ∧ bits hdr.toNat 8 16 = p.length ∧ bits hdr.toNat 0 8 = f) ∧
  (countOf typ).any (· ≠ p.length) = false ∧ p.length < hasWords c ∧ payloadWords s c p.length 1 = .ok p ∧
  payloadFault s c typ p = none ∧ (f % 2 = 1 → ∀ l ∈ s.ks.launches, l.queue ≠ some q)

/-- The packet of `n` payload words is consumed: QRPTR, or the place in the indirect buffer, is past it (R399). -/
def Consumed (s t : State) (q n : Nat) : Prop :=
  let c := getCq s q
  (c.stack = [] → (getCq t q).stack = [] ∧ (getCq t q).rptr = (c.rptr + n + 1) % ringSize c) ∧
  (∀ b rest, c.stack = b :: rest → n + 1 < b.left → (getCq t q).rptr = c.rptr ∧
    (getCq t q).stack = { b with va := b.va + 4 * (n + 1), left := b.left - (n + 1) } :: rest)

/-- The packet has completed: it is consumed, its thread parses on, and its notification is sent (R396). -/
def PacketDone (s t : State) (q f n : Nat) : Prop :=
  Consumed s t q n ∧ (getCq t q).st = .mapped ∧ (getCq t q).pend = none ∧
  ((∀ b rest, (getCq s q).stack = b :: rest → n + 1 < b.left) →
    t.tr.cpOut = s.tr.cpOut ++ if f / 2 % 2 = 1 then [.notify q (packetAt (getCq s q))] else [])

/-- A packet whose effect may last has been consumed: it has completed if nothing lasts, else its notification is owed until the cores
have moved (R396). -/
def Lasting (s t : State) (q typ f n : Nat) (late : List Nat) : Prop :=
  PacketDone s t q (if late = [] then f else 0) n ∧
  t.tr.owed = s.tr.owed ++ if late ≠ [] ∧ f / 2 % 2 = 1 then [⟨q, typ, packetAt (getCq s q), none, late⟩] else []

/-- The thread blocks at a packet, whose header QRPTR still names: nothing of it is seen (R400, R402). -/
def BlockedAt (s t : State) (q : Nat) (x : Pend) : Prop :=
  (getCq t q).st = .waiting ∧ (getCq t q).pend = some x ∧ (getCq t q).rptr = (getCq s q).rptr ∧
  (getCq t q).stack = (getCq s q).stack ∧ t.mem = s.mem ∧ t.ks = s.ks ∧ t.slots = s.slots ∧ t.tr.cpOut = s.tr.cpOut

/-- The journal is off: an entry changes nothing (R405, log 6). -/
def JournalOff (s : State) : Prop := bit (trReg s 8) 8 = false

end Sys2Proof.Machine
end

