-- ==== Sys2Proof/Certificates/Slice0/Obligations.lean ====
section
/-! DEFINITION. The statements about the machine, each a proposition that formalises rules of the spec. -/

open Sys2Proof Sys2Proof.Machine

/-! Scalar instructions (R257, R258, R263 to R267). -/

/-- R263: the R-format results that are written in their issue cycle, over two registers: sums, logic, shifts by bits
5..0 of B, rotations, comparisons and selections. Nothing else changes; writes to w0 are discarded. -/
def Obligations.RegisterResults : Prop :=
  ∀ (s : State) (sw : Bool) (d a b : Fin 32), Ordinary s → MayIssue s .none 0 → Clean s [a.val, b.val] →
    let x := rg s a
    let y := rg s b
    let n := y.toNat % 64
    let W := fun (i : Instr) (v : Word) => Does i s fun t => WroteReg s t sw d.val v false (pcOf s + 4)
    W (.add sw d a b) (x + y) ∧ W (.sub sw d a b) (x - y) ∧ W (.and sw d a b) (x &&& y) ∧ W (.or sw d a b) (x ||| y) ∧
    W (.xor sw d a b) (x ^^^ y) ∧ W (.andn sw d a b) (x &&& ~~~y) ∧
    W (.sll sw d a b) (x <<< n) ∧ W (.srl sw d a b) (x >>> n) ∧ W (.sra sw d a b) (x.sshiftRight n) ∧
    W (.rol sw d a b) (x.rotateLeft n) ∧ W (.ror sw d a b) (x.rotateRight n) ∧
    W (.slt sw d a b) (if x.toInt < y.toInt then 1 else 0) ∧ W (.sltn sw d a b) (if x.toNat < y.toNat then 1 else 0) ∧
    W (.seq sw d a b) (if x = y then 1 else 0) ∧
    W (.min sw d a b) (if y.toInt < x.toInt then y else x) ∧ W (.max sw d a b) (if x.toInt < y.toInt then y else x) ∧
    W (.minn sw d a b) (if y.toNat < x.toNat then y else x) ∧ W (.maxn sw d a b) (if x.toNat < y.toNat then y else x)

/-- R263: ADDSAT and SUBSAT clamp the exact signed sum and difference to the 64-bit range; the counts of leading zeros,
trailing zeros and ones, and the bit and byte reversals, said bit by bit. -/
def Obligations.SaturationAndBits : Prop :=
  ∀ (s : State) (sw : Bool) (d a b : Fin 32), Ordinary s → MayIssue s .none 0 → Clean s [a.val] →
    let x := rg s a
    let W := fun (i : Instr) (P : Word → Prop) => Does i s fun t => ∃ v : Word,
      P v ∧ WroteReg s t sw d.val v false (pcOf s + 4)
    let clamped := fun (e : Int) (v : Word) => v.toInt = max (-(2 ^ 63)) (min (2 ^ 63 - 1) e)
    (Clean s [b.val] → W (.addsat sw d a b) (clamped (x.toInt + (rg s b).toInt)) ∧
      W (.subsat sw d a b) (clamped (x.toInt - (rg s b).toInt))) ∧
    W (.clz sw d a) (fun v => v.toNat ≤ 64 ∧ (∀ k, 64 - v.toNat ≤ k → x.getLsbD k = false) ∧
      (v.toNat < 64 → x.getLsbD (63 - v.toNat) = true)) ∧
    W (.ctz sw d a) (fun v => v.toNat ≤ 64 ∧ (∀ k, k < v.toNat → x.getLsbD k = false) ∧
      (v.toNat < 64 → x.getLsbD v.toNat = true)) ∧
    W (.popc sw d a) (fun v => v.toNat = ((List.range 64).filter fun k => x.getLsbD k).length) ∧
    W (.brev sw d a) (fun v => ∀ k, k < 64 → v.getLsbD k = x.getLsbD (63 - k)) ∧
    W (.bswap sw d a) (fun v => ∀ k, k < 64 → v.getLsbD k = x.getLsbD (56 - k / 8 * 8 + k % 8))

/-- R263, R264, R367: products, quotients and remainders are outstanding results with the values of the tables,
division by zero and the overflow of the signed quotient among them; nothing traps. -/
def Obligations.MultiplyAndDivide : Prop :=
  ∀ (s : State) (sw : Bool) (d a b : Fin 32), MayIssue s .none 0 → Clean s [a.val, b.val] →
    let x := rg s a
    let y := rg s b
    let W := fun (i : Instr) (P : Word → Prop) => Does i s fun t => ∃ v : Word,
      P v ∧ WillWrite s t sw d.val v false (pcOf s + 4)
    W (.mul sw d a b) (fun v => v.toNat = x.toNat * y.toNat % 2 ^ 64) ∧
    W (.mulh sw d a b) (fun v => v.toInt = x.toInt * y.toInt / 2 ^ 64) ∧
    W (.mulhn sw d a b) (fun v => v.toNat = x.toNat * y.toNat / 2 ^ 64) ∧
    W (.div sw d a b) (fun v => if y = 0 then v = BitVec.allOnes 64 else
      if x.toInt = -(2 ^ 63) ∧ y.toInt = -1 then v = x else v.toInt = x.toInt.tdiv y.toInt) ∧
    W (.divn sw d a b) (fun v => if y = 0 then v = BitVec.allOnes 64 else v.toNat = x.toNat / y.toNat) ∧
    W (.rem sw d a b) (fun v => if y = 0 then v = x else v.toInt = x.toInt.tmod y.toInt) ∧
    W (.remn sw d a b) (fun v => if y = 0 then v = x else v.toNat = x.toNat % y.toNat)

/-- R265, R266, R254: the immediate forms. The immediate is IMM15 sign-extended, or the 37-bit immediate of a pending
LIX, which the instruction uses up; LAPC adds it to the instruction's own address. -/
def Obligations.ImmediateResults : Prop :=
  ∀ (s : State) (sw : Bool) (d a : Fin 32) (imm : BitVec 15) (n : Fin 64),
    Ordinary s → MayIssue s .imm 0 → Clean s [a.val] →
    let x := rg s a
    let y : Word := if pfxOf s s.cur then
        (BitVec.ofNat 37 (payload s s.cur * 2 ^ 15 + imm.toNat)).signExtend 64 else imm.signExtend 64
    let W := fun (i : Instr) (v : Word) => Does i s fun t => WroteReg s t sw d.val v false (pcOf s + 4)
    W (.addi sw d a imm) (x + y) ∧ W (.andi sw d a imm) (x &&& y) ∧ W (.ori sw d a imm) (x ||| y) ∧
    W (.xori sw d a imm) (x ^^^ y) ∧ W (.slti sw d a imm) (if x.toInt < y.toInt then 1 else 0) ∧
    W (.sltin sw d a imm) (if x.toNat < y.toNat then 1 else 0) ∧ W (.lapc sw d imm) (pcOf s + y) ∧
    (MayIssue s .none 0 → W (.slli sw d a n) (x <<< n.val) ∧ W (.srli sw d a n) (x >>> n.val) ∧
      W (.srai sw d a n) (x.sshiftRight n.val) ∧ W (.rori sw d a n) (x.rotateRight n.val))

/-! Control flow (R268 to R271). -/

/-- R268 to R270: a branch continues at its own address + 4 × OFF15 when its condition holds, else at its own address + 4,
and changes nothing else; JAL links in w1 and jumps by 4 × OFF25 from its own address; JALR links in D and jumps to A, read
before D is written, and a target that is no multiple of 4 is MISALIGNED with SUB 0 and the target as value. -/
def Obligations.BranchesAndLinks : Prop :=
  ∀ (s : State) (sw : Bool) (d a b : Fin 32) (off : BitVec 15) (far : BitVec 25), MayIssue s .none 0 →
    (Ordinary s → Clean s [a.val, b.val] →
      let x := rg s a
      let y := rg s b
      let B := fun (i : Instr) (c : Prop) => Does i s fun t =>
        (c → WroteReg s t sw 0 0 false (pcOf s + 4 * off.signExtend 64)) ∧
        (¬ c → WroteReg s t sw 0 0 false (pcOf s + 4))
      B (.beq sw a b off) (x = y) ∧ B (.bne sw a b off) (x ≠ y) ∧ B (.blt sw a b off) (x.toInt < y.toInt) ∧
      B (.bge sw a b off) (y.toInt ≤ x.toInt) ∧ B (.bltn sw a b off) (x.toNat < y.toNat) ∧
      B (.bgen sw a b off) (y.toNat ≤ x.toNat)) ∧
    (Ordinary s →
      Does (.jal sw far) s fun t => WroteReg s t sw 1 (pcOf s + 4) false (pcOf s + 4 * far.signExtend 64)) ∧
    (Ordinary s → (rg s a).toNat % 4 ≠ 0 → exec (.jalr sw d a) s = .next (raise s (trap .misaligned 0 (rg s a)))) ∧
    (Ordinary s → (rg s a).toNat % 4 = 0 → Clean s [a.val] → (getSlot s s.cur).scout = false →
      Does (.jalr sw d a) s fun t => WroteReg s t sw d.val (pcOf s + 4) false (rg s a))

/-- R261, R271: JTB with both operands clean and a header whose high half is zero: an index at or above the entry count
gives D = 1 and goes on at the next word; one below it gives D = 0 and goes on at the base plus the entry, read as a
signed 32-bit number, when that is a multiple of 4; either way the result is outstanding and the hart parks. -/
def Obligations.JumpThroughTable : Prop :=
  ∀ (s : State) (sw : Bool) (d a b : Fin 32) (hdr ent : List Byte), MayIssue s .none 0 → Fresh s →
    Clean s [a.val, b.val] → (rg s a).toNat % 8 = 0 → readOwn s (rg s a).toNat 8 = .ok hdr false →
    fld (ofBytes hdr) 63 32 = 0 →
    (fld (ofBytes hdr) 31 0 ≤ (rg s b).toNat →
      Does (.jtb sw d a b) s fun t => WillWrite s t true d.val 1 false (pcOf s + 4)) ∧
    ((rg s b).toNat < fld (ofBytes hdr) 31 0 →
      readOwn s (rg s a + 8 + 4 * rg s b).toNat 4 = .ok ent false →
      let target := rg s a + (BitVec.ofNat 32 (leNat ent)).signExtend 64
      (target.toNat % 4 = 0 → Does (.jtb sw d a b) s fun t => WillWrite s t true d.val 0 false target) ∧
      (target.toNat % 4 ≠ 0 → exec (.jtb sw d a b) s = .next (raise s (trap .misaligned 0 target))))

/-! Loads and stores (R259, R260, R272 to R278). -/

/-- R272, R273, R259: a plain load from the own scratchpad gives, as an outstanding result, the little-endian bytes at
the address, sign-extended or zero-extended to the word as its mnemonic says; no byte of memory changes. -/
def Obligations.OwnLoads : Prop :=
  ∀ (s : State) (sw : Bool) (d a b : Fin 32) (imm : BitVec 15) (o : Nat), Ordinary s → Fresh s →
    let L := fun (i : Instr) (n : Nat) (f : Nat → Word) =>
      Home s o n false → CleanAt s (homePas s o n) →
      Does i s fun t => WillWrite s t sw d.val (f (homeNat s o n)) false (pcOf s + 4)
    (MayIssue s .imm 0 → Clean s [a.val] → (rg s a + immOf s imm).toNat = window0 + o →
      L (.ld sw d a imm) 8 wd) ∧
    (MayIssue s .none 0 → Clean s [a.val, b.val] → (rg s a + rg s b).toNat = window0 + o →
      L (.lxb sw d a b .plain) 1 (fun v => (BitVec.ofNat 8 v).signExtend 64) ∧
      L (.lxbn sw d a b .plain) 1 wd ∧
      L (.lxh sw d a b .plain) 2 (fun v => (BitVec.ofNat 16 v).signExtend 64) ∧
      L (.lxhn sw d a b .plain) 2 wd ∧
      L (.lxw sw d a b .plain) 4 (fun v => (BitVec.ofNat 32 v).signExtend 64) ∧
      L (.lxwn sw d a b .plain) 4 wd ∧
      L (.lxd sw d a b .plain) 8 wd)

/-- R272, R274, R259: a plain store to the own scratchpad writes the low bytes of its data word, little-endian, at the
address at its issue, and every other byte of memory is as before. -/
def Obligations.OwnStores : Prop :=
  ∀ (s : State) (sw : Bool) (d a b : Fin 32) (imm : BitVec 15) (o : Nat), Ordinary s → Fresh s →
    let S := fun (i : Instr) (n : Nat) (v : Word) => Home s o n true →
      Does i s fun t => Stored s t sw (homePas s o n) (leBytes n v.toNat) (pcOf s + 4)
    (MayIssue s .imm 0 → Clean s [a.val, b.val] → (rg s a + immOf s imm).toNat = window0 + o →
      S (.st sw a b imm) 8 (rg s b)) ∧
    (MayIssue s .none 0 → Clean s [a.val, b.val, d.val] → (rg s a + rg s b).toNat = window0 + o →
      S (.sxb sw d a b .plain) 1 (rg s d) ∧ S (.sxh sw d a b .plain) 2 (rg s d) ∧
      S (.sxw sw d a b .plain) 4 (rg s d) ∧ S (.sxd sw d a b .plain) 8 (rg s d))

/-- R16, R85, R272, R273: a plain load from HBM that no cache serves goes on its way, and its destination is an
outstanding result that it will bring; no byte of memory changes. -/
def Obligations.RemoteLoadsSent : Prop :=
  ∀ (s : State) (sw : Bool) (d a b : Fin 32) (imm : BitVec 15) (pas : List Nat) (x : Xl),
    let L := fun (i : Instr) (n va : Nat) => Reaches s va n .read pas x → CleanAt s pas →
      (x.cache = true → cacheRead (tlbFill s (who s s.cur) va) s.cur x.key pas = none) →
      Does i s fun t => Sent s t pas .load (fun y => y.dest = .result ∧ y.key = x.key ∧ y.va = wd va) ∧
        (∃ e ∈ (getSlot t s.cur).outs, e.src = some s.uid ∧ e.val = none ∧
          e.dest.map (·.1) = if d.val = 0 then [] else span (regPa s s.cur d.val) 8) ∧
        t.mem = s.mem ∧ t.poison = s.poison ∧ WentOn s t sw (pcOf s + 4)
    (MayIssue s .imm 0 → Clean s [a.val] → L (.ld sw d a imm) 8 (rg s a + immOf s imm).toNat) ∧
    (Fresh s → MayIssue s .none 0 → Clean s [a.val, b.val] →
      let va := (rg s a + rg s b).toNat
      L (.lxb sw d a b .plain) 1 va ∧ L (.lxbn sw d a b .plain) 1 va ∧ L (.lxh sw d a b .plain) 2 va ∧
      L (.lxhn sw d a b .plain) 2 va ∧ L (.lxw sw d a b .plain) 4 va ∧ L (.lxwn sw d a b .plain) 4 va ∧
      L (.lxd sw d a b .plain) 8 va)

/-- R212, R223, R272, R274: a plain store to HBM is posted: with room in the journal it takes an entry and goes on its
way with its bytes, and no byte of memory changes at issue. -/
def Obligations.RemoteStoresPosted : Prop :=
  ∀ (s : State) (sw : Bool) (d a b : Fin 32) (imm : BitVec 15) (pas : List Nat) (x : Xl), Fresh s →
    journalRoom s s.cur = true →
    let S := fun (i : Instr) (n va : Nat) (v : Word) => Reaches s va n .write pas x →
      Does i s fun t =>
        (∃ e, (getCore t (coreOf s.cur)).journal = (getCore s (coreOf s.cur)).journal ++ [e] ∧ e.hart = s.cur ∧
          e.addr = va % 2 ^ 56 ∧ e.refused = none ∧
          Sent s t pas (.store (leBytes n v.toNat)) fun y => y.dest = .journal (coreOf s.cur) e.frame e.entry ∧ y.key = x.key) ∧
        t.mem = s.mem ∧ t.poison = s.poison ∧ WentOn s t sw (pcOf s + 4)
    (MayIssue s .imm 0 → Clean s [a.val, b.val] →
      S (.st sw a b imm) 8 (rg s a + immOf s imm).toNat (rg s b)) ∧
    (MayIssue s .none 0 → Clean s [a.val, b.val, d.val] →
      let va := (rg s a + rg s b).toNat
      S (.sxb sw d a b .plain) 1 va (rg s d) ∧ S (.sxh sw d a b .plain) 2 va (rg s d) ∧
      S (.sxw sw d a b .plain) 4 va (rg s d) ∧ S (.sxd sw d a b .plain) 8 va (rg s d))

/-- R88, R90, R273, R274, R20, R204, R206, R212: the sync modes that may wait (WFULL, TAKE, FILL), a release whose
hart's writes are acknowledged, send their access to the word's home and the hart waits for it; a load in mode PUT or
PROBE is sent with its result outstanding, and a store in mode PUT is posted under an entry of the journal; a misaligned
address or a width other than 64 bits is MISALIGNED. That the hart of a PUT goes on, its earlier writes acknowledged or not,
and the access is held back where it arrives, is the model's choice: log 13. -/
def Obligations.SyncModeAccesses : Prop :=
  ∀ (s : State) (sw : Bool) (d a b : Fin 32) (pas : List Nat) (x : Xl), Fresh s → MayIssue s .none 0 →
    Clean s [a.val, b.val, d.val] →
    let va := (rg s a + rg s b).toNat
    (∀ m ∈ [SyncMode.wfull, .take, .fill, .put, .probe],
      (∀ i ∈ [Instr.lxb sw d a b m, .lxbn sw d a b m, .lxh sw d a b m, .lxhn sw d a b m, .lxw sw d a b m, .lxwn sw d a b m],
        exec i s = .next (raise s (trap .misaligned 1 (wd va)))) ∧
      (va % 8 ≠ 0 → exec (.lxd sw d a b m) s = .next (raise s (trap .misaligned 1 (wd va))))) ∧
    (∀ m ∈ [SyncMode.wfull, .take, .fill], writesPending s s.cur = false →
      (va % 8 = 0 → Reaches s va 8 .read pas x → Does (.lxd sw d a b m) s fun t =>
        Sent s t pas (.sync m none) (fun y => y.dest = .wait d.val sw) ∧
        (getSlot t s.cur).st = .waiting (.memory s.uid) ∧ (getSlot t s.cur).pc = pcOf s ∧ t.mem = s.mem) ∧
      (va % 8 = 0 → Reaches s va 8 .write pas x → Does (.sxd sw d a b m) s fun t =>
        Sent s t pas (.sync m (some (rg s d))) (fun y => y.dest = .wait 0 sw) ∧
        (getSlot t s.cur).st = .waiting (.memory s.uid) ∧ (getSlot t s.cur).pc = pcOf s ∧ t.mem = s.mem)) ∧
    (∀ m ∈ [SyncMode.put, .probe], va % 8 = 0 → Reaches s va 8 .read pas x → CleanAt s pas →
      Does (.lxd sw d a b m) s fun t => Sent s t pas (.sync m none) (fun y => y.dest = .result) ∧ t.mem = s.mem ∧
        (getSlot t s.cur).pc = pcOf s + 4) ∧
    (va % 8 = 0 → Reaches s va 8 .write pas x → journalRoom s s.cur = true →
      Does (.sxd sw d a b .put) s fun t => t.mem = s.mem ∧ (getSlot t s.cur).pc = pcOf s + 4 ∧
        ∃ e, (getCore t (coreOf s.cur)).journal = (getCore s (coreOf s.cur)).journal ++ [e] ∧ e.hart = s.cur ∧
          e.addr = va % 2 ^ 56 ∧ e.refused = none ∧
          Sent s t pas (.sync .put (some (rg s d))) fun y => y.dest = .journal (coreOf s.cur) e.frame e.entry)

/-- R224, R233, R276: LXD.REMOTE marks the reply-table entry of its message slot with the address and sends the load
towards the slot; word 62 that is no place for a reply table is an ACCESS_FAULT with SUB 4.
What those rules leave to reading is the model's choice: log 11. -/
def Obligations.RemoteLoadIntoSlot : Prop :=
  ∀ (s : State) (sw : Bool) (slot : Fin 16) (a b : Fin 32) (pas : List Nat) (x : Xl), Ordinary s → Fresh s →
    MayIssue s .none 0 → Clean s [a.val, b.val] →
    let va := (rg s a + rg s b).toNat
    let w := readReg s s.cur 62
    ((w.toNat % 128 ≠ 0 ∨ 0x30000 < w.toNat + 128) →
      exec (.lxdRemote sw slot a b .plain) s = .next (raise s (trap .accessFault 4 w))) ∧
    (w.toNat % 128 = 0 → w.toNat + 128 ≤ 0x30000 → Reaches s va 8 .read pas x → CleanAt s pas →
      (rd64 s (replyPa s s.cur slot.val)).getLsbD 63 = false →
      Does (.lxdRemote sw slot a b .plain) s fun t =>
        rd64 t (replyPa s s.cur slot.val) = wd (2 ^ 63 + va % 2 ^ 56) ∧
        (∀ y, y ∉ span (replyPa s s.cur slot.val) 8 → memGet t.mem y = memGet s.mem y) ∧
        Sent s t pas .load (fun y => y.dest = .slot ((getSlot s s.cur).wp / 512) slot.val (nanOf s s.cur)) ∧
        (getSlot t s.cur).pc = pcOf s + 4)

/-- R204, R262, R277, R278: LDM brings its 1 to 32 words to consecutive registers (none to w0), and STM stores consecutive
registers to consecutive words, both from the word at which a pending resume point stands; a base that is no multiple of 8 is
MISALIGNED, and a resume point past the words is an ILLEGAL_INSTRUCTION. From and to the own scratchpad all words are read or
written at issue; a plain LDM of HBM words that no cache serves sends one load for each, and a plain STM to HBM posts one
store for each; under a sync mode the hart waits for its next word, the resume point saved.
What those rules leave to reading is the model's choice: log 14, 74. -/
def Obligations.LoadAndStoreMultiple : Prop :=
  ∀ (s : State) (sw : Bool) (a b c : Fin 32), Ordinary s → Fresh s → MayIssue s .none 0 → b.val + c.val + 1 ≤ 32 →
    let n := c.val + 1
    let va := fun (k : Nat) => (rg s a).toNat + 8 * k
    ((rg s a).toNat % 8 ≠ 0 → ∀ m, exec (.ldm sw a b c m) s = .next (raise s (trap .misaligned 1 (rg s a))) ∧
      exec (.stm sw a b c m) s = .next (raise s (trap .misaligned 2 (rg s a)))) ∧
    ((rg s a).toNat % 8 = 0 → mres s s.cur = true → n < repcnt s s.cur → ∀ m, m ≠ .plain →
      exec (.ldm sw a b c m) s = .next (raise s (illegal (.ldm sw a b c m))) ∧
      exec (.stm sw a b c m) s = .next (raise s (illegal (.stm sw a b c m)))) ∧
    ((rg s a).toNat % 8 = 0 → ∀ k, k = (if mres s s.cur then n - repcnt s s.cur else 0) →
      (mres s s.cur = true → repcnt s s.cur ≤ n) →
      let fin := fun (t : State) => (getSlot t s.cur).pc = pcOf s + 4 ∧ HartKept s t ∧ repcnt t s.cur = 0 ∧ mres t s.cur = false
      (∀ o, (rg s a).toNat = window0 + o → o + 8 * n ≤ 0x30000 →
        (∀ y ∈ homePas s o (8 * n), y ∉ span (regPa s s.cur 0) 512) →
        (Clean s [a.val] → (∀ j, j < n → Home s (o + 8 * j) 8 false) → CleanAt s (homePas s o (8 * n)) →
          Does (.ldm sw a b c .plain) s fun t => t.mem = s.mem ∧ fin t ∧
            ∀ j, k ≤ j → j < n → b.val + j ≠ 0 → ∃ e ∈ (getSlot t s.cur).outs,
              e.dest = (span (regPa s s.cur (b.val + j)) 8).zip (span 0 8) ∧
              e.val = some (wBytes (wd (homeNat s (o + 8 * j) 8)))) ∧
        (Clean s (a.val :: span b.val n) → (∀ j, j < n → Home s (o + 8 * j) 8 true) →
          Does (.stm sw a b c .plain) s fun t => fin t ∧
            (∀ j, k ≤ j → j < n → homeNat t (o + 8 * j) 8 = (readReg s s.cur (b.val + j)).toNat) ∧
            ∀ y, y ∉ homePas s (o + 8 * k) (8 * (n - k)) → memGet t.mem y = memGet s.mem y)) ∧
      (∀ (pas : Nat → List Nat) (x : Nat → Xl), Clean s [a.val] →
        (k < n → (∀ j, j < n → Reaches s (va j) 8 .read (pas j) (x j) ∧ CleanAt s (pas j) ∧
            cacheRead s s.cur (x j).key (pas j) = none) →
          Does (.ldm sw a b c .plain) s fun t => t.mem = s.mem ∧ fin t ∧ ∃ l : List Access, t.flight = s.flight ++ l ∧
            l.map (·.pas) = (span k (n - k)).map pas ∧
            (∀ y ∈ l, y.op = .load ∧ y.dest = .result ∧ y.hart = s.cur ∧ y.st = .flying) ∧
            ∀ i y, l[i]? = some y → ∃ e ∈ (getSlot t s.cur).outs, e.src = some y.uid ∧ e.val = none ∧
              e.dest.map (·.1) = if b.val + k + i = 0 then [] else span (regPa s s.cur (b.val + k + i)) 8) ∧
        ((∀ j, j < n → Reaches s (va j) 8 .write (pas j) (x j)) → Clean s (span b.val n) → journalRooms s s.cur (n - k) = true →
          Does (.stm sw a b c .plain) s fun t => t.mem = s.mem ∧ fin t ∧ ∃ (l : List Access) (es : List JEnt),
            t.flight = s.flight ++ l ∧ (∀ y ∈ l, y.hart = s.cur ∧ y.st = .flying) ∧
            l.map (fun y => (y.pas, y.op)) = (span k (n - k)).map (fun j => (pas j, .store (wBytes (readReg s s.cur (b.val + j))))) ∧
            (getCore t (coreOf s.cur)).journal = (getCore s (coreOf s.cur)).journal ++ es ∧
            es.map (fun e => (e.hart, e.addr, e.refused)) = (span k (n - k)).map fun j => (s.cur, va j % 2 ^ 56, none)) ∧
        (k < n → writesPending s s.cur = false → ∀ m ∈ [SyncMode.wfull, .take, .fill, .put, .probe],
          let waits := fun (t : State) (op : AccOp) (d : Nat) => t.mem = s.mem ∧ (getSlot t s.cur).pc = pcOf s ∧
            repcnt t s.cur = n - k ∧ mres t s.cur = true ∧ HartKept s t ∧ ∃ y, t.flight = s.flight ++ [y] ∧ y.pas = pas k ∧
              y.op = op ∧ y.dest = .multi d (n - k) sw ∧ y.hart = s.cur ∧ (getSlot t s.cur).st = .waiting (.memory y.uid)
          ((∀ j, j < n → Reaches s (va j) 8 .read (pas j) (x j)) →
            Does (.ldm sw a b c m) s fun t => waits t (.sync m none) (b.val + k)) ∧
          ((∀ j, j < n → Reaches s (va j) 8 .write (pas j) (x j)) → Clean s [b.val + k] →
            Does (.stm sw a b c m) s fun t => waits t (.sync m (some (readReg s s.cur (b.val + k)))) 0))))

/-! Atomics and ordering (R202 to R210, R279 to R282). -/

/-- R279, R280, R210: an atomic on the own scratchpad, with no release to wait for, replaces the word by the function
of its mnemonic in one act, and its old value is the outstanding result. ACAS writes only when the old value is D. -/
def Obligations.OwnAtomics : Prop :=
  ∀ (s : State) (sw : Bool) (a b c : Fin 32) (o : Nat), Ordinary s → Fresh s → MayIssue s .none 0 →
    Clean s [b.val, c.val, a.val] → Home s o 8 true → CleanAt s (homePas s o 8) →
    (rg s b).toNat = window0 + o → o % 8 = 0 →
    let old : Word := wd (homeNat s o 8)
    let x := rg s c
    let A := fun (i : Instr) (new : Word) => Does i s fun t =>
      homeNat t o 8 = new.toNat ∧ (∀ y, y ∉ homePas s o 8 → memGet t.mem y = memGet s.mem y) ∧
      (a.val ≠ 0 → ∃ e ∈ (getSlot t s.cur).outs,
        e.dest = (span (regPa s s.cur a.val) 8).zip (span 0 8) ∧ e.val = some (wBytes old)) ∧
      t.flight = s.flight ∧ (getSlot t s.cur).pc = pcOf s + 4 ∧ HartKept s t
    A (.aswap sw a b c none) x ∧ A (.aadd sw a b c none) (old + x) ∧ A (.aand sw a b c none) (old &&& x) ∧
    A (.aor sw a b c none) (old ||| x) ∧ A (.axor sw a b c none) (old ^^^ x) ∧
    A (.amin sw a b c none) (if x.toInt < old.toInt then x else old) ∧
    A (.amax sw a b c none) (if old.toInt < x.toInt then x else old) ∧
    A (.aminn sw a b c none) (if x.toNat < old.toNat then x else old) ∧
    A (.amaxn sw a b c none) (if old.toNat < x.toNat then x else old) ∧
    A (.acas sw a b c none) (if old = rg s a then x else old)

/-- R202, R280, R210: an atomic on HBM goes on its way to the point of coherence with its operands, and its old value is
an outstanding result; with an ordering role the hart parks until it has returned, and one whose order is sc is announced
in the current window, to be performed at its place in S. An address that is no multiple of 8 is MISALIGNED with SUB 2. -/
def Obligations.RemoteAtomics : Prop :=
  ∀ (s : State) (sw : Bool) (a b c : Fin 32) (r : Role) (pas : List Nat) (x : Xl), Fresh s → MayIssue s .none 0 →
    Clean s [b.val, c.val, a.val] →
    let va := (rg s b).toNat
    ∀ e ∈ [(Instr.aswap sw a b c r, AtomOp.swap), (.aadd sw a b c r, .add), (.aand sw a b c r, .and),
        (.aor sw a b c r, .or), (.axor sw a b c r, .xor), (.amin sw a b c r, .min), (.amax sw a b c r, .max),
        (.aminn sw a b c r, .minn), (.amaxn sw a b c r, .maxn), (.acas sw a b c r, .cas)],
      (va % 8 ≠ 0 → exec e.1 s = .next (raise s (trap .misaligned 2 (rg s b)))) ∧
      (va % 8 = 0 → Reaches s va 8 .write pas x → CleanAt s pas → writesPending s s.cur = false →
        ((∀ sc, r ≠ some (.sc, sc)) →
          Does e.1 s fun t => Sent s t pas (.atomic e.2 (rg s c) (rg s a)) (fun y => y.dest = .result) ∧
            t.mem = s.mem ∧ (getSlot t s.cur).pc = pcOf s + 4 ∧
            (getSlot t s.cur).st = if sw ∨ r ≠ none then .parked .results none else (getSlot s s.cur).st) ∧
        (∀ sc, r = some (.sc, sc) → chunkBusy s.flight s.cur pas = false → jobOverlap s s.cur pas true = false →
          Does e.1 s fun t => t.mem = s.mem ∧ t.flight = s.flight ∧ (getSlot t s.cur).pc = pcOf s + 4 ∧
            (getSlot t s.cur).st = .parked .results none ∧ HartKept s t ∧
            ∃ o y, t.ks.sc = s.ks.sc ++ [o] ∧ o.hart = s.cur ∧ o.scope = sc ∧ o.acc = some y ∧ y.pas = pas ∧
              y.op = .atomic e.2 (rg s c) (rg s a)))

/-- R203 to R205, R207, R208, R281, R282: a FENCE that releases waits for the hart's writes at any scope but hart; else it
completes: an SC fence takes a place in the current window, and an acquire at cluster scope or wider empties the
core's data cache. It reads and writes no memory, and changes at most when the accesses on their way acquire. LDSC and
STSC are never posted: with nothing of the hart unfinished on the chunk they are announced in the current window, to be
performed at their place in the order S, and the hart parks for them; each follows the hart's earlier writes at any scope but
hart, and until those are acknowledged the hart parks. What those rules leave to reading is the model's choice: log 100. -/
def Obligations.FencesAndSequentialConsistency : Prop :=
  (∀ (s : State) (sw : Bool) (o : Order) (sc : Scope), MayIssue s .none 0 →
    (o ≠ .acq → sc ≠ .hart → writesPending s s.cur = true →
      Does (.fence sw o sc) s fun t => (getSlot t s.cur).st = .parked .writes none ∧ (getSlot t s.cur).pc = pcOf s ∧
        t.mem = s.mem ∧ t.ks = s.ks ∧ t.cores = s.cores ∧ HartKept s t) ∧
    ((o = .acq ∨ sc = .hart ∨ writesPending s s.cur = false) →
      Does (.fence sw o sc) s fun t => t.mem = s.mem ∧ (o = .rel ∨ o = .sc → t.flight = s.flight) ∧
        t.flight.map (fun y => { y with acq := none }) = s.flight.map (fun y => { y with acq := none }) ∧
        (getSlot t s.cur).pc = pcOf s + 4 ∧
        (getSlot t s.cur).st = .parked .results none ∧ HartKept s t ∧
        (o = .sc → ∃ e, t.ks.sc = s.ks.sc ++ [e] ∧ e.hart = s.cur ∧ e.scope = sc ∧ e.cycle = s.cycle ∧ e.acc = none) ∧
        (o ≠ .sc → t.ks = s.ks) ∧
        (o ≠ .rel → o ≠ .sc → (sc = .cluster ∨ sc = .device ∨ sc = .group) →
          (getCore t (coreOf s.cur)).dcache = []))) ∧
  ∀ (s : State) (sw : Bool) (a b : Fin 32) (sc : Scope) (pas : List Nat) (x : Xl), Fresh s → MayIssue s .none 0 →
    Clean s [b.val, a.val] → (rg s b).toNat % 8 = 0 →
    (sc ≠ .hart → writesPending s s.cur = true →
      let parks := fun (i : Instr) => Does i s fun t => (getSlot t s.cur).st = .parked .writes none ∧
        (getSlot t s.cur).pc = pcOf s ∧ t.mem = s.mem ∧ t.ks = s.ks ∧ HartKept s t
      (Reaches s (rg s b).toNat 8 .read pas x → CleanAt s pas → parks (.ldsc sw a b sc)) ∧
      (Reaches s (rg s b).toNat 8 .write pas x → parks (.stsc sw a b sc))) ∧
    (sc = .hart ∨ writesPending s s.cur = false → chunkBusy s.flight s.cur pas = false →
    (Reaches s (rg s b).toNat 8 .read pas x → CleanAt s pas → jobOverlap s s.cur pas false = false →
      Does (.ldsc sw a b sc) s fun t => t.mem = s.mem ∧ t.flight = s.flight ∧ (getSlot t s.cur).pc = pcOf s + 4 ∧
        (getSlot t s.cur).st = .parked .results none ∧ HartKept s t ∧
        ∃ e y, t.ks.sc = s.ks.sc ++ [e] ∧ e.hart = s.cur ∧ e.scope = sc ∧ e.acc = some y ∧ y.pas = pas ∧ y.op = .load) ∧
    (Reaches s (rg s b).toNat 8 .write pas x → jobOverlap s s.cur pas true = false →
      Does (.stsc sw a b sc) s fun t => t.mem = s.mem ∧ t.flight = s.flight ∧ (getSlot t s.cur).pc = pcOf s + 4 ∧
        (getSlot t s.cur).st = .parked .results none ∧ HartKept s t ∧
        ∃ e y, t.ks.sc = s.ks.sc ++ [e] ∧ e.hart = s.cur ∧ e.scope = sc ∧ e.acc = some y ∧ y.pas = pas ∧
          y.op = .store (wBytes (rg s a))))

/-! Vector instructions (R284 to R310). -/

/-- R113, R114, R222, R293, R295 to R298: the elementwise integer arithmetic of every integer type in force, with or without
FMT and under REP: exact, then wrapped to the element, or clamped to it under SAT; division by zero gives all ones; minimum,
maximum, quotient and magnitude read the elements by their type's sign. A type that the function does not take, and a DT, are
an ILLEGAL_INSTRUCTION. -/
def Obligations.VectorIntegerArithmetic : Prop :=
  ∀ (s : State) (sw : Bool) (d a b c : SRef) (ty : ElemType) (od oa ob oc : Nat),
    let o := fmtOf s
    let t := o.st.getD ty
    let v := eVal t
    let e := elemsAt t
    let A := (a, oa, 64)
    let B := (b, ob, 64)
    let C := (c, oc, 64)
    let V := fun (i : Instr) (srcs : List (SRef × Nat × Nat)) (f : State → List Nat) =>
      VecDoes s i d od 64 srcs fun u => vBytes (esize t) (f u)
    let two := fun (i : Instr) (f : Nat → Nat → Nat) => V i [A, B] fun u => ((e u oa 64).zip (e u ob 64)).map fun p => f p.1 p.2
    let fit := fun (f : Int → Int → Int) (p q : Nat) => narrow t o.sat (f (v p) (v q))
    let three := fun (i : Instr) (f : Int → Int → Int → Int) => V i [A, B, C] fun u =>
      ((e u oa 64).zip ((e u ob 64).zip (e u oc 64))).map fun p => narrow t o.sat (f (v p.1) (v p.2.1) (v p.2.2))
    (o.dt = none → t.isInt = true →
      two (.vadd sw d a b ty) (fit (· + ·)) ∧ two (.vsub sw d a b ty) (fit (· - ·)) ∧ two (.vmul sw d a b ty) (fit (· * ·)) ∧
      two (.vmin sw d a b ty) (fit min) ∧ two (.vmax sw d a b ty) (fit max) ∧
      two (.vdiv sw d a b ty) (fun p q => if q = 0 then 2 ^ (8 * esize t) - 1 else fit Int.tdiv p q) ∧
      V (.vabs sw d a ty) [A] (fun u => (e u oa 64).map fun p => narrow t o.sat (v p).natAbs) ∧
      V (.vneg sw d a ty) [A] (fun u => (e u oa 64).map fun p => narrow t o.sat (-(v p))) ∧
      three (.vfma sw d a b c ty) (fun p q r => p * q + r) ∧ three (.vfms sw d a b c ty) (fun p q r => p * q - r) ∧
      three (.vfnma sw d a b c ty) (fun p q r => -(p * q) + r) ∧ three (.vfnms sw d a b c ty) (fun p q r => -(p * q) - r)) ∧
    (MayIssue s .vec 0 → ∀ i ∈ [Instr.vadd sw d a b ty, .vsub sw d a b ty, .vmul sw d a b ty, .vmin sw d a b ty,
        .vmax sw d a b ty, .vdiv sw d a b ty, .vabs sw d a ty, .vneg sw d a ty, .vfma sw d a b c ty, .vfms sw d a b c ty,
        .vfnma sw d a b c ty, .vfnms sw d a b c ty],
      (o.dt ≠ none ∨ t = .lg6 → exec i s = .next (raise s (illegal i)))) ∧
    (MayIssue s .vec 0 → (o.dt ≠ none ∨ t.isFloat = false) →
      exec (.vsqrt sw d a ty) s = .next (raise s (illegal (.vsqrt sw d a ty))))

/-- R99 to R102, R113, R114, R222, R295 to R298: the elementwise floating-point arithmetic of the type in force, with or
without FMT and under REP: the exact result of the decoded elements, rounded once, under FTZ and SAT as FMT says; a fused
multiply-add rounds once, and a minimum or maximum with a NaN is NaN. -/
def Obligations.VectorFloatArithmetic : Prop :=
  ∀ (s : State) (sw : Bool) (d a b c : SRef) (ty : ElemType) (od oa ob oc : Nat),
    let o := fmtOf s
    let t := o.st.getD ty
    let e := elemsAt t
    let x := flt o t
    let V := fun (i : Instr) (srcs : List (SRef × Nat × Nat)) (f : State → List Machine.Num) =>
      VecDoes s i d od 64 srcs fun u => vBytes (esize t) ((f u).map (rnd o t))
    let one := fun (i : Instr) (f : Machine.Num → Machine.Num) => V i [(a, oa, 64)] fun u => (e u oa 64).map fun p => f (x p)
    let two := fun (i : Instr) (f : Machine.Num → Machine.Num → Machine.Num) => V i [(a, oa, 64), (b, ob, 64)] fun u =>
      ((e u oa 64).zip (e u ob 64)).map fun p => f (x p.1) (x p.2)
    let three := fun (i : Instr) (f : Machine.Num → Machine.Num → Machine.Num → Machine.Num) =>
      V i [(a, oa, 64), (b, ob, 64), (c, oc, 64)] fun u =>
        ((e u oa 64).zip ((e u ob 64).zip (e u oc 64))).map fun p => f (x p.1) (x p.2.1) (x p.2.2)
    o.dt = none → t.isFloat = true →
    two (.vadd sw d a b ty) numAdd ∧ two (.vsub sw d a b ty) (fun p q => numAdd p (numNeg q)) ∧
    two (.vmul sw d a b ty) numMul ∧ two (.vdiv sw d a b ty) numDiv ∧
    two (.vmin sw d a b ty) (fun p q => if p = .nan ∨ q = .nan then .nan else if numLt true q p then q else p) ∧
    two (.vmax sw d a b ty) (fun p q => if p = .nan ∨ q = .nan then .nan else if numLt true p q then q else p) ∧
    one (.vabs sw d a ty) (fun p => if p.neg then numNeg p else p) ∧ one (.vneg sw d a ty) numNeg ∧
    one (.vsqrt sw d a ty) numSqrt ∧
    three (.vfma sw d a b c ty) (fun p q r => numAdd (numMul p q) r) ∧
    three (.vfms sw d a b c ty) (fun p q r => numAdd (numMul p q) (numNeg r)) ∧
    three (.vfnma sw d a b c ty) (fun p q r => numAdd (numNeg (numMul p q)) r) ∧
    three (.vfnms sw d a b c ty) (fun p q r => numAdd (numNeg (numMul p q)) (numNeg r))

/-- R113, R222, R293, R295, R296, R299, R300: bitwise functions of every type in force, shifts of the integer types by the
count modulo the width, and compares, which give all ones or all zeros; a compare with a NaN is false but for VCNE. -/
def Obligations.VectorLogicAndCompares : Prop :=
  ∀ (s : State) (sw : Bool) (d a b : SRef) (ty : ElemType) (od oa ob : Nat),
    let o := fmtOf s
    let t := o.st.getD ty
    let x := flt o t
    let k := 8 * esize t
    let e := elemsAt t
    let V := fun (i : Instr) (srcs : List (SRef × Nat × Nat)) (f : State → List Nat) =>
      VecDoes s i d od 64 srcs fun u => vBytes (esize t) (f u)
    let two := fun (i : Instr) (f : Nat → Nat → Nat) => V i [(a, oa, 64), (b, ob, 64)] fun u =>
      ((e u oa 64).zip (e u ob 64)).map fun p => f p.1 p.2
    let cmp := fun (i : Instr) (f : Nat → Nat → Bool) => two i fun p q => if f p q then 2 ^ k - 1 else 0
    o.dt = none →
    two (.vand sw d a b ty) (fun p q => p &&& q) ∧ two (.vor sw d a b ty) (fun p q => p ||| q) ∧
    two (.vxor sw d a b ty) (fun p q => p ^^^ q) ∧ two (.vandn sw d a b ty) (fun p q => p &&& (2 ^ k - 1 - q)) ∧
    V (.vnot sw d a ty) [(a, oa, 64)] (fun u => (e u oa 64).map fun p => 2 ^ k - 1 - p) ∧
    (t.isInt = true →
      two (.vshl sw d a b ty) (fun p q => p * 2 ^ (q % k) % 2 ^ k) ∧ two (.vshr sw d a b ty) (fun p q => p / 2 ^ (q % k)) ∧
      two (.vshra sw d a b ty) (fun p q => ((sint k p / 2 ^ (q % k)) % 2 ^ k).toNat) ∧
      cmp (.vceq sw d a b ty) (fun p q => eVal t p == eVal t q) ∧ cmp (.vcne sw d a b ty) (fun p q => eVal t p != eVal t q) ∧
      cmp (.vclt sw d a b ty) (fun p q => decide (eVal t p < eVal t q)) ∧
      cmp (.vcle sw d a b ty) (fun p q => decide (eVal t p ≤ eVal t q))) ∧
    (t.isFloat = true →
      cmp (.vceq sw d a b ty) (fun p q => numEq (x p) (x q)) ∧
      cmp (.vcne sw d a b ty) (fun p q => !numEq (x p) (x q)) ∧
      cmp (.vclt sw d a b ty) (fun p q => numLt false (x p) (x q)) ∧
      cmp (.vcle sw d a b ty) (fun p q => numLt false (x p) (x q) || numEq (x p) (x q)))

/-- R113, R222, R289, R293, R295, R301, R305 to R308: selection by nonzero mask elements, permutation by byte indices over two
sources, broadcast, rotation, interleaving and its inverse, move and zero, with or without FMT and under REP. A VMOV whose
source lies in HBM and is in no cache sends a load for each of its words, and its result is outstanding until they have come;
one whose destination lies in HBM posts its words under one journal entry for each chunk of 64 bytes.
What those rules leave to reading is the model's choice: log 17. -/
def Obligations.VectorPermutes : Prop :=
  ∀ (s : State) (sw : Bool) (d a b c : SRef) (ty : ElemType) (od oa ob oc : Nat),
    let t := (fmtOf s).st.getD ty
    let z := esize t
    let n := 64 / z
    let el := fun (u : State) (o i : Nat) => homeBytes u (o + i * z) z
    let V := fun (i : Instr) (nd : Nat) (srcs : List (SRef × Nat × Nat)) (m : Nat) (f : State → Nat → List Byte) =>
      VecDoes s i d od nd srcs fun u => (span 0 m).flatMap (f u)
    ((fmtOf s).dt = none →
      V (.vsel sw d a b c ty) 64 [(a, oa, 64), (b, ob, 64), (c, oc, 64)] n
        (fun u i => if (el u oa i).any (· ≠ 0) then el u ob i else el u oc i) ∧
      V (.vperm sw d a b c ty) 64 [(a, oa, 64), (b, ob, n), (c, oc, 64)] n
        (fun u i =>
          let j := ((homeBytes u ob n).getD i 0).toNat % (2 * n)
          if j < n then el u oa j else el u oc (j - n)) ∧
      V (.vbcast sw d a ty) 64 [(a, oa, z)] n (fun u _ => el u oa 0) ∧
      V (.vrot sw d a b ty) 64 [(a, oa, 64), (b, ob, 8)] n (fun u i => el u oa ((i + homeNat u ob 8 % n) % n)) ∧
      V (.vzip sw d a b ty) 128 [(a, oa, 64), (b, ob, 64)] (2 * n) (fun u i => el u (if i % 2 = 0 then oa else ob) (i / 2)) ∧
      V (.vunzip sw d a ty) 128 [(a, oa, 128)] (2 * n) (fun u i => el u oa (if i < n then 2 * i else 2 * (i - n) + 1)) ∧
      V (.vmov sw d a ty) 64 [(a, oa, 64)] n (fun u i => el u oa i) ∧
      V (.vzero sw d ty) 64 [] 64 (fun _ _ => [0])) ∧
    (∀ (pas : List Nat) (x : Xl), Ordinary s → MayIssue s .vec 0 → (fmtOf s).dt = none → repOn s s.cur = false →
      x.own = false → (∀ p ∈ pas, isHbm p = true ∧ answers s (moduleOf p) = true) →
      let far := fun (r : SRef) (k : AccKind) =>
        let w := readReg s s.cur (32 + r.ptr.val)
        fld w 63 58 ≠ 0 ∧ regPsn s s.cur (32 + r.ptr.val) = false ∧ vecPlace s (sAddr w) 64 k = .ok (pas, x)
      (PtrAt s d od → Home s od 64 true → far a .read → CleanAt s pas →
        (∀ w ∈ vecWords (sAddr (readReg s s.cur (32 + a.ptr.val))) pas x, wordNow s x w = none) →
        Does (.vmov sw d a ty) s fun u => VecLeft s u [d, a] ∧ ∃ (l : List Access) (p : VPend),
          u.flight = s.flight ++ l ∧ p ∈ (getSlot u s.cur).vpend ∧
          l.map (·.pas) = (vecWords (sAddr (readReg s s.cur (32 + a.ptr.val))) pas x).map (·.pas) ∧
          (∀ y ∈ l, y.op = .load ∧ y.dest = .vec ∧ y.hart = s.cur ∧ y.st = .flying) ∧
          p.ins = .vmov sw d a ty ∧ p.srcs = [l.map fun y => (some y.uid, [], [])] ∧ p.writes = [] ∧
          ∀ i, i < 64 → ¬ StepsAt s [d, a] (scratchPa s (coreOf s.cur) (od + i)) → ∃ e ∈ (getSlot u s.cur).outs,
            (scratchPa s (coreOf s.cur) (od + i), i) ∈ e.dest ∧ e.val = none ∧ e.vec = some p.uid) ∧
      (PtrAt s a oa → Home s oa 64 false → CleanAt s (homePas s oa 64) → far d .write → x.past = none →
        wrCheck s s.cur (sAddr (readReg s s.cur (32 + d.ptr.val))) x pas = none →
        journalRooms s s.cur (chunks pas).length = true →
        Does (.vmov sw d a ty) s fun u => VecLeft s u [d, a] ∧ ∃ (l : List Access) (es : List JEnt),
          u.flight = s.flight ++ l ∧ (∀ y ∈ l, y.hart = s.cur ∧ y.st = .flying ∧ y.key = x.key ∧ y.psn = false) ∧
          (l.flatMap fun y => match y.op with
            | .store bs => y.pas.zip bs
            | _ => []) = pas.zip (homeBytes s oa 64) ∧
          (getCore u (coreOf s.cur)).journal = (getCore s (coreOf s.cur)).journal ++ es ∧
          es.length = (chunks pas).length ∧ ∀ e ∈ es, e.hart = s.cur ∧ e.refused = none)) ∧
    (∀ (h i : Nat) (p : VPend) (us : List Nat) (vs : List (List Byte)), vecOf s h i = some p → p.ins = .vmov sw d a ty →
      (fmtWord p.hsw).dt = none → p.srcs = [us.map fun w => (some w, [], [])] → p.writes = [] → us.length = vs.length →
      (∀ e ∈ us.zip vs, ∃ y, s.flight.find? (·.uid == e.1) = some y ∧ y.st = .done e.2 false) →
      Does (.resultReturn h i) s fun u => u.mem = s.mem ∧ (∀ y ∈ u.flight, y.uid ∉ us) ∧
        (∀ q ∈ (getSlot u h).vpend, q.uid ≠ p.uid) ∧
        (getSlot u h).outs = (getSlot s h).outs.map fun e => if e.vec = some p.uid then
          (if e.src.isSome then { e with vec := none } else { e with vec := none, val := some vs.flatten, psn := false }) else e)

/-- R302 to R304, R98, R102, R113, R295, R296: conversions between any two arithmetic types in force, of as many elements as
64 bytes of the wider type hold, and the packing and unpacking of LG6 codes by a scale, under the NaN mode, FTZ and SAT in
force. A type that a conversion does not take is an ILLEGAL_INSTRUCTION. -/
def Obligations.VectorConversions : Prop :=
  ∀ (s : State) (sw : Bool) (d a b : SRef) (dty sty : ElemType) (od oa ob : Nat),
    let o := fmtOf s
    let dt := o.dt.getD dty
    let st := o.st.getD sty
    (let n := 64 / max (esize st) (esize dt)
     dt ≠ .lg6 → st ≠ .lg6 → VecDoes s (.vcvt sw d a dty sty) d od (n * esize dt) [(a, oa, n * esize st)] fun u =>
       vBytes (esize dt) ((elemsAt st u oa (n * esize st)).map fun p =>
         if st.isFloat then (if dt.isFloat then rnd o dt (flt o st p) else narrow dt true (numInt (flt o st p)))
         else if dt.isFloat then rnd o dt (intNum (eVal st p)) else narrow dt o.sat (eVal st p))) ∧
    (st.isFloat = true → o.dt = none ∨ o.dt = some .lg6 →
      VecDoes s (.vpack6 sw d a b sty) d od (64 / esize st) [(a, oa, 64), (b, ob, 4)] fun u =>
        (elemsAt st u oa 64).map fun p => BitVec.ofNat 8 (lgPack o.nan o.ftz (fpDec st false p) (fpDec .fp32 false (homeNat u ob 4)))) ∧
    (dt.isFloat = true → o.st = none ∨ o.st = some .lg6 →
      VecDoes s (.vunpk6 sw d a b dty) d od 64 [(a, oa, 64 / esize dt), (b, ob, 4)] fun u =>
        vBytes (esize dt) ((homeBytes u oa (64 / esize dt)).map fun q => rnd o dt (fpDec .fp32 false
          (fpRnd .fp32 false o.sat (numMul (lgVal o.nan q.toNat) (fpDec .fp32 false (homeNat u ob 4))))))) ∧
    (MayIssue s .vec 0 →
      (dt = .lg6 ∨ st = .lg6 → exec (.vcvt sw d a dty sty) s = .next (raise s (illegal (.vcvt sw d a dty sty)))) ∧
      (st.isFloat = false → exec (.vpack6 sw d a b sty) s = .next (raise s (illegal (.vpack6 sw d a b sty)))) ∧
      (dt.isFloat = false → exec (.vunpk6 sw d a b dty) s = .next (raise s (illegal (.vunpk6 sw d a b dty)))))

/-- R113, R222, R294 to R296, R309, R310: the reductions of the type in force: a sum and a dot product add their tree to the
accumulator in the reduction type; a maximum and a minimum, of integers and of floating-point numbers, fold the elements into
the accumulator in element order. -/
def Obligations.VectorReductions : Prop :=
  ∀ (s : State) (sw : Bool) (d a b c : SRef) (ty : ElemType) (od oa ob oc : Nat),
    let o := fmtOf s
    let t := o.st.getD ty
    let e := elemsAt t
    let r := redType t
    let E := fun (i : Instr) (z : Nat) (srcs : List (SRef × Nat × Nat)) (f : State → Nat) =>
      VecDoes s i d od z srcs fun u => leBytes z (f u)
    o.dt = none → t ≠ .lg6 →
    E (.vrsum sw d a b ty) (esize r) [(a, oa, 64), (b, ob, esize r)] (fun u =>
      redSum t o (homeNat u ob (esize r)) ((e u oa 64).map (flt o t)) ((e u oa 64).map (eVal t))) ∧
    E (.vrdot sw d a b c ty) (esize r) [(a, oa, 64), (b, ob, 64), (c, oc, esize r)] (fun u =>
      redSum t o (homeNat u oc (esize r)) (((e u oa 64).zip (e u ob 64)).map fun p => dotNum t o p.1 p.2)
        (((e u oa 64).zip (e u ob 64)).map fun p => eVal r (narrow r o.sat (eVal t p.1 * eVal t p.2)))) ∧
    (t.isInt = true →
      E (.vrmax sw d a b ty) (esize t) [(a, oa, 64), (b, ob, esize t)] (fun u =>
        narrow t false ((e u oa 64).foldl (fun m p => max m (eVal t p)) (eVal t (homeNat u ob (esize t))))) ∧
      E (.vrmin sw d a b ty) (esize t) [(a, oa, 64), (b, ob, esize t)] (fun u =>
        narrow t false ((e u oa 64).foldl (fun m p => min m (eVal t p)) (eVal t (homeNat u ob (esize t)))))) ∧
    (t.isFloat = true →
      E (.vrmax sw d a b ty) (esize t) [(a, oa, 64), (b, ob, esize t)] (fun u =>
        (e u oa 64).foldl (fun m p => rnd o t (if flt o t m = .nan ∨ flt o t p = .nan then .nan
          else if numLt true (flt o t m) (flt o t p) then flt o t p else flt o t m)) (rnd o t (flt o t (homeNat u ob (esize t))))) ∧
      E (.vrmin sw d a b ty) (esize t) [(a, oa, 64), (b, ob, esize t)] (fun u =>
        (e u oa 64).foldl (fun m p => rnd o t (if flt o t m = .nan ∨ flt o t p = .nan then .nan
          else if numLt true (flt o t p) (flt o t m) then flt o t p else flt o t m)) (rnd o t (flt o t (homeNat u ob (esize t))))))

/-! Prefixes, system instructions and exceptions (R113, R215 to R221, R254, R350 to R358). -/

/-- R113, R222, R245, R254: a prefix word that may stand here leaves its payload or count in the hart status word, and
only the PC moves besides. -/
def Obligations.Prefixes : Prop :=
  ∀ (s : State) (st dt : Option ElemType) (nm : NmSel) (ftz sat : Bool) (n : BitVec 16) (hi : BitVec 22),
    let P := fun (i : Instr) (f : Word → Prop) => Does i s fun t =>
      f (getSlot t s.cur).hsw ∧ (getSlot t s.cur).pc = pcOf s + 4 ∧ t.mem = s.mem ∧
      SlotRegsKept (getSlot s s.cur) (getSlot t s.cur) ∧ RestKept s t
    let old := (getSlot s s.cur).hsw
    (MayIssue s .fmtWord 0 → P (.fmt st dt nm ftz sat) fun w =>
      fld w 39 18 = encodeNat (.fmt st dt nm ftz sat) % 2 ^ 22 ∧ w.getLsbD 40 = true ∧ w.getLsbD 41 = false ∧
      ∀ k, (k < 18 ∨ 42 ≤ k) → w.getLsbD k = old.getLsbD k) ∧
    (MayIssue s .none 0 →
      (P (.rep n) fun w => fld w 63 48 = n.toNat ∧ w.getLsbD 42 = false ∧
        ∀ k, k < 48 → k ≠ 42 → w.getLsbD k = old.getLsbD k) ∧
      (P (.lix hi) fun w => fld w 39 18 = hi.toNat ∧ w.getLsbD 40 = true ∧ w.getLsbD 41 = true ∧
        ∀ k, (k < 18 ∨ 42 ≤ k) → w.getLsbD k = old.getLsbD k))

/-- R215, R217, R218: taking a trap that is handled writes the cause, the value, the trap PC and the status to words 58
to 61 of the frame, sets MODE and TH, clears IE, PFX, MRES and REPCNT, and goes on at the vector of the mode entered. The
cause word holds INT for the three interrupts, ASYNC, SUB, and the code of the table. -/
def Obligations.TrapEntry : Prop :=
  (∀ (s : State) (h : Nat) (x : Trap) (pc : Word), Placed s h → Memory.wf s.mem = true →
    (getSlot s h).outs = [] → unhandled s h x = false →
    let t := takeTrap s h x pc
    let m := if modeOf s h = 2 ∨ x.kind = .monitor then 2 else 1
    readReg t h 58 = x.cause ∧ readReg t h 59 = x.value ∧ readReg t h 60 = pc ∧ readReg t h 61 = (getSlot s h).hsw ∧
    modeOf t h = m ∧ thOf t h = true ∧ (getSlot t h).hsw.getLsbD 3 = false ∧ pfxOf t h = false ∧ repcnt t h = 0 ∧
    mres t h = false ∧ (getSlot t h).pc = (if m = 2 then (getCore s (coreOf h)).mtvec else (getSlot s h).ktvec) ∧
    (∀ n, n < 64 → n ≠ 58 → n ≠ 59 → n ≠ 60 → n ≠ 61 → readReg t h n = readReg s h n) ∧
    ((getSlot s h).st = .issuing → (getSlot t h).st = .issuing) ∧ SlotRegsKept (getSlot s h) (getSlot t h) ∧ (∀ k, k ≠ h → getSlot t k = getSlot s k) ∧
    (∀ a, a ∉ span (regPa s h 58) 32 → memGet t.mem a = memGet s.mem a)) ∧
  (∀ x : Trap, x.sub < 256 →
    x.cause.getLsbD 63 = decide (x.kind ∈ [TrapKind.wake, .timer, .monitor]) ∧
    x.cause.getLsbD 62 = x.async ∧ fld x.cause 15 8 = x.sub ∧ fld x.cause 7 0 = x.kind.code) ∧
  [TrapKind.illegal, .misaligned, .pageFault, .accessFault, .poison, .software, .accBusy, .tableStale, .tableIndexRange,
    .maskProgram, .queueTimeout, .deadlockVictim, .barrierTimeout, .leaseTimeout, .remoteStoreRefused, .formatMismatch,
    .txFootprint, .txCheckLate, .idemViolation, .wake, .timer, .monitor].map (fun k => fld (trap k 0 0).cause 7 0) =
  [1, 2, 3, 4, 5, 6, 0x10, 0x11, 0x12, 0x13, 0x18, 0x19, 0x1A, 0x1B, 0x20, 0x21, 0x22, 0x23, 0x24, 1, 2, 3]

/-- R216, R217, R254 to R256, R311, R332, R344: an instruction that the mode of the hart or a pending prefix forbids is an
ILLEGAL_INSTRUCTION, with the instruction's word as its value: no instruction executes below its lowest mode, LIX governs
immediate arithmetic, LD and ST only, FMT the vector instructions, TBUILD, MMD and ACRD, REP the vector instructions and an
FMT before one. An unhandled trap of a hart that runs no task ends the hart: its slot is FREE. -/
def Obligations.ForbiddenAndUnhandled : Prop :=
  (∀ (s : State) (h : Nat) (x : Trap) (pc : Word), (getSlot s h).outs = [] → (getSlot s h).bound = none →
    unhandled s h x = true →
    (getSlot (takeTrap s h x pc) h).st = .free ∧ (getSlot (takeTrap s h x pc) h).loop = none ∧
    ∀ k, k ≠ h → (getSlot (takeTrap s h x pc) k) = getSlot s k) ∧
  ∀ (s : State) (i : Instr), i.isWord = true →
    let fmt := pfxOf s s.cur = true ∧ pfxLix s s.cur = false
    let lix := pfxOf s s.cur = true ∧ pfxLix s s.cur = true
    let rep := repOn s s.cur = true
    (modeOf s s.cur < lowestMode i ∨ (match governs i with
      | .none => fmt ∨ lix ∨ rep
      | .imm => fmt ∨ rep
      | .vec => lix
      | .fmt => lix ∨ rep
      | .fmtWord => fmt ∨ lix)) →
    exec i s = .next (raise s (trap .illegal 0 (wd (encodeNat i))))

/-- R94 to R96, R216, R261, R291, R311, R312: poison. An instruction of any family that reads a poisoned word is trapped by
POISON under PTE, after its other checks, with the first poisoned address; else the sticky POISONED bit is set, and what it
writes is poisoned: its word, outstanding result, stored bytes or message. A branch, JALR or JTB with a poisoned word, and a
vector instruction with a poisoned pointer, trap whatever PTE says. A load, an atomic and a vector instruction that read
poison in memory consume it alike; the vector functions that copy poison the destination words that come from poison, every
other one all it writes. That a poisoned rotation count poisons every word is the model's choice: log 114.
The reading of poison by TRAP, and of a vector's words that are on their way, is the model's: log 17, 19. -/
def Obligations.PoisonedOperands : Prop :=
  ∀ (s : State) (sw : Bool) (d a b c : Fin 32), Ordinary s → Fresh s →
    let h := s.cur
    let pte := pteOf s h
    let sticky := fun (t : State) => (getSlot t h).hsw.getLsbD 7 = true
    let word := fun (t : State) => HartKept s t ∧ (d.val ≠ 0 → regPsn t h d.val = true) ∧ (getSlot t h).pc = pcOf s + 4
    let on := fun (t : State) => (getSlot t h).pc = pcOf s + 4
    let any := fun (_ : State) => True
    -- Scalar results.
    (MayIssue s .none 0 →
      (∀ i ∈ [Instr.add sw d a b, .sub sw d a b, .and sw d a b, .or sw d a b, .xor sw d a b, .andn sw d a b, .addsat sw d a b,
          .subsat sw d a b, .sll sw d a b, .srl sw d a b, .sra sw d a b, .rol sw d a b, .ror sw d a b, .slt sw d a b,
          .sltn sw d a b, .seq sw d a b, .min sw d a b, .max sw d a b, .minn sw d a b, .maxn sw d a b],
        Consumes s s i [a.val, b.val] word) ∧
      Consumes s s (.add sw d a b) [a.val, b.val] (fun t => readReg t h d.val = if d.val = 0 then 0 else rg s a + rg s b) ∧
      (∀ i ∈ [Instr.clz sw d a, .ctz sw d a, .popc sw d a, .brev sw d a, .bswap sw d a], Consumes s s i [a.val] word) ∧
      (∀ n : Fin 64, ∀ i ∈ [Instr.slli sw d a n, .srli sw d a n, .srai sw d a n, .rori sw d a n], Consumes s s i [a.val] word) ∧
      (∀ i ∈ [Instr.mul sw d a b, .mulh sw d a b, .mulhn sw d a b, .div sw d a b, .divn sw d a b, .rem sw d a b,
          .remn sw d a b], Consumes s s i [a.val, b.val] fun t => PoisonPending s t d.val ∧ on t)) ∧
    (∀ imm : BitVec 15, MayIssue s .imm 0 → ∀ i ∈ [Instr.addi sw d a imm, .andi sw d a imm, .ori sw d a imm,
      .xori sw d a imm, .slti sw d a imm, .sltin sw d a imm], Consumes s s i [a.val] word) ∧
    -- Control flow: no program counter can carry the mark.
    (MayIssue s .none 0 →
      (∀ off : BitVec 15, regPsn s h a.val = true ∨ regPsn s h b.val = true → ∀ i ∈ [Instr.beq sw a b off, .bne sw a b off,
        .blt sw a b off, .bge sw a b off, .bltn sw a b off, .bgen sw a b off],
        exec i s = .next (raise (setPoisoned s h) (trap .poison 0 0))) ∧
      (regPsn s h a.val = true → (rg s a).toNat % 4 = 0 →
        exec (.jalr sw d a) s = .next (raise (setPoisoned s h) (trap .poison 0 0))) ∧
      (∀ hdr p, (rg s a).toNat % 8 = 0 → readOwn s (rg s a).toNat 8 = .ok hdr p → fld (ofBytes hdr) 63 32 = 0 →
        fld (ofBytes hdr) 31 0 ≤ (rg s b).toNat → regPsn s h b.val = true ∨ p = true →
        exec (.jtb sw d a b) s = .next (raise (setPoisoned s h) (trap .poison 0 (rg s a))))) ∧
    -- Loads, stores and atomics in the own scratchpad: their operands, and what they read.
    (∀ (imm : BitVec 15) (o : Nat),
      let reads := fun (i : Instr) (n : Nat) (rs : List Nat) => Home s o n false →
        (CleanAt s (homePas s o n) → Consumes s s i rs fun t => PoisonPending s t d.val ∧ on t) ∧
        (∀ k, rs.any (regPsn s h) = false → firstPsnAt s (homePas s o n) = some k →
          (pte = true → exec i s = .next (raise s (trap .poison 0 (wd (window0 + o + k))))) ∧
          (pte = false → Does i s fun t => sticky t ∧ PoisonPending s t d.val ∧ on t))
      let stores := fun (i : Instr) (n : Nat) (v : Word) (rs : List Nat) => Home s o n true →
        Consumes s s i rs fun t => (homePas s o n).map (memGet t.mem) = leBytes n v.toNat ∧
          (∀ p ∈ homePas s o n, isPsn t p = true) ∧ on t
      (MayIssue s .imm 0 → (rg s a + immOf s imm).toNat = window0 + o →
        reads (.ld sw d a imm) 8 [a.val] ∧ stores (.st sw a b imm) 8 (rg s b) [a.val, b.val]) ∧
      (MayIssue s .none 0 → (rg s a + rg s b).toNat = window0 + o →
        reads (.lxb sw d a b .plain) 1 [a.val, b.val] ∧ reads (.lxbn sw d a b .plain) 1 [a.val, b.val] ∧
        reads (.lxh sw d a b .plain) 2 [a.val, b.val] ∧ reads (.lxhn sw d a b .plain) 2 [a.val, b.val] ∧
        reads (.lxw sw d a b .plain) 4 [a.val, b.val] ∧ reads (.lxwn sw d a b .plain) 4 [a.val, b.val] ∧
        reads (.lxd sw d a b .plain) 8 [a.val, b.val] ∧
        stores (.sxb sw d a b .plain) 1 (rg s d) [a.val, b.val, d.val] ∧
        stores (.sxh sw d a b .plain) 2 (rg s d) [a.val, b.val, d.val] ∧
        stores (.sxw sw d a b .plain) 4 (rg s d) [a.val, b.val, d.val] ∧
        stores (.sxd sw d a b .plain) 8 (rg s d) [a.val, b.val, d.val]) ∧
      (MayIssue s .none 0 → (rg s b).toNat = window0 + o → o % 8 = 0 → Home s o 8 true →
        let done := fun (t : State) => PoisonPending s t a.val ∧ on t
        ∀ i ∈ [Instr.aswap sw a b c none, .aadd sw a b c none, .aand sw a b c none, .aor sw a b c none, .axor sw a b c none,
          .amin sw a b c none, .amax sw a b c none, .aminn sw a b c none, .amaxn sw a b c none, .acas sw a b c none],
          let rs := if i = .acas sw a b c none then [b.val, c.val, a.val] else [b.val, c.val]
          (CleanAt s (homePas s o 8) → Consumes s s i rs done) ∧
          (∀ k, rs.any (regPsn s h) = false → firstPsnAt s (homePas s o 8) = some k →
            (pte = true → exec i s = .next (raise s (trap .poison 0 (wd (window0 + o + k))))) ∧
            (pte = false → Does i s fun t => sticky t ∧ done t)))) ∧
    -- Accesses that leave the hart's own storage.
    (∀ (pas : List Nat) (x : Xl), MayIssue s .none 0 →
      let va := (rg s a + rg s b).toNat
      let vb := (rg s b).toNat
      (Reaches s va 8 .read pas x → Consumes s s (.lxd sw d a b .plain) [a.val, b.val] on ∧
        (∀ k, Clean s [a.val, b.val] → x.cache = false → pte = true → firstPsnAt s pas = some k →
          exec (.lxd sw d a b .plain) s = .next (raise (tlbFills s (who s h) va x) (trap .poison 0 (wd (va + k))))) ∧
        (va % 8 = 0 → ∀ m ∈ [SyncMode.wfull, .take, .fill, .put, .probe], Consumes s s (.lxd sw d a b m) [a.val, b.val] any) ∧
        (∀ slot : Fin 16, (readReg s h 62).toNat % 128 = 0 → (readReg s h 62).toNat + 128 ≤ 0x30000 →
          Consumes s s (.lxdRemote sw slot a b .plain) [a.val, b.val] any)) ∧
      (Reaches s va 8 .write pas x → Consumes s s (.sxd sw d a b .plain) [a.val, b.val, d.val] (fun t =>
          journalRoom s h = true → on t ∧ ∃ y, t.flight = s.flight ++ [y] ∧ y.psn = true) ∧
        (va % 8 = 0 → ∀ m ∈ [SyncMode.wfull, .take, .fill, .put], Consumes s s (.sxd sw d a b m) [a.val, b.val, d.val] any)) ∧
      (vb % 8 = 0 →
        (∀ r : Role, Reaches s vb 8 .write pas x →
          (∀ i ∈ [Instr.aswap sw a b c r, .aadd sw a b c r, .aand sw a b c r, .aor sw a b c r, .axor sw a b c r,
            .amin sw a b c r, .amax sw a b c r, .aminn sw a b c r, .amaxn sw a b c r],
            CleanAt s pas → Consumes s s i [b.val, c.val] any) ∧
          (CleanAt s pas → Consumes s s (.acas sw a b c r) [b.val, c.val, a.val] any)) ∧
        (∀ sc : Scope, (Reaches s vb 8 .read pas x → CleanAt s pas → Consumes s s (.ldsc sw a b sc) [b.val] any) ∧
          (Reaches s vb 8 .write pas x → Consumes s s (.stsc sw a b sc) [b.val, a.val] any)))) ∧
    (∀ o, MayIssue s .none 0 → (rg s a).toNat = window0 + o → o % 8 = 0 → mres s h = false →
      let n := c.val + 1
      ((∀ j, j < n → Home s (o + 8 * j) 8 false) → CleanAt s (homePas s o (8 * n)) →
        Consumes s s (.ldm sw a b c .plain) [a.val] any) ∧
      ((∀ j, j < n → Home s (o + 8 * j) 8 true) → Consumes s s (.stm sw a b c .plain) (a.val :: span b.val n) any)) ∧
    -- Vector instructions in the own scratchpad.
    (∀ (i : Instr) (v : VShape) (t : ElemType) (od : Nat) (os : List Nat), vecShape i = some v → v.ty (fmtOf s) = some t →
      let sh := v.go t (fmtOf s)
      let srcs := (sh.2.1.zip os).map fun x => (x.1.ref, x.2, x.1.n)
      let rs := sh.1.ref :: srcs.map (·.1)
      let u := afterRep s rs (srcPas s srcs)
      let at' := fun (o : Nat) => scratchPa u (coreOf h) o
      os.length = sh.2.1.length → VecPlaced u sh.1.ref od sh.1.n srcs →
      ((∃ r ∈ rs, ¬ PtrClean u r) → exec i s = .next (raise (setPoisoned u h) (trap .poison 0 0))) ∧
      (∀ o, (∀ r ∈ rs, PtrClean u r) → firstPoison u srcs = some o →
        (pte = true → exec i s = .next (raise u (trap .poison 0 (wd (window0 + o))))) ∧
        (pte = false →
          let z := esize t
          let n := 64 / z
          let sa := os.getD 0 0
          let sb := os.getD 1 0
          let se := os.getD 2 0
          let eight := fun (o k : Nat) => (span 0 k).map (o + ·)
          -- The source bytes on which byte `k` of the result of a copying function rests.
          let rests := fun (k : Nat) => match i with
            | .vmov .. => [sa + k]
            | .vbcast .. => [sa + k % z]
            | .vrot .. => eight sb 8 ++ [sa + (k / z + homeNat u sb 8 % n) % n * z + k % z]
            | .vzip .. => [(if k / z % 2 = 0 then sa else sb) + k / z / 2 * z + k % z]
            | .vunzip .. => [sa + (if k / z < n then 2 * (k / z) else 2 * (k / z - n) + 1) * z + k % z]
            | .vsel .. => eight (sa + k / z * z) z ++
                [(if (homeBytes u (sa + k / z * z) z).any (· ≠ 0) then sb else se) + k]
            | .vperm .. =>
              let j := ((homeBytes u sb n).getD (k / z) 0).toNat % (2 * n)
              [sb + k / z, (if j < n then sa + j * z else se + (j - n) * z) + k % z]
            | _ => []
          let marked := fun (k : Nat) => if copies i then
              (span 0 sh.1.n).any fun j => (od + j) / 8 = (od + k) / 8 && (rests j).any fun o => isPsn u (at' o)
            else true
          Does i s fun w => sticky w ∧ w.flight = s.flight ∧ HartKept u w ∧
            (∀ y, ¬ StepsAt u rs y → memGet w.mem y = memGet u.mem y) ∧
            ∀ k, k < sh.1.n → ¬ StepsAt u rs (at' (od + k)) → ∃ byte, PendingAs w h (at' (od + k)) byte (marked k)))) ∧
    -- System instructions, messages, queues and tasks.
    (MayIssue s .none 0 →
      (∀ (code : Fin 256), regPsn s h a.val = true →
        (pte = true → exec (.trap sw code a) s = .next (raise s (trap .poison 0 (wd (window0 + (getSlot s h).wp + 8 * a.val))))) ∧
        (pte = false → exec (.trap sw code a) s =
          .next (takeTrap (setPoisoned s h) h (trap .software code.val (rg s a)) (pcOf s + 4)))) ∧
      (1 ≤ modeOf s h → Consumes s s (.ctlw sw a 0x010) [a.val] fun t => (getSlot t h).ktvec = (rg s a &&& ~~~3) ∧ on t) ∧
      (let w := rg s a
       (fld w 63 53 = s.module ∧ fld w 47 37 = coreOf h) ∨ (scouting s h = false ∧ unchecked s h = false) →
       fld w 52 48 = 0 → fld w 36 34 = 0 → fld w 24 4 = 0 → fld w 33 25 ≤ 383 →
       Consumes s s (.send sw a b) [a.val, b.val] fun t => journalRoom s h = true → on t ∧
         ∃ y, t.flight = s.flight ++ [y] ∧ y.psn = true) ∧
      (∀ slot : Fin 16, bit (readReg s h 56) slot.val = true → bit (readReg s h 56) (16 + slot.val) = nanOf s h →
        Consumes s s (.recv sw a slot) [40 + slot.val] fun t => on t ∧ (a.val ≠ 0 → regPsn t h a.val = true)) ∧
      (queueOk s (rg s a) = true → scouting s h = false → unchecked s h = false →
        Consumes s s (.qpush sw a b c) [a.val, b.val] any) ∧
      (queueOk s (rg s b) = true → Consumes s s (.qpop sw a b c) [b.val] any) ∧
      (∀ (t : Txn) (op : VoteOp), Bound s t → Consumes s s (.vote sw a b op c) [b.val] any) ∧
      (∀ t, Bound s t → Passed t → Consumes (modSlot s h fun x => { x with scout := false }) s (.txsub sw a b) [b.val] any) ∧
      (∀ t es, Bound s t → (t.passed && t.wroteW) = false → 0 < (rg s c).toNat → (rg s c).toNat ≤ 32 → (rg s b).toNat % 16 = 0 →
        let r := readEntries s (rg s b).toNat (rg s c).toNat
        r.2 = .ok (es, none) → (∀ e ∈ es, entryRes e = false ∧ 0 < fld e.2 31 0 ∧ fld e.2 31 0 ≤ 0x10000000) →
        firstUncovered s h (heldReqs s t) es = none → Consumes r.1 s (.txchk sw b c) [b.val, c.val] on) ∧
      (∀ t, Bound s t → t.ended = true ∨ (Passed t ∧ Drained s) → taskPending s h = false → regPsn s h a.val = true →
        (pte = true → exec (.done sw a) s = .next (raise s (trap .poison 0 (wd (window0 + (getSlot s h).wp + 8 * a.val))))) ∧
        (pte = false → Does (.done sw a) s fun u => (getSlot u h).bound = none ∧
          tget 0 (getCore u (coreOf h)).accs t.tag = combine (tget 0 (getCore s (coreOf h)).accs t.tag)
            (stPoisoned ||| wd (fld (rg s a) 57 56 * 2 ^ 56 + 2 ^ 32 + fld (rg s a) 31 0))))) ∧
    (MayIssue s .none 1 →
      ((rg s a).toNat < 1024 → Consumes s s (.tlbasid sw a) [a.val] any) ∧
      (fld (rg s a) 63 56 = 0 → (rg s b).toNat < 1024 → Consumes s s (.tlbpage sw a b) [a.val, b.val] any) ∧
      (Drained s → (rg s a).toNat % 512 = 0 → (rg s a).toNat + 512 + 128 * granOf s h ≤ 0x30000 →
        Consumes s s (.wpsw sw a) [a.val] (fun t => on t ∧ (rd64 t (regPa s h 57)).getLsbD 7 = true)) ∧
      (Drained s → a ≠ 0 → (rg s a).toNat % 512 = 0 → (rg s a).toNat + 512 + 128 * granOf s h ≤ 0x30000 →
        regPsn s h a.val = true →
        let w := rd64 s (scratchPa s (coreOf h) ((rg s a).toNat + 8 * 61))
        fld w 1 0 ≤ modeOf s h → fld w 1 0 ≠ 3 →
        (pte = true → exec (.rett sw a) s = .next (raise s (trap .poison 0 (wd (window0 + (getSlot s h).wp + 8 * a.val))))) ∧
        (pte = false → Does (.rett sw a) s fun t => (rd64 t (regPa s h 57)).getLsbD 7 = true))) ∧
    -- Unit commands.
    (MayIssue s .none 0 →
      ((rg s b).toNat < 16 → (rg s c).toNat < 2 ^ 32 → (rg s a).toNat % 64 = 0 →
        (actCtx s (coreOf h)).lease = .active ∨ (actCtx s (coreOf h)).lease = .suspended →
        Consumes s s (.lease sw a b c) [a.val, b.val, c.val] on) ∧
      (∀ (d : List Word) (j : Job) (rp wp : List (Nat × Xl)) (rr : List (Nat × Nat × Bool)), RecordAt s (rg s a) d →
        ((getSlot s h).region.isSome = true → j.opc ≠ 3 ∧ dstFifo s (jobWrite j).1 (jobWrite j).2 = false) →
        readRegions s (jobReads j) = .ok (rp, rr) → engineRegion s (jobWrite j).1 (jobWrite j).2 .write = .ok wp →
        regionFault s wp (jobWrite j).1 (jobWrite j).2 = none → regionLate s wp (jobWrite j).1 (jobWrite j).2 = false →
        (j.opc = 3 → fifoAt s wp = none) →
        ∀ e ∈ [(Instr.copy sw a, [0]), (.gather sw a, [1, 4]), (.scatter sw a, [2]), (.scadd sw a, [3])],
          jobFields h d e.2 = some j → Consumes (afterRead s (rg s a).toNat 64) s e.1 [a.val] any) ∧
      (∀ list : Fin 4, let w := getList s (clusterOf (coreOf h)) list.val
        w.ok = true → w.items.length < w.cap → pagesHeld s w.pages = false → scouting s h = false → unchecked s h = false →
        Consumes s s (.wlpush sw list b) [b.val] any ∧
        (w.bitmap ≠ 0 → fld (rg s b) 31 0 < w.keys → Consumes s s (.wlins sw list a b) [b.val] any)) ∧
      (∀ (ctx : Fin 4) (l : List (Nat × Xl)), takeDone s (clusterOf (coreOf h)) = false → s.tr.keyCmd = none →
        writesPending s h = false → (rg s a).toNat % 64 = 0 → (rg s b).toNat < 2 ^ 32 → (rg s c).toNat < 2 ^ 32 →
        (getMask s (clusterOf (coreOf h)) ctx.val).prog ≠ [] → destRegion s (rg s a).toNat 2048 = .ok l →
        Consumes s s (.mskel sw ctx a b c) [a.val, b.val, c.val] any) ∧
      (∀ (ctx : Fin 4) (rb sb tb : List Byte), takeDone s (clusterOf (coreOf h)) = false → s.tr.keyCmd = none →
        writesPending s h = false → (rg s b).toNat % 64 = 0 → readUnit s (rg s b).toNat 128 = .ok rb false →
        let r := words rb
        let nseg := fld (r.getD 0 0) 47 32
        let ntree := fld (r.getD 0 0) 31 16
        let s1 := afterRead s (rg s b).toNat 128
        let s2 := if nseg = 0 then s1 else afterRead s1 (r.getD 1 0).toNat (8 * nseg)
        let s3 := if ntree = 0 then s2 else afterRead s2 (r.getD 2 0).toNat (4 * ntree)
        maskRecordTrap r = none →
        (if nseg = 0 then sb = [] else (r.getD 1 0).toNat % 8 = 0 ∧ readUnit s1 (r.getD 1 0).toNat (8 * nseg) = .ok sb false) →
        (if ntree = 0 then tb = [] else (r.getD 2 0).toNat % 4 = 0 ∧ readUnit s2 (r.getD 2 0).toNat (4 * ntree) = .ok tb false) →
        segTrap (fld (r.getD 3 0) 63 32) ((words sb).map fun e => (fld e 31 0, fld e 63 32)) 0 = none →
        treeTrap ((span 0 ntree).map fun j => leNat ((tb.drop (4 * j)).take 4)) = none →
        Consumes s3 s (.mskld sw ctx b) [b.val] on) ∧
      (∀ (ctx : Fin 4) (rb : List Byte) (qb ql kb kl dest : Nat) (l : List (Nat × Xl)),
        takeDone s (clusterOf (coreOf h)) = false → s.tr.keyCmd = none → writesPending s h = false →
        (rg s b).toNat % 32 = 0 → readUnit s (rg s b).toNat 32 = .ok rb false →
        (words rb).map BitVec.toNat = [qb + 2 ^ 32 * kb, ql + 2 ^ 32 * kl, dest, 0] → qb < 2 ^ 32 → ql < 2 ^ 32 → ql ≠ 0 →
        kl ≠ 0 → ql ≤ 2 ^ 24 → kl ≤ 2 ^ 24 → qb + ql ≤ 2 ^ 32 → kb + kl ≤ 2 ^ 32 →
        let nt := (ql + 127) / 128 * ((kl + 127) / 128)
        let u := afterRead s (rg s b).toNat 32
        nt ≤ 65536 → dest % 8 = 0 → (getMask s (clusterOf (coreOf h)) ctx.val).prog ≠ [] →
        destRegion u dest ((nt + 3) / 4) = .ok l → Consumes u s (.mskcls sw ctx a b) [b.val] any) ∧
      (∀ (rb : List Byte) (f : Nat × Nat × Nat) (pas : List Nat) (x : Xl), takeDone s (clusterOf (coreOf h)) = false →
        s.tr.keyCmd = none → writesPending s h = false → (rg s b).toNat % 64 = 0 →
        readUnit s (rg s b).toNat 64 = .ok rb false → kvFields (words rb) = some f →
        ((words rb).getD 0 0).toNat % 8 = 0 → ((words rb).getD 1 0).toNat % 64 = 0 → ((words rb).getD 2 0).toNat % 64 = 0 →
        kvLength (afterRead s (rg s b).toNat 64) ((words rb).getD 0 0).toNat = .ok (pas, x) →
        Consumes (afterRead s (rg s b).toNat 64) s (.kvcommit sw a b) [b.val] any) ∧
      (∀ (e w : List Byte), (rg s b).toNat % 64 = 0 → readUnit s ((rg s b).toNat + 8) 8 = .ok e false →
        let s1 := afterRead s ((rg s b).toNat + 8) 8
        readUnit s1 ((ofBytes e).toNat + 8) 8 = .ok w false → fld (ofBytes w) 63 32 ≠ 0 →
        let entry := ofBytes e + (BitVec.ofNat 32 (fld (ofBytes w) 63 32)).signExtend 64
        entry ≠ 0 → entry.toNat % 4 = 0 →
        Consumes (afterRead s1 ((ofBytes e).toNat + 8) 8) s (.txscout sw b) [b.val] fun t => (getSlot t h).pc = entry)) ∧
    (∀ (acc : Fin 4) (dt : ElemType) (k : List Word) (n : Nest) (l : List (Nat × Option Xl)) (u : State),
      MayIssue s .fmt 0 → acrdType (fmtOf s) = some dt → (u = s ∨ u = stamped s) →
      RecordAt u (rg s b) k → nestOf k = some n → n.x ≤ 128 → n.y ≤ 128 →
      n.misaligned (esize dt) = none → destPas u (esize dt) n.elems = .ok l →
      (∀ e ∈ l, destBad u (esize dt) e.2 = false) → pendBank u ((l.filterMap (·.2)).map (·.pa)) = none →
      keyHeld u ((l.filterMap (·.2)).map fun x => (x.pa, x.key)) = false →
      let bank := tget {} (getArr s (clusterOf (coreOf h))).accs acc.val
      let v := afterRead u (rg s b).toNat 64
      (u = s → EarlierDone s [] (some acc.val) false → bank.vis.psn = false → Consumes v s (.acrd sw acc b) [b.val] any) ∧
      (u = stamped s → ArrayTurn s (some acc.val) → workBusy u (clusterOf (coreOf h)) acc.val = none →
        EarlierDone u [] none true → bank.work.psn = false → Consumes v s (.acrdWorking sw acc b) [b.val] any)) ∧
    (∀ (tb : Fin 8) (kind : TblKind) (st : SrcType) (mc : Bool) (src ty : ElemType) (k : List Word) (n : Nest),
      MayIssue s .fmt 0 → buildTypes st (fmtOf s) = some (src, ty) → (rg s c).toNat < 32 → ArrayTurn s none →
      RecordAt (stamped s) (rg s b) k → nestOf k = some n → n.y ≤ 128 → strayByte (stamped s) h (esize src) n = none →
      n.misaligned (esize src) = none → pendBank (stamped s) (sourceStore (stamped s) h n) = none →
      let groups := (n.x + kindG kind - 1) / kindG kind
      (rg s c).toNat + groups ≤ kindMaxGroups kind → n.y * groups * kindSlots kind * esize ty ≤ 131072 →
      Consumes (afterRead (stamped s) (rg s b).toNat 64) s (.tbuild sw tb b c kind st mc) [b.val, c.val] any) ∧
    (∀ (acc : Fin 4) (form : Form) (signed last : Bool) (tb : Fin 8) (r : List Word) (k : Nest) (s2 : State)
        (bs sb : List Byte) (p sp : Bool),
      let core := coreOf h
      let w := rg s c
      let ng := fld w 5 0
      let g0 := fld w 12 8
      let n := fld w 18 16 + 1
      let tbs := span tb.val n
      let m := (actTab s core tb.val).rows
      let offs := codeBytes form g0 (n * ng)
      let scale := (readReg s h (c.val + 1)).toNat
      let blocks := (span 0 k.y).map fun col => blockOf offs ((bs.drop (col * offs.length)).take offs.length)
      MayIssue s .none 0 → c.val ≤ 30 → fld w 63 19 = 0 → fld w 15 13 = 0 → fld w 7 6 = 0 → 1 ≤ ng → ng ≤ 32 →
      tb.val + n ≤ 8 → ArrayTurn s (some acc.val) → EarlierDone (stamped s) tbs (some acc.val) true →
      RecordAt (stamped s) (rg s b) r → nestOf r = some k → k.y ≤ 128 → k.cnt.getD 0 1 = 1 → k.cnt.getD 2 1 = 1 →
      ((tget {} (getArr s (clusterOf core)).accs acc.val).opn).all (fun e => e.1 = m && e.2.1 = k.y) = true →
      (actTab s core tb.val).st ≠ .expected → stepChecks (formKind form) m ng (tbs.map fun v => (v, actTab s core v)) g0 = .ok →
      residents core (getCore s core).actx tbs tbs (afterRead (stamped s) (rg s b).toNat 64) = .ok (some s2) →
      fetchBytes s2 ((span 0 k.y).flatMap fun col => offs.map fun o => (k.addr 0 col + o) % 2 ^ 64) = .ok bs p →
      (last = true → scale % 4 = 0) →
      fetchBytes s2 (if last then (span 0 (4 * k.y)).map fun o => (scale + o) % 2 ^ 64 else []) = .ok sb sp →
      (form = .t5 → badCode tb.val g0 ng blocks (n * ng) = none) →
      Consumes (afterRead (stamped s) (rg s b).toNat 64) s (.mmt sw acc b c form signed last tb)
        [b.val, c.val, c.val + 1] any) ∧
    (∀ (acc : Fin 4) (ta tb : MmdType) (ea eb : ElemType) (ka kb : List Word) (na nb : Nest),
      let sa := (readReg s h (c.val + 1)).toNat
      let sb := (readReg s h (c.val + 2)).toNat
      let scales := fun (base rows : Nat) =>
        if ea = .lg6 then (span 0 (rows * ((na.x + 127) / 128))).map fun j => (base + 4 * j) % 2 ^ 64 else []
      let u := afterRead (stamped s) (rg s b).toNat 64
      MayIssue s .fmt 0 → mmdTypes ta tb (fmtOf s) = some (ea, eb) → (ea = .lg6 → c.val ≤ 29) →
      ArrayTurn s (some acc.val) → RecordAt (stamped s) (rg s b) ka → RecordAt u (rg s c) kb →
      nestOf ka = some na → nestOf kb = some nb → na.y ≤ 128 → na.x ≤ 1048576 → nb.y ≤ 128 → nb.x = na.x →
      na.misaligned (esize ea) = none → nb.misaligned (esize eb) = none → (ea = .lg6 → sa % 4 = 0 ∧ sb % 4 = 0) →
      openBusy s (clusterOf (coreOf h)) acc.val = none →
      pendBank (stamped s) ((placesOf (stamped s) (na.elems ++ nb.elems ++ scales sa na.y ++ scales sb nb.y)).map (·.1)) = none →
      (∀ e ∈ [(esize ea, na.elems), (esize eb, nb.elems), (4, scales sa na.y), (4, scales sb nb.y)],
        operandFault (stamped s) e = none) →
      Consumes (afterRead u (rg s c).toNat 64) s (.mmd sw acc b c ta tb)
        (if ea = .lg6 then [b.val, c.val, c.val + 1, c.val + 2] else [b.val, c.val]) any)

/-- R219, R220, R221, R350, R351: TRAP takes SOFTWARE with its code as SUB, A as value and the next instruction as trap
PC; RETT resumes at word 60 with the status of word 61 of its frame, reserved bits reading zero, keeping interrupts that
became pending: with w0 in its own frame, else in the frame of A, which with the workspace that the task's kernel asks for
must be one of the scratchpad, saving the status word in word 57 of the frame it leaves. A status that names a higher mode,
or mode 3, is an ILLEGAL_INSTRUCTION.
What those rules leave to reading is the model's choice: log 12, 77. -/
def Obligations.TrapAndReturn : Prop :=
  ∀ (s : State) (sw : Bool) (code : Fin 256) (a : Fin 32), Fresh s →
    (MayIssue s .none 0 → Clean s [a.val] →
      exec (.trap sw code a) s = .next (takeTrap s s.cur (trap .software code.val (rg s a)) (pcOf s + 4))) ∧
    (MayIssue s .none 1 → Drained s →
      let h := s.cur
      let own := (getSlot s h).wp
      let word := fun (wp n : Nat) => rd64 s (scratchPa s (coreOf h) (wp + 8 * n))
      let resumes := fun (t : State) (wp : Nat) =>
        let w := word wp 61
        (getSlot t h).pc = word wp 60 ∧
        (∀ k, k < 64 → ¬ (8 ≤ k ∧ k ≤ 10) → (getSlot t h).hsw.getLsbD k =
          (w.getLsbD k && !decide (k = 2 ∨ (11 ≤ k ∧ k ≤ 17) ∨ (43 ≤ k ∧ k ≤ 47)))) ∧
        (∀ k, 8 ≤ k → k ≤ 10 → (getSlot t h).hsw.getLsbD k = (w.getLsbD k || (getSlot s h).hsw.getLsbD k)) ∧
        SlotRegsKept { getSlot s h with wp := wp } (getSlot t h) ∧ RestKept s t
      let bad := fun (wp : Nat) => modeOf s h < fld (word wp 61) 1 0 ∨ fld (word wp 61) 1 0 = 3
      (bad own → exec (.rett sw 0) s = .next (raise s (illegal (.rett sw 0)))) ∧
      (¬ bad own → Does (.rett sw 0) s fun t => resumes t own ∧ t.mem = s.mem) ∧
      (a ≠ 0 → Ordinary s →
        let wp := (rg s a).toNat
        let last := wp + 512 + 128 * granOf s h
        (wp % 512 ≠ 0 ∨ 0x30000 < last → exec (.rett sw a) s = .next (raise s (trap .accessFault 4 (rg s a)))) ∧
        (wp % 512 = 0 → last ≤ 0x30000 →
          (bad wp → exec (.rett sw a) s = .next (raise s (illegal (.rett sw a)))) ∧
          (¬ bad wp → Clean s [a.val] → Does (.rett sw a) s fun t => resumes t wp ∧
            rd64 t (regPa s h 57) = (getSlot s h).hsw ∧
            ∀ y, y ∉ span (regPa s h 57) 8 → memGet t.mem y = memGet s.mem y))))

/-- R11, R13, R226, R352: WPSW saves the status word in word 57 of the frame it leaves and installs the frame of A; a
value that is no frame of the scratchpad with the workspace that the task's kernel asks for is an ACCESS_FAULT with SUB 4.
What those rules leave to reading is the model's choice: log 77. -/
def Obligations.WorkspaceSwitch : Prop :=
  ∀ (s : State) (sw : Bool) (a : Fin 32), Ordinary s → Fresh s → MayIssue s .none 1 → Drained s →
    let last := (rg s a).toNat + 512 + 128 * granOf s s.cur
    ((rg s a).toNat % 512 ≠ 0 ∨ 0x30000 < last →
      exec (.wpsw sw a) s = .next (raise s (trap .accessFault 4 (rg s a)))) ∧
    ((rg s a).toNat % 512 = 0 → last ≤ 0x30000 → Clean s [a.val] →
      Does (.wpsw sw a) s fun t =>
        SlotRegsKept { getSlot s s.cur with wp := (rg s a).toNat } (getSlot t s.cur) ∧
        (getSlot t s.cur).hsw = (getSlot s s.cur).hsw ∧ (getSlot t s.cur).pc = pcOf s + 4 ∧
        rd64 t (regPa s s.cur 57) = (getSlot s s.cur).hsw ∧
        (∀ y, y ∉ span (regPa s s.cur 57) 8 → memGet t.mem y = memGet s.mem y) ∧ RestKept s t)

/-- R353: CTLR reads every readable register that the mode may read, KSDATA as an outstanding result; a number with no
register, or one that the mode may not read, is an ILLEGAL_INSTRUCTION. -/
def Obligations.ControlRegisterReads : Prop :=
  ∀ (s : State) (sw : Bool) (a : Fin 32) (n : Fin 1024), Ordinary s → MayIssue s .none 0 →
    let x := getSlot s s.cur
    let R := fun (k : Nat) (mode : Nat) (v : Word) =>
      (mode ≤ modeOf s s.cur → Does (.ctlr sw a (Fin.ofNat 1024 k)) s fun t => WroteReg s t sw a.val v false (pcOf s + 4)) ∧
      (modeOf s s.cur < mode →
        exec (.ctlr sw a (Fin.ofNat 1024 k)) s = .next (raise s (illegal (.ctlr sw a (Fin.ofNat 1024 k)))))
    R 0x000 0 x.hsw ∧ R 0x001 0 (wd (s.module * 8192 + s.cur)) ∧ R 0x002 0 (wd x.wp) ∧
    R 0x003 0 (wd (((boundTxn s s.cur).bind (·.num)).getD 0)) ∧
    R 0x004 0 (setFld x.sret 1 0 (if x.scout then 1 else 0)) ∧
    R 0x005 0 (wd (frameEntries s (coreOf s.cur) (x.wp / 512))) ∧ R 0x008 0 (wd s.cycle) ∧
    R 0x009 1 x.timecmp ∧ R 0x00A 1 x.wakeval ∧ R 0x010 1 x.ktvec ∧ R 0x011 2 (getCore s (coreOf s.cur)).mtvec ∧
    R 0x012 1 (wd x.asid) ∧ R 0x020 2 x.ksaddr ∧
    (2 ≤ modeOf s s.cur → Does (.ctlr sw a 0x021) s fun t =>
      WillWrite s t sw a.val (ksRead s (fld x.ksaddr 13 3 * 8)) false (pcOf s + 4)) ∧
    (n.val ∉ [0, 1, 2, 3, 4, 5, 8, 9, 10, 16, 17, 18, 32, 33] →
      exec (.ctlr sw a n) s = .next (raise s (illegal (.ctlr sw a n))))

/-- R353 to R355: CTLW writes the registers that its mode may write, the two low bits of a vector reading zero; KSDATA writes
the Keystone register that KSADDR names, and its hart parks; reserved bits set are an ACCESS_FAULT with SUB 4, and a register
that cannot be written, or a number with no register, is an ILLEGAL_INSTRUCTION. -/
def Obligations.ControlRegisterWrites : Prop :=
  ∀ (s : State) (sw : Bool) (a : Fin 32) (n : Fin 1024), MayIssue s .none 0 → Clean s [a.val] →
    let v := rg s a
    let W := fun (k mode : Nat) (ok : Prop) (P : State → Prop) =>
      (mode ≤ modeOf s s.cur → ok → Does (.ctlw sw a (Fin.ofNat 1024 k)) s fun t => P t ∧
        (let x := getSlot s s.cur
         let y := getSlot t s.cur
         y.hsw = x.hsw ∧ y.wp = x.wp ∧ y.sret = x.sret ∧ y.scout = x.scout ∧ y.loop = x.loop ∧ y.bound = x.bound ∧
         y.monword = x.monword ∧ (k ≠ 0x009 → y.timecmp = x.timecmp) ∧ (k ≠ 0x00A → y.wakeval = x.wakeval) ∧
         (k ≠ 0x010 → y.ktvec = x.ktvec) ∧ (k ≠ 0x012 → y.asid = x.asid) ∧ (k ≠ 0x020 → y.ksaddr = x.ksaddr)) ∧
        (k ≠ 0x011 → t.cores = s.cores) ∧
        (getSlot t s.cur).pc = pcOf s + 4 ∧ t.mem = s.mem ∧ ∀ h, h ≠ s.cur → getSlot t h = getSlot s h) ∧
      (mode ≤ modeOf s s.cur → ¬ ok →
        exec (.ctlw sw a (Fin.ofNat 1024 k)) s = .next (raise s (trap .accessFault 4 v))) ∧
      (modeOf s s.cur < mode →
        exec (.ctlw sw a (Fin.ofNat 1024 k)) s = .next (raise s (illegal (.ctlw sw a (Fin.ofNat 1024 k)))))
    W 0x009 1 True (fun t => (getSlot t s.cur).timecmp = v) ∧
    W 0x00A 1 True (fun t => (getSlot t s.cur).wakeval = v) ∧
    W 0x010 1 True (fun t => (getSlot t s.cur).ktvec = (v &&& ~~~3)) ∧
    W 0x011 2 True (fun t => (getCore t (coreOf s.cur)).mtvec = (v &&& ~~~3)) ∧
    W 0x012 2 (v.toNat < 1024) (fun t => (getSlot t s.cur).asid = v.toNat) ∧
    W 0x020 2 (v.toNat < 2 ^ 14 ∧ v.toNat % 8 = 0) (fun t => (getSlot t s.cur).ksaddr = v) ∧
    (2 ≤ modeOf s s.cur →
      (∀ q, ∀ p ∈ (getQueue s q).poppers ++ (getQueue s q).pushers.map (·.1), hartOf p ≠ s.cur) →
      Does (.ctlw sw a 0x021) s fun t =>
      (getSlot t s.cur).pc = pcOf s + 4 ∧ (getSlot t s.cur).st = .parked .results none ∧
      t.ks = (ksStore s (fld (getSlot s s.cur).ksaddr 13 3 * 8) v).ks ∧
      t.mem = (ksStore s (fld (getSlot s s.cur).ksaddr 13 3 * 8) v).mem) ∧
    (modeOf s s.cur < 2 → exec (.ctlw sw a 0x021) s = .next (raise s (illegal (.ctlw sw a 0x021)))) ∧
    (n.val ∉ [0, 9, 10, 16, 17, 18, 32, 33] → exec (.ctlw sw a n) s = .next (raise s (illegal (.ctlw sw a n))))

/-- R353, R354: what CTLW to HSW changes: NANMODE, POISONED and PTE in every mode; IE and TH from Kernel mode on; it can only
clear the pending interrupts, IPMON in Monitor mode alone; MODE, the prefix state and REPCNT never. A value with a reserved
bit set is an ACCESS_FAULT with SUB 4. -/
def Obligations.StatusWordWrites : Prop :=
  ∀ (s : State) (sw : Bool) (a : Fin 32), MayIssue s .none 0 → Clean s [a.val] →
    let v := rg s a
    let old := (getSlot s s.cur).hsw
    (fld v 2 2 ≠ 0 ∨ fld v 17 11 ≠ 0 ∨ fld v 47 43 ≠ 0 →
      exec (.ctlw sw a 0) s = .next (raise s (trap .accessFault 4 v))) ∧
    (fld v 2 2 = 0 → fld v 17 11 = 0 → fld v 47 43 = 0 →
    Does (.ctlw sw a 0) s fun t =>
      let w := (getSlot t s.cur).hsw
      (∀ k, 5 ≤ k → k ≤ 7 → w.getLsbD k = v.getLsbD k) ∧
      (∀ k, k = 3 ∨ k = 4 → w.getLsbD k = if 1 ≤ modeOf s s.cur then v.getLsbD k else old.getLsbD k) ∧
      (∀ k, k = 8 ∨ k = 9 → w.getLsbD k = if 1 ≤ modeOf s s.cur then old.getLsbD k && v.getLsbD k else old.getLsbD k) ∧
      w.getLsbD 10 = (if 2 ≤ modeOf s s.cur then old.getLsbD 10 && v.getLsbD 10 else old.getLsbD 10) ∧
      (∀ k, k < 3 ∨ (11 ≤ k ∧ k < 64) → w.getLsbD k = old.getLsbD k) ∧
      (getSlot t s.cur).pc = pcOf s + 4 ∧ t.mem = s.mem ∧ HartKept s t)

/-- R355 to R358, R236: IDLE waits unless an interrupt is pending; the TLB instructions remove the entries that they
name in every cluster once the hart's writes are acknowledged and no unit uses an affected translation; DCINV and ICINV
empty the core's caches. -/
def Obligations.IdleAndMaintenance : Prop :=
  ∀ (s : State) (sw : Bool) (a b : Fin 32), Fresh s →
    (MayIssue s .none 1 →
      (fld (getSlot s s.cur).hsw 10 8 = 0 → Does (.idle sw) s fun t =>
        (getSlot t s.cur).st = .waiting .idle ∧ (getSlot t s.cur).pc = pcOf s ∧ t.mem = s.mem ∧ HartKept s t) ∧
      (fld (getSlot s s.cur).hsw 10 8 ≠ 0 → Does (.idle sw) s fun t =>
        (getSlot t s.cur).pc = pcOf s + 4 ∧ t.mem = s.mem ∧ HartKept s t) ∧
      (writesPending s s.cur = false →
        let M := fun (i : Instr) (P : TlbEnt → Prop) => Does i s fun t =>
          HartKept s t ∧ (∀ c ∈ t.clusters, ∀ e ∈ c.2.tlb, ¬ P e) ∧ (getSlot t s.cur).pc = pcOf s + 4 ∧ t.mem = s.mem ∧
          (getSlot t s.cur).st = .parked .results none
        (translating s none none (s.uid + 1) = false → M (.tlball sw) fun _ => True) ∧
        (Clean s [a.val] → (rg s a).toNat < 1024 → translating s (some (rg s a).toNat) none (s.uid + 1) = false →
          M (.tlbasid sw a) fun e => e.asid = (rg s a).toNat) ∧
        (Clean s [a.val, b.val] → (rg s a).toNat < window0 → (rg s b).toNat < 1024 →
          translating s (some (rg s b).toNat) (some (rg s a).toNat) (s.uid + 1) = false →
          M (.tlbpage sw a b) fun e => e.asid = (rg s b).toNat ∧
            e.vpn = (rg s a).toNat / (if e.big then 2 ^ 29 else 2 ^ 16)))) ∧
    (MayIssue s .none 0 →
      (Does (.dcinv sw) s fun t => HartKept s t ∧ (getCore t (coreOf s.cur)).dcache = [] ∧ (getSlot t s.cur).pc = pcOf s + 4 ∧
        t.mem = s.mem) ∧
      (writesPending s s.cur = false → Does (.icinv sw) s fun t => HartKept s t ∧ (getCore t (coreOf s.cur)).icache = [] ∧
        (getSlot t s.cur).pc = pcOf s + 4 ∧ t.mem = s.mem))

/-! The lookup array (R119 to R146, R313 to R324). -/

/-- R120, R121, R123, R315, R316: LEASE of an IDLE core requests a period with its mask, bound and record and waits, and
one of a core that has its lease goes on at once; UNLEASE frees the claims and makes the core IDLE, and its discard form
empties the tables; a grant, and the two ends of a period when another core waits.
What those rules leave to reading is the model's choice: log 30, 103. -/
def Obligations.ArrayLeases : Prop :=
  (∀ (s : State) (sw : Bool) (a b c : Fin 32), MayIssue s .none 0 → Fresh s → Clean s [a.val, b.val, c.val] →
    (rg s b).toNat < 16 → (rg s c).toNat < 2 ^ 32 → (rg s a).toNat % 64 = 0 →
    ((actCtx s (coreOf s.cur)).lease = .idle → Does (.lease sw a b c) s fun t =>
      let x := actCtx t (coreOf s.cur)
      x.lease = .requesting ∧ x.mask = (rg s b).toNat ∧ x.recAt = (rg s a).toNat ∧ x.bound = (rg s c).toNat ∧
      x.req = s.cur ∧ (getSlot t s.cur).st = .waiting .lease ∧ (getSlot t s.cur).pc = pcOf s ∧
      (getSlot t s.cur).limit = (if rg s c = 0 then none else some (rg s c).toNat) ∧ t.mem = s.mem) ∧
    ((actCtx s (coreOf s.cur)).lease = .active ∨ (actCtx s (coreOf s.cur)).lease = .suspended →
      Does (.lease sw a b c) s fun t => Accepted s t ∧ (actCtx t (coreOf s.cur)).bound = (rg s c).toNat ∧ t.mem = s.mem)) ∧
  (∀ (s : State) (sw : Bool), MayIssue s .none 0 →
    let core := coreOf s.cur
    ((actCtx s core).lease = .idle →
      (Does (.unlease sw) s fun t => Accepted s t ∧ t.cores = s.cores ∧ t.clusters = s.clusters ∧ t.mem = s.mem) ∧
      (Does (.unleaseDiscard sw) s fun t => Accepted s t ∧ (actCtx t core).tabs = [] ∧ t.mem = s.mem)) ∧
    ((actCtx s core).lease = .active → needMet s s.cur .arrayIdle = true →
      (∀ i, i < 4 → openBusy s (clusterOf core) i = none) →
      (Does (.unlease sw) s fun t => Accepted s t ∧ (actCtx t core).lease = .idle ∧
        (actCtx t core).tabs = (actCtx s core).tabs ∧ t.mem = s.mem ∧
        ∀ e ∈ (getArr t (clusterOf core)).claims, e.2 ≠ claimant s core) ∧
      (Does (.unleaseDiscard sw) s fun t => Accepted s t ∧ (actCtx t core).lease = .idle ∧
        (actCtx t core).tabs = [] ∧ t.mem = s.mem))) ∧
  (∀ (s : State) (cl core : Nat), (getArr s cl).active = false → nextHolder s cl = some core →
    (actCtx s core).granted = true → (∀ h, leasePsn s h = none) → Does (.leaseGrant cl) s fun t =>
      (getArr t cl).active = true ∧ (getArr t cl).holder = core % 16 ∧ (getArr t cl).begun = s.cycle ∧
      (actCtx t core).lease = .active ∧ t.mem = s.mem ∧
      ∀ i, i < 4 → (actCtx s core).mask.testBit i = true → tfind (getArr t cl).claims i = some (claimant s core)) ∧
  (∀ (s : State) (cl : Nat), (getArr s cl).active = true → othersWait s cl = true →
    let P := fun (t : State) => (getArr t cl).active = false ∧
      (actCtx t (coreIn cl (getArr s cl).holder)).lease = .suspended ∧ t.mem = s.mem
    ((getArr s cl).begun + 16384 ≤ s.cycle → Does (.leasePeriodExpiry cl) s P) ∧
    (holderBusy s cl = false → (getArr s cl).lastCmd + 256 ≤ s.cycle → Does (.leaseIdleExpiry cl) s P))

/-- R125, R126, R129, R131, R137 to R139, R142, R317 to R320: the commands whose lease and claims allow them are accepted.
ACSWAP is queued at once, behind whatever is queued. TBSPILL writes the entries of a resident table to its spill slot and
leaves it SPILLED, or LOST where no slot is given, and leaves any other table as it is. TBFILL brings the entries of a
SPILLED table's slot into a free register, and leaves a resident table resident. TBUILD of a good nest makes the table
BUILDING with its watch and is queued with the places of its sources; its receiving form expects the table.
What those rules leave to reading is the model's choice: log 31, 34, 103. -/
def Obligations.ArrayTableCommands : Prop :=
  ∀ (s : State) (sw : Bool) (acc : Fin 4) (tb : Fin 8),
    let core := coreOf s.cur
    let cl := clusterOf core
    let x := actTab s core tb.val
    (MayIssue s .none 0 → ArrayTurn s (some acc.val) → openBusy s cl acc.val = none →
      (Does (.acswap sw acc) s fun t => Accepted s t ∧ Queued s t (.swap acc.val false) ∧ t.mem = s.mem) ∧
      (Does (.acswapZero sw acc) s fun t => Accepted s t ∧ Queued s t (.swap acc.val true) ∧ t.mem = s.mem)) ∧
    (MayIssue s .none 0 → ArrayTurn s none →
      (EarlierDone (stamped s) [tb.val] none true →
        (x.st ≠ .resident → Does (.tbspill sw tb) s fun t => Accepted s t ∧ actTab t core tb.val = x ∧ t.mem = s.mem) ∧
        (∀ cells, x.st = .resident → x.stale = none → (actCtx s core).spill ≠ 0 →
          spillPas (stamped s) core (actCtx s core) tb.val x.size .write = .ok cells →
          scouting s s.cur = false → unchecked s s.cur = false →
          Does (.tbspill sw tb) s fun t => Accepted s t ∧ (actTab t core tb.val).st = .spilled ∧
            (actTab t core tb.val).reg = none ∧
            t.mem = (putKeyed s (cells.zip (x.vals.flatMap fun e => leBytes (esize x.ty) e.toNat)) x.psn).mem) ∧
        (x.st = .resident → x.stale.isSome = true ∨ (actCtx s core).spill = 0 → Does (.tbspill sw tb) s fun t =>
          Accepted s t ∧ (actTab t core tb.val).st = .lost ∧ (actTab t core tb.val).reg = none ∧ t.mem = s.mem) ∧
        (∀ cells, x.st = .spilled → (x.reg.isSome = true ∨ ∃ r ∈ span 0 8, tfind (getArr s cl).regs r = none) →
          spillPas (stamped s) core (actCtx s core) tb.val x.size .read = .ok cells →
          Does (.tbfill sw tb) s fun t => Accepted s t ∧ (actTab t core tb.val).st = .resident ∧
            (actTab t core tb.val).vals = entriesOf (esize x.ty) (getKeyed s cells) ∧
            (actTab t core tb.val).reg.isSome = true ∧ t.mem = s.mem) ∧
        (x.st = .resident → x.reg.isSome = true → Does (.tbfill sw tb) s fun t => Accepted s t ∧
          actTab t core tb.val = x ∧ t.mem = s.mem))) ∧
    (MayIssue s .fmt 0 → ArrayTurn s none → EarlierDone (stamped s) [] none true →
      (Does (.tbuildRcv sw tb) s fun t => Accepted s t ∧ (actTab t core tb.val).st = .expected ∧
        (actTab t core tb.val).reg = none ∧ t.mem = s.mem)) ∧
    (∀ (b c : Fin 32) (kind : TblKind) (st : SrcType) (mc : Bool) (src ty : ElemType) (d : List Word) (n : Nest) (s2 : State),
      MayIssue s .fmt 0 → Fresh s → Clean s [b.val, c.val] → buildTypes st (fmtOf s) = some (src, ty) →
      (rg s c).toNat < 32 → ArrayTurn s none → RecordAt (stamped s) (rg s b) d → nestOf d = some n →
      n.y ≤ 128 → strayByte (stamped s) s.cur (esize src) n = none → n.misaligned (esize src) = none →
      let groups := (n.x + kindG kind - 1) / kindG kind
      let pas := sourcePas (stamped s) s.cur n
      let unit := ((sourceUnit (stamped s) s.cur n.base).map (·.1)).getD 0
      (rg s c).toNat + groups ≤ kindMaxGroups kind → n.y * groups * kindSlots kind * esize ty ≤ 131072 →
      pendBank (stamped s) (sourceStore (stamped s) s.cur n) = none → EarlierDone (stamped s) [tb.val] none true →
      place (afterRead (stamped s) (rg s b).toNat 64) core (getCore s core).actx tb.val [tb.val] = some s2 →
      Does (.tbuild sw tb b c kind st mc) s fun t => Accepted s t ∧ t.mem = s2.mem ∧
        (actTab t core tb.val).st = .building ∧ (actTab t core tb.val).rows = n.y ∧
        (actTab t core tb.val).groups = groups ∧ (actTab t core tb.val).gbase = (rg s c).toNat ∧
        (actTab t core tb.val).kind = kind ∧ (actTab t core tb.val).ty = ty ∧ (actTab t core tb.val).stale = none ∧
        (actTab t core tb.val).watch = some (unit, pas.foldl min (pas.headD 0) - unit,
          pas.foldl max 0 + esize src - 1 - unit) ∧
        ∃ cmd, (∃ e ∈ (getArr t cl).cmds, e.op = .build cmd ∧ e.hart = s.cur) ∧ cmd.tb = tb.val ∧ cmd.core = core ∧
          cmd.rows = n.y ∧ cmd.x = n.x ∧ cmd.src = src ∧ cmd.ty = ty ∧ cmd.mc = mc ∧ cmd.gbase = (rg s c).toNat ∧
          cmd.pas = pas.map fun a => (a, 0))

/-- R132 to R134, R140, R321 to R323: MMT, its steps checked, its tables resident and its codes and scales fetched, is
queued with them; it opens its accumulator's block or continues the one of equal sizes, and with LAST closes it. MMD, its
operands translated, is queued with their places.
What those rules leave to reading is the model's choice: log 31, 32, 103. -/
def Obligations.ArrayProducts : Prop :=
  (∀ (s : State) (sw : Bool) (acc : Fin 4) (b c : Fin 32) (form : Form) (signed last : Bool) (tb : Fin 8) (d : List Word)
      (k : Nest) (s2 : State) (bs sb : List Byte) (p sp : Bool),
    let core := coreOf s.cur
    let cl := clusterOf core
    let w := rg s c
    let ng := fld w 5 0
    let g0 := fld w 12 8
    let n := fld w 18 16 + 1
    let tbs := span tb.val n
    let m := (actTab s core tb.val).rows
    let opn := (tget {} (getArr s cl).accs acc.val).opn
    let offs := codeBytes form g0 (n * ng)
    let scale := (readReg s s.cur (c.val + 1)).toNat
    let blocks := (span 0 k.y).map fun col => blockOf offs ((bs.drop (col * offs.length)).take offs.length)
    MayIssue s .none 0 → Fresh s → c.val ≤ 30 → Clean s [b.val, c.val, c.val + 1] →
    fld w 63 19 = 0 → fld w 15 13 = 0 → fld w 7 6 = 0 → 1 ≤ ng → ng ≤ 32 → tb.val + n ≤ 8 →
    ArrayTurn s (some acc.val) → EarlierDone (stamped s) tbs (some acc.val) true →
    RecordAt (stamped s) (rg s b) d → nestOf d = some k → k.y ≤ 128 → k.cnt.getD 0 1 = 1 → k.cnt.getD 2 1 = 1 →
    opn.all (fun e => e.1 = m && e.2.1 = k.y) = true → (actTab s core tb.val).st ≠ .expected →
    stepChecks (formKind form) m ng (tbs.map fun v => (v, actTab s core v)) g0 = .ok →
    residents core (getCore s core).actx tbs tbs (afterRead (stamped s) (rg s b).toNat 64) = .ok (some s2) →
    fetchBytes s2 ((span 0 k.y).flatMap fun col => offs.map fun o => (k.addr 0 col + o) % 2 ^ 64) = .ok bs p →
    (last = true → scale % 4 = 0) →
    fetchBytes s2 (if last then (span 0 (4 * k.y)).map fun o => (scale + o) % 2 ^ 64 else []) = .ok sb sp →
    (form = .t5 → badCode tb.val g0 ng blocks (n * ng) = none) →
    Does (.mmt sw acc b c form signed last tb) s fun t => Accepted s t ∧ t.mem = s2.mem ∧
      (tget {} (getArr t cl).accs acc.val).opn = (if last then none else some (opn.getD (m, k.y, s.cur, (getArr s2 cl).seq))) ∧
      ∃ e ∈ (getArr t cl).cmds, ∃ q, e.op = .mmt q ∧ e.hart = s.cur ∧ e.core = core ∧ q.acc = acc.val ∧
        q.opens = opn.isNone ∧ q.last = last ∧ q.form = form ∧ q.signed = signed ∧ q.g0 = g0 ∧ q.ng = ng ∧ q.m = m ∧
        q.n = k.y ∧ q.tabs = tbs.map (actTab s2 core) ∧ q.codes = blocks ∧ q.scales = entriesOf 4 sb) ∧
  (∀ (s : State) (sw : Bool) (acc : Fin 4) (b c : Fin 32) (ta tb : MmdType) (ea eb : ElemType) (da db : List Word)
      (na nb : Nest),
    let cl := clusterOf (coreOf s.cur)
    let sa := (readReg s s.cur (c.val + 1)).toNat
    let sb := (readReg s s.cur (c.val + 2)).toNat
    let scales := fun (base rows : Nat) =>
      if ea = .lg6 then (span 0 (rows * ((na.x + 127) / 128))).map fun j => (base + 4 * j) % 2 ^ 64 else []
    MayIssue s .fmt 0 → Fresh s → mmdTypes ta tb (fmtOf s) = some (ea, eb) → (ea = .lg6 → c.val ≤ 29) →
    Clean s (if ea = .lg6 then [b.val, c.val, c.val + 1, c.val + 2] else [b.val, c.val]) →
    ArrayTurn s (some acc.val) → RecordAt (stamped s) (rg s b) da →
    RecordAt (afterRead (stamped s) (rg s b).toNat 64) (rg s c) db →
    nestOf da = some na → nestOf db = some nb → na.y ≤ 128 → na.x ≤ 1048576 → nb.y ≤ 128 → nb.x = na.x →
    na.misaligned (esize ea) = none → nb.misaligned (esize eb) = none → (ea = .lg6 → sa % 4 = 0 ∧ sb % 4 = 0) →
    openBusy s cl acc.val = none →
    pendBank (stamped s) ((placesOf (stamped s) (na.elems ++ nb.elems ++ scales sa na.y ++ scales sb nb.y)).map (·.1)) = none →
    (∀ e ∈ [(esize ea, na.elems), (esize eb, nb.elems), (4, scales sa na.y), (4, scales sb nb.y)],
      operandFault (stamped s) e = none) →
    Does (.mmd sw acc b c ta tb) s fun t => Accepted s t ∧ t.mem = s.mem ∧
      ∃ q, Queued s t (.mmd q) ∧ q.acc = acc.val ∧ q.ta = ea ∧ q.tb = eb ∧ q.m = na.y ∧ q.n = nb.y ∧ q.k = na.x ∧
        q.aPas = placesOf (stamped s) na.grid ∧ q.bPas = placesOf (stamped s) nb.grid ∧
        q.saPas = placesOf (stamped s) (scales sa na.y) ∧ q.sbPas = placesOf (stamped s) (scales sb nb.y))

/-- R130, R134, R141, R142, R144, R145: a command that nothing holds back finishes: an exchange swaps the banks, its zero
form clearing the new working bank; a build fills its table, if no later command has replaced it; an MMT and an MMD add
into the working bank element by element; a multicast copy is installed, or dropped at an IDLE member; a stale notice marks
the member's copy. -/
def Obligations.ArrayCompletions : Prop :=
  ∀ (s : State) (cl i : Nat),
    (∀ c, readyCmd s cl i = some c →
      (∀ acc zero, c.op = .swap acc zero → Does (.accumulatorExchange cl i) s fun t =>
        let x := tget {} (getArr s cl).accs acc
        let y := tget {} (getArr t cl).accs acc
        y.vis = x.work ∧ y.work = (if zero then { v := [], psn := false } else x.vis) ∧ y.opn = x.opn ∧
        (∀ k, k ≠ acc → tget {} (getArr t cl).accs k = tget {} (getArr s cl).accs k) ∧ Finished t cl c ∧ t.mem = s.mem) ∧
      (∀ b, c.op = .build b → keyHeld s b.pas = false → Does (.tableBuildComplete cl i) s fun t =>
        let x := tget {} (arrCtx s b.core b.ctx).tabs b.tb
        let y := tget {} (arrCtx t b.core b.ctx).tabs b.tb
        (buildStands s cl i b = true → y.st = .resident ∧ y.stale = x.stale ∧ y.vals = buildEntries b
          (b.pas.map fun p => leNat (rdBytes s p.2 (span p.1 (esize b.src))))) ∧
        (buildStands s cl i b = false → y = x) ∧ Finished t cl c ∧ t.mem = s.mem) ∧
      (∀ m, c.op = .mmt m → Does (.mmtComplete cl i) s fun t =>
        let z := (span 0 m.n).foldl (fun a col => (span 0 m.m).foldl (fun a r => mmtElem m a col r) a)
          (tget {} (getArr s cl).accs m.acc)
        (tget {} (getArr t cl).accs m.acc).work.v = z.work.v ∧ (tget {} (getArr t cl).accs m.acc).part = z.part ∧
        (m.last = false → z.work.v = (tget {} (getArr s cl).accs m.acc).work.v) ∧
        (∀ k, k ≠ m.acc → tget {} (getArr t cl).accs k = tget {} (getArr s cl).accs k) ∧ Finished t cl c ∧ t.mem = s.mem) ∧
      (∀ m, c.op = .mmd m → m.n ≤ 128 → keyHeld s (m.aPas ++ m.bPas ++ m.saPas ++ m.sbPas) = false → Does (.mmdComplete cl i) s fun t =>
        let old := fun (r col : Nat) => (tget 0 (tget {} (getArr s cl).accs m.acc).work.v (128 * r + col)).toNat
        let a := operandVals s (esize m.ta) m.aPas
        let b := operandVals s (esize m.tb) m.bPas
        (∀ r ∈ span 0 m.m, ∀ col ∈ span 0 m.n,
          tget 0 (tget {} (getArr t cl).accs m.acc).work.v (128 * r + col) = BitVec.ofNat 32
            (if m.ta = .lg6 then mmdLg m a b (operandVals s 4 m.saPas) (operandVals s 4 m.sbPas) r col (old r col)
             else mmdFp m a b r col (old r col))) ∧
        (∀ k, k ≠ m.acc → tget {} (getArr t cl).accs k = tget {} (getArr s cl).accs k) ∧ Finished t cl c ∧ t.mem = s.mem)) ∧
    (∀ m, (getArr s cl).copies[i]? = some m → (actCtx s m.dst).lease = .idle →
      Does (.multicastCopyArrival cl i) s fun t => (getArr t cl).copies = (getArr s cl).copies.eraseIdx i ∧
        actTab t m.dst m.tb = actTab s m.dst m.tb ∧ t.mem = s.mem) ∧
    (∀ m s2, (getArr s cl).copies[i]? = some m → (actCtx s m.dst).lease ≠ .idle →
      ((getArr s (clusterOf m.dst)).cmds.any fun c => c.blocks m.dst (getCore s m.dst).actx [m.tb] none) = false →
      place s m.dst (getCore s m.dst).actx m.tb [m.tb] = some s2 →
      Does (.multicastCopyArrival cl i) s fun t =>
        (actTab t m.dst m.tb).vals = m.tab.vals ∧ (actTab t m.dst m.tb).st = m.tab.st ∧ t.mem = s2.mem) ∧
    (∀ l m v, (getArr s cl).notices[i]? = some (l, m, v) →
      ((getArr s cl).copies.any fun c => c.leader = l && c.dst = m && c.tb = v) = false →
      Does (.staleNotice cl i) s fun t => t.mem = s.mem ∧ ∀ x ∈ [0, 1], (tget {} (arrCtx s m x).tabs v).leader = some l →
        (tget {} (arrCtx t m x).tabs v).stale.isSome = true)

/-- R143, R324: ACRD writes the elements of the visible bank, rounded to the destination type, to the nest's addresses,
once the core's own earlier commands on the accumulator have finished; ACRD of the working bank does so under the lease
when nothing is using the bank. A poisoned bank, with PTE clear, writes poison.
What those rules leave to reading is the model's choice: log 37. -/
def Obligations.AccumulatorReads : Prop :=
  ∀ (s : State) (sw : Bool) (acc : Fin 4) (b : Fin 32) (dt : ElemType) (d : List Word) (n : Nest)
      (l : List (Nat × Option Xl)),
    let core := coreOf s.cur
    let cl := clusterOf core
    MayIssue s .fmt 0 → Fresh s → acrdType (fmtOf s) = some dt → Clean s [b.val] →
    ∀ (u : State), (u = s ∨ u = stamped s) → RecordAt u (rg s b) d → nestOf d = some n → n.x ≤ 128 → n.y ≤ 128 →
    n.misaligned (esize dt) = none → destPas u (esize dt) n.elems = .ok l →
    (∀ e ∈ l, destBad u (esize dt) e.2 = false) →
    let xs := l.filterMap (·.2)
    pendBank u (xs.map (·.pa)) = none → keyHeld u (xs.map fun x => (x.pa, x.key)) = false →
    let cells := fun (bank : Bank) => (xs.zip n.order).flatMap fun e =>
      ((span e.1.pa (esize dt)).map fun p => (p, e.1.key)).zip (leBytes (esize dt)
        (fpRnd dt (fmtOf s).ftz (fmtOf s).sat (fpDec .fp32 (fmtOf s).ftz (tget 0 bank.v (128 * e.2.2 + e.2.1)).toNat)))
    let W := fun (bank : Bank) (t : State) => Accepted s t ∧ t.mem = (putKeyed s (cells bank) bank.psn).mem ∧
      t.poison = (putKeyed s (cells bank) bank.psn).poison
    let ok := fun (bank : Bank) => bank.psn = false ∨ pteOf s s.cur = false
    let a := tget {} (getArr s cl).accs acc.val
    (u = s → EarlierDone s [] (some acc.val) false → ok a.vis → Does (.acrd sw acc b) s (W a.vis)) ∧
    (u = stamped s → ArrayTurn s (some acc.val) → workBusy u cl acc.val = none → EarlierDone u [] none true → ok a.work →
      Does (.acrdWorking sw acc b) s (W a.work))

/-! The mask unit (R148 to R165, R325, R326). -/

/-- R150 to R153, R159 to R161, R163, R165: with the hart's writes acknowledged and no KVCOMMIT of the cluster to be served
first, MSKLD of a good record and tables replaces the context's program, constants, segments and tree; MSKCLS classifies
the grid's tiles, writes their two-bit codes, counts them and gives the numbers of partial and full tiles; MSKEL writes the
2,048 bytes of an element mask; MSKCNT gives the four counters and clears them when told to; KVCOMMIT sends its take of the
length word and waits.
What those rules leave to reading is the model's choice: log 39, 40. -/
def Obligations.MaskCommands : Prop :=
  ∀ (s : State) (sw : Bool) (ctx : Fin 4) (a b c : Fin 32), MayIssue s .none 0 → Fresh s →
    let cl := clusterOf (coreOf s.cur)
    let m := getMask s cl ctx.val
    (∀ clr, 1 ≤ a.val → a.val ≤ 28 → Does (.mskcnt sw ctx a clr) s fun t => Accepted s t ∧ t.mem = s.mem ∧
      FourPending s t a.val [m.full, m.part, m.empty, m.forced] ∧
      getMask t cl ctx.val = if clr then { m with full := 0, part := 0, empty := 0, forced := 0 } else m) ∧
    (takeDone s cl = false → s.tr.keyCmd = none → writesPending s s.cur = false → Clean s [a.val, b.val, c.val] →
      (∀ rb sb tb : List Byte, (rg s b).toNat % 64 = 0 → readUnit s (rg s b).toNat 128 = .ok rb false →
        let r := words rb
        let nseg := fld (r.getD 0 0) 47 32
        let ntree := fld (r.getD 0 0) 31 16
        let limit := fld (r.getD 3 0) 63 32
        let segs := (words sb).map fun e => (fld e 31 0, fld e 63 32)
        let tree := (span 0 ntree).map fun j => leNat ((tb.drop (4 * j)).take 4)
        let s1 := afterRead s (rg s b).toNat 128
        let s2 := if nseg = 0 then s1 else afterRead s1 (r.getD 1 0).toNat (8 * nseg)
        maskRecordTrap r = none →
        (if nseg = 0 then sb = [] else (r.getD 1 0).toNat % 8 = 0 ∧ readUnit s1 (r.getD 1 0).toNat (8 * nseg) = .ok sb false) →
        (if ntree = 0 then tb = [] else (r.getD 2 0).toNat % 4 = 0 ∧ readUnit s2 (r.getD 2 0).toNat (4 * ntree) = .ok tb false) →
        segTrap limit segs 0 = none → treeTrap tree = none →
        Does (.mskld sw ctx b) s fun t => Accepted s t ∧ t.mem = s.mem ∧
          let m' := getMask t cl ctx.val
          m'.gen = m.gen + 1 ∧ m'.prog = (maskHalves r).take (fld (r.getD 0 0) 4 0) ∧ m'.psn = false ∧
          m'.consts = (span 0 8).map (fun i => BitVec.ofNat 32 (fld (r.getD (8 + i / 2) 0) (32 * (i % 2) + 31) (32 * (i % 2)))) ∧
          m'.segs = segs ∧ m'.tree = tree ∧ m'.limit = limit ∧ m'.tbase = fld (r.getD 3 0) 31 0) ∧
      (∀ (rb : List Byte) (qb ql kb kl dest : Nat) (l : List (Nat × Xl)), Ordinary s → (rg s b).toNat % 32 = 0 →
        readUnit s (rg s b).toNat 32 = .ok rb false → (words rb).map BitVec.toNat = [qb + 2 ^ 32 * kb, ql + 2 ^ 32 * kl, dest, 0] →
        qb < 2 ^ 32 → ql < 2 ^ 32 → ql ≠ 0 → kl ≠ 0 → ql ≤ 2 ^ 24 → kl ≤ 2 ^ 24 → qb + ql ≤ 2 ^ 32 → kb + kl ≤ 2 ^ 32 →
        let nt := (ql + 127) / 128 * ((kl + 127) / 128)
        nt ≤ 65536 → dest % 8 = 0 → m.prog ≠ [] →
        let u := afterRead s (rg s b).toNat 32
        destRegion u dest ((nt + 3) / 4) = .ok l → writeNeed u l dest ((nt + 3) / 4) = none →
        Does (.mskcls sw ctx a b) s fun t => Accepted s t ∧
          let cs := gridClasses m qb ql kb kl
          let n := fun (k : Nat) => (cs.filter (·.1 = k)).length
          readReg t s.cur a.val = (if a.val = 0 then 0 else wd (n 1 * 2 ^ 32 + n 2)) ∧
          (∀ y, y ∉ regBytes s s.cur a.val → memGet t.mem y =
            memGet (writeOut u l dest (packCodes (cs.map (·.1))) false).1.mem y) ∧
          getMask t cl ctx.val = { m with full := m.full + wd (n 2), part := m.part + wd (n 1), empty := m.empty + wd (n 0)
                                          forced := m.forced + wd (cs.filter (·.2)).length }) ∧
      (∀ (l : List (Nat × Xl)), (rg s a).toNat % 64 = 0 → (rg s b).toNat < 2 ^ 32 → (rg s c).toNat < 2 ^ 32 →
        m.prog ≠ [] → destRegion s (rg s a).toNat 2048 = .ok l → writeNeed s l (rg s a).toNat 2048 = none →
        Does (.mskel sw ctx a b c) s fun t => Accepted s t ∧ getMask t cl ctx.val = m ∧
          t.mem = (writeOut s l (rg s a).toNat (maskBytes m (rg s b).toNat (rg s c).toNat) m.psn).1.mem) ∧
      (∀ (rb : List Byte) (f : Nat × Nat × Nat) (pas : List Nat) (x : Xl), (rg s b).toNat % 64 = 0 →
        readUnit s (rg s b).toNat 64 = .ok rb false → kvFields (words rb) = some f →
        ((words rb).getD 0 0).toNat % 8 = 0 → ((words rb).getD 1 0).toNat % 64 = 0 → ((words rb).getD 2 0).toNat % 64 = 0 →
        kvLength s ((words rb).getD 0 0).toNat = .ok (pas, x) →
        Does (.kvcommit sw a b) s fun t => Sent s t pas (.sync .take none) (fun y => y.dest = .kvTake) ∧
          (getSlot t s.cur).st = .waiting (.memory s.uid) ∧ (getSlot t s.cur).latch = words rb ++ [wd a.val, 0] ∧
          (getSlot t s.cur).pc = pcOf s ∧ t.mem = s.mem))

/-- R163, R164: a KVCOMMIT whose take found no room puts the length back and traps with the length word's address; one
with room, none of whose pieces waits at a bank, moves its accepted entries behind the committed prefix in both planes,
gives the new length, writes it to the length word with its full bit, and its hart goes on at the next word.
What those rules leave to reading is the model's choice: log 40, 97, 102. -/
def Obligations.KvCommitTakes : Prop :=
  ∀ (s : State) (cl i esz cap nd : Nat) (y : Access) (val : List Byte), s.flight[i]? = some y → y.dest = .kvTake →
    y.st = .done val false → clusterOf (coreOf y.hart) = cl → kvFields (getSlot s y.hart).latch = some (esz, cap, nd) →
    let len := leNat (val.take 8)
    let h := y.hart
    let w := (getSlot s h).latch
    let u := dropAcc { s with cur := h } y.uid
    let pc := (getSlot s h).pc
    (cap < len + nd → exec (.kvcommitTakePerformed cl i) s =
      .next (takeTrap (reportRefused (kvFill u y len false).1 h (kvFill u y len false).2) h (trap .accessFault 4 y.va) pc)) ∧
    (∀ kl vl, len + nd ≤ cap → Placed s h → Memory.wf s.mem = true → (w.getD 9 0) = 0 → 8 ≤ val.length →
      (∀ z ∈ s.flight, z.uid ≠ y.uid → z.hart ≠ h ∧ ∀ n, z.st ≠ .retry n) → y.pas.length = 8 →
      y.pas.all isHbm = true → engineOk s y.pas = true → y.pas.Nodup →
      let kb := (w.getD 1 0).toNat
      let vb := (w.getD 2 0).toNat
      let d := (w.getD 8 0).toNat
      destRegion u (kb + len * esz) (nd * esz) = .ok kl →
      (if vb = 0 then vl = [] else destRegion u (vb + len * esz) (nd * esz) = .ok vl) →
      let accept := (span 0 nd).map fun k => bit (w.getD (4 + k / 64) 0) (k % 64)
      let n := (accept.filter id).length
      let w := noteRegion (noteRegion u h kl (kb + len * esz) (nd * esz)) h vl (vb + len * esz) (nd * esz)
      ∀ moved, kvEntries (if vb = 0 then [(kb, kl)] else [(kb, kl), (vb, vl)]) len esz accept 0 0 w none = some moved →
      (∀ a ∈ y.pas, retag moved.1 y.key a = moved.1) → d < 32 → Does (.kvcommitTakePerformed cl i) s fun t =>
        (getSlot t h).pc = pc + 4 ∧ readReg t h d = (if d = 0 then 0 else wd (len + n)) ∧
        rdBytes t y.key y.pas = wBytes (wd (len + n)) ∧ isFull t (y.pas.headD 0) = true ∧
        ∀ a, a ∉ y.pas → a ∉ regBytes s h d → memGet t.mem a = memGet moved.1.mem a)

/-! The copy engine and the work-lists (R166 to R181, R327 to R330). -/

/-- R167, R168, R175, R176, R178, R327: a command of the copy engine with a good descriptor, its regions translated and
allowed, and room for a job, is accepted: the pending count of its event line rises by one and no byte changes. Where no
job of its message waits to start, its own job stands last in the cluster with its regions.
What those rules leave to reading is the model's choice: log 16, 39. -/
def Obligations.EngineCommands : Prop :=
  ∀ (s : State) (sw : Bool) (a : Fin 32) (d : List Word) (j : Job) (rp wp : List (Nat × Xl)) (rr : List (Nat × Nat × Bool)),
    let opn := (getSlot s s.cur).region.isSome
    let cl := clusterOf (coreOf s.cur)
    MayIssue s .none 0 → Fresh s → Clean s [a.val] → RecordAt s (rg s a) d →
    (opn = true → j.opc ≠ 3 ∧ dstFifo s (jobWrite j).1 (jobWrite j).2 = false) →
    readRegions s (jobReads j) = .ok (rp, rr) → engineRegion s (jobWrite j).1 (jobWrite j).2 .write = .ok wp →
    regionFault s wp (jobWrite j).1 (jobWrite j).2 = none → regionLate s wp (jobWrite j).1 (jobWrite j).2 = false →
    (j.opc = 3 → fifoAt s wp = none) → needMet s s.cur (.jobRoom j.evt) = true →
    ∀ e ∈ [(Instr.copy sw a, [0]), (.gather sw a, [1, 4]), (.scatter sw a, [2]), (.scadd sw a, [3])],
      jobFields s.cur d e.2 = some j → Does e.1 s fun t => Accepted s t ∧ t.mem = s.mem ∧
        (∃ n, (n = j.evt ∨ ∃ k ∈ (getCluster s cl).jobs, k.started = false ∧ k.evt = n ∧ k.msg = jobMsg s e.1 j.opc (rg s a)) ∧
          (getLine t cl n).pend = (getLine s cl n).pend + 1) ∧
        ((∀ k ∈ (getCluster s cl).jobs, k.started = true ∨ k.msg ≠ jobMsg s e.1 j.opc (rg s a)) →
          (getLine t cl j.evt).pend = (getLine s cl j.evt).pend + 1 ∧
          ∃ k, (getCluster t cl).jobs = (getCluster s cl).jobs ++ [k] ∧ k.uid = s.uid ∧ k.hart = s.cur ∧ k.opc = j.opc ∧
            k.src = j.src ∧ k.dst = j.dst ∧ k.idx = j.idx ∧ k.count = j.count ∧ k.elen = j.elen ∧ k.started = false ∧
            k.more = [] ∧ k.region = opn ∧ k.pages = imagesOf (rp ++ wp) ∧
            k.regions = rr ++ rangesOf wp (jobWrite j).1 (jobWrite j).2 true)

/-- R81, R82, R145, R169, R173, R175 to R177, R328, R329, R377: a job starts once the stores that its harts issued before
it are acknowledged and the conflicting jobs that they issued before it are done, and then performs its elements access by
access: between plain places a read brings the next bytes of an element's source, and a write puts the next of its
destination; a job finishes when its elements are behind it, and its line's pending count falls and its errors join, which the
hart that waits for the line then reads and clears. EVWAIT waits for its line, then gives and clears its errors; IDEM opens a region at its
own address, and its close ends it, once the hart's jobs are done, for which they park; a bank resumes the access or the
job that waits there.
What those rules leave to reading is the model's choice: log 16, 99. -/
def Obligations.EngineProgress : Prop :=
  (∀ (s : State) (cl i : Nat) (j : Job), (getCluster s cl).jobs[i]? = some j →
    ((if j.started then j.next < j.count ∧ j.stand = none else mayStart s cl j = true) → pagesHeld s j.pages = false →
      Does (.jobStart cl i) s fun t => t = runJob s cl j ∧
        ∀ x src dst, j.next < j.count → j.opc ≠ 4 → j.overlaps = false → (j.opc = 0 ∨ ∃ p, j.ix = some (x, p)) →
          j.place x j.next = some (src, dst) →
          (∀ ps, j.buf.length < j.elen → s.sched.choices.head? ≠ some true →
            let o := j.buf.length
            jobPas j.pages (src + o) (pieceLen (src + o) (j.elen - o)) = some ps → PlainAt s (ps.map (·.1)) →
            t.mem = s.mem ∧ ∃ k ∈ (getCluster t cl).jobs, k.uid = j.uid ∧ k.buf = j.buf ++ getKeyed s ps ∧
              k.next = j.next ∧ k.wr = j.wr) ∧
          (∀ ps, ¬ j.buf.length < j.elen → j.wr < j.elen → j.opc ≠ 3 → (j.wr = 0 → rangeWay s j dst j.elen = .go) →
            (∀ e ∈ j.issuers, coreOf e.1 = j.core) →
            let n := pieceLen (dst + j.wr) (j.elen - j.wr)
            jobPas j.pages (dst + j.wr) n = some ps → PlainAt s (ps.map (·.1)) →
            t.mem = (putKeyed s (ps.zip ((j.buf.drop j.wr).take n)) (j.hot.contains j.next)).mem ∧
            ∃ k ∈ (getCluster t cl).jobs, k.uid = j.uid ∧
              if j.wr + n < j.elen then k.next = j.next ∧ k.wr = j.wr + n else k.next = j.next + 1)) ∧
    (j.started = true → j.count ≤ j.next → noticesPending s = false → Does (.jobFinish cl i) s fun t =>
      let l := getLine s cl j.evt
      let f := { l with pend := l.pend - j.issuers.length, err := l.err ||| j.errs,
                        bad := if l.err &&& 0b111101 = 0 && j.errs &&& 0b111101 ≠ 0 then j.bad else l.bad }
      let waits := fun (h : Nat) => (getSlot s h).st = .waiting (.event j.evt)
      (getCluster t cl).jobs = (getCluster s cl).jobs.filter (·.uid ≠ j.uid) ∧
      (f.pend ≠ 0 ∨ (∀ h, ¬ waits h) → getLine t cl j.evt = f ∧ t.mem = s.mem ∧ t.slots = s.slots) ∧
      ∀ h, f.pend = 0 → h / 64 = cl → Placed s h → Memory.wf s.mem = true → waits h → (∀ k, k ≠ h → ¬ waits k) →
        let d := ((getSlot s h).latch.headD 0).toNat
        d < 32 → readReg t h d = (if d = 0 then 0 else lineWord f) ∧ (getSlot t h).pc = (getSlot s h).pc + 4 ∧
          (getSlot t h).st = .parked .results none ∧ getLine t cl j.evt = { f with err := 0, bad := none })) ∧
  (∀ (s : State) (cl b n : Nat),
    (atFifo s cl b = [] → exec (.fifoAccessResume cl b) s = .next s) ∧
    (∀ k j, atFifo s cl b = [(n, .inr (k, j))] → exec (.fifoAccessResume cl b) s = .next (runJob s k j)) ∧
    (∀ a u v p, atFifo s cl b = [(n, .inl a)] → perform s a = (u, .done v p) →
      exec (.fifoAccessResume cl b) s = .next (deliver (copiesAfter u a) a v p))) ∧
  (∀ (s : State) (sw : Bool) (a line l : Fin 32), MayIssue s .none 0 →
    let cl := clusterOf (coreOf s.cur)
    let ev := getLine s cl line.val
    (ev.pend ≠ 0 → Fresh s → Does (.evwait sw a line l) s fun t => (getSlot t s.cur).st = .waiting (.event line.val) ∧
      (getSlot t s.cur).limit = (if l.val = 31 then none else some (2 ^ (l.val + 6))) ∧ (getSlot t s.cur).pc = pcOf s ∧
      t.mem = s.mem) ∧
    (ev.pend = 0 → Ordinary s → Does (.evwait sw a line l) s fun t => Accepted s t ∧
      readReg t s.cur a.val = (if a.val = 0 then 0 else lineWord ev) ∧
      (∀ y, y ∉ regBytes s s.cur a.val → memGet t.mem y = memGet s.mem y) ∧
      getLine t cl line.val = { ev with err := 0, bad := none }) ∧
    (jobsPending s s.cur = false →
      (Does (.idem sw) s fun t => Accepted s t ∧ (getSlot t s.cur).region = some (pcOf s) ∧ t.mem = s.mem) ∧
      (Does (.idemClose sw) s fun t => Accepted s t ∧ (getSlot t s.cur).region = none ∧ t.mem = s.mem)) ∧
    (jobsPending s s.cur = true → ∀ i ∈ [Instr.idem sw, .idemClose sw], Does i s fun t =>
      (getSlot t s.cur).st = .parked .jobs none ∧ (getSlot t s.cur).pc = pcOf s ∧ t.mem = s.mem))

/-- R179, R180, R330: with no pop waiting, WLPUSH appends its item; WLINS appends a key whose bit is clear, sets the bit
and gives 1, and a key whose bit is set gives 0, appends nothing and is counted; both are a QUEUE_TIMEOUT on a full list.
WLPOPB of a list with items takes up to N of them in order, with their count; of an empty one it waits behind the harts
that wait.
What those rules leave to reading is the model's choice: log 21, 22, 39. -/
def Obligations.WorkLists : Prop :=
  ∀ (s : State) (sw : Bool) (list : Fin 4) (a b l : Fin 32) (nm1 : Fin 16), MayIssue s .none 0 → Fresh s →
    let cl := clusterOf (coreOf s.cur)
    let w := getList s cl list.val
    let key := fld (rg s b) 31 0
    w.ok = true → pagesHeld s w.pages = false →
    (scouting s s.cur = false → unchecked s s.cur = false → Clean s [b.val] → w.poppers = [] →
      (w.items.length < w.cap → writesPending s s.cur = false →
        (Does (.wlpush sw list b) s fun t => Accepted s t ∧ (getList t cl list.val).items = w.items ++ [(rg s b, false)] ∧
          (getList t cl list.val).tail = w.tail + 1 ∧ (w.items.length < 512 → t.mem = s.mem)) ∧
        (Ordinary s → w.bitmap ≠ 0 → key < w.keys →
          (keyBit s w key = true → Does (.wlins sw list a b) s fun t => Accepted s t ∧
            readReg t s.cur a.val = 0 ∧ (getList t cl list.val) = w ∧
            tget 0 (getCluster t cl).cnt (0x510 + 32 * list.val) = tget 0 (getCluster s cl).cnt (0x510 + 32 * list.val) + 1) ∧
          (keyBit s w key = false → (keyPa w key).1 ∉ regBytes s s.cur a.val → Does (.wlins sw list a b) s fun t =>
            Accepted s t ∧ readReg t s.cur a.val = (if a.val = 0 then 0 else 1) ∧
            (getList t cl list.val).items = w.items ++ [(rg s b, false)] ∧ (getList t cl list.val).tail = w.tail + 1 ∧
            (w.items.length < 512 → keyBit t w key = true)))) ∧
      (w.cap ≤ w.items.length → exec (.wlpush sw list b) s = .next (raise s (listFull list.val w)) ∧
        (w.bitmap ≠ 0 → key < w.keys → exec (.wlins sw list a b) s = .next (raise s (listFull list.val w))))) ∧
    (w.items ≠ [] → w.poppers = [] → itemsPoison s s.cur cl list.val (nm1.val + 1) = none → Ordinary s → a.val + nm1.val + 1 ≤ 31 →
      Does (.wlpopb sw list a nm1 l) s fun t => Accepted s t ∧
        (getList t cl list.val).items = w.items.drop (nm1.val + 1) ∧
        (∀ k, k < min w.items.length (nm1.val + 1) → readReg t s.cur (a.val + 1 + k) = (w.items.getD k (0, false)).1) ∧
        readReg t s.cur a.val = (if a.val = 0 then 0 else wd (min w.items.length (nm1.val + 1)))) ∧
    (w.items = [] ∨ w.poppers ≠ [] → Does (.wlpopb sw list a nm1 l) s fun t =>
      (getSlot t s.cur).st = .waiting (.list list.val) ∧ (getSlot t s.cur).pc = pcOf s ∧
      (getSlot t s.cur).limit = (if l.val = 31 then none else some (2 ^ (l.val + 6))) ∧
      (getList t cl list.val).poppers = w.poppers ++ [s.cur] ∧ t.mem = s.mem)

/-! Tasks, messages and waits (R182 to R196, R333 to R349). -/

/-- R45, R53, R57, R60, R62, R333 to R344: the instructions of a task. TXSUB leaves scouting, submits and gives the status
word; TXSCOUT enters the scout entry that the kernel header names; TXCHK of a covered footprint passes, and of one that
is not is a TX_FOOTPRINT, or voids a transaction whose check is owed; TXEND releases the locks, and once it has completed
goes on at once; INBOX takes a record, or waits; DONE adds the status word and unbinds the slot, ending the transaction
first if TXEND has not. Without a transaction TXSUB, TXCHK, TXEND and DONE are ACCESS_FAULT, and with one INBOX is.
What those rules leave to reading is the model's choice: log 15, 87. -/
def Obligations.TaskInstructions : Prop :=
  ∀ (s : State) (sw : Bool) (a b c : Fin 32), MayIssue s .none 0 → Fresh s →
    let h := s.cur
    let core := coreOf s.cur
    let fault := raise s (trap .accessFault 4 0)
    (boundTxn s h = none → ∀ i ∈ [Instr.txsub sw a b, .txchk sw b c, .txend sw, .done sw a], exec i s = .next fault) ∧
    (∀ t, Bound s t →
      (Passed t → Clean s [b.val] → writesPending s h = false → s.tr.keyCmd = none → Ordinary s → Does (.txsub sw a b) s fun u =>
        let s1 := modSlot s h fun x => { x with scout := false }
        let r := submit s1 ⟨some core, t.asid, privOf s h, t.tag⟩ (decide ((rg s b).toNat % 64 = 0))
          (descAt s1 ⟨some core, t.asid, privOf s h, t.tag⟩ (rg s b).toNat) 256
        Accepted s u ∧ (getSlot u h).scout = false ∧ u.ks = r.1.ks ∧ readReg u h a.val = if a.val = 0 then 0 else r.2) ∧
      (∀ es, (t.passed && t.wroteW) = false → 0 < (rg s c).toNat → (rg s c).toNat ≤ 32 → (rg s b).toNat % 16 = 0 →
        let r := readEntries s (rg s b).toNat (rg s c).toNat
        r.2 = .ok (es, none) →
        (∀ e ∈ es, entryRes e = false ∧ 0 < fld e.2 31 0 ∧ fld e.2 31 0 ≤ 0x10000000) → Clean s [b.val, c.val] →
        (firstUncovered s h (heldReqs s t) es = none →
          Does (.txchk sw b c) s fun u => Quiet s u ∧ (getSlot u h).pc = pcOf s + 4 ∧
            ∀ x ∈ u.ks.txns, x.uid = t.uid → x.passed = true ∧ x.wroteW = false) ∧
        (∀ y, firstUncovered s h (heldReqs s t) es = some y →
          (t.onBack = true ∨ t.checked = false ∨ t.gang.isSome = true →
            exec (.txchk sw b c) s = .next (raise r.1 (trap .txFootprint 0 (wd y)))) ∧
          (t.onBack = false → t.checked = true → t.gang = none → Does (.txchk sw b c) s fun u =>
            let f := es.map (regX s ⟨some core, t.asid, true, t.tag⟩)
            let ok := decide (t.restart < 4) &&
              (judge s [f] (some t.back) t.sealed (strideAt s (some core) t.asid t.entry.toNat)).isNone
            (getSlot u h).bound = none ∧ (∀ k, k ≠ h → getSlot u k = getSlot s k) ∧
            u.ks.relq = s.ks.relq ++ t.held.map (fun e => (t.num.getD 0, e.tile)) ∧
            (∀ x ∈ u.ks.txns, x.uid = t.uid → x.held = [] ∧ x.passed = false ∧ x.restart = t.restart + 1 ∧
              x.onBack = !ok ∧ x.foot = if ok then footReqs f else t.back) ∧
            (1024 ≤ s.ks.openB.length → ∃ x ∈ u.ks.txns, x.uid = t.uid ∧ x.st = .void ∧ x.num = none ∧ x.voidOf = some (t.num.getD 0)) ∧
            (s.ks.openB.length < 1023 → (∀ x ∈ s.ks.txns, x.uid ≠ t.uid → x.st ≠ .void) →
              (∃ x ∈ u.ks.txns, x.uid = t.uid ∧ x.st = .submitted ∧ x.num = none ∧ x.voidOf = some (t.num.getD 0)) ∧
              u.ks.openB = s.ks.openB ++ [.txn t.uid] ∧ u.ks.voids = s.ks.voids ++ [t.num.getD 0])))) ∧
      (t.ended = true → Does (.txend sw) s fun u => Quiet s u ∧ (getSlot u h).pc = pcOf s + 4 ∧ u.ks = s.ks) ∧
      (t.ended = false → Passed t → taskPending s h = false → Does (.txend sw) s fun u => Quiet s u ∧ Accepted s u ∧
        (∀ x ∈ u.ks.txns, x.uid = t.uid → x.ended = true) ∧
        (t.gang = none → u.ks.relq = s.ks.relq ++ t.held.map (fun r => (t.num.getD 0, r.tile)) ∧
          ∀ x ∈ u.ks.txns, x.uid = t.uid → x.held = [])) ∧
      (t.ended = false → t.checked = true → t.passed = false →
        exec (.txend sw) s = .next (raise s (trap .txCheckLate 0 0))) ∧
      (t.ended = true ∨ (Passed t ∧ Drained s) → Clean s [a.val] → taskPending s h = false → Does (.done sw a) s fun u =>
        (getSlot u h).bound = none ∧ tget 0 (getCore u core).accs t.tag = combine (tget 0 (getCore s core).accs t.tag)
          ((if bit (getSlot s h).hsw 7 then stPoisoned else 0) |||
            wd (fld (rg s a) 57 56 * 2 ^ 56 + 2 ^ 32 + fld (rg s a) 31 0)) ∧
        ∀ k, k ≠ h → getSlot u k = getSlot s k)) ∧
    (∀ (e w : List Byte), (rg s b).toNat % 64 = 0 → readUnit s ((rg s b).toNat + 8) 8 = .ok e false →
      readUnit (afterRead s ((rg s b).toNat + 8) 8) ((ofBytes e).toNat + 8) 8 = .ok w false → fld (ofBytes w) 63 32 ≠ 0 → Clean s [b.val] → Ordinary s →
      let target := ofBytes e + (BitVec.ofNat 32 (fld (ofBytes w) 63 32)).signExtend 64
      target ≠ 0 → target.toNat % 4 = 0 → Does (.txscout sw b) s fun u => (getSlot u h).pc = target ∧ (getSlot u h).scout = true ∧
        (getSlot u h).sret = pcOf s + 4 ∧ readReg u h 1 = pcOf s + 4 ∧ readReg u h 3 = rg s b ∧
        ∀ n, n < 64 → n ≠ 1 → n ≠ 3 → readReg u h n = readReg s h n) ∧
    (modeOf s h ≠ 0 → 1 ≤ a.val → a.val ≤ 24 →
      (boundTxn s h ≠ none → exec (.inbox sw a) s = .next fault) ∧
      (boundTxn s h = none → ∀ e, inboxTurn s core = none → recordFor s h = some e → e.words.length = 8 → Ordinary s →
        Does (.inbox sw a) s fun u => (getSlot u h).bound = some e.txn ∧ (getSlot u h).pc = pcOf s + 4 ∧
          (getSlot u h).asid = fld (e.words.getD 3 0) 18 9 ∧
          ∀ k, k < 8 → readReg u h (a.val + k) = e.words.getD k 0) ∧
      (boundTxn s h = none → recordFor s h = none ∨ inboxTurn s core ≠ none → Does (.inbox sw a) s fun u =>
        Quiet s u ∧ (getSlot u h).st = .waiting .inbox ∧ (getSlot u h).pc = pcOf s))

/-- R183 to R187, R191 to R194, R345 to R349: SEND takes a journal entry and goes on its way; RECV waits for its slot,
then gives its word and empties it, or traps on a format bit that differs; QPUSH appends and QPOP removes the oldest
item, or the hart stands last in the queue's waiting line; BARW and VOTE of a member note its arrival and wait, and a
hart in no gang is a domain of one.
What those rules leave to reading is the model's choice: log 13, 28, 105. -/
def Obligations.MessagesQueuesAndGangs : Prop :=
  ∀ (s : State) (sw : Bool) (a b l : Fin 32) (slot : Fin 16), Ordinary s → MayIssue s .none 0 → Fresh s →
    let h := s.cur
    let core := coreOf s.cur
    let frame := (getSlot s s.cur).wp / 512
    let w := rg s a
    let lim := if l.val = 31 then none else some (2 ^ (l.val + 6))
    ((fld w 63 53 = s.module ∧ fld w 47 37 = core) ∨ (scouting s h = false ∧ unchecked s h = false) → fld w 52 48 = 0 → fld w 36 34 = 0 → fld w 24 4 = 0 →
      fld w 33 25 ≤ 383 → Clean s [a.val, b.val] → journalRoom s h = true → Does (.send sw a b) s fun t =>
        Sent s t (span (fld w 63 53 * 2 ^ 41 + scratch0 + fld w 47 37 * 0x40000 + fld w 33 25 * 512 + 8 * (40 + fld w 3 0)) 8)
          (.send (fld w 47 37) (fld w 33 25) (fld w 3 0) (rg s b) (nanOf s h) (podHart s h))
          (fun y => ∃ e, y.dest = .journal core frame e.entry ∧ (getCore t core).journal = (getCore s core).journal ++ [e] ∧
            e.send = true ∧ e.hart = h ∧ e.frame = frame) ∧
        Quiet s t ∧ (getSlot t h).pc = pcOf s + 4) ∧
    (
      let f := readReg s h 56
      (bit f slot.val = false → Does (.recv sw a slot) s fun t =>
        Quiet s t ∧ (getSlot t h).st = .waiting (.message slot.val) ∧ (getSlot t h).pc = pcOf s) ∧
      (bit f slot.val = true → bit f (16 + slot.val) ≠ nanOf s h → exec (.recv sw a slot) s = .next (raise s
        (trap .formatMismatch 0 (wd ((if nanOf s h then 512 else 0) + (if bit f (16 + slot.val) then 256 else 0) + slot.val))))) ∧
      (bit f slot.val = true → bit f (16 + slot.val) = nanOf s h → Clean s [40 + slot.val] →
        (∀ m ∈ (getCore s core).held, m.frame = frame → m.slot ≠ slot.val) → Does (.recv sw a slot) s fun t => HartKept s t ∧
          (getSlot t h).pc = pcOf s + 4 ∧ readReg t h 56 = setBit f slot.val false ∧
          (∀ n, n < 64 → n ≠ 56 → readReg t h n = if n = a.val ∧ n ≠ 0 then readReg s h (40 + slot.val) else readReg s h n) ∧
          ∀ k, k ≠ h → getSlot t k = getSlot s k)) ∧
    (queueOk s w = true → scouting s h = false → unchecked s h = false → Clean s [a.val, b.val] → writesPending s h = false →
      let q := w.toNat
      let d := getQueue s q
      pagesHeld s d.pages = false →
      (queueLen d < d.cap → d.pushers = [] → d.poppers = [] → Does (.qpush sw a b l) s fun t => Accepted s t ∧
        (getQueue t q).tail = d.tail + 1 ∧ (getQueue t q).head = d.head ∧
        (span (ringAt d d.tail).1 8).map (memGet t.mem) = wBytes (rg s b)) ∧
      (d.cap ≤ queueLen d ∨ d.pushers ≠ [] → Does (.qpush sw a b l) s fun t => Quiet s t ∧
        (getSlot t h).st = .waiting (.queuePush q) ∧ (getSlot t h).limit = lim ∧
        (getQueue t q).pushers = d.pushers ++ [(podHart s h, rg s b, false)])) ∧
    (∀ (c : Fin 32), queueOk s w = true → Clean s [a.val] →
      let q := w.toNat
      let d := getQueue s q
      pagesHeld s d.pages = false →
      (0 < queueLen d → d.poppers = [] → d.pushers = [] → (frontItem s q).2 = false → Does (.qpop sw c a l) s fun t =>
        (getSlot t h).pc = pcOf s + 4 ∧ (getQueue t q).head = d.head + 1 ∧ (getQueue t q).tail = d.tail ∧
        ∀ n, n < 64 → readReg t h n = if n = c.val ∧ n ≠ 0 then (frontItem s q).1 else readReg s h n) ∧
      (queueLen d = 0 ∨ d.poppers ≠ [] → Does (.qpop sw c a l) s fun t => Quiet s t ∧
        (getSlot t h).st = .waiting (.queuePop q) ∧ (getSlot t h).limit = lim ∧
        (getQueue t q).poppers = d.poppers ++ [podHart s h])) ∧
    (∀ (x : Txn) (kind : BarKind) (op : VoteOp), Bound s x → writesPending s h = false → Clean s [b.val] →
      (myGang s h = none → Does (.barw sw kind l) s (fun t => Quiet s t ∧ Accepted s t) ∧
        Does (.vote sw a b op l) s (fun t => Accepted s t ∧
          ∀ n, n < 64 → readReg t h n = if n = a.val ∧ n ≠ 0 then
            (if op = .all ∨ op = .any then rg s b &&& 1 else rg s b) else readReg s h n)) ∧
      (∀ g m, myGang s h = some (g, m) →
        Does (.barw sw kind l) s (fun t => Quiet s t ∧ (getSlot t h).st = .waiting (.barrier kind) ∧
          (getSlot t h).limit = lim ∧ ∀ y ∈ t.ks.gangs, y.id = g.id → (m, kind.code) ∈ y.arr) ∧
        Does (.vote sw a b op l) s (fun t => Quiet s t ∧ (getSlot t h).st = .waiting .vote ∧
          (getSlot t h).limit = lim ∧ ∀ y ∈ t.ks.gangs, y.id = g.id → (m, op, rg s b) ∈ y.votes)))

/-! Events of harts, waits and accesses. -/

/-- R16, R17, R19, R21, R215 to R218, R223, R224, R256, R355: what happens at a hart's boundary. A result that returns is
written where it is still due, and the last one ends a park; a turn of 4,096 cycles parks the hart; the timer sets its
pending bit once; the enabled pending interrupt of lowest code is taken with its own value, in a wait on memory after
the access is cancelled; a refused journal entry, else the oldest pending fault of the frame, is taken as an asynchronous
trap; an unassigned word and a fetch fault are taken at the PC.
What those rules leave to reading is the model's choice: log 2. -/
def Obligations.HartBoundaries : Prop :=
  ∀ (s : State) (h : Nat),
    let x := getSlot s h
    (∀ (i : Nat) (o : Outst) (v : List Byte), x.outs[i]? = some o → o.val = some v → o.psn = false → o.vec = none →
      (∀ u, o.src = some u → chunkRead s u = true) → Memory.wf s.mem = true →
      (∀ e ∈ o.dest, isHbm e.1 = false) → (o.dest.map (·.1)).Nodup → x.st = .parked .results none ∨ x.st = .issuing →
      Does (.resultReturn h i) s fun t => (getSlot t h).outs = x.outs.eraseIdx i ∧
        (∀ e ∈ o.dest, memGet t.mem e.1 = v.getD e.2 0) ∧
        (∀ a, a ∉ o.dest.map (·.1) → memGet t.mem a = memGet s.mem a) ∧
        (getSlot t h).st = if x.st = .parked .results none ∧ x.outs.length = 1 then .ready else x.st) ∧
    (∀ core, coreOf h = core → x.st = .issuing → (∀ k, k ≠ h → coreOf k = core → (getSlot s k).st ≠ .issuing) →
      x.since + 4096 ≤ s.cycle → Does (.forcedPark core) s fun t =>
        (getSlot t h).st = .parked .results none ∧ t.mem = s.mem ∧ ∀ k, k ≠ h → getSlot t k = getSlot s k) ∧
    (x.timecmp.toNat ≤ s.cycle → x.timDone = false → Does (.timerInterrupt h) s fun t =>
      getSlot t h = { x with hsw := setBit x.hsw 9 true, timDone := true } ∧ t.mem = s.mem ∧
      ∀ k, k ≠ h → getSlot t k = getSlot s k) ∧
    (bit x.hsw 3 = true → bit x.hsw 4 = false →
      let P := fun (k : TrapKind) (b : Nat) => bit x.hsw b = true ∧ vectorOf s h (targetMode s h k) ≠ 0
      let E := fun (k : TrapKind) (b : Nat) (v : Word) =>
        (x.st = .issuing ∨ x.st = .ready → x.inside = false → asyncTrap s h = none →
          exec (.interruptEntry h) s = .next (takeTrap (modSlot s h fun y => { y with hsw := setBit y.hsw b false }) h
            ⟨k, 0, false, v⟩ x.pc)) ∧
        (∀ u, x.st = .waiting (.memory u) →
          ((s.flight.any fun a => a.uid = u) = true → Does (.interruptEntry h) s fun t =>
            getSlot t h = { x with cancel := true } ∧ t.flight = s.flight ∧ t.mem = s.mem) ∧
          (x.cancel = true → x.outs = [] → Does (.cancelAnswer h) s fun t =>
            (getSlot t h).pc = vectorOf s h (targetMode s h k) ∧ ∀ a ∈ t.flight, a.uid ≠ u))
      (P .wake 8 → E .wake 8 x.wakeval) ∧
      (¬ P .wake 8 → P .timer 9 → E .timer 9 x.timecmp) ∧
      (¬ P .wake 8 → ¬ P .timer 9 → P .monitor 10 → E .monitor 10 x.monword)) ∧
    (x.st = .issuing ∨ x.st = .ready → thOf s h = false →
      (∀ e, refusedEntry s h = some e → exec (.asyncTrapEntry h) s = .next (takeTrap (modPools s fun l => l.erase e) h
        ⟨.remoteStoreRefused, 0, true, journalValue e⟩ x.pc)) ∧
      (∀ l, refusedEntry s h = none → lateFor s h = some l → exec (.asyncTrapEntry h) s =
        .next (takeTrap (modCore s (coreOf h) fun c => { c with late := c.late.erase l }) h l.trap x.pc))) ∧
    (∀ (w : IWord) e, decodeWord w.toNat = .error e →
      exec (.unassignedEncoding w) s = .next (raise s (trap .illegal 0 (w.setWidth 64)))) ∧
    (∀ f : Trap, fetchWord s s.cur = .error f → exec .fetchFault s = .next (raise s f))

/-- R20, R120, R174, R188, R192 to R196: a wait whose bound passes is withdrawn and takes its timeout trap, with the
value of its kind; a barrier whose members have all arrived is released, and a vote with every contribution gives each
member the combination under the op of member 0; a probe follows the waits-for edges, is dropped and counted after 255
hops, and one that comes back to its origin sends the victim its notice, which takes DEADLOCK_VICTIM.
What those rules leave to reading is the model's choice: log 2. -/
def Obligations.WaitEvents : Prop :=
  ∀ (s : State) (h : Nat),
    let x := getSlot s h
    let d := getQueue s
    (∀ n, x.limit = some n → x.since + n ≤ s.cycle →
      let T := fun (u : State) (y : Trap) => exec (.waitBoundExpiry h) s = .next (takeTrap (withdraw u h) h y x.pc)
      let V := fun (kind id a b : Nat) => trap .queueTimeout 0
        (wd (kind * 2 ^ 60 + id % 256 * 2 ^ 48 + a % 2 ^ 24 * 2 ^ 24 + b % 2 ^ 24))
      (∀ q, x.st = .waiting (.queuePush q) ∨ x.st = .waiting (.queuePop q) →
        T (bumpKs s (0x2010 + 32 * q)) (V 1 q (d q).head.toNat (d q).tail.toNat)) ∧
      (∀ e, x.st = .waiting (.event e) → (getLine s (clusterOf (coreOf h)) e).pend ≠ 0 →
        T s (V 2 e (getLine s (clusterOf (coreOf h)) e).pend 0)) ∧
      (∀ l, x.st = .waiting (.list l) → T s (V 3 l (getList s (clusterOf (coreOf h)) l).head
        (getList s (clusterOf (coreOf h)) l).tail)) ∧
      (∀ k g m, x.st = .waiting (.barrier k) → myGang s h = some (g, m) → domainFull g m (.barrier k) = false → T s (trap .barrierTimeout 0
        (barrierValue k.code (domain g k m) ((g.arr.filter (·.2 == k.code)).map (·.1))))) ∧
      (∀ g m, x.st = .waiting .vote → myGang s h = some (g, m) → domainFull g m .vote = false → T s (trap .barrierTimeout 0
        (barrierValue 3 (domain g .rect 0) (g.votes.map (·.1))))) ∧
      ((x.st = .waiting .lease ∨ x.st = .waiting .arrayPeriod) ∧ (actCtx s (coreOf h)).lease ≠ .active ∨
          (∃ v ∈ span 0 8, x.st = .parked (.copy v) none ∧ (actTab s (coreOf h) v).st = .expected) →
        exec (.leaseTimeout h) s = .next (takeTrap (modSlot (withdraw s h) h fun y => { y with limit := none }) h
          (trap .leaseTimeout 0 (arrHold (getCluster s (clusterOf (coreOf h))).arr)) x.pc))) ∧
    (∀ (g : Gang) (k : BarKind) (m : Nat), s.ks.gangs.find? (·.id == g.id) = some g → domain g k m ≠ [] →
      (∀ j ∈ domain g k m, (j, k.code) ∈ g.arr) → exec (.barrierRelease g.id k m) s =
        .next ((domain g k m).foldl (fun u j => releaseMember u g j) (modGang s g.id fun y =>
          { y with arr := y.arr.filter fun e => !(e.2 = k.code && (domain g k m).contains e.1) }))) ∧
    (∀ (g : Gang) (op : VoteOp) (v : Word), s.ks.gangs.find? (·.id == g.id) = some g → g.votes.find? (·.1 == 0) = some (0, op, v) →
      (∀ j ∈ domain g .rect 0, ∃ y ∈ g.votes, y.1 = j) → exec (.voteResult g.id) s =
        .next ((domain g .rect 0).foldl (fun u j =>
          match memberHart u g j with
          | none => u
          | some k => releaseMember (writeReg u k ((getSlot u k).latch.getD 1 0).toNat
              (combineVotes op (g.votes.map (·.2.2))) false) g j) (modGang s g.id fun y => { y with votes := [] }))) ∧
    (∀ (g : Gang) (m : Nat), memberHart s g m = some h → x.st = .waiting .vote →
      let t := releaseMember s g m
      (getSlot t h).pc = x.pc + 4 ∧ (getSlot t h).st = (if x.latch.getD 2 0 = 1 then .parked .results none else .ready) ∧
      t.mem = s.mem ∧ ∀ k, k ≠ h → getSlot t k = getSlot s k) ∧
    (∀ e c, edgeNow s h = some e → x.edgeAt = some c → c + 4096 ≤ s.cycle → Does (.deadlockProbe h) s fun t =>
      t.ks.probes = s.ks.probes ++ [⟨e, s.module * 8192 + h, x.epoch, 1, s.module * 8192 + h, x.epoch⟩] ∧
      (getSlot t h).edgeAt = some s.cycle ∧ t.mem = s.mem) ∧
    (∀ (i : Nat) (p : Probe), s.ks.probes[i]? = some p → p.dst = s.module * 8192 + h → h < 8192 →
      (p.dst = p.origin → p.oepoch = x.epoch → waitsStill s h = true → Does (.probeReceive i) s fun t =>
        t.ks.probes = s.ks.probes.eraseIdx i ∧ t.ks.notices = s.ks.notices ++ [⟨p.high, p.hepoch, p.hops, p.origin⟩] ∧
        t.mem = s.mem) ∧
      (∀ e, p.dst ≠ p.origin → edgeNow s h = some e → p.hops < 254 → Does (.probeReceive i) s fun t =>
        t.ks.notices = s.ks.notices ∧ t.mem = s.mem ∧ t.ks.probes = s.ks.probes.eraseIdx i ++ [{ p with
          dst := e, hops := p.hops + 1, high := max p.high p.dst
          hepoch := if p.high < p.dst then x.epoch else p.hepoch }]) ∧
      (∀ e, p.dst ≠ p.origin → edgeNow s h = some e → 254 ≤ p.hops → exec (.probeReceive i) s =
        .next (bumpKs (modKs s fun k => { k with probes := k.probes.eraseIdx i }) 0x1118))) ∧
    (∀ (i : Nat) (n : Notice) (k q : Nat), s.ks.notices[i]? = some n → n.dst = s.module * 8192 + h → h < 8192 →
      n.epoch = x.epoch → waitsStill s h = true → q < 256 → (k = 0 ∧ x.st = .waiting (.message q)) ∨
        (k = 1 ∧ (x.st = .waiting (.queuePush q) ∨ x.st = .waiting (.queuePop q))) →
      exec (.victimNotice i) s = .next (takeTrap
        (withdraw (bumpKs (modKs s fun k => { k with notices := k.notices.eraseIdx i }) 0x1110) h) h
        (trap .deadlockVictim 0 (wd (k * 2 ^ 60 + q * 2 ^ 48 + n.hops % 256 * 2 ^ 40 + n.origin % 2 ^ 24))) x.pc))

/-- R81, R83, R88, R90, R91, R183, R184, R198, R201, R204, R223, R224, R233, R262: accesses at their targets and their
answers. A plain store is performed in its order, and a load brings its bytes to the outstanding result that waits for it;
a sync access that may be performed reads and writes its word, leaves the full bit as its mode says and ends its hart's
wait, and one that may not stands in the retry list; what was turned away is sent again after 64 cycles; a message and a
remote load's reply fill their slot, or are held, or are turned away; an acknowledgement frees the journal entry, once all
its writes are acknowledged, and a refusal leaves it marked or becomes a pending fault of the frame.
What those rules leave to reading is the model's choice: log 11, 13, 69, 100. -/
def Obligations.AccessEvents : Prop :=
  ∀ (s : State) (i : Nat) (a : Access), s.flight[i]? = some a →
    let h := a.hart
    let x := getSlot s h
    let pa := a.pas.headD 0
    let gone := s.flight.filter (·.uid ≠ a.uid)
    let asSt := fun (st : AccSt) => s.flight.map fun b => if b.uid = a.uid then { b with st := st } else b
    (a.st = .flying → a.past = none → heldBack s i a = false → refusal s a = none → bankOf pa = none →
      pendBank s a.pas = none → keyHeld s a.keyed = false →
      (∀ bs pool frame entry, a.op = .store bs → a.dest = .journal pool frame entry → a.acq = none →
        (aligned a.pas = true → Does (.remoteAccessArrival i) s fun t =>
          t.mem = (putBytes s a.key (a.pas.zip bs) a.psn).mem ∧ t.slots = s.slots ∧ t.flight = asSt (.done [] false)) ∧
        (aligned a.pas = false → a.part + 1 < a.pas.length → Does (.remoteAccessArrival i) s fun t =>
          t.mem = (putBytes s a.key [(a.pas.getD a.part 0, bs.getD a.part 0)] a.psn).mem ∧ t.slots = s.slots ∧
          ∀ b ∈ t.flight, b.uid = a.uid → b.part = a.part + 1 ∧ b.st = .flying)) ∧
      (a.op = .load → a.dest = .result → a.acq = none → a.cache = false → aligned a.pas = true → Does (.remoteAccessArrival i) s fun t =>
        t.mem = s.mem ∧ (∀ k, k ≠ h → getSlot t k = getSlot s k) ∧
        (getSlot t h).outs = x.outs.map fun o => if o.src = some a.uid then { o with
          val := some (extOut o.ext (rdBytes s a.key a.pas)), psn := o.psn || anyPsn s a.pas } else o) ∧
      (∀ m v, a.op = .sync m v → m = .probe ∨ releaseHeld s i a = false →
        (syncMet m (isFull s pa) = false → retryCount s (sliceOf pa) < 4096 → Does (.syncAccessArrival i) s fun t =>
          t.mem = s.mem ∧ t.slots = s.slots ∧ t.uid = s.uid + 1 ∧ t.flight = asSt (.retry s.uid)) ∧
        (∀ d sw, syncMet m (isFull s pa) = true → a.dest = .wait d sw → d < 32 → m ≠ .probe → a.psn = false →
          anyPsn s a.pas = false → a.ext = none → a.pas.all isHbm = true → a.pas.length = 8 → a.pas.Nodup →
          Placed s h → Memory.wf s.mem = true → (∀ b ∈ s.flight, b.uid ≠ a.uid → ∀ n, b.st ≠ .retry n) →
          Does (.syncAccessArrival i) s fun t => t.flight = gone ∧
            (getSlot t h).pc = x.pc + 4 ∧ (getSlot t h).st = (if sw then .parked .results none else .ready) ∧
            isFull t pa = syncBit m (isFull s pa) ∧
            rdBytes t a.key a.pas = (match v with | some w => wBytes w | none => rdBytes s a.key a.pas) ∧
            (v = none → readReg t h d = if d = 0 then 0 else ofBytes (rdBytes s a.key a.pas))))) ∧
    (∀ c, a.st = .resend c → c + 64 ≤ s.cycle →
      let again := { s with flight := asSt .flying }
      (isSync a = true → exec (.accessResend i) s = .next again) ∧
      (isSend a = true → exec (.messageResend i) s = .next again)) ∧
    (∀ c f n v nan sender, a.st = .flying → a.op = .send c f n v nan sender → releaseHeld s i a = false →
      moduleOf pa = s.module → s.populated.contains s.module = true →
      let home := frameCore s c f
      (bit (rd64 s (framePa s home f 56)) n = false → Does (.messageArrival i) s fun t =>
        t.mem = (putMsg s home f n v nan (some sender) a.psn).mem ∧ t.flight = asSt (.done [] false)) ∧
      (bit (rd64 s (framePa s home f 56)) n = true → (getCore s home).held.length < 32 → Does (.messageArrival i) s fun t =>
        (getCore t home).held = (getCore s home).held ++ [⟨f, n, v, nan, some sender, a.psn⟩] ∧ t.mem = s.mem ∧
        t.flight = asSt (.done [] false)) ∧
      (bit (rd64 s (framePa s home f 56)) n = true → 32 ≤ (getCore s home).held.length → Does (.messageArrival i) s fun t =>
        t.mem = s.mem ∧ t.flight = asSt (.resend s.cycle))) ∧
    (∀ frame n nan, a.dest = .slot frame n nan →
      let c := frameCore s (coreOf h) frame
      (∀ val p, replyNow s a = some (val, p) →
        let w := if p then framePoisoned s c frame else s
        (∀ u, arriveMsg w c frame n (ofBytes (val.take 8)) nan none (p || a.psn) = some u →
          exec (.remoteLoadReply i) s = .next (clearReply (dropAcc u a.uid) c frame n)) ∧
        (arriveMsg w c frame n (ofBytes (val.take 8)) nan none (p || a.psn) = none →
          Does (.remoteLoadReply i) s fun t => t.mem = s.mem ∧ t.slots = s.slots ∧ t.flight = asSt (.again val p s.cycle))) ∧
      (∀ why, a.st = .refused why → a.grp = none → Does (.remoteLoadRefusal i) s fun t => t.flight = gone ∧
        (getCore t c).late = (getCore s c).late ++ [⟨frame, ⟨.accessFault, 3, true, a.va⟩, none⟩])) ∧
    (∀ pool frame entry, a.dest = .journal pool frame entry → (∀ o ∈ x.outs, o.src ≠ some a.uid) →
      (∀ val p, a.st = .done val p → noticesPending s = false → Does (.postedStoreAck i) s fun t =>
        t.mem = s.mem ∧ t.slots = s.slots ∧ t.flight = gone ∧
        ((∀ e ∈ (getCore s pool).journal, e.of a = true → e.left = 1 ∧ e.refused = none) →
          (getCore t pool).journal = (getCore s pool).journal.filter fun e => !e.of a) ∧
        ((∀ e ∈ (getCore s pool).journal, e.of a = true → 1 < e.left) →
          (getCore t pool).journal = (getCore s pool).journal.map fun e => if e.of a then { e with left := e.left - 1 } else e)) ∧
      (∀ why, a.st = .refused why → Does (.postedStoreRefusal i) s fun t =>
        t.mem = s.mem ∧ t.slots = s.slots ∧ t.flight = gone ∧
        (getCore t pool).journal = (getCore s pool).journal.map fun e =>
          if e.of a then { e with refused := some (e.refused.getD why), left := e.left - 1 } else e)) ∧
    (∀ why, a.dest = .result → a.st = .refused why → a.op = .load → a.grp = none → x.st = .issuing →
      Does (.loadRefusal i) s fun t => t.mem = s.mem ∧ t.flight = gone ∧
        (getSlot t h).outs = x.outs.filter (fun o => o.src ≠ some a.uid) ∧
        (getCore t (coreOf h)).late = (getCore s (coreOf h)).late ++
          [⟨x.wp / 512, ⟨.accessFault, 1, true, a.va⟩, none⟩])

/-- R83, R201: a cache line is gone once its time has passed, and a bank whose mode change is done has its new mode, its
storage cleared on the way into or out of cache mode.
What those rules leave to reading is the model's choice: log 89. -/
def Obligations.CacheAndBankEvents : Prop :=
  ∀ (s : State) (c i b : Nat) (l : Line),
    ((getCore s c).dcache[i]? = some l → l.filled + 4096 ≤ s.cycle → Does (.dataCacheLineExpiry c i) s fun t =>
      getCore t c = { getCore s c with dcache := (getCore s c).dcache.eraseIdx i } ∧ t.mem = s.mem ∧ t.slots = s.slots) ∧
    ((getCluster s c).ccache[i]? = some l → l.filled + 65536 ≤ s.cycle → Does (.clusterCacheLineExpiry c i) s fun t =>
      getCluster t c = { getCluster s c with ccache := (getCluster s c).ccache.eraseIdx i } ∧ t.mem = s.mem ∧
      t.slots = s.slots) ∧
    (b < 16 → bankPend s c b = true → Does (.bankModeChangeDone c b) s fun t =>
      let f := fld (getCluster s c).csbnext (4 * b + 3) (4 * b)
      bankMode t c b = f % 4 ∧ bankPend t c b = false ∧
      (∀ k, k < 16 → k ≠ b → bankMode t c k = bankMode s c k ∧ bankPend t c k = bankPend s c k) ∧
      (∀ a, memGet t.mem a = if (bankMode s c b = 1 ∨ f % 4 = 1) ∧ sramPa s c (b * 0x40000) ≤ a ∧
        a < sramPa s c (b * 0x40000) + 0x40000 then 0 else memGet s.mem a))

/-! Keystone, the abutments and the front end (R23, R24, R33 to R56). -/

/-- R23, R24, R33 to R36, R39, R46, R47, R51, R53 to R57, R190, R385: a lock request joins its tile's list, granted if
it is the first, or shared with only shared ones before it; a release leaves no entry of its number; a grant reaches its
transaction; an open batch closes 3,600 cycles after its first entry; the push pool takes its new size; a unit is
dispatched with its record to the core of least load, a gang to its first rectangle; a waiting gang reserves one; the
done tree passes its words to the root, and a launch ends when its word is posted.
What those rules leave to reading is the model's choice: log 15, 43, 45, 46, 52, 107. -/
def Obligations.LocksBatchesAndDispatch : Prop :=
  ∀ (s : State),
    (∀ ab num tile excl push rest, tget [] s.ks.chans ab = .req num tile excl push :: rest → tableSize s ab < 16384 →
      (∀ e ∈ tget [] s.ks.locks tile, e.got = true) → Does (.lockRequest ab) s fun t =>
        let l := tget [] s.ks.locks tile
        let ok := !tileGone s tile && (if excl then l.isEmpty else l.all fun e => !e.excl)
        tget [] t.ks.locks tile = l ++ [⟨num, excl, push, ok⟩] ∧ tget [] t.ks.chans ab = rest ∧
        t.ks.grants = s.ks.grants ++ (if ok then [(num, tile)] else []) ∧ t.mem = s.mem ∧ t.slots = s.slots) ∧
    (∀ i num tile, s.ks.relq[i]? = some (num, tile) → Does (.lockRelease i) s fun t =>
      t.ks.relq = s.ks.relq.eraseIdx i ∧ (∀ e ∈ tget [] t.ks.locks tile, e.num ≠ num) ∧ t.mem = s.mem ∧ t.slots = s.slots) ∧
    (∀ i num tile x r, s.ks.grants[i]? = some (num, tile) → s.ks.txns.find? (·.num == some num) = some x → x.gang = none →
      txnBy s x.uid = some x → tileGone s tile = false → keyHeld s (tilePush x tile) = false → x.foot.find? (·.tile = tile) = some r →
      Does (.grantArrival i) s fun t =>
        t.ks.grants = s.ks.grants.eraseIdx i ∧ (txnBy t x.uid).map (·.held) = some (addReq r x.held) ∧
        (txnBy t x.uid).map (·.pushBuf) = some (memSetAll ((tilePush x tile).map fun p => (p.1, rdByte s p.2 p.1)) x.pushBuf) ∧
        t.mem = s.mem ∧ t.slots = s.slots) ∧
    (s.ks.openB ≠ [] → s.ks.openAt + 3600 ≤ s.cycle → Does .batchCloseTimer s fun t =>
      (s.ks.group = none → t.ks.openB = [] ∧ t.ks.batch = s.ks.batch + 1) ∧
      (s.ks.group ≠ none → s.ks.closed.length < 4 →
        t.ks.openB = [] ∧ t.ks.closed = s.ks.closed ++ [s.ks.openB] ∧ t.mem = s.mem) ∧
      (s.ks.group ≠ none → 4 ≤ s.ks.closed.length → t = { s with ks := { s.ks with closeDue := true } })) ∧
    (∀ v, s.ks.poolNew = some v → s.ks.poolUsed = 0 → Does .pushpoolResize s fun t =>
      ksReg t 0x1138 = wd v ∧ t.ks.poolNew = none ∧ t.mem = s.mem) ∧
    (∀ stage u rest x c hd, tget [] s.ks.ready stage = u :: rest → txnBy s u = some x → x.gang = none →
      leastLoaded s ((span 0 2048).filter (openCore s stage none)) = some c → checkHeader s x.asid x.entry.toNat = .ok hd →
      pushBytes x.push ≤ hd.pstride → pushWaits s u c = false → Does (.dispatch stage) s fun t =>
        (txnBy t u).map (fun y => (y.st, y.core)) = some (.dispatched, some c) ∧
        ∃ e, (getCore t c).inbox = (getCore s c).inbox ++ [e] ∧ e.txn = u ∧ e.ent = freeEnt s c ∧
          e.words = taskRecord x hd e.ent
            (if x.push.isEmpty then 0 else window0 + 0x1000000 + hd.pbase + (c % 16 * 8 + e.ent) * hd.pstride)) ∧
    (∀ stage u g p lane, ((readyGangs s stage).findSome? fun (u, g) => (freeRect s g).map fun r => (u, g, r)) = some (u, g, p, lane) →
      (∀ m ∈ g.uids.zip (rectCores g.w g.h p), pushWaits s m.1 m.2 = false) → Does (.gangDispatch stage) s fun t => ∀ x ∈ t.ks.gangs, x.id = g.id → x.place = some p ∧ x.lane = lane ∧ x.reserved = none) ∧
    (∀ stage u g c p rest, readyGangs s stage = (u, g) :: rest → (tget [] s.ks.ready stage).head? = some u → g.since = some c →
      c + 16384 ≤ s.cycle → (∀ x ∈ s.ks.gangs, x.stage = stage → x.reserved = none) →
      ((places g.w g.h).find? fun p => (rectCores g.w g.h p).all fun c => (getCore s c).stage = stage) = some p →
      Does (.gangReservation stage) s fun t => t.mem = s.mem ∧ t.ks.txns = s.ks.txns ∧
        ∀ x ∈ t.ks.gangs, x.id = g.id → x.reserved = some p) ∧
    (∀ tag l, launchBy s tag = some l →
      (l.ended = true → l.live = 0 → l.marked = false → Does (.launchEndMarker tag) s fun t =>
        launchBy t tag = some { l with marked := true } ∧ t.mem = s.mem ∧ t.slots = s.slots) ∧
      (∀ core, l.marked = true → core < 2048 → tfind l.reports core = none →
        (∀ k ∈ treeKids core, (tfind l.reports k).isSome = true) → coreDone s tag core = true → Does (.doneTreeReport tag core) s fun t =>
          let w := (treeKids core).foldl (fun w k => combine w ((tfind l.reports k).getD 0)) (tget 0 (getCore s core).accs tag)
          (launchBy t tag).bind (fun x => tfind x.reports core) = some w ∧ t.mem = s.mem ∧ t.slots = s.slots ∧
          t.ks.posts = s.ks.posts ++ if core = 0 then [(tag, w)] else []) ∧
      (∀ w rest, s.ks.posts = (tag, w) :: rest → s.tr.quiesce = false → Does (.launchCompletion tag) s fun t =>
        (∀ x ∈ t.ks.launches, x.tag ≠ tag) ∧ (∀ x ∈ t.ks.posts, x.1 ≠ tag) ∧
        t.tr.cpOut = s.tr.cpOut ++ (match l.queue with | some q => if l.notify then [.notify q l.whr] else [] | none => [])))

/-- R10, R28 to R32, R49, R65 to R69, R207 to R209, R228 to R234, R428, R429: a marked core that is clear serves its new
stage, and a pre-empted one once its slots are FREE; a hart that is due is cut, one that a budget spares when that has run
out, and its save record frees its slot; a saved hart resumes as its record says, or ends where its record's frame is bad;
a saved gang resumes; a unit notes a cut marker and records at its last; the governor moves a core from a surplus stage to
a starved one; a window's SC operations are performed in hart order; a resident loop starts in a FREE slot; the token's
holder numbers its next batch and the others receive it in frame order; members leave, join and return.
What those rules leave to reading is the model's choice: log 47, 48, 49, 53, 59, 60, 94, 95, 104. -/
def Obligations.StagesCutsAndGroups : Prop :=
  ∀ (s : State),
    (∀ core st, switchOf s core = none → (getCore s core).move = some st → clearOf s core = true →
      Does (.stageMove core) s fun t => getCore t core = { getCore s core with stage := st, move := none, openAt := s.cycle + 64 } ∧
        t.mem = s.mem ∧ t.slots = s.slots) ∧
    (∀ core e, switchOf s core = some e → (∀ h ∈ span (core * 4) 4, (getSlot s h).st = .free) →
      Does (.stageMove core) s fun t => (getCore t core).stage = e.2.1 ∧ (getCore t core).move = none ∧
        switchOf t core = none ∧ t.mem = s.mem ∧ t.slots = s.slots) ∧
    (∀ h, cutDue s h = true → cuttable s h = true → boundTxn s h ≠ none →
      (spared s h = false → Does (.hartCut h) s fun t => (getSlot t h).st = .parked .cut none) ∧
      (spared s h = true → inBudget s h = false → Does (.sealedBudgetExpiry h) s fun t => (getSlot t h).st = .parked .cut none)) ∧
    (∀ h x l p, (getSlot s h).st = .parked .cut none → (getSlot s h).outs = [] → jobsPending s h = false →
      (∀ a ∈ s.flight, a.hart ≠ h) → boundTxn s h = some x → launchBy s x.tag = some l → freePos s x.tag = some p →
      Does (.saveRecordWrite h) s fun t => (getSlot t h).st = .free ∧ (getSlot t h).bound = none ∧
        (getSlot t h).loop = (getSlot s h).loop ∧
        ∃ v, t.ks.saved = s.ks.saved ++ [v] ∧ v.hart = h ∧ v.tag = x.tag ∧ v.pos = p ∧ v.txn = some x.uid ∧
          v.wp = (getSlot s h).wp ∧ v.stage = x.stage ∧ v.words = saveWords s h (some x)) ∧
    (∀ i slot v x, s.ks.saved[i]? = some v → v.gang = none → v.ctx = none → v.txn.bind (txnBy s) = some x → slot < 4 →
      let core := coreOf v.hart
      let w := recordWords s v
      let wp := fld (w.getD 2 0) 24 16 * 512
      (getCore s core).stage = v.stage → (∀ u ∈ s.ks.saved, u.gang = none → coreOf u.hart = core → u.stage = v.stage → v.pos ≤ u.pos) →
      switchOf s core = none → (getSlot s (core * 4 + slot)).st = .free →
      (wpOk (wd wp) (fld (w.getD 2 0) 8 0) = true → Does (.hartResume i core slot) s fun t =>
        let y := getSlot t (core * 4 + slot)
        y.st = .ready ∧ y.pc = w.getD 0 0 ∧ y.hsw = hswClean (w.getD 1 0) ∧ y.wp = wp ∧ y.asid = x.asid ∧ y.bound = some x.uid ∧
        y.ktvec = rd64 s (scratchPa s core (wp + 8 * 63)) ∧ t.mem = s.mem ∧ t.ks.saved = s.ks.saved.erase v ∧
        tget 0 (getCore t core).accs x.tag = combine (tget 0 (getCore s core).accs x.tag) 0x0400000000000000) ∧
      (wpOk (wd wp) (fld (w.getD 2 0) 8 0) = false → savedBusy s v = false → x.gang = none → Does (.hartResume i core slot) s fun t =>
        t.slots = s.slots ∧ t.ks.saved = s.ks.saved.erase v ∧ ∀ u ∈ t.ks.txns, u.uid ≠ x.uid)) ∧
    (∀ g p, s.ks.gangs.find? (·.id == g.id) = some g → g.place ≠ none →
      (∃ x ∈ gangTxns s g.id, x.st ≠ .retired) →
      (∀ x ∈ gangTxns s g.id, x.st ≠ .retired → (savedOf s x.uid).isSome = true ∨ x.uid ∈ g.recs) →
      (places g.w g.h).find? (mayPlace s g) = some p → Does (.gangResume g.id p.1 p.2.1 p.2.2) s fun t =>
        ∀ x ∈ t.ks.gangs, x.id = g.id → x.place = some p ∧ x.recs = []) ∧
    (∀ c unit input, s.ks.cutSt.find? (fun c => !c.seen.contains (unit, input)) = some c → input ∈ unitInputs s unit →
      (unit = 0 ∨ 128 < unit ∨ input ≠ 0 ∨ (tget [] s.ks.chans (s.module * 128 + (unit - 1))).head? = some .marker) →
      markerSent s c unit input = true → Does (.markerArrival unit input) s fun t => t.mem = s.mem ∧ t.slots = s.slots ∧
        t.ks.cutSt.length = s.ks.cutSt.length ∧ ∃ d ∈ t.ks.cutSt, d.num = c.num ∧ d.seen = c.seen ++ [(unit, input)] ∧
          d.recs.length = c.recs.length + (if (unitInputs s unit).all fun i => (c.seen ++ [(unit, input)]).contains (unit, i) then 1 else 0)) ∧
    (∀ a b c, s.ks.governed + 512 ≤ s.cycle →
      ((span 0 16).filter fun st => fld (ksReg s (0x1000 + 8 * st)) 31 16 < stageOcc s st) = [a] →
      ((span 0 16).filter fun st => stageOcc s st < fld (ksReg s (0x1000 + 8 * st)) 15 0 &&
        fld (ksReg s (0x1000 + 8 * st)) 43 32 < stageCores s st) = [b] → spareCore s b = some c →
      Does .stageGovernorEvaluation s fun t => (getCore t c).move = some a ∧ t.ks.governed = s.cycle ∧ t.mem = s.mem ∧
        t.slots = s.slots) ∧
    (∀ o, s.ks.sc = [o] → s.ks.group = none ∨ o.scope ≠ .group → 32 * (o.cycle / 32) + 48 ≤ s.cycle →
      (o.acc = none → o.foreign = false → Does .scWindowClose s fun t => t.ks.sc = [] ∧ t.mem = s.mem ∧
        (getSlot t o.hart).outs = (getSlot s o.hart).outs.map (fillOut o.uid [] false)) ∧
      (∀ a, o.acc = some a → exec .scWindowClose s =
        .next (arrive { s with ks := { s.ks with sc := [] }, flight := s.flight ++ [a] } a))) ∧
    (∀ l : List ScOp, ((l.foldl (fun l p => insertSc p l) []).map (·.hart)).Pairwise (· ≤ ·)) ∧
    (∀ h pc wp hsw, (getSlot s h).st = .free → wpOk (wd wp) 0 = true → h < 8192 → Does (.residentLoopStart h pc wp hsw) s fun t =>
      (getSlot t h).st = .ready ∧ (getSlot t h).pc = setFld pc 1 0 0 ∧ (getSlot t h).wp = (wd wp).toNat ∧
      (getSlot t h).hsw = hswClean hsw ∧ t.mem = s.mem ∧ ∀ k, k ≠ h → getSlot t k = getSlot s k) ∧
    (∀ pos n trot b0 mods, s.ks.group = none → n ≤ 64 → pos < n → mods.length = n → mods[pos]? = some s.module → trot ≤ 400 →
      (closeBatch s).ks.batch < b0 → Does (.groupFormation pos n trot b0 mods) s fun t =>
        t.ks.group = some ⟨pos, n, trot, mods, b0, none, [], none, s.cycle, []⟩ ∧ t.ks.openB = []) ∧
    (∀ g, s.ks.group = some g →
      ((∀ c, g.heldAt = some c → c + 18 * g.trot ≤ s.cycle) → g.pos ∉ g.gone → frameNext g = (g.next, g.pos) →
        Does .tokenHold s fun t => t.ks.batch = g.next ∧ t.ks.group = some { g with
          next := g.next + 1, last := some (g.next, g.pos), heldAt := some s.cycle, heard := s.cycle
          frames := g.frames.drop 64 }) ∧
      (∀ pos batch es, pos ≠ g.pos → pos ∈ live g → es.length ≤ 1024 → frameNext g = (batch, pos) →
        Does (.manifestReceive pos batch es) s fun t => t.ks.group = some { g with last := some (batch, pos), heard := s.cycle }) ∧
      (∀ m core slot pa v, m ∈ g.mods → m ≠ s.module → Does (.groupScFrame m core slot pa v) s fun t =>
        t.mem = s.mem ∧ ∃ o, t.ks.sc = s.ks.sc ++ [o] ∧ o.hart = core % 2048 * 4 + slot % 4 ∧ o.cycle = s.cycle ∧
          o.foreign = true ∧ (o.acc.isSome = true ↔ v.isSome = true ∧ moduleOf (pa % 2 ^ 52) = s.module)) ∧
      (∀ pos, (frameNext g).2 = pos → pos ∉ g.gone → g.heard + 100 * Config.cyclesPerUs ≤ s.cycle → Does (.tokenLoss pos) s fun t =>
        t.ks.group = some { g with gone := g.gone ++ [pos], heard := s.cycle } ∧ trReg t 0x398 = trReg s 0x398 + 1 ∧ t.mem = s.mem) ∧
      (∀ pos, pos ∈ g.gone → pos ≠ g.pos → Does (.groupReform pos) s fun t =>
        t.ks.group = some { g with gone := g.gone.filter (· ≠ pos), heard := s.cycle } ∧ t.mem = s.mem))

/-! Trestle (R355, R393 to R405). -/

/-- R29, R30, R47, R68, R88, R190, R355, R396 to R404: each packet that parses is consumed and has its effect: NOP none;
CLOSE closes the open batch; WRITE stores its value, with the full bit of a put; WAKE sets a hart's pending bit and value;
REGWRITE writes a stage's threshold; CUT places a marker and closes; STAGE marks its cores; SWITCH takes at most N cores
from its stages to its others, and both complete when those serve their new stages; INDIRECT enters its buffer; WAIT
completes if its condition holds; LAUNCH starts its launch; GRAPH installs its image; and each of these blocks at its
header while its condition does not hold, its tag is in use or the intake full, its slot is busy.
What those rules leave to reading is the model's choice: log 6, 54, 108, 109. -/
def Obligations.Packets : Prop :=
  ∀ (s : State) (q f : Nat) (p : List (BitVec 32)),
    let c := getCq s q
    let D := fun (i : Instr) (typ : Nat) (P : State → Prop) => Parses s q typ f p →
      Does i s fun t => PacketDone s t q f p.length ∧ P t
    D (.nop q) 1 (fun t => t.slots = s.slots ∧ t.ks = s.ks ∧ t.flight = s.flight) ∧
    (s.ks.openB ≠ [] → s.ks.group = none → D (.close q) 3 fun t => t.ks.openB = [] ∧ t.ks.batch = s.ks.batch + 1) ∧
    (s.ks.openB ≠ [] → s.ks.group ≠ none → s.ks.closed.length < 4 → D (.close q) 3 fun t =>
      t.ks.openB = [] ∧ t.ks.closed = s.ks.closed ++ [s.ks.openB]) ∧
    (∀ pas x, JournalOff s → s.flight = [] → payOwed s q 5 = none → Memory.wf s.mem = true → xlBytes s ⟨0, cqAsid c, true⟩ (long p 1) 8 .write = .ok (pas, x) →
      moduleOf x.pa = s.module → answers s s.module = true → targetOf (offsetOf x.pa) = .hbm →
      D (.write q) 5 fun t => pas.map (memGet t.mem) = wBytes (wd (long p 3)) ∧ (pf p 0 0 0 = 1 → isFull t x.pa = true)) ∧
    D (.wake q) 7 (fun t => let h := pf p 0 12 0
      getSlot t h = { getSlot s h with hsw := setBit (getSlot s h).hsw 8 true, wakeval := wd (long p 1) } ∧
      ∀ k, k ≠ h → getSlot t k = getSlot s k) ∧
    (∀ st v, st < 16 → pf p 0 31 31 = 0 → pf p 0 13 0 = 0x200 + st → v = wd (long p 1) → fld v 15 0 ≤ fld v 31 16 →
      fld v 43 32 ≤ 2048 → fld v 63 44 = 0 → D (.regwrite q) 8 fun t => ksReg t (0x1000 + 8 * st) = v) ∧
    (s.ks.group = none → D (.cut q) 9 fun t => t.ks.openB = [] ∧ s.ks.cutSt.length < t.ks.cutSt.length) ∧
    (s.ks.group ≠ none → s.ks.closed.length < 4 → s.ks.openB.length < 1024 → D (.cut q) 9 fun t =>
      t.ks.openB = [] ∧ t.ks.closed = s.ks.closed ++ [s.ks.openB ++ [.marker (pf p 0 0 0 = 1)]]) ∧
    (payOwed s q 10 = none → Parses s q 10 f p → Does (.stage q) s fun t =>
      let late := (span (pf p 0 10 0) (pf p 1 10 0 + 1 - pf p 0 10 0)).filter fun k => (getCore t k).move.isSome
      Lasting s t q 10 f p.length late ∧
      ∀ k, pf p 0 10 0 ≤ k → k ≤ pf p 1 10 0 → switchOf s k = none → holdsGang s k = false →
        (getCore t k).move = if (getCore s k).stage = pf p 0 31 28 then none else some (pf p 0 31 28)) ∧
    (payOwed s q 11 = none → Parses s q 11 f p → Does (.switch q) s fun t =>
      ∃ l, Lasting s t q 11 f p.length (l.map (·.1)) ∧ t.ks.switching = s.ks.switching ++ l ∧ l.length ≤ pf p 1 11 0 ∧
      ∀ e ∈ l, pf p 0 31 28 ≤ (getCore s e.1).stage ∧ (getCore s e.1).stage ≤ pf p 0 27 24 ∧
        pf p 0 23 20 ≤ e.2.1 ∧ e.2.1 ≤ pf p 0 19 16) ∧
    (∀ o, s.tr.owed = [o] → o.queue = q → o.paid s = true → ∀ i ∈ [(5, Instr.write q), (10, .stage q), (11, .switch q)],
      o.typ = i.1 → exec i.2 s = .next { s with tr := { s.tr with owed := [], cpOut := s.tr.cpOut ++ [.notify q o.whr] } }) ∧
    (Parses s q 6 f p → c.stack = [] → Does (.indirect q) s fun t =>
      (getCq t q).stack = [⟨long p 1, pf p 0 23 0, c.rptr, decide (f / 2 % 2 = 1)⟩] ∧
      (getCq t q).rptr = (c.rptr + p.length + 1) % ringSize c ∧ t.tr.cpOut = s.tr.cpOut) ∧
    (JournalOff s →
      (waitHolds s c p = true → D (.wait q) 4 fun t => t.mem = s.mem ∧ t.slots = s.slots) ∧
      (waitHolds s c p = false → Parses s q 4 f p → Does (.wait q) s fun t => BlockedAt s t q ⟨4, f, packetAt c, p, false⟩) ∧
      (Parses s q 2 f p → (launchBy s (pf p 0 31 28)).isSome = true ∨ intakeFull s = true →
        Does (.launch q) s fun t => BlockedAt s t q ⟨2, f, packetAt c, p, false⟩) ∧
      (Parses s q 12 f p → ((tfind s.tr.graphs (pf p 0 31 28)).bind (·.busy)).isSome = true →
        Does (.graph q) s fun t => BlockedAt s t q ⟨12, f, packetAt c, p, false⟩) ∧
      (Parses s q 2 f p → launchBy s (pf p 0 31 28) = none → intakeFull s = false → (∀ i, i < long p 3 % 2 ^ 32 → ∃ e hd,
          peekWords s none (cqAsid c) (long p 1 + 64 * i + 8) 1 = some [e] ∧ checkHeader s (pf p 0 9 0) e.toNat = .ok hd) →
        Does (.launch q) s fun t => Consumed s t q p.length ∧ ∃ l ∈ t.ks.launches, l.tag = pf p 0 31 28 ∧ l.queue = some q ∧ l.asid = pf p 0 9 0 ∧
          l.ctx = long p 4 ∧ l.doneAt = long p 6) ∧
      (∀ n ns, readGraph s (cqAsid c) (long p 1) = some (n :: ns) → (tfind s.tr.graphs (pf p 0 31 28)).bind (·.busy) = none →
        D (.graph q) 12 fun t => tfind t.tr.graphs (pf p 0 31 28) = some ⟨n :: ns, cqAsid c, none⟩ ∧ t.mem = s.mem))

/-- R394, R398, R400 to R402, R404: a blocked WAIT is read again and completes; it gives up its thread to a runnable
queue after its slice; when every mapped queue has waited for the watchdog time and none is runnable, a deadlock is
reported; a write of QWPTR, modulo the ring, and of QWAKE sets the latch; one of QCFG that clears EN waits for the packet
boundary; a faulted queue goes on at its packet or past it; a trigger of a slot without a graph is refused, and while one
is still submitting, and one that starts gives status 0.
What those rules leave to reading is the model's choice: log 6, 54, 55, 107, 108. -/
def Obligations.QueueCommands : Prop :=
  ∀ (s : State) (q : Nat),
    let c := getCq s q
    (∀ x, c.st = .waiting → c.pend = some x → x.typ = 4 → x.begun = false → c.stack = [] → standStill s = false →
      s.tr.runlist = [] → JournalOff s →
      (waitHolds s c x.words = true → Does (.waitConditionRead q) s fun t =>
        (getCq t q).st = .mapped ∧ (getCq t q).pend = none ∧ (getCq t q).rptr = (c.rptr + x.words.length + 1) % ringSize c ∧
        t.mem = s.mem ∧ t.slots = s.slots ∧
        t.tr.cpOut = s.tr.cpOut ++ if x.flags / 2 % 2 = 1 then [.notify q x.whr] else []) ∧
      (waitHolds s c x.words = false → Does (.waitConditionRead q) s fun t => BlockedAt s t q x)) ∧
    (∀ r, c.st = .waiting → s.tr.runlist = [r] → r ≠ q → standStill s = false → c.waitAt + 180000 ≤ s.cycle →
      (∀ e ∈ s.tr.cqs, e.2.st = .waiting → c.waitAt ≤ e.2.waitAt) → Does (.waitSliceExpiry q) s fun t =>
        ((getCq t q).st = .idle ∨ (getCq t q).st = .runnable) ∧ (getCq t q).pend = c.pend.filter (·.begun) ∧
        (getCq t q).rptr = c.rptr ∧ (getCq t r).thread = c.thread ∧
        (getCq t r).st = (if (getCq s r).pend = none then .mapped else .waiting) ∧ t.mem = s.mem ∧ t.slots = s.slots) ∧
    ((s.tr.cqs.filter fun e => onThread e.2) = [(q, c)] → c.st = .waiting → s.tr.runlist = [] →
      max s.tr.watch c.waitAt + (trReg s 0x20).toNat * 1800 ≤ s.cycle → Does .waitDeadlock s fun t =>
        t.tr.cpOut = s.tr.cpOut ++ [.deadlock q] ∧ t.tr.watch = s.cycle ∧ t.slots = s.slots) ∧
    (q < 256 → s.tr.fw ≠ .recovery →
      (∀ v : Word, v.toNat < 2 ^ 32 → Does (.qwptrWrite q v) s fun t => (getCq t q).wptr = v.toNat % ringSize c ∧
        (c.st ≠ .idle → getCq t q = { c with wptr := v.toNat % ringSize c, latch := true }) ∧ t.mem = s.mem ∧ t.slots = s.slots) ∧
      (∀ v : Word, 2 ^ 32 ≤ v.toNat → Does (.qwptrWrite q v) s fun t => getCq t q = c ∧ trReg t 0x50 = trReg s 0x50 + 1 ∧
        t.mem = s.mem) ∧
      (c.st ≠ .idle → Does (.qwakeWrite q) s fun t => getCq t q = { c with latch := true } ∧ t.mem = s.mem ∧ t.slots = s.slots) ∧
      (∀ th, c.st = .idle → s.tr.runlist = [] → s.tr.quiesce = false → freeThread s = some th → Does (.qwakeWrite q) s fun t =>
        (getCq t q).st = (if c.pend = none then .mapped else .waiting) ∧ (getCq t q).thread = th ∧
        (getCq t q).latch = true ∧ (getCq t q).blocked = true ∧ t.tr.runlist = []) ∧
      (∀ v : Word, c.st = .mapped → c.pend = none → fld v 63 25 = 0 → fld v 23 21 = 0 → fld v 15 10 = 0 → 6 ≤ fld v 20 16 →
        fld v 20 16 ≤ 24 → s.tr.runlist = [] → Does (.registerWrite false .trestle (0x10008 + 64 * q) v) s fun t =>
          (getCq t q).cfg = v ∧ t.mem = s.mem) ∧
      (∀ v : Word, c.st = .waiting → c.pend ≠ none → cqOn c = true → bit v 24 = false → fld v 63 25 = 0 → fld v 23 21 = 0 →
        fld v 15 10 = 0 → 6 ≤ fld v 20 16 → fld v 20 16 ≤ 24 → s.tr.runlist = [] →
        Does (.registerWrite false .trestle (0x10008 + 64 * q) v) s fun t =>
          (getCq t q).cfg = c.cfg ∧ (getCq t q).cfgNext = some v ∧ t.mem = s.mem)) ∧
    (c.st = .faulted → c.stack = [] → s.tr.fw ≠ .recovery →
      (Does (.qfaultResume q) s fun t => (getCq t q).st ≠ .faulted ∧ (getCq t q).fault = 0 ∧ (getCq t q).rptr = c.rptr ∧
        t.mem = s.mem) ∧
      (∀ hdr, packetWord s c 0 = .ok hdr → 1 + bits hdr.toNat 8 16 ≤ ringHas c → Does (.qfaultSkip q) s fun t =>
        (getCq t q).st ≠ .faulted ∧ (getCq t q).fault = 0 ∧
        (getCq t q).rptr = (c.rptr + (1 + bits hdr.toNat 8 16)) % ringSize c ∧ t.mem = s.mem)) ∧
    (∀ v : Word, graphBusy s = true → fld v 3 0 = 0 → s.tr.fw ≠ .recovery → JournalOff s → Does (.graphTrigger v) s fun t =>
      t.tr.gstat = wd (fld v 63 60 * 2 ^ 56 + 2) ∧ t.mem = s.mem ∧ t.ks = s.ks ∧ t.slots = s.slots) ∧
    (∀ v : Word, graphBusy s = false → fld v 3 0 = 0 → s.tr.fw ≠ .recovery →
      (tfind s.tr.graphs (fld v 63 60) = none → JournalOff s → Does (.graphTrigger v) s fun t =>
        t.tr.gstat = wd (fld v 63 60 * 2 ^ 56 + 1) ∧ t.mem = s.mem ∧ t.ks = s.ks ∧ t.slots = s.slots) ∧
      (∀ g ps, tfind s.tr.graphs (fld v 63 60) = some g → launchBy s (fld v 59 56) = none →
        readPatches s g.asid (fld v 55 0) g.nodes.length = some ps → Does (.graphTrigger v) s fun t =>
          t.tr.gstat = wd (fld v 63 60 * 2 ^ 56)))

/-- R79, R83, R146, R173, R179, R181, R186, R190, R355, R394, R395, R405, R407, R414, R415, R419: the register writes that
act. MONSEND and WAKESEND set a hart's pending bit and value; TLBINV drops the translations; KEYCMD takes the key data or
zeros, which the slot then holds; FWHB ends a trial, OK only from an image that accepts the record's version; CSBMODE, FIFOCNT, EVLINE, WLREC, QREC, SGTHR, PUSHPOOL and the
counters take their writes; the Control Port reaches registers and storage, but no sealed page and none of Trestle's own
registers; in recovery none of them is served.
What those rules leave to reading is the model's choice: log 6, 7, 58, 98, 111. -/
def Obligations.RegisterWrites : Prop :=
  (∀ (s : State) (v : Word) (n m : Nat) (sp : RegSpace) (cp : Bool), s.tr.fw = .recovery → ∀ i ∈ [Instr.monsend cp v, .wakesend v,
    .tlbinvAll cp, .tlbinvAsid cp n, .tlbinvPage cp n m, .keycmdLoad cp n, .keycmdClear cp n, .fwhbOk cp, .fwhbRefuse cp,
    .csbmodeWrite n v, .fifocntWrite n m, .evlineWrite n m, .wlrecWrite n m v, .qrecWrite n v, .sgthrWrite n v, .pushpoolWrite v,
    .counterClear sp n, .registerWrite cp sp n v, .qwptrWrite n v, .qwakeWrite n, .qfaultResume n, .qfaultSkip n, .graphTrigger v,
    .controlPortWrite n [], .controlPortRead n], exec i s = .next s) ∧
  ∀ (s : State) (v : Word), s.tr.fw ≠ .recovery →
    let refused := bumpTr s 0x38
    let h := v.toNat
    (v.toNat < 8192 →
      (Does (.monsend false v) s fun t => getSlot t h = { getSlot s h with
          hsw := setBit (getSlot s h).hsw 10 true, monword := trReg s 0x80 } ∧ t.mem = s.mem ∧ ∀ k, k ≠ h → getSlot t k = getSlot s k) ∧
      (Does (.wakesend v) s fun t => getSlot t h = { getSlot s h with
          hsw := setBit (getSlot s h).hsw 8 true, wakeval := trReg s 0x90 } ∧ t.mem = s.mem ∧ ∀ k, k ≠ h → getSlot t k = getSlot s k)) ∧
    (exec (.monsend true v) s = .next refused ∧ exec (.tlbinvAll true) s = .next refused ∧
      (∀ a va, exec (.tlbinvAsid true a) s = .next refused ∧ exec (.tlbinvPage true a va) s = .next refused ∧
        exec (.keycmdLoad true a) s = .next refused ∧ exec (.keycmdClear true a) s = .next refused) ∧
      exec (.fwhbOk true) s = .next refused ∧ exec (.fwhbRefuse true) s = .next refused) ∧
    (Does (.tlbinvAll false) s fun t => (∀ c ∈ t.clusters, c.2.tlb = []) ∧ t.mem = s.mem ∧ t.slots = s.slots) ∧
    (∀ a, a < 1024 → (Does (.tlbinvAsid false a) s fun t => (∀ c ∈ t.clusters, ∀ e ∈ c.2.tlb, e.asid ≠ a) ∧ t.mem = s.mem) ∧
      ∀ va, va < 2 ^ 56 → Does (.tlbinvPage false a va) s fun t => t.mem = s.mem ∧
        ∀ c ∈ t.clusters, ∀ e ∈ c.2.tlb, e.asid = a → e.vpn ≠ va / (if e.big then 2 ^ 29 else 2 ^ 16)) ∧
    (∀ slot, 1 ≤ slot → slot ≤ 8191 → s.tr.keyCmd = none →
      (Does (.keycmdLoad false slot) s fun t => t.tr.keyCmd = some (slot, (span 0 8).map fun i => trReg s (0x118 + 8 * i)) ∧ t.mem = s.mem) ∧
      (Does (.keycmdClear false slot) s fun t => t.tr.keyCmd = some (slot, List.replicate 8 0) ∧ t.mem = s.mem)) ∧
    (∀ slot ks, s.tr.keyCmd = some (slot, ks) → (∀ a ∈ s.flight, ∀ pa, a.st ≠ .retry pa) → Does .keySlotInstalled s fun t =>
      tget [] t.tr.keys slot = ks ∧ t.tr.keyCmd = none ∧ t.mem = s.mem) ∧
    (s.tr.fw = .trial →
      (∀ hv, s.tr.handover = some hv →
        (acceptsRecord (activeImage s) hv = true → Does (.fwhbOk false) s fun t =>
          t.tr.fw = .running ∧ t.tr.active = s.tr.active ∧ t.tr.updated = true ∧ t.tr.quiesce = false) ∧
        (acceptsRecord (activeImage s) hv = false → exec (.fwhbOk false) s = .next s)) ∧
      (Does (.fwhbRefuse false) s fun t => t.tr.fw = .running ∧ t.tr.active = 1 - s.tr.active ∧ t.tr.quiesce = false) ∧
      (s.tr.trialAt + 90000000 ≤ s.cycle → Does .fwhbTimeout s fun t =>
        t.tr.fw = .running ∧ t.tr.active = 1 - s.tr.active ∧ t.tr.quiesce = false)) ∧
    (∀ cl, cl < 128 →
      ((∀ b, b < 16 → fld v (4 * b + 1) (4 * b) ≠ 3) → Does (.csbmodeWrite cl v) s fun t => (getCluster t cl).csbnext = v ∧
        ∀ b, b < 16 → bankMode t cl b = bankMode s cl b ∧ (bankPend t cl b = true ↔ bankPend s cl b = true ∨
          fld v (4 * b + 3) (4 * b) ≠ fld (getCluster s cl).csbnext (4 * b + 3) (4 * b))) ∧
      ((∃ b, b < 16 ∧ fld v (4 * b + 1) (4 * b) = 3) → Does (.csbmodeWrite cl v) s fun t =>
        (getCluster t cl).csbnext = (getCluster s cl).csbnext ∧ (getCluster t cl).csbpend = (getCluster s cl).csbpend) ∧
      (∀ b, b < 16 → Does (.fifocntWrite cl b) s fun t => fifoOf t cl b = ⟨0, 0, 0⟩ ∧ t.mem = s.mem ∧ t.slots = s.slots) ∧
      (∀ e, e < 32 → Does (.evlineWrite cl e) s fun t =>
        getLine t cl e = { getLine s cl e with err := 0, bad := none } ∧ t.mem = s.mem ∧ t.slots = s.slots) ∧
      (∀ l, l < 4 → Does (.wlrecWrite cl l v) s fun t => (getList t cl l).record = v ∧ (getList t cl l).items = [] ∧
        (v.toNat % 64 ≠ 0 → (getList t cl l).ok = false) ∧ t.mem = s.mem ∧ t.slots = s.slots)) ∧
    (∀ q, 16 ≤ q → q < 256 → (getQueue s q).pushers = [] ∨ v.toNat % 64 ≠ 0 → Does (.qrecWrite q v) s fun t =>
      (getQueue t q).record = v ∧ queueLen (getQueue t q) = 0 ∧
      (v.toNat % 64 ≠ 0 → (getQueue t q).ok = false ∧ ksReg t 0x1128 = ksReg s 0x1128 + 1) ∧ t.mem = s.mem ∧ t.slots = s.slots) ∧
    (∀ st, st < 16 → Does (.sgthrWrite st v) s fun t => t.mem = s.mem ∧
      if fld v 15 0 ≤ fld v 31 16 ∧ fld v 43 32 ≤ 2048 ∧ fld v 63 44 = 0 then ksReg t (0x1000 + 8 * st) = v
      else ksReg t (0x1000 + 8 * st) = ksReg s (0x1000 + 8 * st) ∧ ksReg t 0x1128 = ksReg s 0x1128 + 1) ∧
    (Does (.pushpoolWrite v) s fun t => t.mem = s.mem ∧
      if 1 ≤ v.toNat ∧ v.toNat ≤ 32 then (if s.ks.poolUsed = 0 then ksReg t 0x1138 = v else t.ks.poolNew = some v.toNat)
      else ksReg t 0x1138 = ksReg s 0x1138 ∧ ksReg t 0x1128 = ksReg s 0x1128 + 1) ∧
    (∀ off, (∀ n, n < 128 → clCounter off = true → Does (.counterClear (.cluster n) off) s fun t =>
        tget 0 (getCluster t n).cnt off = 0 ∧ t.mem = s.mem ∧ t.slots = s.slots) ∧
      (ksCounter off = true → Does (.counterClear .keystone off) s fun t => ksReg t off = 0 ∧ t.mem = s.mem ∧ t.slots = s.slots) ∧
      (trCounter off = true → Does (.counterClear .trestle off) s fun t => trReg t off = 0 ∧ t.mem = s.mem ∧ t.slots = s.slots)) ∧
    (∀ cp, (10000 ≤ v.toNat → v.toNat ≤ 60000000 → Does (.registerWrite cp .trestle 0x20 v) s fun t => trReg t 0x20 = v ∧ t.mem = s.mem) ∧
      (v.toNat < 10000 ∨ 60000000 < v.toNat → Does (.registerWrite cp .trestle 0x20 v) s fun t =>
        trReg t 0x20 = trReg s 0x20 ∧ trReg t 0x50 = trReg s 0x50 + 1 ∧ t.mem = s.mem)) ∧
    (∀ pa data,
      (∀ sp off, regAt s pa = some (sp, off) → data.length = 8 → off % 8 = 0 →
        exec (.controlPortWrite pa data) s = exec (.registerWrite true sp off (ofBytes data)) s) ∧
      (regAt s pa = none → (bases 65536 (span pa data.length)).any (sealedFrame s) = false → stores s (span pa data.length) = true →
        Memory.wf s.mem = true → Does (.controlPortWrite pa data) s fun t =>
          (span pa data.length).map (memGet t.mem) = data ∧ t.slots = s.slots ∧ t.tr = s.tr) ∧
      (regAt s pa = none → (bases 65536 (span pa data.length)).any (sealedFrame s) = true → JournalOff s →
        Does (.controlPortWrite pa data) s fun t => t.mem = s.mem ∧ trReg t 0x38 = trReg s 0x38 + 1) ∧
      (∀ sp off, regAt s pa = some (sp, off) → Does (.controlPortRead pa) s fun t =>
        t.tr.cpOut = s.tr.cpOut ++ [.data pa (wBytes (regRead s sp off))] ∧ t.mem = s.mem ∧ t.slots = s.slots))

/-! Firmware, links, power (R393, R416 to R433). -/

/-- R88, R393, R416 to R419, R433: an update, inside a session, enters a verified image on trial, with the hand-over record in
HBM; SVNFLOOR rises after it; reset clears memory and keeps the boot flash; a boot tries the active slot, then the other, and
else recovers; an SPDM request of its code in its order that verifies is answered and moves the responder on, any other is
answered by an error; a secured message that opens loads keys or writes the inactive slot; Trestle's turn issues one
instruction of its thread.
What those rules leave to reading is the model's choice: log 5, 10, 66, 67, 68, 110, 111, 112. -/
def Obligations.FirmwareEvents : Prop :=
  ∀ (s : State),
    (s.tr.fw = .running → s.tr.spdm = .ready → submitting s = false → Does .firmwareUpdate s fun t =>
      let img := slotImage s (1 - s.tr.active)
      let bs := Config.handoverBytes (recordContents s (hover (activeImage s)))
      if imgOk s img then t.tr.fw = .trial ∧ t.tr.active = 1 - s.tr.active ∧ t.tr.quiesce = true ∧
        t.tr.handover = some (hover (activeImage s)) ∧ t.tr.trialAt = s.cycle ∧ (∀ q, (getCq t q).st ≠ .waiting) ∧
        (Memory.wf s.mem = true → ∀ k b, bs[k]? = some b → let a := s.module * 2 ^ 41 + Config.handoverBase % 2 ^ 39 + k
          a < Config.fwBase ∨ Config.fwBase + (imgBody img).length ≤ a → memGet t.mem a = b)
      else t = s) ∧
    (s.tr.fw ≠ .running ∨ s.tr.spdm ≠ .ready → exec .firmwareUpdate s = .next s) ∧
    (∀ v, s.tr.updated = true → s.tr.fw = .running → s.tr.svn < v → v < 64 →
      exec (.svnfloorRaise v) s = .next (modTr s fun x => { x with svn := v })) ∧
    (∀ v, s.tr.updated = false ∨ s.tr.fw ≠ .running ∨ v ≤ s.tr.svn → exec (.svnfloorRaise v) s = .next s) ∧
    (Does .reset s fun t => t.mem = [] ∧ t.slots = State.reset.slots ∧ t.ks = State.reset.ks ∧ t.cycle = State.reset.cycle ∧
      t.module = s.module ∧ t.tr.flash = s.tr.flash ∧ t.tr.active = s.tr.active ∧ t.tr.svn = s.tr.svn ∧ t.tr.booted = false) ∧
    (s.tr.booted = false ∨ s.tr.fw = .recovery → Does .secureBoot s fun t => t.tr.booted = true ∧
      if imgOk s (slotImage s s.tr.active) then t.tr.fw = .running ∧ t.tr.active = s.tr.active
      else if imgOk s (slotImage s (1 - s.tr.active)) then t.tr.fw = .running ∧ t.tr.active = 1 - s.tr.active
      else t.tr.fw = .recovery ∧ t.mem = s.mem) ∧
    (∀ msg,
      let R := fun (i : Instr) (code : Nat) (inOrder : Bool) (ans : SpdmAnswer) (next : SpdmSt) (said : List Byte) =>
        (requestOf code msg = true → inOrder = true → Config.spdmAccepts msg s.tr.transcript = true → Does i s fun t =>
          t.tr.cpOut = s.tr.cpOut ++ [.answer ans] ∧ t.tr.spdm = next ∧ t.tr.transcript = said ++ msg ∧ t.mem = s.mem ∧
          t.slots = s.slots) ∧
        (requestOf code msg = false ∨ inOrder = false ∨ Config.spdmAccepts msg s.tr.transcript = false →
          exec i s = .next (cpSend s (.answer .error)))
      let ready := decide (s.tr.spdm = .algs ∨ s.tr.spdm = .session ∨ s.tr.spdm = .ready)
      let offers := (msgByte msg 8).testBit 7 && (msgByte msg 12).testBit 1
      let said := s.tr.transcript
      let sig := Config.deviceSign said msg
      R (.getVersion msg) 0x84 true (.version 1 3) .version [] ∧
      R (.getCapabilities msg) 0xE1 (decide (s.tr.spdm = .version)) (.capabilities true true true true true) .caps said ∧
      R (.negotiateAlgorithms msg) 0xE3 (decide (s.tr.spdm = .caps) && offers) (.algorithms .ecdsaP384 .sha384 .aes256Gcm) .algs said ∧
      R (.getDigests msg) 0x81 ready (.digests (BitVec.ofNat 384 (beNat (sha384 Config.deviceChain)))) s.tr.spdm said ∧
      R (.getCertificate msg) 0x82 ready (.certificate Config.deviceChain) s.tr.spdm said ∧
      R (.challenge msg) 0x83 ready (.challengeAuth sig) s.tr.spdm said ∧
      R (.getMeasurements msg) 0xE0 ready (.measurements ((measurements s).filter fun m =>
        msgByte msg 3 = 255 || m.1 = msgByte msg 3) sig) s.tr.spdm said ∧
      R (.keyExchange msg) 0xE4 ready (.keyExchange (Config.keyShare said msg) sig) .session said ∧
      R (.finish msg) 0xE5 (decide (s.tr.spdm = .session)) .finish .ready said) ∧
    (∀ key n data, openSecured s data = none → exec (.securedMessage key n data) s = .next s) ∧
    (∀ n data bs, openSecured s data = some bs →
      s.tr.spdm = .ready ∧
      gcmOpen (Config.sessionKey s.tr.secret) (beBytes 12 (Config.sessionNonce s.tr.secret ^^^ s.tr.secSeq)) [] data = some bs ∧
      (bs.length = 64 → 1 ≤ n → n ≤ 8191 → s.tr.keyCmd = none → s.tr.fw ≠ .recovery → Does (.securedMessage true n data) s fun t =>
        t.tr.keyCmd = some (n, (span 0 8).map fun i => ofBytes ((bs.drop (8 * i)).take 8)) ∧ t.tr.secSeq = s.tr.secSeq + 1 ∧
        t.mem = s.mem ∧ t.slots = s.slots) ∧
      (n + bs.length ≤ 0x1000200 → Does (.securedMessage false n data) s fun t =>
        ((slotImage t (1 - s.tr.active)).drop n).take bs.length = bs ∧ slotImage t s.tr.active = slotImage s s.tr.active ∧
        t.tr.secSeq = s.tr.secSeq + 1 ∧ t.mem = s.mem)) ∧
    (∀ k lo hi, s.tr.booted = true → s.tr.fw ≠ .recovery → s.tr.turn = k →
      let pc := (getThread s k).pc
      rvParcel s k pc = .ok lo → rvParcel s k (pc + 2) = .ok hi → lo % 4 = 3 →
      let w := hi * 65536 + lo
      w % 128 = 0x13 → bits w 12 3 = 0 → Does (.trestleInstruction k) s fun t =>
        (∀ r, r < 32 → rx t k r = if r = bits w 7 5 ∧ r ≠ 0 then rx s k (bits w 15 5) + sext 12 (bits w 20 12) else rx s k r) ∧
        (getThread t k).pc = (pc + 4) &&& (BitVec.allOnes 64 - 1) ∧ t.tr.turn = (k + 1) % 32 ∧ t.mem = s.mem ∧
        (∀ j, j ≠ k → getThread t j = getThread s j) ∧ t.slots = s.slots)

/-- R421 to R427, R430 to R432: a link trains where there is a neighbour; a good flit in sequence is taken; a bad one is counted,
kept, and asked for again by a control flit that names the last good SEQ; replays and acknowledgements drop what has arrived,
and what waits is sent; a wavelength rejoins at a named SEQ after its retraining, or is retired at its third; a failed link is
marked; the power cap and the temperature step the issue duty down and up, the time throttled is counted, and issue stops at
the trip and resumes below it.
What those rules leave to reading is the model's choice: log 5, 61, 62, 63, 65, 113. -/
def Obligations.LinksAndPower : Prop :=
  ∀ (s : State) (d st : Nat),
    let x := getStrand s d st
    let left := fun (upto : Nat) => x.held.filter fun e => seqAfter e.1 upto
    (∀ umpel, lit s d = true → Does (.linkTraining d umpel) s fun t => getLink t d = ⟨true, umpel, []⟩ ∧
      (∀ k, k ≠ d → getLink t k = getLink s k) ∧ t.mem = s.mem ∧ t.slots = s.slots) ∧
    (strandOn s d st = true → (getLink s d).umpel = false →
      (∀ f, flitGood x.expect f = true → Does (.flitReceive d st f) s fun t =>
        (getStrand t d st).expect = (x.expect + 1) % 2 ^ 32 ∧ (getStrand t d st).asked = false ∧
        (getStrand t d st).failed = x.failed.filter (·.1 ≠ x.expect) ∧
        (getStrand t d st).got = x.got ++ (if bits f.toNat 248 8 = 1 ∨ bits f.toNat 248 8 = 2 then [f] else []) ∧ t.mem = s.mem) ∧
      (∀ f, flitGood x.expect f = false →
        (x.asked = true → laterFlit x f = true → exec (.flitReceive d st f) s = .next s) ∧
        (x.asked = false ∨ laterFlit x f = false → Does (.flitReceive d st f) s fun t =>
          let y := getStrand t d st
          y.expect = x.expect ∧ y.got = x.got ∧ y.asked = true ∧
          y.failed = x.failed ++ (if laterFlit x f = true then [] else [(x.expect, f)]) ∧
          trReg t (0x300 + 8 * d) = trReg s (0x300 + 8 * d) + 1 ∧ t.mem = s.mem ∧
          (x.queue = [] → x.held.length < 512 → y.held = x.held ++
            [(x.sent, makeFlit false x.sent 3 (Config.controlPayload 1 ((x.expect + 2 ^ 32 - 1) % 2 ^ 32)))])))) ∧
    (strandOn s d st = true → (getLink s d).umpel = true →
      (∀ f, x.expect < 2 ^ 32 → x.window = [] → bits f.toNat 236 12 = x.expect % 4096 → flitGood x.expect f = true →
        Does (.flitReceive d st f) s fun t => (getStrand t d st).expect = (x.expect + 1) % 2 ^ 32 ∧
          (getStrand t d st).window = [] ∧ t.mem = s.mem) ∧
      (∀ f off, x.expect < 2 ^ 32 → 1 ≤ off → off ≤ 64 → bits f.toNat 236 12 = (x.expect + off) % 4096 →
        let q := (x.expect + off) % 2 ^ 32
        (flitGood q f = true → (∀ e ∈ x.window, e.1 ≠ x.expect ∧ e.1 ≠ q) → Does (.flitReceive d st f) s fun t =>
          (getStrand t d st).expect = x.expect ∧ (getStrand t d st).window = x.window ++ [(q, f)] ∧ t.mem = s.mem) ∧
        (flitGood q f = false → Does (.flitReceive d st f) s fun t =>
          (getStrand t d st).failed = x.failed ++ [(q, f)] ∧ (getStrand t d st).expect = x.expect ∧
          trReg t (0x300 + 8 * d) = trReg s (0x300 + 8 * d) + 1 ∧ t.mem = s.mem))) ∧
    (strandSends s d st = true → (getLink s d).umpel = false →
      (∀ good, x.queue = [] → Does (.replayRequest d st good) s fun t =>
        (getStrand t d st).held = left good ∧ t.mem = s.mem ∧
        trReg t (0x340 + 8 * d) = trReg s (0x340 + 8 * d) + wd (left good).length) ∧
      (∀ upto, x.queue = [] → Does (.flitAcknowledge d st upto) s fun t =>
        getStrand t d st = { x with held := left upto } ∧ t.mem = s.mem ∧ t.tr = s.tr) ∧
      (∀ upto ty p, x.queue = [(ty, p)] → (left upto).length < 512 → Does (.flitAcknowledge d st upto) s fun t =>
        (getStrand t d st).held = left upto ++ [(x.sent, makeFlit false x.sent ty p)] ∧ (getStrand t d st).queue = [] ∧
        (getStrand t d st).sent = (x.sent + 1) % 2 ^ 32 ∧ t.mem = s.mem)) ∧
    (strandSends s d st = true → (getLink s d).umpel = true → ∀ map q f rest, x.held = (q, f) :: rest → x.queue = [] →
      Does (.bitmapAcknowledge d st map) s fun t => t.mem = s.mem ∧
        (getStrand t d st).held = x.held.filter fun e =>
          decide (64 ≤ (e.1 + 2 ^ 32 - q) % 2 ^ 32) || !map.getLsbD ((e.1 + 2 ^ 32 - q) % 2 ^ 32)) ∧
    (∀ wl since, x.retrain.find? (·.1 == wl) = some (wl, since) → since + 360000 ≤ s.cycle →
      let before := (tget [] x.trained wl).filter fun c => s.cycle ≤ c + 3600000000 * Config.cyclesPerUs
      (before.length < 2 → Does (.retrainComplete d st wl) s fun t =>
        (getStrand t d st).retrain = x.retrain.filter (·.1 ≠ wl) ∧ (getStrand t d st).retired = x.retired ∧
        (getStrand t d st).joining = x.joining ++ [(wl, (x.expect + handBackAhead) % 2 ^ 32)] ∧
        trReg t 0x380 = trReg s 0x380 + 1 ∧ t.mem = s.mem) ∧
      (2 ≤ before.length → st < 112 → fibreRetired s d (st / 16) < 15 → Does (.retrainComplete d st wl) s fun t =>
        (getStrand t d st).retired = x.retired ++ [wl] ∧ trReg t 0x380 = trReg s 0x380 + 1 ∧
        trReg t 0x388 = wd (min 65535 ((trReg s 0x388).toNat + 1)) ∧ t.mem = s.mem)) ∧
    (∀ m dir, m < 2048 → dir ≤ 8 → (m, dir) ∉ s.fab.routes → Does (.routingTableFailedMark m dir) s fun t =>
      t.fab = { s.fab with routes := s.fab.routes ++ [(m, dir)] } ∧ t.mem = s.mem ∧ t.slots = s.slots) ∧
    (∀ watts temp inlet flow, s.fab.checked + 180000 ≤ s.cycle → Does (.powerCapCheck watts temp inlet flow) s fun t =>
      let cap := fld (trReg s 0x3A8) 15 0
      t.fab.power = watts ∧ t.fab.temp = temp ∧ t.fab.inlet = inlet ∧ t.fab.flow = flow ∧ t.fab.checked = s.cycle ∧ t.mem = s.mem ∧
      (∀ c, s.fab.throtAt = some c → trReg t 0x3B0 = trReg s 0x3B0 + wd ((s.fab.throtOdd + (s.cycle - c)) / Config.cyclesPerUs)) ∧
      (cap < watts ∨ 100 ≤ temp → 1 < s.fab.dutyArr → t.fab.dutyArr = s.fab.dutyArr - 1 ∧ t.fab.dutyAll = s.fab.dutyAll) ∧
      (watts ≤ cap → temp < 100 → watts * 100 < cap * 95 → s.fab.dutyAll < 16 → t.fab.dutyAll = s.fab.dutyAll + 1) ∧
      (watts ≤ cap → temp < 100 → cap * 95 ≤ watts * 100 → t.fab.dutyArr = s.fab.dutyArr ∧ t.fab.dutyVec = s.fab.dutyVec ∧
        t.fab.dutyAll = s.fab.dutyAll)) ∧
    (∀ temp, 100 ≤ temp → 1 < s.fab.dutyArr → s.fab.dutyArr ≤ 16 → Does (.thermalThrottle temp) s fun t =>
      t.fab.temp = temp ∧ t.fab.dutyArr = s.fab.dutyArr - 1 ∧ t.fab.dutyVec = s.fab.dutyVec ∧ t.fab.dutyAll = s.fab.dutyAll ∧
      t.fab.throtAt = some s.cycle ∧ t.mem = s.mem ∧ t.slots = s.slots) ∧
    (∀ temp, 110 ≤ temp → s.fab.stopped = false → Does (.thermalTrip temp) s fun t =>
      t.fab = { s.fab with temp := temp, stopped := true } ∧ t.tr.cpOut = s.tr.cpOut ++ [.thermal] ∧ t.slots = s.slots) ∧
    (∀ temp, temp < 90 → s.fab.stopped = true → Does (.thermalResume temp) s fun t =>
      t = { s with fab := { s.fab with temp := temp, stopped := false } })

/-! Reset, decoding and the step (R256, R353, R433). -/

/-- R78, R88, R148, R190, R199, R353, R394, R397, R405, R408, R430, R433: what reset leaves: memory reads zero, clean and full,
in canonical form; caches, TLBs, queues and units are empty; the vectors, ASID and KSADDR are 0 and TIMECMP is all ones; every
core serves stage 0; the thresholds, the pool, the watchdog and the power limit have their values; no address is translated. -/
def Obligations.ResetState : Prop :=
  let s := State.reset
  (∀ a, memGet s.mem a = 0 ∧ isPsn s a = false ∧ isFull s a = true) ∧ Memory.wf s.mem = true ∧ s.flight = [] ∧ s.cycle = 0 ∧
  (∀ h, let x := getSlot s h
    x.st = .free ∧ x.ktvec = 0 ∧ x.asid = 0 ∧ x.ksaddr = 0 ∧ x.timecmp = BitVec.allOnes 64 ∧ x.wakeval = 0 ∧ x.outs = []) ∧
  (∀ c, let x := getCore s c
    x.mtvec = 0 ∧ x.stage = 0 ∧ x.icache = [] ∧ x.dcache = [] ∧ x.inbox = [] ∧ x.journal = []) ∧
  (∀ c n, (getCluster s c).ccache = [] ∧ (getCluster s c).tlb = [] ∧ (getCluster s c).jobs = [] ∧
    (getMask s c n).prog = [] ∧ (getMask s c n).gen = 0) ∧
  s.ks.txns = [] ∧ s.ks.launches = [] ∧ s.ks.group = none ∧
  (∀ st, st < 16 → ksReg s (0x1000 + 8 * st) = 0xFFFF0000) ∧ ksReg s 0x1138 = 8 ∧
  trReg s 0x20 = 1000000 ∧ trReg s 0x3A8 = 3400 ∧ s.tr.seq = 1 ∧
  (∀ asid va, walk s asid va = .error .pageFault)

/-- R238 to R256 and the words that the manual writes out beside its instructions: each decodes to the instruction it stands
for; a word of zeros, an unassigned major and a set reserved field are no instruction. -/
def Obligations.DecodedWords : Prop :=
  (∀ e ∈ [
    ((0x0A000000 : Nat), Instr.addi false 0 0 0), (0x02321400, .add false 3 4 5), (0x18532003, .srai false 5 6 3),
    (0x0B9CFFFF, .addi false 25 25 0x7FFF), (0x23907FFC, .bne false 25 0 0x7FFC), (0x2E731401, .jtb false 7 6 5),
    (0x96600034, .lapc true 6 0x34), (0x2E0B0000, .jalr false 0 22), (0x32440008, .st false 4 8 8),
    (0x34521810, .lxb false 5 4 6 .plain), (0x34621568, .lxdRemote false 6 4 5 .take),
    (0x369215E0, .sxd false 9 4 5 .fill), (0xB84A1400, .ldm true 4 20 5 .plain),
    (0x39AA0C01, .stm false 26 20 3 .plain), (0x3A531C6B, .aadd false 5 6 7 (some (.rel, .device))),
    (0x3C00001C, .fence false .sc .group), (0x3C53003B, .ldsc false 5 6 .device),
    (0x400A1180, .vadd false ⟨0, true⟩ ⟨1, true⟩ ⟨2, false⟩ .bf16),
    (0xC20A75C0, .vfma true ⟨0, true⟩ ⟨1, true⟩ ⟨2, true⟩ ⟨3, false⟩ .fp32),
    (0x480A65E0, .vsel false ⟨0, true⟩ ⟨1, true⟩ ⟨2, true⟩ ⟨3, true⟩ .i32),
    (0x4A08118A, .vcvt false ⟨0, true⟩ ⟨1, true⟩ .bf16 .fp32),
    (0x4C0A7000, .vperm false ⟨0, false⟩ ⟨1, false⟩ ⟨2, false⟩ ⟨3, false⟩ .bf16), (0x60429800, .lease false 4 5 6),
    (0x60100004, .acswapZero false 1), (0x623425A0, .tbuild false 3 8 9 .sgn .fp32 true),
    (0x64053260, .mmt false 0 10 12 .w4 true true 0), (0x66221680, .mmd false 2 4 5 .lg6 .lg6),
    (0x68130001, .acrdWorking false 1 6), (0x6A530101, .mskcls false 1 5 6), (0x6A800213, .mskcnt false 2 8 true),
    (0x6C530000, .kvcommit false 5 6), (0x70400001, .gather false 4), (0x7071D006, .evwait false 7 3 20),
    (0x72A03232, .wlpopb false 2 10 3 12), (0x78042402, .txchk false 8 9), (0x78800004, .inbox false 8),
    (0x7A618001, .recv false 6 3), (0x7A727C03, .qpop false 7 4 31), (0x7A015004, .barw false .rect 20),
    (0x7A84C205, .vote false 8 9 .sum 16), (0x7C400312, .trap false 0x12 4), (0x7C508401, .ctlr false 5 0x021),
    (0x7C608002, .ctlw false 6 0x020), (0x7C428007, .tlbpage false 4 5), (0x7E400008, .rep 8),
    (0x7E01B800, .fmt none (some .lg6) .one false false), (0x7E82468A, .lix 0x2468A)],
    decodeWord e.1 = .ok e.2) ∧
  decodeWord 0 = .error .unassignedMajor ∧ decodeWord 0xFFFFFFFF = .error .badPrefix ∧
  decodeWord 0x5E000000 = .error .unassignedMajor ∧ decodeWord 0x78000403 = .error .reservedField ∧
  decodeWord 0x7E01C000 = .error .badType ∧ decodeWord 0x7E400000 = .error .badPrefix

/-- R238 to R256: a word that decodes does so to a well-formed instruction whose encoding is the word, so that no two words
decode alike and no bit is ignored; and a well-formed instruction that has a word is what its encoding decodes to. -/
def Obligations.EncodeDecodeAgree : Prop :=
  (∀ i : Instr, i.isWord = true → i.wf = true → decodeWord (encodeNat i) = .ok i) ∧
  (∀ (w : Nat) (i : Instr), w < 2 ^ 32 → decodeWord w = .ok i → encodeNat i = w ∧ i.isWord = true ∧ i.wf = true)

/-- R16, R18, R216, R336, R363, R373: a step runs what its agenda names, in its turn among the steps of a cycle, which puts off to
the next cycle what comes after its place; and when the agenda is empty and the turn is a core's, whose
issuing hart has nothing due at its boundary and whose PC holds the word of an instruction, the step runs that instruction
after its fetch, its bank conflicts counted, and one cycle passes; with no soft error in it, time changes no storage.
What those rules leave to reading is the model's choice: log 2, 4, 92, 93. -/
def Obligations.StepRunsDecoded : Prop :=
  ∀ (s : State),
    (∀ i rest t, s.sched.agenda = i :: rest →
      (let r := { s with sched := { s.sched with agenda := rest } }
       exec i (inTurn r (eventRank r i)) = .next t) → step s = .next (tick t)) ∧
    (∀ c rest i w u t, s.sched.agenda = [] → s.sched.turns = (c + 1) :: rest →
      let r := { settle s with sched := { (settle s).sched with turns := rest } }
      ∀ h, issuer r c = some h →
      let g := giveIssue (inTurn r (1 + c)) h
      asyncTrap g h = none → ((getSlot g h).inside = true ∨ pendingInt g h = none) → g.cycle < (getSlot g h).since + 4096 →
      (g.cycle < (getSlot g h).timecmp.toNat ∨ (getSlot g h).timDone = true) →
      fetchWord g h = .ok (w, u) → decodeWord w.toNat = .ok i → exec i (countStall u i) = .next t →
      step s = .next (tick t)) ∧
    (∀ (t : State) k, inTurn t k = if k = 0 then t else { t with
      cycle := if t.sched.phase < k ∨ (2048 < k ∧ t.sched.phase = k) then t.cycle else t.cycle + 1
      sched := { t.sched with phase := k } }) ∧
    (∀ (t : State) i, (getSlot t t.cur).inside = true ∨ bankStall t i = 0 → countStall t i = t) ∧
    (∀ t : State, (t.sched.errors = [] → (tick t).mem = t.mem ∧ (tick t).slots = t.slots ∧ (tick t).cores = t.cores) ∧
      (t.sched.stalls = [] → (tick t).cycle = t.cycle + 1))

/-- Every step keeps memory in its canonical form: addresses rise and no listed byte is zero.
The form is the model's own (log 23). -/
def Obligations.MemoryStaysCanonical : Prop :=
  ∀ (s t : State), Memory.wf s.mem = true → step s = .next t → Memory.wf t.mem = true
end

