-- ==== Sys2Proof/Laws/Crypto.lean ====
section
/-! SUPPORT. Laws of AES-256-GCM (R417): what its operations keep below 2^128, and that a text has a tag under which it opens. -/

namespace Sys2Proof.Machine

theorem gcmMul_lt (x y : Nat) (h : y < 2 ^ 128) : gcmMul x y < 2 ^ 128 := by
  unfold gcmMul
  suffices ∀ (l : List Nat) (p : Nat × Nat), p.1 < 2 ^ 128 → p.2 < 2 ^ 128 →
      (l.foldl (fun (z, v) i =>
        (if x.testBit (127 - i) then z ^^^ v else z, if v % 2 = 1 then v / 2 ^^^ 0xE1 * 2 ^ 120 else v / 2)) p).1 < 2 ^ 128 from
    this _ (0, y) (by norm_num) h
  intro l
  induction l with
  | nil => intro p h1 _; exact h1
  | cons i l ih =>
    intro p h1 h2
    refine ih _ ?_ ?_
    · dsimp only; split
      · exact Nat.xor_lt_two_pow h1 h2
      · exact h1
    · dsimp only; split
      · exact Nat.xor_lt_two_pow (by omega) (by norm_num)
      · omega

theorem gcmHash_lt (h : Nat) (aad text : List Byte) (hh : h < 2 ^ 128) : gcmHash h aad text < 2 ^ 128 := by
  unfold gcmHash
  rw [List.foldl_append]
  exact gcmMul_lt _ _ hh

/-- A big-endian number of `n` bytes is below 256^n. -/
theorem beFold_lt (l : List Byte) : ∀ n, l.foldl (fun n b => n * 256 + b.toNat) n < (n + 1) * 256 ^ l.length := by
  induction l with
  | nil => intro n; simp
  | cons b l ih =>
    intro n
    have h := b.isLt
    refine lt_of_lt_of_le (ih _) ?_
    rw [List.length_cons, pow_succ, mul_comm (256 ^ _) 256, ← mul_assoc]
    exact Nat.mul_le_mul_right _ (by dsimp only; omega)

theorem beNat_lt (l : List Byte) (h : l.length ≤ 16) : beNat l < 2 ^ 128 := by
  have := beFold_lt l 0
  have h2 : 256 ^ l.length ≤ 256 ^ 16 := Nat.pow_le_pow_right (by norm_num) h
  unfold beNat; omega

theorem beNat_beBytes (v : Nat) (h : v < 2 ^ 128) : beNat (beBytes 16 v) = v := by
  have e : beBytes 16 v = (leBytes 16 v).reverse := rfl
  rw [beNat, e, List.foldl_reverse]
  simp only [leBytes, List.foldr, BitVec.toNat_ofNat]
  omega

theorem aesEnc_length (ks : List (List Nat)) (x : List Nat) : (aesEnc ks x).length ≤ 16 := by
  simp [aesEnc, xorAll, aesShift]

/-- Whatever the key and the nonce, 64 bytes of zeros have a tag under which they open, to 64 bytes. -/
theorem gcm_opens (key nonce : List Byte) : ∃ data bs, gcmOpen key nonce [] data = some bs ∧ bs.length = 64 := by
  let text : List Byte := List.replicate 64 0
  let ks := aesKeys key
  let enc := fun (v : Nat) => beNat ((aesEnc ks ((beBytes 16 v).map BitVec.toNat)).map (BitVec.ofNat 8))
  have henc : ∀ v, enc v < 2 ^ 128 := fun v => beNat_lt _ (by simpa using aesEnc_length _ _)
  let w := enc (beNat nonce * 2 ^ 32 + 1) ^^^ gcmHash (enc 0) [] text
  have hw : w < 2 ^ 128 := Nat.xor_lt_two_pow (henc _) (gcmHash_lt _ _ _ (henc 0))
  have hl : ∀ v, (beBytes 16 v).length = 16 := fun v => by simp [beBytes, leBytes]
  have h1 : (text ++ beBytes 16 w).length - 16 = text.length := by simp [hl]
  suffices h : (gcmOpen key nonce [] (text ++ beBytes 16 w)).map List.length = some 64 by
    obtain ⟨bs, h2, h3⟩ := Option.map_eq_some_iff.1 h
    exact ⟨_, bs, h2, h3⟩
  unfold gcmOpen
  simp only [h1, List.take_left, List.drop_left, beNat_beBytes w hw]
  rw [if_neg (by simp [hl, w, enc, ks])]
  have h4 : pieces 16 (text.length / 16 + 1) text = List.replicate 4 (List.replicate 16 0) := by decide
  rw [h4]
  simp [List.range, List.range.loop, List.replicate, hl]

end Sys2Proof.Machine
end

