-- ==== Sys2Proof/Laws/State.lean ====
section
/-! SUPPORT. The small lemmas of the state's updates: what each named update leaves of every field, by `rfl`. -/

namespace Sys2Proof.Machine

/-! `modSlot`. -/

@[simp] theorem modSlot_module (s : State) (h : Nat) (f : Slot → Slot) : (modSlot s h f).module = s.module := rfl
@[simp] theorem modSlot_populated (s : State) (h : Nat) (f : Slot → Slot) : (modSlot s h f).populated = s.populated := rfl
@[simp] theorem modSlot_cycle (s : State) (h : Nat) (f : Slot → Slot) : (modSlot s h f).cycle = s.cycle := rfl
@[simp] theorem modSlot_cur (s : State) (h : Nat) (f : Slot → Slot) : (modSlot s h f).cur = s.cur := rfl
@[simp] theorem modSlot_mem (s : State) (h : Nat) (f : Slot → Slot) : (modSlot s h f).mem = s.mem := rfl
@[simp] theorem modSlot_poison (s : State) (h : Nat) (f : Slot → Slot) : (modSlot s h f).poison = s.poison := rfl
@[simp] theorem modSlot_washed (s : State) (h : Nat) (f : Slot → Slot) : (modSlot s h f).washed = s.washed := rfl
@[simp] theorem modSlot_empty (s : State) (h : Nat) (f : Slot → Slot) : (modSlot s h f).empty = s.empty := rfl
@[simp] theorem modSlot_keytag (s : State) (h : Nat) (f : Slot → Slot) : (modSlot s h f).keytag = s.keytag := rfl
@[simp] theorem modSlot_flags (s : State) (h : Nat) (f : Slot → Slot) : (modSlot s h f).flags = s.flags := rfl
@[simp] theorem modSlot_tileReads (s : State) (h : Nat) (f : Slot → Slot) : (modSlot s h f).tileReads = s.tileReads := rfl
@[simp] theorem modSlot_lrs (s : State) (h : Nat) (f : Slot → Slot) : (modSlot s h f).lrs = s.lrs := rfl
@[simp] theorem modSlot_flight (s : State) (h : Nat) (f : Slot → Slot) : (modSlot s h f).flight = s.flight := rfl
@[simp] theorem modSlot_uid (s : State) (h : Nat) (f : Slot → Slot) : (modSlot s h f).uid = s.uid := rfl
@[simp] theorem modSlot_cores (s : State) (h : Nat) (f : Slot → Slot) : (modSlot s h f).cores = s.cores := rfl
@[simp] theorem modSlot_clusters (s : State) (h : Nat) (f : Slot → Slot) : (modSlot s h f).clusters = s.clusters := rfl
@[simp] theorem modSlot_ks (s : State) (h : Nat) (f : Slot → Slot) : (modSlot s h f).ks = s.ks := rfl
@[simp] theorem modSlot_tr (s : State) (h : Nat) (f : Slot → Slot) : (modSlot s h f).tr = s.tr := rfl
@[simp] theorem modSlot_fab (s : State) (h : Nat) (f : Slot → Slot) : (modSlot s h f).fab = s.fab := rfl
@[simp] theorem modSlot_sched (s : State) (h : Nat) (f : Slot → Slot) : (modSlot s h f).sched = s.sched := rfl

/-! `modCore`. -/

@[simp] theorem modCore_module (s : State) (c : Nat) (f : Core → Core) : (modCore s c f).module = s.module := rfl
@[simp] theorem modCore_populated (s : State) (c : Nat) (f : Core → Core) : (modCore s c f).populated = s.populated := rfl
@[simp] theorem modCore_cycle (s : State) (c : Nat) (f : Core → Core) : (modCore s c f).cycle = s.cycle := rfl
@[simp] theorem modCore_cur (s : State) (c : Nat) (f : Core → Core) : (modCore s c f).cur = s.cur := rfl
@[simp] theorem modCore_mem (s : State) (c : Nat) (f : Core → Core) : (modCore s c f).mem = s.mem := rfl
@[simp] theorem modCore_poison (s : State) (c : Nat) (f : Core → Core) : (modCore s c f).poison = s.poison := rfl
@[simp] theorem modCore_washed (s : State) (c : Nat) (f : Core → Core) : (modCore s c f).washed = s.washed := rfl
@[simp] theorem modCore_empty (s : State) (c : Nat) (f : Core → Core) : (modCore s c f).empty = s.empty := rfl
@[simp] theorem modCore_keytag (s : State) (c : Nat) (f : Core → Core) : (modCore s c f).keytag = s.keytag := rfl
@[simp] theorem modCore_flags (s : State) (c : Nat) (f : Core → Core) : (modCore s c f).flags = s.flags := rfl
@[simp] theorem modCore_tileReads (s : State) (c : Nat) (f : Core → Core) : (modCore s c f).tileReads = s.tileReads := rfl
@[simp] theorem modCore_lrs (s : State) (c : Nat) (f : Core → Core) : (modCore s c f).lrs = s.lrs := rfl
@[simp] theorem modCore_flight (s : State) (c : Nat) (f : Core → Core) : (modCore s c f).flight = s.flight := rfl
@[simp] theorem modCore_uid (s : State) (c : Nat) (f : Core → Core) : (modCore s c f).uid = s.uid := rfl
@[simp] theorem modCore_slots (s : State) (c : Nat) (f : Core → Core) : (modCore s c f).slots = s.slots := rfl
@[simp] theorem modCore_clusters (s : State) (c : Nat) (f : Core → Core) : (modCore s c f).clusters = s.clusters := rfl
@[simp] theorem modCore_ks (s : State) (c : Nat) (f : Core → Core) : (modCore s c f).ks = s.ks := rfl
@[simp] theorem modCore_tr (s : State) (c : Nat) (f : Core → Core) : (modCore s c f).tr = s.tr := rfl
@[simp] theorem modCore_fab (s : State) (c : Nat) (f : Core → Core) : (modCore s c f).fab = s.fab := rfl
@[simp] theorem modCore_sched (s : State) (c : Nat) (f : Core → Core) : (modCore s c f).sched = s.sched := rfl

/-! `modCluster`. -/

@[simp] theorem modCluster_module (s : State) (c : Nat) (f : Cluster → Cluster) : (modCluster s c f).module = s.module := rfl
@[simp] theorem modCluster_populated (s : State) (c : Nat) (f : Cluster → Cluster) : (modCluster s c f).populated = s.populated := rfl
@[simp] theorem modCluster_cycle (s : State) (c : Nat) (f : Cluster → Cluster) : (modCluster s c f).cycle = s.cycle := rfl
@[simp] theorem modCluster_cur (s : State) (c : Nat) (f : Cluster → Cluster) : (modCluster s c f).cur = s.cur := rfl
@[simp] theorem modCluster_mem (s : State) (c : Nat) (f : Cluster → Cluster) : (modCluster s c f).mem = s.mem := rfl
@[simp] theorem modCluster_poison (s : State) (c : Nat) (f : Cluster → Cluster) : (modCluster s c f).poison = s.poison := rfl
@[simp] theorem modCluster_washed (s : State) (c : Nat) (f : Cluster → Cluster) : (modCluster s c f).washed = s.washed := rfl
@[simp] theorem modCluster_empty (s : State) (c : Nat) (f : Cluster → Cluster) : (modCluster s c f).empty = s.empty := rfl
@[simp] theorem modCluster_keytag (s : State) (c : Nat) (f : Cluster → Cluster) : (modCluster s c f).keytag = s.keytag := rfl
@[simp] theorem modCluster_flags (s : State) (c : Nat) (f : Cluster → Cluster) : (modCluster s c f).flags = s.flags := rfl
@[simp] theorem modCluster_tileReads (s : State) (c : Nat) (f : Cluster → Cluster) : (modCluster s c f).tileReads = s.tileReads := rfl
@[simp] theorem modCluster_lrs (s : State) (c : Nat) (f : Cluster → Cluster) : (modCluster s c f).lrs = s.lrs := rfl
@[simp] theorem modCluster_flight (s : State) (c : Nat) (f : Cluster → Cluster) : (modCluster s c f).flight = s.flight := rfl
@[simp] theorem modCluster_uid (s : State) (c : Nat) (f : Cluster → Cluster) : (modCluster s c f).uid = s.uid := rfl
@[simp] theorem modCluster_slots (s : State) (c : Nat) (f : Cluster → Cluster) : (modCluster s c f).slots = s.slots := rfl
@[simp] theorem modCluster_cores (s : State) (c : Nat) (f : Cluster → Cluster) : (modCluster s c f).cores = s.cores := rfl
@[simp] theorem modCluster_ks (s : State) (c : Nat) (f : Cluster → Cluster) : (modCluster s c f).ks = s.ks := rfl
@[simp] theorem modCluster_tr (s : State) (c : Nat) (f : Cluster → Cluster) : (modCluster s c f).tr = s.tr := rfl
@[simp] theorem modCluster_fab (s : State) (c : Nat) (f : Cluster → Cluster) : (modCluster s c f).fab = s.fab := rfl
@[simp] theorem modCluster_sched (s : State) (c : Nat) (f : Cluster → Cluster) : (modCluster s c f).sched = s.sched := rfl

/-! `modKs`. -/

@[simp] theorem modKs_module (s : State) (f : Keystone → Keystone) : (modKs s f).module = s.module := rfl
@[simp] theorem modKs_populated (s : State) (f : Keystone → Keystone) : (modKs s f).populated = s.populated := rfl
@[simp] theorem modKs_cycle (s : State) (f : Keystone → Keystone) : (modKs s f).cycle = s.cycle := rfl
@[simp] theorem modKs_cur (s : State) (f : Keystone → Keystone) : (modKs s f).cur = s.cur := rfl
@[simp] theorem modKs_mem (s : State) (f : Keystone → Keystone) : (modKs s f).mem = s.mem := rfl
@[simp] theorem modKs_poison (s : State) (f : Keystone → Keystone) : (modKs s f).poison = s.poison := rfl
@[simp] theorem modKs_washed (s : State) (f : Keystone → Keystone) : (modKs s f).washed = s.washed := rfl
@[simp] theorem modKs_empty (s : State) (f : Keystone → Keystone) : (modKs s f).empty = s.empty := rfl
@[simp] theorem modKs_keytag (s : State) (f : Keystone → Keystone) : (modKs s f).keytag = s.keytag := rfl
@[simp] theorem modKs_flags (s : State) (f : Keystone → Keystone) : (modKs s f).flags = s.flags := rfl
@[simp] theorem modKs_tileReads (s : State) (f : Keystone → Keystone) : (modKs s f).tileReads = s.tileReads := rfl
@[simp] theorem modKs_lrs (s : State) (f : Keystone → Keystone) : (modKs s f).lrs = s.lrs := rfl
@[simp] theorem modKs_flight (s : State) (f : Keystone → Keystone) : (modKs s f).flight = s.flight := rfl
@[simp] theorem modKs_uid (s : State) (f : Keystone → Keystone) : (modKs s f).uid = s.uid := rfl
@[simp] theorem modKs_slots (s : State) (f : Keystone → Keystone) : (modKs s f).slots = s.slots := rfl
@[simp] theorem modKs_cores (s : State) (f : Keystone → Keystone) : (modKs s f).cores = s.cores := rfl
@[simp] theorem modKs_clusters (s : State) (f : Keystone → Keystone) : (modKs s f).clusters = s.clusters := rfl
@[simp] theorem modKs_tr (s : State) (f : Keystone → Keystone) : (modKs s f).tr = s.tr := rfl
@[simp] theorem modKs_fab (s : State) (f : Keystone → Keystone) : (modKs s f).fab = s.fab := rfl
@[simp] theorem modKs_sched (s : State) (f : Keystone → Keystone) : (modKs s f).sched = s.sched := rfl

/-! `modTr`. -/

@[simp] theorem modTr_module (s : State) (f : Trestle → Trestle) : (modTr s f).module = s.module := rfl
@[simp] theorem modTr_populated (s : State) (f : Trestle → Trestle) : (modTr s f).populated = s.populated := rfl
@[simp] theorem modTr_cycle (s : State) (f : Trestle → Trestle) : (modTr s f).cycle = s.cycle := rfl
@[simp] theorem modTr_cur (s : State) (f : Trestle → Trestle) : (modTr s f).cur = s.cur := rfl
@[simp] theorem modTr_mem (s : State) (f : Trestle → Trestle) : (modTr s f).mem = s.mem := rfl
@[simp] theorem modTr_poison (s : State) (f : Trestle → Trestle) : (modTr s f).poison = s.poison := rfl
@[simp] theorem modTr_washed (s : State) (f : Trestle → Trestle) : (modTr s f).washed = s.washed := rfl
@[simp] theorem modTr_empty (s : State) (f : Trestle → Trestle) : (modTr s f).empty = s.empty := rfl
@[simp] theorem modTr_keytag (s : State) (f : Trestle → Trestle) : (modTr s f).keytag = s.keytag := rfl
@[simp] theorem modTr_flags (s : State) (f : Trestle → Trestle) : (modTr s f).flags = s.flags := rfl
@[simp] theorem modTr_tileReads (s : State) (f : Trestle → Trestle) : (modTr s f).tileReads = s.tileReads := rfl
@[simp] theorem modTr_lrs (s : State) (f : Trestle → Trestle) : (modTr s f).lrs = s.lrs := rfl
@[simp] theorem modTr_flight (s : State) (f : Trestle → Trestle) : (modTr s f).flight = s.flight := rfl
@[simp] theorem modTr_uid (s : State) (f : Trestle → Trestle) : (modTr s f).uid = s.uid := rfl
@[simp] theorem modTr_slots (s : State) (f : Trestle → Trestle) : (modTr s f).slots = s.slots := rfl
@[simp] theorem modTr_cores (s : State) (f : Trestle → Trestle) : (modTr s f).cores = s.cores := rfl
@[simp] theorem modTr_clusters (s : State) (f : Trestle → Trestle) : (modTr s f).clusters = s.clusters := rfl
@[simp] theorem modTr_ks (s : State) (f : Trestle → Trestle) : (modTr s f).ks = s.ks := rfl
@[simp] theorem modTr_fab (s : State) (f : Trestle → Trestle) : (modTr s f).fab = s.fab := rfl
@[simp] theorem modTr_sched (s : State) (f : Trestle → Trestle) : (modTr s f).sched = s.sched := rfl

@[simp] theorem modKs_ks (s : State) (f : Keystone → Keystone) : (modKs s f).ks = f s.ks := rfl
@[simp] theorem modTr_tr (s : State) (f : Trestle → Trestle) : (modTr s f).tr = f s.tr := rfl

/-! Tables. -/

/-- Reading a table where it was written gives the value written. -/
@[simp] theorem tget_tput_self {α : Type} (d : α) (k : Nat) (v : α) (t : Tbl α) : tget d (tput k v t) k = v := by
  induction t with
  | nil => simp [tput, tget]
  | cons e t ih =>
    obtain ⟨k', v'⟩ := e
    simp only [tput]
    split
    · simp [tget]
    · split
      · simp [tget]
      · rename_i h; simp [tget, Ne.symm h, ih]

/-- Reading a table elsewhere gives what was there. -/
theorem tget_tput_ne {α : Type} (d : α) {j k : Nat} (v : α) (t : Tbl α) (h : j ≠ k) :
    tget d (tput k v t) j = tget d t j := by
  induction t with
  | nil => simp [tput, tget, Ne.symm h]
  | cons e t ih =>
    obtain ⟨k', v'⟩ := e
    simp only [tput]
    split
    · simp [tget, Ne.symm h]
    · split
      · rename_i h2; subst h2; simp [tget, Ne.symm h]
      · simp [tget, ih]

/-! Slots, cores and clusters after an update. -/

@[simp] theorem getSlot_modSlot_self (s : State) (h : Nat) (f : Slot → Slot) :
    getSlot (modSlot s h f) h = f (getSlot s h) := by simp [getSlot, modSlot]

theorem getSlot_modSlot_ne (s : State) {h k : Nat} (f : Slot → Slot) (e : k ≠ h) :
    getSlot (modSlot s h f) k = getSlot s k := by simp [getSlot, modSlot, tget_tput_ne _ _ _ e]

@[simp] theorem getCore_modCore_self (s : State) (c : Nat) (f : Core → Core) :
    getCore (modCore s c f) c = f (getCore s c) := by simp [getCore, modCore]

theorem getCore_modCore_ne (s : State) {c k : Nat} (f : Core → Core) (e : k ≠ c) :
    getCore (modCore s c f) k = getCore s k := by simp [getCore, modCore, tget_tput_ne _ _ _ e]

@[simp] theorem getCluster_modCluster_self (s : State) (c : Nat) (f : Cluster → Cluster) :
    getCluster (modCluster s c f) c = f (getCluster s c) := by simp [getCluster, modCluster]

theorem getCluster_modCluster_ne (s : State) {c k : Nat} (f : Cluster → Cluster) (e : k ≠ c) :
    getCluster (modCluster s c f) k = getCluster s k := by simp [getCluster, modCluster, tget_tput_ne _ _ _ e]

@[simp] theorem getSlot_modCore (s : State) (c : Nat) (f : Core → Core) (h : Nat) :
    getSlot (modCore s c f) h = getSlot s h := rfl
@[simp] theorem getSlot_modCluster (s : State) (c : Nat) (f : Cluster → Cluster) (h : Nat) :
    getSlot (modCluster s c f) h = getSlot s h := rfl
@[simp] theorem getSlot_modKs (s : State) (f : Keystone → Keystone) (h : Nat) : getSlot (modKs s f) h = getSlot s h := rfl
@[simp] theorem getSlot_modTr (s : State) (f : Trestle → Trestle) (h : Nat) : getSlot (modTr s f) h = getSlot s h := rfl
@[simp] theorem getCore_modSlot (s : State) (h : Nat) (f : Slot → Slot) (c : Nat) :
    getCore (modSlot s h f) c = getCore s c := rfl
@[simp] theorem getCore_modCluster (s : State) (k : Nat) (f : Cluster → Cluster) (c : Nat) :
    getCore (modCluster s k f) c = getCore s c := rfl
@[simp] theorem getCore_modKs (s : State) (f : Keystone → Keystone) (c : Nat) : getCore (modKs s f) c = getCore s c := rfl
@[simp] theorem getCore_modTr (s : State) (f : Trestle → Trestle) (c : Nat) : getCore (modTr s f) c = getCore s c := rfl
@[simp] theorem getCluster_modSlot (s : State) (h : Nat) (f : Slot → Slot) (c : Nat) :
    getCluster (modSlot s h f) c = getCluster s c := rfl
@[simp] theorem getCluster_modCore (s : State) (k : Nat) (f : Core → Core) (c : Nat) :
    getCluster (modCore s k f) c = getCluster s c := rfl
@[simp] theorem getCluster_modKs (s : State) (f : Keystone → Keystone) (c : Nat) :
    getCluster (modKs s f) c = getCluster s c := rfl
@[simp] theorem getCluster_modTr (s : State) (f : Trestle → Trestle) (c : Nat) :
    getCluster (modTr s f) c = getCluster s c := rfl

end Sys2Proof.Machine
end

