-- ==== Sys2Proof/Laws/Memory.lean ====
section
/-! SUPPORT. Memory: a read after a write, writes elsewhere, and that every memory operation keeps the canonical form. -/

namespace Sys2Proof.Machine

/-- A list that is canonical above a bound is so above any smaller one. -/
theorem memWfFrom_mono {a b : Nat} {m : List Host.Cell} (h : a ≤ b) (w : memWfFrom (some b) m = true) :
    memWfFrom (some a) m = true := by
  cases m with
  | nil => rfl
  | cons e m =>
    obtain ⟨k, v⟩ := e
    simp only [memWfFrom, Bool.and_eq_true, decide_eq_true_eq] at w ⊢
    exact ⟨⟨Nat.lt_of_le_of_lt h w.1.1, w.1.2⟩, w.2⟩

/-- A canonical list above a bound is canonical. -/
theorem memWfFrom_none {a : Nat} {m : List Host.Cell} (w : memWfFrom (some a) m = true) : memWfFrom none m = true := by
  cases m with
  | nil => rfl
  | cons e m => obtain ⟨k, v⟩ := e; simp_all [memWfFrom]

/-- Below the first listed address every byte reads as an unlisted one. -/
theorem memGet_below {a : Nat} {m : List Host.Cell} (w : memWfFrom (some a) m = true) : memGet m a = unlisted := by
  induction m generalizing a with
  | nil => rfl
  | cons e m ih =>
    obtain ⟨k, v⟩ := e
    simp only [memWfFrom, Bool.and_eq_true, decide_eq_true_eq] at w
    have : k ≠ a := by omega
    simp only [memGet, this, if_false]
    exact ih (memWfFrom_mono (Nat.le_of_lt w.1.1) w.2)

/-- A byte read where it was written, in a canonical memory. -/
theorem memGet_memSet_self {m : List Host.Cell} (w : Memory.wf m = true) (a : Nat) (b : Byte) :
    memGet (memSet a b m) a = b := by
  unfold Memory.wf at w
  revert w
  generalize none = lo
  intro w
  induction m generalizing lo with
  | nil => by_cases h : b = unlisted <;> simp [memSet, memGet, h]
  | cons e m ih =>
    obtain ⟨k, c⟩ := e
    have w2 : memWfFrom (some k) m = true := by simp only [memWfFrom, Bool.and_eq_true] at w; exact w.2
    simp only [memSet]
    split
    · rename_i hlt
      split
      · rename_i hb
        have : k ≠ a := by omega
        simp only [memGet, this, if_false]
        rw [hb]; exact memGet_below (memWfFrom_mono (Nat.le_of_lt hlt) w2)
      · simp [memGet]
    · split
      · rename_i heq
        split
        · rename_i hb; subst heq; rw [hb]; exact memGet_below w2
        · simp [memGet]
      · rename_i h1 h2
        have : k ≠ a := fun h => h2 h.symm
        simp only [memGet, this, if_false]
        exact ih (some k) w2

/-- A byte read where another was written. -/
theorem memGet_memSet_ne (m : List Host.Cell) {a x : Nat} (b : Byte) (h : x ≠ a) : memGet (memSet a b m) x = memGet m x := by
  induction m with
  | nil => by_cases hb : b = unlisted <;> simp [memSet, memGet, hb, Ne.symm h]
  | cons e m ih =>
    obtain ⟨k, c⟩ := e
    simp only [memSet]
    split
    · split
      · rfl
      · simp [memGet, Ne.symm h]
    · split
      · rename_i heq; subst heq
        split <;> simp [memGet, Ne.symm h]
      · simp only [memGet, ih]

/-- Writing one byte keeps the canonical form above any bound below it. -/
theorem memWfFrom_memSet {lo : Option Nat} {m : List Host.Cell} {a : Nat} (b : Byte)
    (hl : ∀ l, lo = some l → l < a) (w : memWfFrom lo m = true) : memWfFrom lo (memSet a b m) = true := by
  induction m generalizing lo with
  | nil =>
    simp only [memSet]
    split
    · rfl
    · rename_i hb
      cases lo with
      | none => simp [memWfFrom, hb]
      | some l => simp [memWfFrom, hb, hl l rfl]
  | cons e m ih =>
    obtain ⟨k, c⟩ := e
    have w0 := w
    simp only [memWfFrom, Bool.and_eq_true] at w
    simp only [memSet]
    split
    · rename_i hlt
      split
      · exact w0
      · rename_i hb
        cases lo with
        | none => simp_all [memWfFrom]
        | some l => have := hl l rfl; simp_all [memWfFrom]
    · split
      · rename_i heq; subst heq
        split
        · cases lo with
          | none => exact memWfFrom_none w.2
          | some l => exact memWfFrom_mono (Nat.le_of_lt (hl l rfl)) w.2
        · rename_i hb
          cases lo with
          | none => simp_all [memWfFrom]
          | some l => have := hl l rfl; simp_all [memWfFrom]
      · rename_i h1 h2
        have h3 : memWfFrom (some k) (memSet a b m) = true :=
          ih (fun l hl => by cases hl; omega) w.2
        simp only [memWfFrom, Bool.and_eq_true]
        exact ⟨w.1, h3⟩

/-- Writing one byte keeps the canonical form. -/
theorem memSet_wf {m : List Host.Cell} (a : Nat) (b : Byte) (w : Memory.wf m = true) : Memory.wf (memSet a b m) = true :=
  memWfFrom_memSet b (by simp) w

/-- Writing bytes keeps the canonical form. -/
theorem memSetAll_wf (l : List (Nat × Byte)) {m : List Host.Cell} (w : Memory.wf m = true) :
    Memory.wf (memSetAll l m) = true := by
  induction l generalizing m with
  | nil => exact w
  | cons e l ih => exact ih (memSet_wf _ _ w)

/-- Bytes written leave every other address alone. -/
theorem memGet_memSetAll_ne (l : List (Nat × Byte)) (m : List Host.Cell) {x : Nat} (h : ∀ e ∈ l, e.1 ≠ x) :
    memGet (memSetAll l m) x = memGet m x := by
  induction l generalizing m with
  | nil => rfl
  | cons e l ih =>
    simp only [memSetAll]
    rw [ih _ (fun e' he => h e' (List.mem_cons_of_mem _ he)), memGet_memSet_ne _ _ (h e List.mem_cons_self).symm]

/-! Spans. -/

@[simp] theorem span_length (a n : Nat) : (span a n).length = n := by
  induction n generalizing a with
  | zero => rfl
  | succ n ih => simp [span, ih]

theorem mem_span {a n x : Nat} : x ∈ span a n ↔ a ≤ x ∧ x < a + n := by
  induction n generalizing a with
  | zero => simp [span]
  | succ n ih => simp only [span, List.mem_cons, ih]; omega

/-- Bytes written at a span are read there. -/
theorem map_memGet_memSetAll (bs : List Byte) {m : List Host.Cell} (w : Memory.wf m = true) (a : Nat) :
    (span a bs.length).map (memGet (memSetAll ((span a bs.length).zip bs) m)) = bs := by
  induction bs generalizing a m with
  | nil => rfl
  | cons b bs ih =>
    simp only [List.length_cons, span, List.zip_cons_cons, memSetAll, List.map_cons, List.cons.injEq]
    constructor
    · rw [memGet_memSetAll_ne, memGet_memSet_self w]
      intro e he
      have := (List.of_mem_zip he).1
      rw [mem_span] at this; omega
    · exact ih (memSet_wf a b w) (a + 1)

/-- Little-endian bytes give their number back (R4). -/
theorem leNat_leBytes (n v : Nat) : leNat (leBytes n v) = v % 256 ^ n := by
  induction n generalizing v with
  | zero => simp [leBytes, leNat, Nat.mod_one]
  | succ n ih =>
    rw [Nat.pow_succ', Nat.mod_mul]
    simp only [leBytes, leNat, ih, BitVec.toNat_ofNat, Nat.reducePow]

@[simp] theorem leBytes_length (n v : Nat) : (leBytes n v).length = n := by
  induction n generalizing v with
  | zero => rfl
  | succ n ih => simp [leBytes, ih]

@[simp] theorem wBytes_length (v : Word) : (wBytes v).length = 8 := by simp [wBytes]

@[simp] theorem ofBytes_wBytes (v : Word) : ofBytes (wBytes v) = v := by
  apply BitVec.eq_of_toNat_eq
  have := v.isLt
  simp only [ofBytes, wBytes, leNat_leBytes, wd, BitVec.toNat_ofNat]
  omega

/-- The memory after reset is canonical. -/
theorem reset_mem_wf : Memory.wf State.reset.mem = true := rfl

end Sys2Proof.Machine
end

