-- ==== Sys2Proof/Laws/PerInstr.lean ====
section
/-! SUPPORT. One lemma per constructor of `Instr`: the number that encodes it fits a 32-bit word (R242). -/

namespace Sys2Proof.Laws.Fits

/-- The encoding of an instruction is a word of 32 bits; a step that no word encodes has the number 0. -/
def Statement (i : Instr) : Prop := encodeNat i < 2 ^ 32

/-! What the fields of a word contribute at most. -/

theorem b2n_le : ∀ b : Bool, b2n b ≤ 1 := by decide
theorem elem_lt (t : ElemType) : t.code < 16 := by cases t <;> decide
theorem sync_lt (m : SyncMode) : m.code < 8 := by cases m <;> decide
theorem order_lt (o : Order) : o.code < 4 := by cases o <;> decide
theorem scope_lt (x : Scope) : x.code < 8 := by cases x <;> decide
theorem tblKind_lt (k : TblKind) : k.code < 4 := by cases k <;> decide
theorem srcType_lt (t : SrcType) : t.code < 4 := by cases t <;> decide
theorem form_lt (f : Form) : f.code < 8 := by cases f <;> decide
theorem mmdType_lt (t : MmdType) : t.code < 4 := by cases t <;> decide
theorem voteOp_lt (o : VoteOp) : o.code < 4 := by cases o <;> decide
theorem barKind_lt (k : BarKind) : k.code < 32 := by cases k <;> decide
theorem nmSel_lt (n : NmSel) : n.code < 4 := by cases n <;> decide
theorem optType_lt : ∀ t : Option ElemType, (optType t).1 < 2 ∧ (optType t).2 < 16
  | none => ⟨Nat.zero_lt_two, by decide⟩
  | some t => ⟨Nat.lt_succ_self 1, elem_lt t⟩

theorem atomic_lt {op : Nat} (h : op < 16) : ∀ r : Role, fnAtomic op r < 1024
  | none => by simp only [fnAtomic]; omega
  | some (o, x) => by
    have := order_lt o
    have := scope_lt x
    simp only [fnAtomic]; omega

theorem mem_lt {low : Nat} (h : low < 128) (m : SyncMode) : fnMem m low < 1024 := by
  have := sync_lt m
  simp only [fnMem]; omega

theorem zero_lt {i : Instr} (h : encodeNat i = 0) : Statement i := by
  unfold Statement
  omega

theorem fmtR_lt {mj fn d a b : Nat} (s : Bool) (hm : mj < 64) (hf : fn < 1024) (hd : d < 32) (ha : a < 32) (hb : b < 32) :
    fmtR mj fn s d a b < 2 ^ 32 := by
  have := b2n_le s
  simp only [fmtR]; omega

theorem fmtI_lt {mj d a imm : Nat} (s : Bool) (hm : mj < 64) (hd : d < 32) (hi : a * 32768 + imm < 1048576) :
    fmtI mj s d a imm < 2 ^ 32 := by
  have := b2n_le s
  have : mj ≤ 63 := Nat.le_of_lt_succ hm
  have : d ≤ 31 := Nat.le_of_lt_succ hd
  unfold fmtI
  linarith

theorem fmtJ_lt {mj off : Nat} (s : Bool) (hm : mj < 64) (ho : off < 2 ^ 25) : fmtJ mj s off < 2 ^ 32 := by
  have := b2n_le s
  simp only [fmtJ]; omega

theorem fmtV_lt {mj op : Nat} (s : Bool) (d a b c : SRef) (t : ElemType) (hm : mj < 64) (ho : op < 32) :
    fmtV mj op s d a b c t.code < 2 ^ 32 := by
  have := b2n_le s
  have := b2n_le d.inc
  have := b2n_le a.inc
  have := b2n_le b.inc
  have := b2n_le c.inc
  have := elem_lt t
  have := d.ptr.isLt
  have := a.ptr.isLt
  have := b.ptr.isLt
  have := c.ptr.isLt
  simp only [fmtV]; omega

/-! The instructions. -/

theorem add : ∀ sw d a b, Statement (.add sw d a b) := fun sw d a b => fmtR_lt sw (by decide) (by decide) d.isLt a.isLt b.isLt
theorem sub : ∀ sw d a b, Statement (.sub sw d a b) := fun sw d a b => fmtR_lt sw (by decide) (by decide) d.isLt a.isLt b.isLt
theorem and : ∀ sw d a b, Statement (.and sw d a b) := fun sw d a b => fmtR_lt sw (by decide) (by decide) d.isLt a.isLt b.isLt
theorem or : ∀ sw d a b, Statement (.or sw d a b) := fun sw d a b => fmtR_lt sw (by decide) (by decide) d.isLt a.isLt b.isLt
theorem xor : ∀ sw d a b, Statement (.xor sw d a b) := fun sw d a b => fmtR_lt sw (by decide) (by decide) d.isLt a.isLt b.isLt
theorem andn : ∀ sw d a b, Statement (.andn sw d a b) := fun sw d a b => fmtR_lt sw (by decide) (by decide) d.isLt a.isLt b.isLt
theorem addsat : ∀ sw d a b, Statement (.addsat sw d a b) := fun sw d a b => fmtR_lt sw (by decide) (by decide) d.isLt a.isLt b.isLt
theorem subsat : ∀ sw d a b, Statement (.subsat sw d a b) := fun sw d a b => fmtR_lt sw (by decide) (by decide) d.isLt a.isLt b.isLt
theorem sll : ∀ sw d a b, Statement (.sll sw d a b) := fun sw d a b => fmtR_lt sw (by decide) (by decide) d.isLt a.isLt b.isLt
theorem srl : ∀ sw d a b, Statement (.srl sw d a b) := fun sw d a b => fmtR_lt sw (by decide) (by decide) d.isLt a.isLt b.isLt
theorem sra : ∀ sw d a b, Statement (.sra sw d a b) := fun sw d a b => fmtR_lt sw (by decide) (by decide) d.isLt a.isLt b.isLt
theorem rol : ∀ sw d a b, Statement (.rol sw d a b) := fun sw d a b => fmtR_lt sw (by decide) (by decide) d.isLt a.isLt b.isLt
theorem ror : ∀ sw d a b, Statement (.ror sw d a b) := fun sw d a b => fmtR_lt sw (by decide) (by decide) d.isLt a.isLt b.isLt
theorem clz : ∀ sw d a, Statement (.clz sw d a) := fun sw d a => fmtR_lt sw (by decide) (by decide) d.isLt a.isLt (by decide)
theorem ctz : ∀ sw d a, Statement (.ctz sw d a) := fun sw d a => fmtR_lt sw (by decide) (by decide) d.isLt a.isLt (by decide)
theorem popc : ∀ sw d a, Statement (.popc sw d a) := fun sw d a => fmtR_lt sw (by decide) (by decide) d.isLt a.isLt (by decide)
theorem brev : ∀ sw d a, Statement (.brev sw d a) := fun sw d a => fmtR_lt sw (by decide) (by decide) d.isLt a.isLt (by decide)
theorem bswap : ∀ sw d a, Statement (.bswap sw d a) := fun sw d a => fmtR_lt sw (by decide) (by decide) d.isLt a.isLt (by decide)
theorem mul : ∀ sw d a b, Statement (.mul sw d a b) := fun sw d a b => fmtR_lt sw (by decide) (by decide) d.isLt a.isLt b.isLt
theorem mulh : ∀ sw d a b, Statement (.mulh sw d a b) := fun sw d a b => fmtR_lt sw (by decide) (by decide) d.isLt a.isLt b.isLt
theorem mulhn : ∀ sw d a b, Statement (.mulhn sw d a b) := fun sw d a b => fmtR_lt sw (by decide) (by decide) d.isLt a.isLt b.isLt
theorem div : ∀ sw d a b, Statement (.div sw d a b) := fun sw d a b => fmtR_lt sw (by decide) (by decide) d.isLt a.isLt b.isLt
theorem divn : ∀ sw d a b, Statement (.divn sw d a b) := fun sw d a b => fmtR_lt sw (by decide) (by decide) d.isLt a.isLt b.isLt
theorem rem : ∀ sw d a b, Statement (.rem sw d a b) := fun sw d a b => fmtR_lt sw (by decide) (by decide) d.isLt a.isLt b.isLt
theorem remn : ∀ sw d a b, Statement (.remn sw d a b) := fun sw d a b => fmtR_lt sw (by decide) (by decide) d.isLt a.isLt b.isLt
theorem slt : ∀ sw d a b, Statement (.slt sw d a b) := fun sw d a b => fmtR_lt sw (by decide) (by decide) d.isLt a.isLt b.isLt
theorem sltn : ∀ sw d a b, Statement (.sltn sw d a b) := fun sw d a b => fmtR_lt sw (by decide) (by decide) d.isLt a.isLt b.isLt
theorem seq : ∀ sw d a b, Statement (.seq sw d a b) := fun sw d a b => fmtR_lt sw (by decide) (by decide) d.isLt a.isLt b.isLt
theorem min : ∀ sw d a b, Statement (.min sw d a b) := fun sw d a b => fmtR_lt sw (by decide) (by decide) d.isLt a.isLt b.isLt
theorem max : ∀ sw d a b, Statement (.max sw d a b) := fun sw d a b => fmtR_lt sw (by decide) (by decide) d.isLt a.isLt b.isLt
theorem minn : ∀ sw d a b, Statement (.minn sw d a b) := fun sw d a b => fmtR_lt sw (by decide) (by decide) d.isLt a.isLt b.isLt
theorem maxn : ∀ sw d a b, Statement (.maxn sw d a b) := fun sw d a b => fmtR_lt sw (by decide) (by decide) d.isLt a.isLt b.isLt
theorem addi : ∀ sw d a imm, Statement (.addi sw d a imm) := fun sw d a imm => fmtI_lt sw (by decide) d.isLt (by have := a.isLt; have := imm.isLt; omega)
theorem andi : ∀ sw d a imm, Statement (.andi sw d a imm) := fun sw d a imm => fmtI_lt sw (by decide) d.isLt (by have := a.isLt; have := imm.isLt; omega)
theorem ori : ∀ sw d a imm, Statement (.ori sw d a imm) := fun sw d a imm => fmtI_lt sw (by decide) d.isLt (by have := a.isLt; have := imm.isLt; omega)
theorem xori : ∀ sw d a imm, Statement (.xori sw d a imm) := fun sw d a imm => fmtI_lt sw (by decide) d.isLt (by have := a.isLt; have := imm.isLt; omega)
theorem slti : ∀ sw d a imm, Statement (.slti sw d a imm) := fun sw d a imm => fmtI_lt sw (by decide) d.isLt (by have := a.isLt; have := imm.isLt; omega)
theorem sltin : ∀ sw d a imm, Statement (.sltin sw d a imm) := fun sw d a imm => fmtI_lt sw (by decide) d.isLt (by have := a.isLt; have := imm.isLt; omega)
theorem lapc : ∀ sw d imm, Statement (.lapc sw d imm) := fun sw d imm => fmtI_lt sw (by decide) d.isLt (by have := imm.isLt; omega)
theorem slli : ∀ sw d a n, Statement (.slli sw d a n) := fun sw d a n => fmtI_lt sw (by decide) d.isLt (by have := a.isLt; have := n.isLt; omega)
theorem srli : ∀ sw d a n, Statement (.srli sw d a n) := fun sw d a n => fmtI_lt sw (by decide) d.isLt (by have := a.isLt; have := n.isLt; omega)
theorem srai : ∀ sw d a n, Statement (.srai sw d a n) := fun sw d a n => fmtI_lt sw (by decide) d.isLt (by have := a.isLt; have := n.isLt; omega)
theorem rori : ∀ sw d a n, Statement (.rori sw d a n) := fun sw d a n => fmtI_lt sw (by decide) d.isLt (by have := a.isLt; have := n.isLt; omega)
theorem beq : ∀ sw a b off, Statement (.beq sw a b off) := fun sw a b off => fmtI_lt sw (by decide) a.isLt (by have := b.isLt; have := off.isLt; omega)
theorem bne : ∀ sw a b off, Statement (.bne sw a b off) := fun sw a b off => fmtI_lt sw (by decide) a.isLt (by have := b.isLt; have := off.isLt; omega)
theorem blt : ∀ sw a b off, Statement (.blt sw a b off) := fun sw a b off => fmtI_lt sw (by decide) a.isLt (by have := b.isLt; have := off.isLt; omega)
theorem bge : ∀ sw a b off, Statement (.bge sw a b off) := fun sw a b off => fmtI_lt sw (by decide) a.isLt (by have := b.isLt; have := off.isLt; omega)
theorem bltn : ∀ sw a b off, Statement (.bltn sw a b off) := fun sw a b off => fmtI_lt sw (by decide) a.isLt (by have := b.isLt; have := off.isLt; omega)
theorem bgen : ∀ sw a b off, Statement (.bgen sw a b off) := fun sw a b off => fmtI_lt sw (by decide) a.isLt (by have := b.isLt; have := off.isLt; omega)
theorem jal : ∀ sw off, Statement (.jal sw off) := fun sw off => fmtJ_lt sw (by decide) off.isLt
theorem jalr : ∀ sw d a, Statement (.jalr sw d a) := fun sw d a => fmtR_lt sw (by decide) (by decide) d.isLt a.isLt (by decide)
theorem jtb : ∀ sw d a b, Statement (.jtb sw d a b) := fun sw d a b => fmtR_lt sw (by decide) (by decide) d.isLt a.isLt b.isLt
theorem ld : ∀ sw d a imm, Statement (.ld sw d a imm) := fun sw d a imm => fmtI_lt sw (by decide) d.isLt (by have := a.isLt; have := imm.isLt; omega)
theorem st : ∀ sw base data imm, Statement (.st sw base data imm) := fun sw base data imm => fmtI_lt sw (by decide) base.isLt (by have := data.isLt; have := imm.isLt; omega)
theorem lxb : ∀ sw d a b m, Statement (.lxb sw d a b m) := fun sw d a b m => fmtR_lt sw (by decide) (mem_lt (by decide) m) d.isLt a.isLt b.isLt
theorem lxbn : ∀ sw d a b m, Statement (.lxbn sw d a b m) := fun sw d a b m => fmtR_lt sw (by decide) (mem_lt (by decide) m) d.isLt a.isLt b.isLt
theorem lxh : ∀ sw d a b m, Statement (.lxh sw d a b m) := fun sw d a b m => fmtR_lt sw (by decide) (mem_lt (by decide) m) d.isLt a.isLt b.isLt
theorem lxhn : ∀ sw d a b m, Statement (.lxhn sw d a b m) := fun sw d a b m => fmtR_lt sw (by decide) (mem_lt (by decide) m) d.isLt a.isLt b.isLt
theorem lxw : ∀ sw d a b m, Statement (.lxw sw d a b m) := fun sw d a b m => fmtR_lt sw (by decide) (mem_lt (by decide) m) d.isLt a.isLt b.isLt
theorem lxwn : ∀ sw d a b m, Statement (.lxwn sw d a b m) := fun sw d a b m => fmtR_lt sw (by decide) (mem_lt (by decide) m) d.isLt a.isLt b.isLt
theorem lxd : ∀ sw d a b m, Statement (.lxd sw d a b m) := fun sw d a b m => fmtR_lt sw (by decide) (mem_lt (by decide) m) d.isLt a.isLt b.isLt
theorem lxdRemote : ∀ sw slot a b m, Statement (.lxdRemote sw slot a b m) := fun sw _ a b m => fmtR_lt sw (by decide) (mem_lt (by decide) m) (by omega) a.isLt b.isLt
theorem sxb : ∀ sw d a b m, Statement (.sxb sw d a b m) := fun sw d a b m => fmtR_lt sw (by decide) (mem_lt (by decide) m) d.isLt a.isLt b.isLt
theorem sxh : ∀ sw d a b m, Statement (.sxh sw d a b m) := fun sw d a b m => fmtR_lt sw (by decide) (mem_lt (by decide) m) d.isLt a.isLt b.isLt
theorem sxw : ∀ sw d a b m, Statement (.sxw sw d a b m) := fun sw d a b m => fmtR_lt sw (by decide) (mem_lt (by decide) m) d.isLt a.isLt b.isLt
theorem sxd : ∀ sw d a b m, Statement (.sxd sw d a b m) := fun sw d a b m => fmtR_lt sw (by decide) (mem_lt (by decide) m) d.isLt a.isLt b.isLt
theorem ldm : ∀ sw a b c m, Statement (.ldm sw a b c m) := fun sw a b c m => fmtR_lt sw (by decide) (mem_lt (by decide) m) a.isLt b.isLt c.isLt
theorem stm : ∀ sw a b c m, Statement (.stm sw a b c m) := fun sw a b c m => fmtR_lt sw (by decide) (mem_lt (by decide) m) a.isLt b.isLt c.isLt
theorem aswap : ∀ sw a b c r, Statement (.aswap sw a b c r) := fun sw a b c r => fmtR_lt sw (by decide) (atomic_lt (by decide) r) a.isLt b.isLt c.isLt
theorem aadd : ∀ sw a b c r, Statement (.aadd sw a b c r) := fun sw a b c r => fmtR_lt sw (by decide) (atomic_lt (by decide) r) a.isLt b.isLt c.isLt
theorem aand : ∀ sw a b c r, Statement (.aand sw a b c r) := fun sw a b c r => fmtR_lt sw (by decide) (atomic_lt (by decide) r) a.isLt b.isLt c.isLt
theorem aor : ∀ sw a b c r, Statement (.aor sw a b c r) := fun sw a b c r => fmtR_lt sw (by decide) (atomic_lt (by decide) r) a.isLt b.isLt c.isLt
theorem axor : ∀ sw a b c r, Statement (.axor sw a b c r) := fun sw a b c r => fmtR_lt sw (by decide) (atomic_lt (by decide) r) a.isLt b.isLt c.isLt
theorem amin : ∀ sw a b c r, Statement (.amin sw a b c r) := fun sw a b c r => fmtR_lt sw (by decide) (atomic_lt (by decide) r) a.isLt b.isLt c.isLt
theorem amax : ∀ sw a b c r, Statement (.amax sw a b c r) := fun sw a b c r => fmtR_lt sw (by decide) (atomic_lt (by decide) r) a.isLt b.isLt c.isLt
theorem aminn : ∀ sw a b c r, Statement (.aminn sw a b c r) := fun sw a b c r => fmtR_lt sw (by decide) (atomic_lt (by decide) r) a.isLt b.isLt c.isLt
theorem amaxn : ∀ sw a b c r, Statement (.amaxn sw a b c r) := fun sw a b c r => fmtR_lt sw (by decide) (atomic_lt (by decide) r) a.isLt b.isLt c.isLt
theorem acas : ∀ sw a b c r, Statement (.acas sw a b c r) := fun sw a b c r => fmtR_lt sw (by decide) (atomic_lt (by decide) r) a.isLt b.isLt c.isLt
theorem fence : ∀ sw o sc, Statement (.fence sw o sc) := fun sw o sc => fmtR_lt sw (by decide) (by have := order_lt o; have := scope_lt sc; omega) (by decide) (by decide) (by decide)
theorem ldsc : ∀ sw a b sc, Statement (.ldsc sw a b sc) := fun sw a b sc => fmtR_lt sw (by decide) (by have := scope_lt sc; omega) a.isLt b.isLt (by decide)
theorem stsc : ∀ sw a b sc, Statement (.stsc sw a b sc) := fun sw a b sc => fmtR_lt sw (by decide) (by have := scope_lt sc; omega) a.isLt b.isLt (by decide)
theorem vadd : ∀ sw d a b t, Statement (.vadd sw d a b t) := fun sw d a b t => fmtV_lt sw d a b noRef t (by decide) (by decide)
theorem vsub : ∀ sw d a b t, Statement (.vsub sw d a b t) := fun sw d a b t => fmtV_lt sw d a b noRef t (by decide) (by decide)
theorem vmul : ∀ sw d a b t, Statement (.vmul sw d a b t) := fun sw d a b t => fmtV_lt sw d a b noRef t (by decide) (by decide)
theorem vdiv : ∀ sw d a b t, Statement (.vdiv sw d a b t) := fun sw d a b t => fmtV_lt sw d a b noRef t (by decide) (by decide)
theorem vmin : ∀ sw d a b t, Statement (.vmin sw d a b t) := fun sw d a b t => fmtV_lt sw d a b noRef t (by decide) (by decide)
theorem vmax : ∀ sw d a b t, Statement (.vmax sw d a b t) := fun sw d a b t => fmtV_lt sw d a b noRef t (by decide) (by decide)
theorem vabs : ∀ sw d a t, Statement (.vabs sw d a t) := fun sw d a t => fmtV_lt sw d a noRef noRef t (by decide) (by decide)
theorem vneg : ∀ sw d a t, Statement (.vneg sw d a t) := fun sw d a t => fmtV_lt sw d a noRef noRef t (by decide) (by decide)
theorem vsqrt : ∀ sw d a t, Statement (.vsqrt sw d a t) := fun sw d a t => fmtV_lt sw d a noRef noRef t (by decide) (by decide)
theorem vfma : ∀ sw d a b c t, Statement (.vfma sw d a b c t) := fun sw d a b c t => fmtV_lt sw d a b c t (by decide) (by decide)
theorem vfms : ∀ sw d a b c t, Statement (.vfms sw d a b c t) := fun sw d a b c t => fmtV_lt sw d a b c t (by decide) (by decide)
theorem vfnma : ∀ sw d a b c t, Statement (.vfnma sw d a b c t) := fun sw d a b c t => fmtV_lt sw d a b c t (by decide) (by decide)
theorem vfnms : ∀ sw d a b c t, Statement (.vfnms sw d a b c t) := fun sw d a b c t => fmtV_lt sw d a b c t (by decide) (by decide)
theorem vand : ∀ sw d a b t, Statement (.vand sw d a b t) := fun sw d a b t => fmtV_lt sw d a b noRef t (by decide) (by decide)
theorem vor : ∀ sw d a b t, Statement (.vor sw d a b t) := fun sw d a b t => fmtV_lt sw d a b noRef t (by decide) (by decide)
theorem vxor : ∀ sw d a b t, Statement (.vxor sw d a b t) := fun sw d a b t => fmtV_lt sw d a b noRef t (by decide) (by decide)
theorem vandn : ∀ sw d a b t, Statement (.vandn sw d a b t) := fun sw d a b t => fmtV_lt sw d a b noRef t (by decide) (by decide)
theorem vnot : ∀ sw d a t, Statement (.vnot sw d a t) := fun sw d a t => fmtV_lt sw d a noRef noRef t (by decide) (by decide)
theorem vshl : ∀ sw d a b t, Statement (.vshl sw d a b t) := fun sw d a b t => fmtV_lt sw d a b noRef t (by decide) (by decide)
theorem vshr : ∀ sw d a b t, Statement (.vshr sw d a b t) := fun sw d a b t => fmtV_lt sw d a b noRef t (by decide) (by decide)
theorem vshra : ∀ sw d a b t, Statement (.vshra sw d a b t) := fun sw d a b t => fmtV_lt sw d a b noRef t (by decide) (by decide)
theorem vceq : ∀ sw d a b t, Statement (.vceq sw d a b t) := fun sw d a b t => fmtV_lt sw d a b noRef t (by decide) (by decide)
theorem vcne : ∀ sw d a b t, Statement (.vcne sw d a b t) := fun sw d a b t => fmtV_lt sw d a b noRef t (by decide) (by decide)
theorem vclt : ∀ sw d a b t, Statement (.vclt sw d a b t) := fun sw d a b t => fmtV_lt sw d a b noRef t (by decide) (by decide)
theorem vcle : ∀ sw d a b t, Statement (.vcle sw d a b t) := fun sw d a b t => fmtV_lt sw d a b noRef t (by decide) (by decide)
theorem vsel : ∀ sw d a b c t, Statement (.vsel sw d a b c t) := fun sw d a b c t => fmtV_lt sw d a b c t (by decide) (by decide)
theorem vcvt : ∀ sw d a dt st, Statement (.vcvt sw d a dt st) := fun sw d a dt st => fmtV_lt sw d a noRef noRef dt (by decide) (by have := elem_lt st; omega)
theorem vpack6 : ∀ sw d a b t, Statement (.vpack6 sw d a b t) := fun sw d a b t => fmtV_lt sw d a b noRef t (by decide) (by decide)
theorem vunpk6 : ∀ sw d a b t, Statement (.vunpk6 sw d a b t) := fun sw d a b t => fmtV_lt sw d a b noRef t (by decide) (by decide)
theorem vperm : ∀ sw d a b c t, Statement (.vperm sw d a b c t) := fun sw d a b c t => fmtV_lt sw d a b c t (by decide) (by decide)
theorem vbcast : ∀ sw d a t, Statement (.vbcast sw d a t) := fun sw d a t => fmtV_lt sw d a noRef noRef t (by decide) (by decide)
theorem vrot : ∀ sw d a b t, Statement (.vrot sw d a b t) := fun sw d a b t => fmtV_lt sw d a b noRef t (by decide) (by decide)
theorem vzip : ∀ sw d a b t, Statement (.vzip sw d a b t) := fun sw d a b t => fmtV_lt sw d a b noRef t (by decide) (by decide)
theorem vunzip : ∀ sw d a t, Statement (.vunzip sw d a t) := fun sw d a t => fmtV_lt sw d a noRef noRef t (by decide) (by decide)
theorem vrsum : ∀ sw d a b t, Statement (.vrsum sw d a b t) := fun sw d a b t => fmtV_lt sw d a b noRef t (by decide) (by decide)
theorem vrmax : ∀ sw d a b t, Statement (.vrmax sw d a b t) := fun sw d a b t => fmtV_lt sw d a b noRef t (by decide) (by decide)
theorem vrmin : ∀ sw d a b t, Statement (.vrmin sw d a b t) := fun sw d a b t => fmtV_lt sw d a b noRef t (by decide) (by decide)
theorem vrdot : ∀ sw d a b c t, Statement (.vrdot sw d a b c t) := fun sw d a b c t => fmtV_lt sw d a b c t (by decide) (by decide)
theorem vmov : ∀ sw d a t, Statement (.vmov sw d a t) := fun sw d a t => fmtV_lt sw d a noRef noRef t (by decide) (by decide)
theorem vzero : ∀ sw d t, Statement (.vzero sw d t) := fun sw d t => fmtV_lt sw d noRef noRef noRef t (by decide) (by decide)
theorem lease : ∀ sw a b c, Statement (.lease sw a b c) := fun sw a b c => fmtR_lt sw (by decide) (by decide) a.isLt b.isLt c.isLt
theorem unlease : ∀ sw, Statement (.unlease sw) := fun sw => fmtR_lt sw (by decide) (by decide) (by decide) (by decide) (by decide)
theorem unleaseDiscard : ∀ sw, Statement (.unleaseDiscard sw) := fun sw => fmtR_lt sw (by decide) (by decide) (by decide) (by decide) (by decide)
theorem acswap : ∀ sw acc, Statement (.acswap sw acc) := fun sw _ => fmtR_lt sw (by decide) (by decide) (by omega) (by decide) (by decide)
theorem acswapZero : ∀ sw acc, Statement (.acswapZero sw acc) := fun sw _ => fmtR_lt sw (by decide) (by decide) (by omega) (by decide) (by decide)
theorem tbspill : ∀ sw tb, Statement (.tbspill sw tb) := fun sw _ => fmtR_lt sw (by decide) (by decide) (by omega) (by decide) (by decide)
theorem tbfill : ∀ sw tb, Statement (.tbfill sw tb) := fun sw _ => fmtR_lt sw (by decide) (by decide) (by omega) (by decide) (by decide)
theorem tbuild : ∀ sw tb b c kind st mc, Statement (.tbuild sw tb b c kind st mc) := fun sw _ b c kind st mc => fmtR_lt sw (by decide) (by have := tblKind_lt kind; have := srcType_lt st; have := b2n_le mc; omega) (by omega) b.isLt c.isLt
theorem tbuildRcv : ∀ sw tb, Statement (.tbuildRcv sw tb) := fun sw _ => fmtR_lt sw (by decide) (by decide) (by omega) (by decide) (by decide)
theorem mmt : ∀ sw acc b c form signed last tb, Statement (.mmt sw acc b c form signed last tb) := fun sw _ b c form signed last tb => fmtR_lt sw (by decide) (by have := form_lt form; have := tb.isLt; have := b2n_le signed; have := b2n_le last; omega) (by omega) b.isLt c.isLt
theorem mmd : ∀ sw acc b c ta tb, Statement (.mmd sw acc b c ta tb) := fun sw _ b c ta tb => fmtR_lt sw (by decide) (by have := mmdType_lt ta; have := mmdType_lt tb; omega) (by omega) b.isLt c.isLt
theorem acrd : ∀ sw acc b, Statement (.acrd sw acc b) := fun sw _ b => fmtR_lt sw (by decide) (by decide) (by omega) b.isLt (by decide)
theorem acrdWorking : ∀ sw acc b, Statement (.acrdWorking sw acc b) := fun sw _ b => fmtR_lt sw (by decide) (by decide) (by omega) b.isLt (by decide)
theorem mskld : ∀ sw ctx b, Statement (.mskld sw ctx b) := fun sw ctx b => fmtR_lt sw (by decide) (by have := ctx.isLt; omega) (by decide) b.isLt (by decide)
theorem mskcls : ∀ sw ctx a b, Statement (.mskcls sw ctx a b) := fun sw ctx a b => fmtR_lt sw (by decide) (by have := ctx.isLt; omega) a.isLt b.isLt (by decide)
theorem mskel : ∀ sw ctx a b c, Statement (.mskel sw ctx a b c) := fun sw ctx a b c => fmtR_lt sw (by decide) (by have := ctx.isLt; omega) a.isLt b.isLt c.isLt
theorem mskcnt : ∀ sw ctx a clr, Statement (.mskcnt sw ctx a clr) := fun sw ctx a clr => fmtR_lt sw (by decide) (by have := ctx.isLt; have := b2n_le clr; omega) a.isLt (by decide) (by decide)
theorem kvcommit : ∀ sw a b, Statement (.kvcommit sw a b) := fun sw a b => fmtR_lt sw (by decide) (by decide) a.isLt b.isLt (by decide)
theorem copy : ∀ sw a, Statement (.copy sw a) := fun sw a => fmtR_lt sw (by decide) (by decide) a.isLt (by decide) (by decide)
theorem gather : ∀ sw a, Statement (.gather sw a) := fun sw a => fmtR_lt sw (by decide) (by decide) a.isLt (by decide) (by decide)
theorem scatter : ∀ sw a, Statement (.scatter sw a) := fun sw a => fmtR_lt sw (by decide) (by decide) a.isLt (by decide) (by decide)
theorem scadd : ∀ sw a, Statement (.scadd sw a) := fun sw a => fmtR_lt sw (by decide) (by decide) a.isLt (by decide) (by decide)
theorem idem : ∀ sw, Statement (.idem sw) := fun sw => fmtR_lt sw (by decide) (by decide) (by decide) (by decide) (by decide)
theorem idemClose : ∀ sw, Statement (.idemClose sw) := fun sw => fmtR_lt sw (by decide) (by decide) (by decide) (by decide) (by decide)
theorem evwait : ∀ sw a line l, Statement (.evwait sw a line l) := fun sw a line l => fmtR_lt sw (by decide) (by decide) a.isLt line.isLt l.isLt
theorem wlpush : ∀ sw list b, Statement (.wlpush sw list b) := fun sw list b => fmtR_lt sw (by decide) (by have := list.isLt; omega) (by decide) b.isLt (by decide)
theorem wlins : ∀ sw list a b, Statement (.wlins sw list a b) := fun sw list a b => fmtR_lt sw (by decide) (by have := list.isLt; omega) a.isLt b.isLt (by decide)
theorem wlpopb : ∀ sw list a nm1 l, Statement (.wlpopb sw list a nm1 l) := fun sw list a nm1 l => fmtR_lt sw (by decide) (by have := list.isLt; have := nm1.isLt; omega) a.isLt (by decide) l.isLt
theorem txsub : ∀ sw a b, Statement (.txsub sw a b) := fun sw a b => fmtR_lt sw (by decide) (by decide) a.isLt b.isLt (by decide)
theorem txscout : ∀ sw b, Statement (.txscout sw b) := fun sw b => fmtR_lt sw (by decide) (by decide) (by decide) b.isLt (by decide)
theorem txchk : ∀ sw b c, Statement (.txchk sw b c) := fun sw b c => fmtR_lt sw (by decide) (by decide) (by decide) b.isLt c.isLt
theorem txend : ∀ sw, Statement (.txend sw) := fun sw => fmtR_lt sw (by decide) (by decide) (by decide) (by decide) (by decide)
theorem inbox : ∀ sw a, Statement (.inbox sw a) := fun sw a => fmtR_lt sw (by decide) (by decide) a.isLt (by decide) (by decide)
theorem done : ∀ sw a, Statement (.done sw a) := fun sw a => fmtR_lt sw (by decide) (by decide) a.isLt (by decide) (by decide)
theorem send : ∀ sw a b, Statement (.send sw a b) := fun sw a b => fmtR_lt sw (by decide) (by decide) a.isLt b.isLt (by decide)
theorem recv : ∀ sw a slot, Statement (.recv sw a slot) := fun sw a _ => fmtR_lt sw (by decide) (by decide) a.isLt (by omega) (by decide)
theorem qpush : ∀ sw a b l, Statement (.qpush sw a b l) := fun sw a b l => fmtR_lt sw (by decide) (by decide) a.isLt b.isLt l.isLt
theorem qpop : ∀ sw a b l, Statement (.qpop sw a b l) := fun sw a b l => fmtR_lt sw (by decide) (by decide) a.isLt b.isLt l.isLt
theorem barw : ∀ sw kind l, Statement (.barw sw kind l) := fun sw kind l => fmtR_lt sw (by decide) (by decide) (by decide) (barKind_lt kind) l.isLt
theorem vote : ∀ sw a b op l, Statement (.vote sw a b op l) := fun sw a b op l => fmtR_lt sw (by decide) (by have := voteOp_lt op; omega) a.isLt b.isLt l.isLt
theorem rett : ∀ sw a, Statement (.rett sw a) := fun sw a => fmtR_lt sw (by decide) (by decide) a.isLt (by decide) (by decide)
theorem ctlr : ∀ sw a n, Statement (.ctlr sw a n) := fun sw a n => fmtI_lt sw (by decide) a.isLt (by have := n.isLt; omega)
theorem ctlw : ∀ sw a n, Statement (.ctlw sw a n) := fun sw a n => fmtI_lt sw (by decide) a.isLt (by have := n.isLt; omega)
theorem wpsw : ∀ sw a, Statement (.wpsw sw a) := fun sw a => fmtR_lt sw (by decide) (by decide) a.isLt (by decide) (by decide)
theorem idle : ∀ sw, Statement (.idle sw) := fun sw => fmtR_lt sw (by decide) (by decide) (by decide) (by decide) (by decide)
theorem tlball : ∀ sw, Statement (.tlball sw) := fun sw => fmtR_lt sw (by decide) (by decide) (by decide) (by decide) (by decide)
theorem tlbasid : ∀ sw a, Statement (.tlbasid sw a) := fun sw a => fmtR_lt sw (by decide) (by decide) a.isLt (by decide) (by decide)
theorem tlbpage : ∀ sw a b, Statement (.tlbpage sw a b) := fun sw a b => fmtR_lt sw (by decide) (by decide) a.isLt b.isLt (by decide)
theorem icinv : ∀ sw, Statement (.icinv sw) := fun sw => fmtR_lt sw (by decide) (by decide) (by decide) (by decide) (by decide)
theorem dcinv : ∀ sw, Statement (.dcinv sw) := fun sw => fmtR_lt sw (by decide) (by decide) (by decide) (by decide) (by decide)
theorem trap : ∀ sw code a, Statement (.trap sw code a) := fun sw code a => fmtR_lt sw (by decide) (by have := code.isLt; omega) a.isLt (by decide) (by decide)
theorem fmt : ∀ st dt nm ftz sat, Statement (.fmt st dt nm ftz sat) := fun st dt nm ftz sat => by
    have := optType_lt st
    have := optType_lt dt
    have := nmSel_lt nm
    have := b2n_le ftz
    have := b2n_le sat
    show 63 * 2 ^ 25 + (optType st).1 * 2 ^ 21 + (optType st).2 * 2 ^ 17 + (optType dt).1 * 2 ^ 16 + (optType dt).2 * 2 ^ 12 + nm.code * 2 ^ 10 + b2n ftz * 2 ^ 9 + b2n sat * 2 ^ 8 < 2 ^ 32
    omega
theorem rep : ∀ count, Statement (.rep count) := fun count => by have := count.isLt; show 63 * 2 ^ 25 + 2 ^ 22 + count.toNat < 2 ^ 32; omega
theorem lix : ∀ hi, Statement (.lix hi) := fun hi => by have := hi.isLt; show 63 * 2 ^ 25 + 2 * 2 ^ 22 + hi.toNat < 2 ^ 32; omega
theorem resultReturn : ∀ x0 x1, Statement (.resultReturn x0 x1) := fun _ _ => zero_lt rfl
theorem forcedPark : ∀ x0, Statement (.forcedPark x0) := fun _ => zero_lt rfl
theorem interruptEntry : ∀ x0, Statement (.interruptEntry x0) := fun _ => zero_lt rfl
theorem asyncTrapEntry : ∀ x0, Statement (.asyncTrapEntry x0) := fun _ => zero_lt rfl
theorem cancelAnswer : ∀ x0, Statement (.cancelAnswer x0) := fun _ => zero_lt rfl
theorem timerInterrupt : ∀ x0, Statement (.timerInterrupt x0) := fun _ => zero_lt rfl
theorem unassignedEncoding : ∀ x0, Statement (.unassignedEncoding x0) := fun _ => zero_lt rfl
theorem messageArrival : ∀ x0, Statement (.messageArrival x0) := fun _ => zero_lt rfl
theorem messageResend : ∀ x0, Statement (.messageResend x0) := fun _ => zero_lt rfl
theorem remoteLoadReply : ∀ x0, Statement (.remoteLoadReply x0) := fun _ => zero_lt rfl
theorem remoteLoadRefusal : ∀ x0, Statement (.remoteLoadRefusal x0) := fun _ => zero_lt rfl
theorem postedStoreAck : ∀ x0, Statement (.postedStoreAck x0) := fun _ => zero_lt rfl
theorem postedStoreRefusal : ∀ x0, Statement (.postedStoreRefusal x0) := fun _ => zero_lt rfl
theorem loadRefusal : ∀ x0, Statement (.loadRefusal x0) := fun _ => zero_lt rfl
theorem remoteAccessArrival : ∀ x0, Statement (.remoteAccessArrival x0) := fun _ => zero_lt rfl
theorem syncAccessArrival : ∀ x0, Statement (.syncAccessArrival x0) := fun _ => zero_lt rfl
theorem accessResend : ∀ x0, Statement (.accessResend x0) := fun _ => zero_lt rfl
theorem bankModeChangeDone : ∀ x0 x1, Statement (.bankModeChangeDone x0 x1) := fun _ _ => zero_lt rfl
theorem fifoAccessResume : ∀ x0 x1, Statement (.fifoAccessResume x0 x1) := fun _ _ => zero_lt rfl
theorem deadlockProbe : ∀ x0, Statement (.deadlockProbe x0) := fun _ => zero_lt rfl
theorem probeReceive : ∀ x0, Statement (.probeReceive x0) := fun _ => zero_lt rfl
theorem victimNotice : ∀ x0, Statement (.victimNotice x0) := fun _ => zero_lt rfl
theorem waitBoundExpiry : ∀ x0, Statement (.waitBoundExpiry x0) := fun _ => zero_lt rfl
theorem leaseTimeout : ∀ x0, Statement (.leaseTimeout x0) := fun _ => zero_lt rfl
theorem barrierRelease : ∀ x0 x1 x2, Statement (.barrierRelease x0 x1 x2) := fun _ _ _ => zero_lt rfl
theorem voteResult : ∀ x0, Statement (.voteResult x0) := fun _ => zero_lt rfl
theorem lockRequest : ∀ x0, Statement (.lockRequest x0) := fun _ => zero_lt rfl
theorem lockRelease : ∀ x0, Statement (.lockRelease x0) := fun _ => zero_lt rfl
theorem grantArrival : ∀ x0, Statement (.grantArrival x0) := fun _ => zero_lt rfl
theorem dispatch : ∀ x0, Statement (.dispatch x0) := fun _ => zero_lt rfl
theorem gangDispatch : ∀ x0, Statement (.gangDispatch x0) := fun _ => zero_lt rfl
theorem gangReservation : ∀ x0, Statement (.gangReservation x0) := fun _ => zero_lt rfl
theorem stageMove : ∀ x0, Statement (.stageMove x0) := fun _ => zero_lt rfl
theorem hartCut : ∀ x0, Statement (.hartCut x0) := fun _ => zero_lt rfl
theorem saveRecordWrite : ∀ x0, Statement (.saveRecordWrite x0) := fun _ => zero_lt rfl
theorem sealedBudgetExpiry : ∀ x0, Statement (.sealedBudgetExpiry x0) := fun _ => zero_lt rfl
theorem hartResume : ∀ x0 x1 x2, Statement (.hartResume x0 x1 x2) := fun _ _ _ => zero_lt rfl
theorem gangResume : ∀ x0 x1 x2 x3, Statement (.gangResume x0 x1 x2 x3) := fun _ _ _ _ => zero_lt rfl
theorem markerArrival : ∀ x0 x1, Statement (.markerArrival x0 x1) := fun _ _ => zero_lt rfl
theorem doneTreeReport : ∀ x0 x1, Statement (.doneTreeReport x0 x1) := fun _ _ => zero_lt rfl
theorem launchEndMarker : ∀ x0, Statement (.launchEndMarker x0) := fun _ => zero_lt rfl
theorem launchCompletion : ∀ x0, Statement (.launchCompletion x0) := fun _ => zero_lt rfl
theorem leaseGrant : ∀ x0, Statement (.leaseGrant x0) := fun _ => zero_lt rfl
theorem leasePeriodExpiry : ∀ x0, Statement (.leasePeriodExpiry x0) := fun _ => zero_lt rfl
theorem leaseIdleExpiry : ∀ x0, Statement (.leaseIdleExpiry x0) := fun _ => zero_lt rfl
theorem tableBuildComplete : ∀ x0 x1, Statement (.tableBuildComplete x0 x1) := fun _ _ => zero_lt rfl
theorem mmtComplete : ∀ x0 x1, Statement (.mmtComplete x0 x1) := fun _ _ => zero_lt rfl
theorem mmdComplete : ∀ x0 x1, Statement (.mmdComplete x0 x1) := fun _ _ => zero_lt rfl
theorem accumulatorExchange : ∀ x0 x1, Statement (.accumulatorExchange x0 x1) := fun _ _ => zero_lt rfl
theorem multicastCopyArrival : ∀ x0 x1, Statement (.multicastCopyArrival x0 x1) := fun _ _ => zero_lt rfl
theorem staleNotice : ∀ x0 x1, Statement (.staleNotice x0 x1) := fun _ _ => zero_lt rfl
theorem kvcommitTakePerformed : ∀ x0 x1, Statement (.kvcommitTakePerformed x0 x1) := fun _ _ => zero_lt rfl
theorem jobStart : ∀ x0 x1, Statement (.jobStart x0 x1) := fun _ _ => zero_lt rfl
theorem jobFinish : ∀ x0 x1, Statement (.jobFinish x0 x1) := fun _ _ => zero_lt rfl
theorem nop : ∀ x0, Statement (.nop x0) := fun _ => zero_lt rfl
theorem launch : ∀ x0, Statement (.launch x0) := fun _ => zero_lt rfl
theorem close : ∀ x0, Statement (.close x0) := fun _ => zero_lt rfl
theorem wait : ∀ x0, Statement (.wait x0) := fun _ => zero_lt rfl
theorem write : ∀ x0, Statement (.write x0) := fun _ => zero_lt rfl
theorem indirect : ∀ x0, Statement (.indirect x0) := fun _ => zero_lt rfl
theorem wake : ∀ x0, Statement (.wake x0) := fun _ => zero_lt rfl
theorem regwrite : ∀ x0, Statement (.regwrite x0) := fun _ => zero_lt rfl
theorem cut : ∀ x0, Statement (.cut x0) := fun _ => zero_lt rfl
theorem stage : ∀ x0, Statement (.stage x0) := fun _ => zero_lt rfl
theorem switch : ∀ x0, Statement (.switch x0) := fun _ => zero_lt rfl
theorem graph : ∀ x0, Statement (.graph x0) := fun _ => zero_lt rfl
theorem waitConditionRead : ∀ x0, Statement (.waitConditionRead x0) := fun _ => zero_lt rfl
theorem waitSliceExpiry : ∀ x0, Statement (.waitSliceExpiry x0) := fun _ => zero_lt rfl
theorem trestleInstruction : ∀ x0, Statement (.trestleInstruction x0) := fun _ => zero_lt rfl
theorem fetchFault : Statement .fetchFault := zero_lt rfl
theorem scWindowClose : Statement .scWindowClose := zero_lt rfl
theorem batchCloseTimer : Statement .batchCloseTimer := zero_lt rfl
theorem tokenHold : Statement .tokenHold := zero_lt rfl
theorem manifestReceive : ∀ x0 x1 x2, Statement (.manifestReceive x0 x1 x2) := fun _ _ _ => zero_lt rfl
theorem groupScFrame : ∀ x0 x1 x2 x3 x4, Statement (.groupScFrame x0 x1 x2 x3 x4) := fun _ _ _ _ _ => zero_lt rfl
theorem tokenLoss : ∀ x0, Statement (.tokenLoss x0) := fun _ => zero_lt rfl
theorem groupFormation : ∀ x0 x1 x2 x3 x4, Statement (.groupFormation x0 x1 x2 x3 x4) := fun _ _ _ _ _ => zero_lt rfl
theorem groupReform : ∀ x0, Statement (.groupReform x0) := fun _ => zero_lt rfl
theorem stageGovernorEvaluation : Statement .stageGovernorEvaluation := zero_lt rfl
theorem pushpoolResize : Statement .pushpoolResize := zero_lt rfl
theorem dataCacheLineExpiry : ∀ x0 x1, Statement (.dataCacheLineExpiry x0 x1) := fun _ _ => zero_lt rfl
theorem clusterCacheLineExpiry : ∀ x0 x1, Statement (.clusterCacheLineExpiry x0 x1) := fun _ _ => zero_lt rfl
theorem controlPortWrite : ∀ x0 x1, Statement (.controlPortWrite x0 x1) := fun _ _ => zero_lt rfl
theorem controlPortRead : ∀ x0, Statement (.controlPortRead x0) := fun _ => zero_lt rfl
theorem waitDeadlock : Statement .waitDeadlock := zero_lt rfl
theorem graphTrigger : ∀ x0, Statement (.graphTrigger x0) := fun _ => zero_lt rfl
theorem qwptrWrite : ∀ x0 x1, Statement (.qwptrWrite x0 x1) := fun _ _ => zero_lt rfl
theorem qwakeWrite : ∀ x0, Statement (.qwakeWrite x0) := fun _ => zero_lt rfl
theorem qfaultResume : ∀ x0, Statement (.qfaultResume x0) := fun _ => zero_lt rfl
theorem qfaultSkip : ∀ x0, Statement (.qfaultSkip x0) := fun _ => zero_lt rfl
theorem monsend : ∀ x0 x1, Statement (.monsend x0 x1) := fun _ _ => zero_lt rfl
theorem wakesend : ∀ x0, Statement (.wakesend x0) := fun _ => zero_lt rfl
theorem tlbinvAll : ∀ x0, Statement (.tlbinvAll x0) := fun _ => zero_lt rfl
theorem tlbinvAsid : ∀ x0 x1, Statement (.tlbinvAsid x0 x1) := fun _ _ => zero_lt rfl
theorem tlbinvPage : ∀ x0 x1 x2, Statement (.tlbinvPage x0 x1 x2) := fun _ _ _ => zero_lt rfl
theorem keycmdLoad : ∀ x0 x1, Statement (.keycmdLoad x0 x1) := fun _ _ => zero_lt rfl
theorem keycmdClear : ∀ x0 x1, Statement (.keycmdClear x0 x1) := fun _ _ => zero_lt rfl
theorem keySlotInstalled : Statement .keySlotInstalled := zero_lt rfl
theorem fwhbOk : ∀ x0, Statement (.fwhbOk x0) := fun _ => zero_lt rfl
theorem fwhbRefuse : ∀ x0, Statement (.fwhbRefuse x0) := fun _ => zero_lt rfl
theorem fwhbTimeout : Statement .fwhbTimeout := zero_lt rfl
theorem csbmodeWrite : ∀ x0 x1, Statement (.csbmodeWrite x0 x1) := fun _ _ => zero_lt rfl
theorem fifocntWrite : ∀ x0 x1, Statement (.fifocntWrite x0 x1) := fun _ _ => zero_lt rfl
theorem evlineWrite : ∀ x0 x1, Statement (.evlineWrite x0 x1) := fun _ _ => zero_lt rfl
theorem wlrecWrite : ∀ x0 x1 x2, Statement (.wlrecWrite x0 x1 x2) := fun _ _ _ => zero_lt rfl
theorem qrecWrite : ∀ x0 x1, Statement (.qrecWrite x0 x1) := fun _ _ => zero_lt rfl
theorem sgthrWrite : ∀ x0 x1, Statement (.sgthrWrite x0 x1) := fun _ _ => zero_lt rfl
theorem pushpoolWrite : ∀ x0, Statement (.pushpoolWrite x0) := fun _ => zero_lt rfl
theorem counterClear : ∀ x0 x1, Statement (.counterClear x0 x1) := fun _ _ => zero_lt rfl
theorem registerWrite : ∀ x0 x1 x2 x3, Statement (.registerWrite x0 x1 x2 x3) := fun _ _ _ _ => zero_lt rfl
theorem firmwareUpdate : Statement .firmwareUpdate := zero_lt rfl
theorem svnfloorRaise : ∀ x0, Statement (.svnfloorRaise x0) := fun _ => zero_lt rfl
theorem reset : Statement .reset := zero_lt rfl
theorem secureBoot : Statement .secureBoot := zero_lt rfl
theorem getVersion : ∀ x0, Statement (.getVersion x0) := fun _ => zero_lt rfl
theorem getCapabilities : ∀ x0, Statement (.getCapabilities x0) := fun _ => zero_lt rfl
theorem negotiateAlgorithms : ∀ x0, Statement (.negotiateAlgorithms x0) := fun _ => zero_lt rfl
theorem getDigests : ∀ x0, Statement (.getDigests x0) := fun _ => zero_lt rfl
theorem getCertificate : ∀ x0, Statement (.getCertificate x0) := fun _ => zero_lt rfl
theorem challenge : ∀ x0, Statement (.challenge x0) := fun _ => zero_lt rfl
theorem getMeasurements : ∀ x0, Statement (.getMeasurements x0) := fun _ => zero_lt rfl
theorem keyExchange : ∀ x0, Statement (.keyExchange x0) := fun _ => zero_lt rfl
theorem finish : ∀ x0, Statement (.finish x0) := fun _ => zero_lt rfl
theorem securedMessage : ∀ x0 x1 x2, Statement (.securedMessage x0 x1 x2) := fun _ _ _ => zero_lt rfl
theorem linkTraining : ∀ x0 x1, Statement (.linkTraining x0 x1) := fun _ _ => zero_lt rfl
theorem flitReceive : ∀ x0 x1 x2, Statement (.flitReceive x0 x1 x2) := fun _ _ _ => zero_lt rfl
theorem replayRequest : ∀ x0 x1 x2, Statement (.replayRequest x0 x1 x2) := fun _ _ _ => zero_lt rfl
theorem flitAcknowledge : ∀ x0 x1 x2, Statement (.flitAcknowledge x0 x1 x2) := fun _ _ _ => zero_lt rfl
theorem bitmapAcknowledge : ∀ x0 x1 x2, Statement (.bitmapAcknowledge x0 x1 x2) := fun _ _ _ => zero_lt rfl
theorem retrainComplete : ∀ x0 x1 x2, Statement (.retrainComplete x0 x1 x2) := fun _ _ _ => zero_lt rfl
theorem routingTableFailedMark : ∀ x0 x1, Statement (.routingTableFailedMark x0 x1) := fun _ _ => zero_lt rfl
theorem powerCapCheck : ∀ x0 x1 x2 x3, Statement (.powerCapCheck x0 x1 x2 x3) := fun _ _ _ _ => zero_lt rfl
theorem thermalThrottle : ∀ x0, Statement (.thermalThrottle x0) := fun _ => zero_lt rfl
theorem thermalTrip : ∀ x0, Statement (.thermalTrip x0) := fun _ => zero_lt rfl
theorem thermalResume : ∀ x0, Statement (.thermalResume x0) := fun _ => zero_lt rfl
theorem residentLoopStart : ∀ x0 x1 x2 x3, Statement (.residentLoopStart x0 x1 x2 x3) := fun _ _ _ _ => zero_lt rfl

end Sys2Proof.Laws.Fits
end

