-- ==== Sys2Proof/Laws/Registers.lean ====
section
/-! SUPPORT. Workspace words as scratchpad bytes: what writing a register does and what it leaves alone (R12, R257). -/

namespace Sys2Proof.Machine

/-- A property that every application of `f` keeps is kept by a fold. -/
theorem foldl_keeps {α β : Type} {P : β → Prop} (f : β → α → β) (l : List α) (b : β) (hb : P b)
    (h : ∀ b a, a ∈ l → P b → P (f b a)) : P (l.foldl f b) := by
  induction l generalizing b with
  | nil => exact hb
  | cons a l ih =>
    exact ih _ (h _ _ List.mem_cons_self hb) (fun b a ha => h b a (List.mem_cons_of_mem _ ha))

theorem SameButUnits.refl (s : State) : SameButUnits s s := rfl

theorem SameButUnits.trans {s t u : State} (h : SameButUnits s t) (k : SameButUnits t u) : SameButUnits s u := by
  unfold SameButUnits at *; rw [← h, ← k]

theorem markOne_same (s : State) (core ctx v : Nat) (c : StaleCause) (o : Nat) :
    SameButUnits s (markOne s core ctx v c o) := by
  unfold markOne
  simp only
  split <;> rfl

theorem markStale_same (s : State) (pas : List Nat) : SameButUnits s (markStale s pas) :=
  foldl_keeps (P := SameButUnits s) _ _ _ (.refl s) fun _ _ _ hb =>
    foldl_keeps (P := SameButUnits s) _ _ _ hb fun b' _ _ hb' => hb'.trans (markOne_same b' ..)

@[simp] theorem markStale_module (s : State) (p : List Nat) : (markStale s p).module = s.module := (congrArg State.module (markStale_same s p) :)
@[simp] theorem markStale_populated (s : State) (p : List Nat) : (markStale s p).populated = s.populated := (congrArg State.populated (markStale_same s p) :)
@[simp] theorem markStale_cycle (s : State) (p : List Nat) : (markStale s p).cycle = s.cycle := (congrArg State.cycle (markStale_same s p) :)
@[simp] theorem markStale_cur (s : State) (p : List Nat) : (markStale s p).cur = s.cur := (congrArg State.cur (markStale_same s p) :)
@[simp] theorem markStale_mem (s : State) (p : List Nat) : (markStale s p).mem = s.mem := (congrArg State.mem (markStale_same s p) :)
@[simp] theorem markStale_poison (s : State) (p : List Nat) : (markStale s p).poison = s.poison := (congrArg State.poison (markStale_same s p) :)
@[simp] theorem markStale_washed (s : State) (p : List Nat) : (markStale s p).washed = s.washed := (congrArg State.washed (markStale_same s p) :)
@[simp] theorem markStale_tileReads (s : State) (p : List Nat) : (markStale s p).tileReads = s.tileReads := (congrArg State.tileReads (markStale_same s p) :)
@[simp] theorem markStale_empty (s : State) (p : List Nat) : (markStale s p).empty = s.empty := (congrArg State.empty (markStale_same s p) :)
@[simp] theorem markStale_keytag (s : State) (p : List Nat) : (markStale s p).keytag = s.keytag := (congrArg State.keytag (markStale_same s p) :)
@[simp] theorem markStale_flags (s : State) (p : List Nat) : (markStale s p).flags = s.flags := (congrArg State.flags (markStale_same s p) :)
@[simp] theorem markStale_lrs (s : State) (p : List Nat) : (markStale s p).lrs = s.lrs := (congrArg State.lrs (markStale_same s p) :)
@[simp] theorem markStale_flight (s : State) (p : List Nat) : (markStale s p).flight = s.flight := (congrArg State.flight (markStale_same s p) :)
@[simp] theorem markStale_uid (s : State) (p : List Nat) : (markStale s p).uid = s.uid := (congrArg State.uid (markStale_same s p) :)
@[simp] theorem markStale_slots (s : State) (p : List Nat) : (markStale s p).slots = s.slots := (congrArg State.slots (markStale_same s p) :)
@[simp] theorem markStale_ks (s : State) (p : List Nat) : (markStale s p).ks = s.ks := (congrArg State.ks (markStale_same s p) :)
@[simp] theorem markStale_tr (s : State) (p : List Nat) : (markStale s p).tr = s.tr := (congrArg State.tr (markStale_same s p) :)
@[simp] theorem markStale_fab (s : State) (p : List Nat) : (markStale s p).fab = s.fab := (congrArg State.fab (markStale_same s p) :)
@[simp] theorem markStale_sched (s : State) (p : List Nat) : (markStale s p).sched = s.sched := (congrArg State.sched (markStale_same s p) :)
@[simp] theorem getSlot_markStale (s : State) (p : List Nat) (h : Nat) : getSlot (markStale s p) h = getSlot s h := by
  simp [getSlot]

/-! Scratchpad addresses (R407). -/

/-- The target of a place within a core's scratchpad, below the gap after it. -/
theorem targetOf_scratch (s : State) (c o : Nat) (hc : c < 2048) (ho : o < 0x30000) :
    targetOf (offsetOf (scratchPa s c o)) = .scratch c := by
  have e : offsetOf (scratchPa s c o) = 0x10000000000 + c * 0x40000 + o := by
    unfold offsetOf scratchPa scratch0; omega
  rw [e]
  unfold targetOf scratch0 sram0
  have h1 : ¬ (0x10000000000 + c * 0x40000 + o < 0x9000000000) := by omega
  have h2 : (decide (0x10000000000 ≤ 0x10000000000 + c * 0x40000 + o) &&
      decide (0x10000000000 + c * 0x40000 + o < 0x10000000000 + 0x20000000)) = true := by
    simp only [Bool.and_eq_true, decide_eq_true_eq]; omega
  have h3 : (0x10000000000 + c * 0x40000 + o - 0x10000000000) % 0x40000 = o := by omega
  have h4 : (0x10000000000 + c * 0x40000 + o - 0x10000000000) / 0x40000 = c := by omega
  rw [if_neg h1, if_pos h2, h3, h4, if_pos ho]

theorem isHbm_scratch (s : State) (c o : Nat) (hc : c < 2048) (ho : o < 0x30000) : isHbm (scratchPa s c o) = false := by
  unfold isHbm; rw [targetOf_scratch s c o hc ho]; rfl

theorem regPa_byte (s : State) (h n i : Nat) :
    regPa s h n + i = scratchPa s (coreOf h) ((getSlot s h).wp + 8 * n + i) := by
  unfold regPa scratchPa; omega

theorem isHbm_reg {s : State} {h : Nat} (p : Placed s h) {n i : Nat} (hn : n < 64) (hi : i < 8) :
    isHbm (regPa s h n + i) = false := by
  rw [regPa_byte]
  have := p.1; have := p.2.1
  exact isHbm_scratch s _ _ (by unfold coreOf; omega) (by omega)

/-- A byte outside HBM is read in clear. -/
theorem rdByte_plain {s : State} {pa : Nat} (h : isHbm pa = false) (key : Nat) : rdByte s key pa = memGet s.mem pa := by
  simp [rdByte, h]

/-- Nothing outside HBM is brought under a key. -/
theorem retag_plain {s : State} {pa : Nat} (h : isHbm pa = false) (key : Nat) : retag s key pa = s := by
  simp [retag, h]

/-- A write outside HBM clears no all-zero flag. -/
theorem clearFlags_plain {pas : List Nat} (h : ∀ a ∈ pas, isHbm a = false) (t : Tbl (List FlagEnt)) :
    clearFlags pas t = t := by
  unfold clearFlags
  split
  · rfl
  · refine foldl_keeps (P := fun b => b = t) _ _ _ rfl fun b a ha hb => ?_
    subst hb; simp [clearFlag, h a ha]

/-- A write outside HBM meets no read of a lock tile, and undoes no washed word. -/
theorem clearReads_plain {pas : List Nat} (h : ∀ a ∈ pas, isHbm a = false) (l : List (Nat × Nat)) :
    clearReads pas l = l := by
  have : ∀ e ∈ l, (!(pas.any fun a => isHbm a && decide (tileOf a = e.2))) = true := fun e _ => by
    simp only [Bool.not_eq_true', List.any_eq_false]; exact fun a ha => by simp [h a ha]
  unfold clearReads; split
  · rfl
  · exact List.filter_eq_self.mpr this

theorem washAfter_plain {pas : List Nat} (h : ∀ a ∈ pas, isHbm a = false) (psn : Bool) (l : List Nat) :
    washAfter pas psn l = l := by
  have : ∀ w ∈ l, (!(pas.any fun a => isHbm a && decide (a / 32 = w / 4))) = true := fun w _ => by
    simp only [Bool.not_eq_true', List.any_eq_false]; exact fun a ha => by simp [h a ha]
  unfold washAfter; split
  · rfl
  · exact List.filter_eq_self.mpr this

/-- What writing bytes outside HBM does, before the watches are told. -/
theorem putBytes_plain {s : State} {cells : List (Nat × Byte)} (h : ∀ e ∈ cells, isHbm e.1 = false) (psn : Bool) :
    putBytes s 0 cells psn =
      markStale { s with
        mem := memSetAll cells s.mem, poison := poisonAfter (cells.map (·.1)) psn s.poison
        lrs := s.lrs.filter fun e => !((cells.map (·.1)).any fun a => a / 8 = e.2) } (cells.map (·.1)) := by
  have : (cells.map (·.1)).foldl (fun s a => retag s 0 a) s = s := by
    refine foldl_keeps (P := fun b => b = s) _ _ _ rfl fun b a ha hb => ?_
    subst hb
    obtain ⟨e, he, rfl⟩ := List.mem_map.mp ha
    exact retag_plain (h e he) 0
  have hf : ∀ a ∈ cells.map (·.1), isHbm a = false := by
    intro a ha; obtain ⟨e, he, rfl⟩ := List.mem_map.mp ha; exact h e he
  simp only [putBytes, this, clearFlags_plain hf, clearReads_plain hf, washAfter_plain hf]

theorem zip_span_fst (a : Nat) (bs : List Byte) : ((span a bs.length).zip bs).map (·.1) = span a bs.length := by
  rw [List.map_fst_zip]; simp

/-- The cells of a register. -/
theorem reg_cells {s : State} {h : Nat} (p : Placed s h) {n : Nat} (hn : n < 64) (v : Word) :
    ∀ e ∈ (span (regPa s h n) 8).zip (wBytes v), isHbm e.1 = false := by
  intro e he
  have h1 := (List.of_mem_zip he).1
  rw [mem_span] at h1
  have := isHbm_reg (i := e.1 - regPa s h n) p hn (by omega)
  rwa [show regPa s h n + (e.1 - regPa s h n) = e.1 by omega] at this

/-- `put64` at a register of a placed hart: the memory, and that nothing but memory, poison, reservations and watched
tables changes. -/
theorem put64_reg {s : State} {h : Nat} (p : Placed s h) {n : Nat} (hn : n < 64) (v : Word) (psn : Bool) :
    put64 s (regPa s h n) v psn =
      markStale { s with
        mem := memSetAll ((span (regPa s h n) 8).zip (wBytes v)) s.mem
        poison := poisonAfter (span (regPa s h n) 8) psn s.poison
        lrs := s.lrs.filter fun e => !((span (regPa s h n) 8).any fun a => a / 8 = e.2) } (span (regPa s h n) 8) := by
  have e := zip_span_fst (regPa s h n) (wBytes v)
  rw [wBytes_length] at e
  rw [put64, putBytes_plain (reg_cells p hn v) psn, e]

/-! Older outstanding results give way (R17). -/

theorem dropOuts_or (s : State) (h : Nat) (pas : List Nat) :
    dropOuts s h pas = s ∨ dropOuts s h pas = modSlot s h fun x =>
      { x with outs := x.outs.map fun o => { o with dest := o.dest.filter (fun d => !pas.contains d.1) } } := by
  unfold dropOuts; split
  · exact .inl rfl
  · exact .inr rfl

@[simp] theorem dropOuts_mem (s : State) (h : Nat) (p : List Nat) : (dropOuts s h p).mem = s.mem := by
  obtain e | e := dropOuts_or s h p <;> rw [e]; rfl
@[simp] theorem dropOuts_poison (s : State) (h : Nat) (p : List Nat) : (dropOuts s h p).poison = s.poison := by
  obtain e | e := dropOuts_or s h p <;> rw [e]; rfl
@[simp] theorem dropOuts_module (s : State) (h : Nat) (p : List Nat) : (dropOuts s h p).module = s.module := by
  obtain e | e := dropOuts_or s h p <;> rw [e]; rfl
@[simp] theorem dropOuts_cur (s : State) (h : Nat) (p : List Nat) : (dropOuts s h p).cur = s.cur := by
  obtain e | e := dropOuts_or s h p <;> rw [e]; rfl

theorem getSlot_dropOuts_ne (s : State) {h k : Nat} (p : List Nat) (e : k ≠ h) :
    getSlot (dropOuts s h p) k = getSlot s k := by
  obtain e' | e' := dropOuts_or s h p <;> rw [e']
  exact getSlot_modSlot_ne _ _ e

/-- The slot keeps everything but the bytes that its older results had still to write. -/
theorem getSlot_dropOuts_self (s : State) (h : Nat) (p : List Nat) :
    getSlot (dropOuts s h p) h = { getSlot s h with
      outs := (getSlot s h).outs.map fun o => { o with dest := o.dest.filter (fun d => !p.contains d.1) } } := by
  unfold dropOuts
  split
  · rename_i hall
    have : (getSlot s h).outs = (getSlot s h).outs.map fun o => { o with dest := o.dest.filter (fun d => !p.contains d.1) } := by
      conv_lhs => rw [← List.map_id (getSlot s h).outs]
      apply List.map_congr_left
      intro o ho
      have h1 := List.all_eq_true.mp hall o ho
      have : o.dest.filter (fun d => !p.contains d.1) = o.dest := by
        rw [List.filter_eq_self]; exact fun d hd => List.all_eq_true.mp h1 d hd
      rw [this]; rfl
    conv_lhs => rw [show getSlot s h = { getSlot s h with outs := (getSlot s h).outs } from rfl, this]
  · simp

/-! Writing a register. -/

/-- Everything that writing a workspace word changes: its eight bytes, their poison, the reservations and the watches
on them, and what the hart's older results had still to write there (R12, R17, R257). -/
theorem writeReg_eq {s : State} {h : Nat} (p : Placed s h) {n : Nat} (h0 : n ≠ 0) (hn : n < 64) (v : Word) (psn : Bool) :
    writeReg s h n v psn = dropOuts (markStale { s with
        mem := memSetAll ((span (regPa s h n) 8).zip (wBytes v)) s.mem
        poison := poisonAfter (span (regPa s h n) 8) psn s.poison
        lrs := s.lrs.filter fun e => !((span (regPa s h n) 8).any fun a => a / 8 = e.2) } (span (regPa s h n) 8))
      h (span (regPa s h n) 8) := by
  rw [writeReg, if_neg h0, put64_reg p hn]

@[simp] theorem writeReg_zero (s : State) (h : Nat) (v : Word) (psn : Bool) : writeReg s h 0 v psn = s := rfl

theorem writeReg_mem {s : State} {h : Nat} (p : Placed s h) {n : Nat} (h0 : n ≠ 0) (hn : n < 64) (v : Word) (psn : Bool) :
    (writeReg s h n v psn).mem = memSetAll ((span (regPa s h n) 8).zip (wBytes v)) s.mem := by
  rw [writeReg_eq p h0 hn]; simp

/-- Bytes outside the word keep their values. -/
theorem writeReg_mem_frame {s : State} {h : Nat} (p : Placed s h) {n : Nat} (hn : n < 64) (v : Word) (psn : Bool)
    {a : Nat} (ha : n = 0 ∨ a < regPa s h n ∨ regPa s h n + 8 ≤ a) :
    memGet (writeReg s h n v psn).mem a = memGet s.mem a := by
  by_cases h0 : n = 0
  · subst h0; rfl
  rw [writeReg_mem p h0 hn, memGet_memSetAll_ne]
  intro e he
  have := mem_span.mp (List.of_mem_zip he).1
  omega

theorem writeReg_wf {s : State} {h : Nat} (p : Placed s h) {n : Nat} (hn : n < 64) (v : Word) (psn : Bool)
    (w : Memory.wf s.mem = true) : Memory.wf (writeReg s h n v psn).mem = true := by
  by_cases h0 : n = 0
  · subst h0; exact w
  · rw [writeReg_mem p h0 hn]; exact memSetAll_wf _ w

/-- The slot after a register write. -/
theorem getSlot_writeReg_self {s : State} {h : Nat} (p : Placed s h) {n : Nat} (h0 : n ≠ 0) (hn : n < 64) (v : Word)
    (psn : Bool) : getSlot (writeReg s h n v psn) h = { getSlot s h with
      outs := (getSlot s h).outs.map fun o =>
        { o with dest := o.dest.filter (fun d => !(span (regPa s h n) 8).contains d.1) } } := by
  rw [writeReg_eq p h0 hn, getSlot_dropOuts_self]; simp only [getSlot_markStale]; rfl

theorem getSlot_writeReg_ne {s : State} {h k : Nat} (p : Placed s h) {n : Nat} (hn : n < 64) (v : Word) (psn : Bool)
    (e : k ≠ h) : getSlot (writeReg s h n v psn) k = getSlot s k := by
  by_cases h0 : n = 0
  · subst h0; rfl
  · rw [writeReg_eq p h0 hn, getSlot_dropOuts_ne _ _ e, getSlot_markStale]; rfl

/-- A register write moves no frame. -/
theorem wp_writeReg {s : State} {h k : Nat} (p : Placed s h) {n : Nat} (hn : n < 64) (v : Word) (psn : Bool) :
    (getSlot (writeReg s h n v psn) k).wp = (getSlot s k).wp := by
  by_cases h0 : n = 0
  · subst h0; rfl
  by_cases e : k = h
  · subst e; rw [getSlot_writeReg_self p h0 hn]
  · rw [getSlot_writeReg_ne p hn v psn e]

/-- A register write changes nothing else of the module. -/
theorem writeReg_units {s : State} {h : Nat} (p : Placed s h) {n : Nat} (hn : n < 64) (v : Word) (psn : Bool) :
    SameButUnits s { writeReg s h n v psn with mem := s.mem, poison := s.poison, lrs := s.lrs, slots := s.slots } := by
  by_cases h0 : n = 0
  · subst h0; rfl
  rw [writeReg_eq p h0 hn]
  generalize span (regPa s h n) 8 = l
  obtain e | e := dropOuts_or (markStale { s with
        mem := memSetAll (l.zip (wBytes v)) s.mem
        poison := poisonAfter l psn s.poison
        lrs := s.lrs.filter fun e => !(l.any fun a => a / 8 = e.2) } l) h l <;>
  · rw [e]; simp [SameButUnits]

theorem writeReg_module {s : State} {h : Nat} (p : Placed s h) {n : Nat} (hn : n < 64) (v : Word) (psn : Bool) :
    (writeReg s h n v psn).module = s.module := (congrArg State.module (writeReg_units p hn v psn) :)

theorem writeReg_cur {s : State} {h : Nat} (p : Placed s h) {n : Nat} (hn : n < 64) (v : Word) (psn : Bool) :
    (writeReg s h n v psn).cur = s.cur := (congrArg State.cur (writeReg_units p hn v psn) :)

theorem regPa_writeReg {s : State} {h k m : Nat} (p : Placed s h) {n : Nat} (hn : n < 64) (v : Word) (psn : Bool) :
    regPa (writeReg s h n v psn) k m = regPa s k m := by
  simp only [regPa, scratchPa, writeReg_module p hn, wp_writeReg p hn]

/-- The word of eight bytes outside HBM. -/
theorem rd64_plain {s : State} {pa : Nat} (h : ∀ a ∈ span pa 8, isHbm a = false) :
    rd64 s pa = ofBytes ((span pa 8).map (memGet s.mem)) := by
  rw [rd64]; congr 1; exact List.map_congr_left fun a ha => rdByte_plain (h a ha) 0

theorem reg_plain {s : State} {h : Nat} (p : Placed s h) {n : Nat} (hn : n < 64) :
    ∀ a ∈ span (regPa s h n) 8, isHbm a = false := by
  intro a ha
  have h1 := mem_span.mp ha
  have := isHbm_reg (i := a - regPa s h n) p hn (by omega)
  rwa [show regPa s h n + (a - regPa s h n) = a by omega] at this

/-- A register reads what was written to it; word 0 reads zero (R257). -/
theorem readReg_writeReg_self {s : State} {h : Nat} (p : Placed s h) (w : Memory.wf s.mem = true) {n : Nat}
    (hn : n < 64) (v : Word) (psn : Bool) :
    readReg (writeReg s h n v psn) h n = if n = 0 then 0 else v := by
  by_cases h0 : n = 0
  · subst h0; simp [readReg]
  rw [readReg, if_neg h0, if_neg h0, regPa_writeReg p hn, rd64_plain (reg_plain p hn), writeReg_mem p h0 hn]
  have := map_memGet_memSetAll (wBytes v) w (regPa s h n)
  rw [wBytes_length] at this
  rw [this, ofBytes_wBytes]

/-- The other registers of the frame keep their values. -/
theorem readReg_writeReg_ne {s : State} {h : Nat} (p : Placed s h) {m n : Nat} (hm : m < 64) (hn : n < 64)
    (e : m ≠ n) (v : Word) (psn : Bool) : readReg (writeReg s h n v psn) h m = readReg s h m := by
  by_cases h0 : m = 0
  · subst h0; simp [readReg]
  rw [readReg, readReg, if_neg h0, if_neg h0, regPa_writeReg p hn, rd64_plain (reg_plain p hm), rd64_plain (reg_plain p hm)]
  congr 1
  apply List.map_congr_left
  intro a ha
  have h1 := mem_span.mp ha
  apply writeReg_mem_frame p hn
  unfold regPa scratchPa at *
  omega

end Sys2Proof.Machine
end

