-- ==== Sys2Proof/Laws/Retire.lean ====
section
/-! SUPPORT. Issue, operands and retirement: the lemmas that a proof about an instruction cites instead of unfolding
the shared operations. -/

namespace Sys2Proof.Machine

/-- An instruction that may issue executes. -/
theorem issue_of_may {i : Instr} {g : Gov} {mode : Nat} {s : State} {k : State → State} (h : MayIssue s g mode) :
    issue i g mode s k = k s := by
  have : ¬ modeOf s s.cur < mode := Nat.not_lt.mpr h.1
  simp [issue, this, h.2.1, h.2.2]

/-- One that its mode or a pending prefix forbids is an ILLEGAL_INSTRUCTION. -/
theorem issue_of_not {i : Instr} {g : Gov} {mode : Nat} {s : State} {k : State → State}
    (h : modeOf s s.cur < mode ∨ prefixOk s s.cur g = false) : issue i g mode s k = raise s (illegal i) := by
  unfold issue
  rw [if_pos]
  rcases h with h | h <;> simp [h]

/-- Clean operands are consumed without effect. -/
theorem consume_of_clean {s : State} {rs : List Nat} {k : State → Bool → State} (h : Clean s rs) :
    consume s rs k = k s false := by
  have : rs.find? (opPsn s) = none := by
    rw [List.find?_eq_none]; intro r hr; simp [h r hr]
  simp [consume, consumeBy, this]

/-- A control instruction with clean operands goes on. -/
theorem control_of_clean {s : State} {rs : List (Fin 32)} {v : Word} {k : State → State}
    (h : Clean s (rs.map (·.val))) : control s rs v k = k s := by
  have : (rs.any fun r => opPsn s r.val) = false := by
    rw [List.any_eq_false]; intro r hr; simp [h r.val (List.mem_map_of_mem hr)]
  simp [control, this]

/-! Poison of a word (R94, R95). -/

theorem mem_sIns {k x : Nat} {l : List Nat} : x ∈ sIns k l ↔ x = k ∨ x ∈ l := by
  induction l with
  | nil => simp [sIns]
  | cons a l ih =>
    simp only [sIns]
    split
    · simp
    · split
      · rename_i h; subst h; simp
      · simp [ih]; tauto

theorem mem_sDel {k x : Nat} {l : List Nat} : x ∈ sDel k l ↔ x ≠ k ∧ x ∈ l := by
  simp [sDel, and_comm]

/-- Units of poison that no written byte belongs to keep their mark. -/
theorem mem_poisonAfter_other {pas : List Nat} {psn : Bool} {p : List Nat} {x : Nat}
    (h : ∀ a ∈ pas, (granule a).1 ≠ x) : x ∈ poisonAfter pas psn p ↔ x ∈ p := by
  refine foldl_keeps (P := fun q => x ∈ q ↔ x ∈ p) _ _ _ Iff.rfl fun b a ha hb => ?_
  have := h a ha
  simp only
  split
  · rw [mem_sIns, hb]; simp [Ne.symm this]
  · split
    · rw [mem_sDel, hb]; simp [Ne.symm this]
    · exact hb

/-- A clean write of the whole unit clears it, and a poisoned one marks it. -/
theorem mem_poisonAfter_unit {g : Nat} {n : Nat} (hn : 0 < n) {psn : Bool} {p : List Nat}
    (h : ∀ a ∈ span g n, granule a = (g, n)) : g ∈ poisonAfter (span g n) psn p ↔ psn = true := by
  have key : ∀ (l : List Nat) (q : List Nat), l ≠ [] → (∀ a ∈ l, granule a = (g, n)) →
      (g ∈ l.foldl (fun p a =>
        let e := granule a
        if psn then sIns e.1 p
        else if p.contains e.1 && (span e.1 e.2).all ((span g n).contains ·) then sDel e.1 p else p) q ↔ psn = true) := by
    intro l
    induction l with
    | nil => intro q h; exact absurd rfl h
    | cons a l ih =>
      intro q _ hl
      simp only [List.foldl_cons, hl a List.mem_cons_self]
      have all : (span g n).all ((span g n).contains ·) = true := by simp
      by_cases hnil : l = []
      · subst hnil
        simp only [List.foldl_nil, all, Bool.and_true]
        by_cases hp : psn = true
        · simp [hp, mem_sIns]
        · simp only [hp, Bool.false_eq_true, if_false, iff_false]
          split
          · simp [mem_sDel]
          · rename_i hc; simpa using hc
      · exact ih _ hnil fun a ha => hl a (List.mem_cons_of_mem _ ha)
  exact key (span g n) p (by cases n with | zero => omega | succ n => simp [span]) h

/-- The unit of poison of a register byte is its word. -/
theorem granule_reg {s : State} {h : Nat} (p : Placed s h) {n : Nat} (hn : n < 64) :
    ∀ a ∈ span (regPa s h n) 8, granule a = (regPa s h n, 8) := by
  intro a ha
  have hb := reg_plain p hn a ha
  have := mem_span.mp ha
  have := p.2.2
  unfold granule; rw [hb]
  simp only [Bool.false_eq_true, if_false, Prod.mk.injEq, and_true]
  unfold regPa scratchPa scratch0 at *
  omega

/-- The poison of a register after a write. -/
theorem isPsn_writeReg_self {s : State} {h : Nat} (p : Placed s h) {n : Nat} (h0 : n ≠ 0) (hn : n < 64) (v : Word)
    (psn : Bool) : isPsn (writeReg s h n v psn) (regPa s h n) = psn := by
  have hg := granule_reg p hn (regPa s h n) (mem_span.mpr ⟨Nat.le_refl _, by omega⟩)
  have := mem_poisonAfter_unit (p := s.poison) (psn := psn) (by omega) (granule_reg p hn)
  rw [isPsn, hg, writeReg_eq p h0 hn, dropOuts_poison, markStale_poison]
  simp only [List.contains_eq_mem]
  cases psn <;> simp_all

/-- Other units of poison keep their mark. -/
theorem isPsn_writeReg_ne {s : State} {h : Nat} (p : Placed s h) {n : Nat} (hn : n < 64) (v : Word)
    (psn : Bool) {a : Nat} (ha : n = 0 ∨ (granule a).1 ≠ regPa s h n) : isPsn (writeReg s h n v psn) a = isPsn s a := by
  by_cases h0 : n = 0
  · subst h0; rfl
  have ha := ha.resolve_left h0
  rw [isPsn, isPsn, writeReg_eq p h0 hn, dropOuts_poison, markStale_poison]
  simp only [List.contains_eq_mem]
  have := mem_poisonAfter_other (psn := psn) (p := s.poison) (pas := span (regPa s h n) 8) (x := (granule a).1)
    (fun b hb => by rw [granule_reg p hn b hb]; exact ha.symm)
  simp [this]

/-! Cores and clusters after a write. -/

theorem unitsKept_refl (s : State) (pas : List Nat) : UnitsKept s s pas := ⟨fun _ => rfl, fun _ => rfl, fun _ => ⟨rfl, rfl⟩⟩

theorem markOne_core (s : State) (core ctx v : Nat) (c : StaleCause) (o k : Nat) :
    { getCore (markOne s core ctx v c o) k with arr := [] } = { getCore s k with arr := [] } := by
  unfold markOne; simp only
  split
  · rfl
  · by_cases e : k = core
    · subst e; simp [bumpCl, modTab]
    · simp [bumpCl, modTab, getCore_modCore_ne _ _ e]

theorem markOne_cluster (s : State) (core ctx v : Nat) (c : StaleCause) (o k : Nat) :
    { getCluster (markOne s core ctx v c o) k with
        cnt := [], arr := { (getCluster (markOne s core ctx v c o) k).arr with notices := [] } } =
    { getCluster s k with cnt := [], arr := { (getCluster s k).arr with notices := [] } } := by
  unfold markOne; simp only
  split
  · rfl
  · by_cases e : k = clusterOf core
    · subst e; simp [bumpCl, modTab]
    · simp [bumpCl, modTab, getCluster_modCluster_ne _ _ e]

/-- Telling the watches of a write keeps the units as `UnitsKept` says. -/
theorem unitsKept_markStale (s : State) (pas : List Nat) : UnitsKept s (markStale s pas) pas := by
  refine ⟨fun k => ?_, fun k => ?_, fun h => ?_⟩
  · exact foldl_keeps (P := fun b => ({ getCore b k with arr := [] } : Core) = { getCore s k with arr := [] }) _ _ _ rfl
      fun _ _ _ hb => foldl_keeps (P := fun b => ({ getCore b k with arr := [] } : Core) = { getCore s k with arr := [] })
        _ _ _ hb fun _ _ _ hb' => (markOne_core ..).trans hb'
  · exact foldl_keeps (P := fun b => ({ getCluster b k with
          cnt := [], arr := { (getCluster b k).arr with notices := [] } } : Cluster) =
        { getCluster s k with cnt := [], arr := { (getCluster s k).arr with notices := [] } }) _ _ _ rfl
      fun _ _ _ hb => foldl_keeps (P := fun b => ({ getCluster b k with
          cnt := [], arr := { (getCluster b k).arr with notices := [] } } : Cluster) =
        { getCluster s k with cnt := [], arr := { (getCluster s k).arr with notices := [] } })
        _ _ _ hb fun _ _ _ hb' => (markOne_cluster ..).trans hb'
  · have : markStale s pas = s :=
      foldl_keeps (P := fun b => b = s) _ _ _ rfl fun b e he hb => by
        obtain ⟨n, c⟩ := e
        have := h _ he
        simp only at this ⊢
        rw [this]; simpa using hb
    rw [this]; exact ⟨rfl, rfl⟩

theorem unitsKept_writeReg {s : State} {h : Nat} (p : Placed s h) {n : Nat} (hn : n < 64) (v : Word) (psn : Bool) :
    UnitsKept s (writeReg s h n v psn) (regBytes s h n) := by
  by_cases h0 : n = 0
  · subst h0; exact unitsKept_refl s _
  rw [writeReg_eq p h0 hn, regBytes, if_neg h0]
  have := unitsKept_markStale { s with
        mem := memSetAll ((span (regPa s h n) 8).zip (wBytes v)) s.mem
        poison := poisonAfter (span (regPa s h n) 8) psn s.poison
        lrs := s.lrs.filter fun e => !((span (regPa s h n) 8).any fun a => a / 8 = e.2) } (span (regPa s h n) 8)
  revert this
  generalize span (regPa s h n) 8 = l
  intro this
  obtain e | e := dropOuts_or (markStale { s with
        mem := memSetAll (l.zip (wBytes v)) s.mem
        poison := poisonAfter l psn s.poison
        lrs := s.lrs.filter fun e => !(l.any fun a => a / 8 = e.2) } l) h l <;>
  · rw [e]; exact this

theorem restKept_writeReg {s : State} (p : Placed s s.cur) {n : Nat} (hn : n < 64) (v : Word) (psn : Bool) :
    RestKept s (writeReg s s.cur n v psn) := by
  have u := writeReg_units p hn v psn
  exact ⟨(congrArg State.module u :), (congrArg State.populated u :), (congrArg State.cycle u :),
    (congrArg State.cur u :), (congrArg State.empty u :), (congrArg State.keytag u :), (congrArg State.flags u :), (congrArg State.flight u :),
    (congrArg State.uid u :), (congrArg State.ks u :), (congrArg State.tr u :), (congrArg State.fab u :),
    (congrArg State.sched u :), fun k e => getSlot_writeReg_ne p hn v psn e⟩

/-! Retirement. -/

/-- What retirement leaves of the module. -/
theorem restKept_retireH {s t : State} (r : RestKept s t) (sw : Bool) (pc : Word) :
    RestKept s (retireH t s.cur sw pc) := by
  obtain ⟨h1, h2, h3, h4, h5, h6, h7, h8, h9, h10, h11, h12, h13, h14⟩ := r
  exact ⟨h1, h2, h3, h4, h5, h6, h7, h8, h9, h10, h11, h12, h13, fun k e => by
    rw [retireH, getSlot_modSlot_ne _ _ e]; exact h14 k e⟩

theorem unitsKept_retireH {s t : State} {l : List Nat} (u : UnitsKept s t l) (h : Nat) (sw : Bool) (pc : Word) :
    UnitsKept s (retireH t h sw pc) l := u

theorem wp_retireH (s : State) (h k : Nat) (sw : Bool) (pc : Word) :
    (getSlot (retireH s h sw pc) k).wp = (getSlot s k).wp := by
  by_cases e : k = h
  · subst e; simp [retireH]
  · rw [retireH, getSlot_modSlot_ne _ _ e]

/-- Retirement changes no storage: registers read as before. -/
@[simp] theorem readReg_retireH (s : State) (h k n : Nat) (sw : Bool) (pc : Word) :
    readReg (retireH s h sw pc) k n = readReg s k n := by
  have : regPa (retireH s h sw pc) k n = regPa s k n := by
    unfold regPa scratchPa; rw [wp_retireH]; rfl
  unfold readReg; rw [this]; rfl

@[simp] theorem regPsn_retireH (s : State) (h k n : Nat) (sw : Bool) (pc : Word) :
    regPsn (retireH s h sw pc) k n = regPsn s k n := by
  have : regPa (retireH s h sw pc) k n = regPa s k n := by
    unfold regPa scratchPa; rw [wp_retireH]; rfl
  unfold regPsn; rw [this]; rfl

/-- RESULT AND FRAME of a register write and retirement. -/
theorem wroteReg_retireH {s : State} (o : Ordinary s) {d : Nat} (hd : d < 64) (v : Word) (psn sw : Bool) (pc : Word) :
    WroteReg s (retireH (writeReg s s.cur d v psn) s.cur sw pc) sw d v psn pc := by
  obtain ⟨p, w⟩ := o
  refine ⟨fun n hn => ?_, fun n hn => ?_, fun a ha => ?_, ?_, ?_, ?_⟩
  · rw [readReg_retireH]
    by_cases e : n = d
    · subst e; rw [readReg_writeReg_self p w hn]; by_cases h0 : n = 0 <;> simp [h0, readReg]
    · rw [readReg_writeReg_ne p hn hd e]; simp [e]
  · rw [regPsn_retireH]
    by_cases h0 : n = 0
    · subst h0; simp [regPsn]
    have hpa := regPa_writeReg (k := s.cur) (m := n) p hd v psn
    simp only [regPsn, hpa, h0, ne_eq, not_false_eq_true, decide_true, Bool.true_and, and_true]
    by_cases e : n = d
    · subst e; simp only [if_true]; exact isPsn_writeReg_self p h0 hn v psn
    · rw [if_neg e, isPsn_writeReg_ne p hd]
      by_cases hd0 : d = 0
      · exact .inl hd0
      · right
        rw [granule_reg p hn (regPa s s.cur n) (mem_span.mpr ⟨Nat.le_refl _, by omega⟩)]
        unfold regPa scratchPa; omega
  · show memGet (writeReg s s.cur d v psn).mem a = _
    apply writeReg_mem_frame p hd
    unfold regBytes at ha
    by_cases hd0 : d = 0
    · exact .inl hd0
    · rw [if_neg hd0, mem_span] at ha; omega
  · by_cases hd0 : d = 0
    · subst hd0
      simp only [writeReg_zero, WentOn, retireH, getSlot_modSlot_self, SlotRegsKept, pfxOf, and_self]
      exact ⟨trivial, rfl, trivial⟩
    · simp only [WentOn, retireH, getSlot_modSlot_self, SlotRegsKept, pfxOf, getSlot_writeReg_self p hd0 hd, and_self]
      exact ⟨trivial, rfl, trivial⟩
  · exact unitsKept_retireH (unitsKept_writeReg p hd v psn) _ _ _
  · exact restKept_retireH (restKept_writeReg p hd v psn) sw pc

/-- An instruction that writes nothing and goes on. -/
theorem wroteReg_none {s : State} (o : Ordinary s) (sw : Bool) (pc : Word) :
    WroteReg s (retireH s s.cur sw pc) sw 0 0 false pc := by
  have := wroteReg_retireH o (d := 0) (by omega) 0 false sw pc
  rwa [writeReg_zero] at this

theorem retire_eq (s : State) (sw : Bool) : retire s sw = retireH s s.cur sw ((getSlot s s.cur).pc + 4) := rfl
theorem retireTo_eq (s : State) (sw : Bool) (pc : Word) : retireTo s sw pc = retireH s s.cur sw pc := rfl

/-- A register write does not move the PC. -/
theorem pc_writeReg {s : State} {h : Nat} (p : Placed s h) {n : Nat} (hn : n < 64) (v : Word) (psn : Bool) :
    (getSlot (writeReg s h n v psn) h).pc = (getSlot s h).pc := by
  by_cases h0 : n = 0
  · subst h0; rfl
  · rw [getSlot_writeReg_self p h0 hn]

/-- RESULT AND FRAME of a scalar instruction that may issue on clean operands (R258, R263). -/
theorem scalar_spec {s : State} (o : Ordinary s) {i : Instr} {sw : Bool} {d : Fin 32} {rs : List (Fin 32)} {v : Word}
    (m : MayIssue s .none 0) (c : Clean s (rs.map (·.val))) :
    WroteReg s (scalar i sw d rs v s) sw d.val v false ((getSlot s s.cur).pc + 4) := by
  have hd : d.val < 64 := by omega
  rw [scalar, issue_of_may m, consume_of_clean c, retire_eq, writeReg_cur o.1 hd, pc_writeReg o.1 hd]
  exact wroteReg_retireH o hd v false sw _

/-- RESULT AND FRAME of an immediate instruction (R265). -/
theorem scalarImm_spec {s : State} (o : Ordinary s) {i : Instr} {sw : Bool} {d a : Fin 32} {imm : BitVec 15}
    {f : Word → Word → Word} (m : MayIssue s .imm 0) (c : Clean s [a.val]) :
    WroteReg s (scalarImm i sw d a imm f s) sw d.val (f (reg s a) (immOf s imm)) false ((getSlot s s.cur).pc + 4) := by
  have hd : d.val < 64 := by omega
  rw [scalarImm, issue_of_may m, consume_of_clean c, retire_eq, writeReg_cur o.1 hd, pc_writeReg o.1 hd]
  exact wroteReg_retireH o hd _ false sw _

/-- RESULT AND FRAME of a result that is outstanding and the hart's retirement. -/
theorem willWrite_retireH (s : State) (d : Nat) (v : Word) (psn sw : Bool) (pc : Word) :
    WillWrite s (retireH (addResult s s.cur d v psn) s.cur sw pc) sw d v psn pc := by
  by_cases h0 : d = 0
  · subst h0
    refine ⟨by simp [addResult, retireH], rfl, rfl, rfl, rfl, rfl, ?_, ?_⟩
    · simp [addResult, WentOn, retireH, SlotRegsKept, pfxOf]; rfl
    · exact restKept_retireH (s := s) (t := s) ⟨rfl, rfl, rfl, rfl, rfl, rfl, rfl, rfl, rfl, rfl, rfl, rfl, rfl, fun _ _ => rfl⟩ sw pc
  · have e : addResult s s.cur d v psn = modSlot (dropOuts s s.cur (span (regPa s s.cur d) 8)) s.cur fun x =>
        { x with outs := x.outs ++ [{ dest := (span (regPa s s.cur d) 8).zip (span 0 8), val := some (wBytes v),
                                      psn := psn, src := none, seq := s.uid }] } := by rw [addResult, if_neg h0]
    rw [e]
    have g := getSlot_dropOuts_self s s.cur (span (regPa s s.cur d) 8)
    obtain h | h := dropOuts_or s s.cur (span (regPa s s.cur d) 8)
    all_goals
      refine ⟨?_, ?_, ?_, ?_, ?_, ?_, ?_, ?_⟩
      · simp only [retireH, getSlot_modSlot_self, g, if_neg h0]
      · rw [h]; rfl
      · rw [h]; rfl
      · rw [h]; rfl
      · rw [h]; rfl
      · rw [h]; rfl
      · simp [WentOn, retireH, g, SlotRegsKept, pfxOf]; rfl
      · apply restKept_retireH
        refine ⟨?_, ?_, ?_, ?_, ?_, ?_, ?_, ?_, ?_, ?_, ?_, ?_, ?_, fun k ek => ?_⟩
        all_goals first
          | (rw [getSlot_modSlot_ne _ _ ek]; exact getSlot_dropOuts_ne _ _ ek)
          | (rw [h]; rfl)

theorem pc_addResult (s : State) (h d : Nat) (v : Word) (psn : Bool) :
    (getSlot (addResult s h d v psn) h).pc = (getSlot s h).pc ∧ (addResult s h d v psn).cur = s.cur := by
  unfold addResult
  split
  · exact ⟨rfl, rfl⟩
  · simp [getSlot_dropOuts_self]

/-- RESULT AND FRAME of a scalar instruction with an outstanding result (R263, R367). -/
theorem scalarLate_spec {s : State} {i : Instr} {sw : Bool} {d : Fin 32} {rs : List (Fin 32)} {v : Word}
    (m : MayIssue s .none 0) (c : Clean s (rs.map (·.val))) :
    WillWrite s (scalarLate i sw d rs v s) sw d.val v false ((getSlot s s.cur).pc + 4) := by
  rw [scalarLate, issue_of_may m, consume_of_clean c, retire_eq, (pc_addResult ..).2, (pc_addResult ..).1]
  exact willWrite_retireH s _ v false sw _

/-- RESULT AND FRAME of a branch (R268). -/
theorem branch_spec {s : State} (o : Ordinary s) {i : Instr} {sw : Bool} {a b : Fin 32} {off : BitVec 15}
    {taken : Word → Word → Bool} (m : MayIssue s .none 0) (c : Clean s [a.val, b.val]) :
    WroteReg s (branch i sw a b off taken s) sw 0 0 false
      (if taken (reg s a) (reg s b) then (getSlot s s.cur).pc + 4 * off.signExtend 64 else (getSlot s s.cur).pc + 4) := by
  have c' : Clean s ([a, b].map (·.val)) := c
  rw [branch, issue_of_may m, control_of_clean c']
  simp only
  split
  · exact wroteReg_none o sw _
  · exact wroteReg_none o sw _

end Sys2Proof.Machine
end

