-- ==== Sys2Proof/Tests/Slice0.lean ====
section
/-! SUPPORT. Tests: the checks of well-formedness, words of the spec's encodings decoded, single steps with results
taken from the manual, and for each statement with hypotheses a state that meets them. -/

namespace Sys2Proof.Tests

open Sys2Proof Sys2Proof.Machine

set_option Elab.async false
set_option synthInstance.maxSize 1000

/-! Small states. -/

/-- The table entries that map the low 512 MiB onto HBM from 512 MiB, readable, writable and executable (R408). -/
def tables : List (Nat × Word) :=
  [(0x100000, wd (2 ^ 63 + 0x120000)), (0x120000, wd (0x130000 + 1)), (0x130000, wd (0x20000000 + 2 + 2 ^ 55 + 2 ^ 56 + 2 ^ 57))]
def poke (s : State) (l : List (Nat × Word)) : State := l.foldl (fun s e => put64 s e.1 e.2 false) s
/-- Hart 0 in Kernel mode, its frame at 0x800. -/
def slot0 : Slot := { st := .issuing, pc := wd (window0 + 0x4000), wp := 0x800, hsw := 1 }
def base : State :=
  modTr (poke { State.reset with slots := [(0, slot0)] } tables) fun t => { t with regs := tput 0x100 (wd 0x100001) t.regs }
/-- Words w1 and on. -/
def regs (l : List Word) (s : State := base) : State := writeRegs s 0 1 l
def hs (w : Word) (s : State) : State := modHsw s 0 fun _ => w
/-- The physical address of a byte of core 0's scratchpad. -/
def own (o : Nat) : Nat := scratchPa base 0 o
/-- Eight words from an address. -/
def eight (o : Nat) (ws : List Word) : List (Nat × Word) := (ws.zip (List.range 8)).map fun e => (o + 8 * e.2, e.1)
/-- A nest record (R127): base, four pairs of count and stride, three zero words. -/
def nestRec (b : Nat) (l : List (Nat × Nat)) : List Word := wd b :: (l.map fun e => wd (e.1 * 2 ^ 48 + e.2)) ++ [0, 0, 0]
def nestAt (d : List Word) : Nest := (nestOf d).getD ⟨0, [], []⟩
def okOr {ε α : Type} (d : α) : Except ε α → α
  | .ok x => x
  | .error _ => d

/-- The state; the same with a poisoned word; and that with PTE set. -/
def poi (r : Nat) (s : State) : State := writeReg s 0 r (readReg s 0 r) true
def pt (s : State) : State := modHsw s 0 (· ||| 64)
def kinds (r : Nat) (s : State) : List State := [s, poi r s, pt (poi r s)]

/-! Statements that hide an existential, from a check of the state. -/

def recordOk (s : State) (va : Word) (d : List Word) : Bool :=
  va.toNat % 64 = 0 && (match readUnit s va.toNat 64 with
    | .ok bs false => decide (d = (span 0 8).map fun i => ofBytes ((bs.drop (8 * i)).take 8))
    | _ => false)

theorem recordAt_of {s : State} {va : Word} {d : List Word} (h : recordOk s va d = true) : RecordAt s va d := by
  simp only [recordOk, Bool.and_eq_true, decide_eq_true_eq] at h
  obtain ⟨h1, h2⟩ := h
  split at h2
  · exact ⟨h1, _, by assumption, of_decide_eq_true h2⟩
  · simp at h2

def parsesOk (s : State) (q typ f : Nat) (p : List (BitVec 32)) : Bool :=
  let c := getCq s q
  decide (c.st = .mapped ∧ cqOn c = true ∧ c.pend = none ∧ standStill s = false ∧ s.tr.runlist = [] ∧ 1 ≤ typ ∧ typ ≤ 12 ∧
    f < 4) &&
  (match packetWord s c 0 with
   | .ok hdr => decide (bits hdr.toNat 24 8 = typ ∧ bits hdr.toNat 8 16 = p.length ∧ bits hdr.toNat 0 8 = f)
   | _ => false) &&
  decide ((countOf typ).any (· ≠ p.length) = false ∧ p.length < hasWords c ∧ payloadWords s c p.length 1 = .ok p ∧
    payloadFault s c typ p = none ∧ (f % 2 = 1 → ∀ l ∈ s.ks.launches, l.queue ≠ some q))

theorem parses_of {s : State} {q typ f : Nat} {p : List (BitVec 32)} (h : parsesOk s q typ f p = true) :
    Parses s q typ f p := by
  simp only [parsesOk, Bool.and_eq_true, decide_eq_true_eq] at h
  obtain ⟨⟨⟨h1, h2, h3, h4, h5, h6, h7, h8⟩, h9⟩, h10, h11, h12, h13, h14⟩ := h
  refine ⟨h1, h2, h3, h4, h5, h6, h7, h8, ?_, h10, h11, h12, h13, h14⟩
  split at h9
  · exact ⟨_, by assumption, of_decide_eq_true h9⟩
  · simp at h9

/-! Well-formedness: a term for each check, which the check refuses. -/

/-- One ill-formed term for each arm of `Instr.wf`. -/
theorem test_ill_formed : ∀ i ∈ [Instr.lxd false 0 4 5 .probe, .lxb false 31 4 5 .probe, .lxdRemote false 6 4 5 .probe, .sxd false 9 4 5 .probe,
    .ldm false 4 30 2 .plain, .stm false 4 20 3 .probe, .fence false .sc .cluster, .ldsc false 5 6 .core, .stsc false 5 6 .hart,
    .vadd false ⟨0, true⟩ ⟨1, true⟩ ⟨2, false⟩ .lg6, .vsqrt false ⟨0, true⟩ ⟨1, true⟩ .i32, .vshl false ⟨0, true⟩ ⟨1, true⟩ ⟨2, false⟩ .bf16,
    .vcvt false ⟨0, true⟩ ⟨1, true⟩ .lg6 .fp32, .mmt false 0 10 31 .w4 false false 0, .mmt false 0 10 12 .t5 true false 0,
    .mmd false 2 4 5 .lg6 .bf16, .mskcnt false 2 0 true, .mskcnt false 2 29 true, .wlpopb false 2 17 15 12,
    .inbox false 25, .inbox false 0, .qpop false 0 4 31, .vote false 0 9 .sum 16, .rep 0], i.wf = false := by decide

/-! Decoding: words written out field by field from R113, R242 and R248 to R254. -/

theorem test_decode_arith : ∀ e ∈ [
    ((0x0341FC00 : Nat), Instr.add false 20 3 31), (0x8351F801, .sub true 21 3 30), (0x0361F402, .and false 22 3 29),
    (0x8371F003, .or true 23 3 28), (0x0381EC04, .xor false 24 3 27), (0x8391E805, .andn true 25 3 26),
    (0x03A1E406, .addsat false 26 3 25), (0x83B1E007, .subsat true 27 3 24)],
    decodeWord e.1 = .ok e.2 ∧ encodeNat e.2 = e.1 := by decide

theorem test_decode_shift : ∀ e ∈ [
    ((0x8418A400 : Nat), Instr.sll true 1 17 9), (0x0428A401, .srl false 2 17 9), (0x8438A402, .sra true 3 17 9),
    (0x0448A403, .rol false 4 17 9), (0x8458A404, .ror true 5 17 9), (0x041F0005, .clz false 1 30),
    (0x842F0006, .ctz true 2 30), (0x043F0007, .popc false 3 30), (0x844F0008, .brev true 4 30), (0x045F0009, .bswap false 5 30)],
    decodeWord e.1 = .ok e.2 ∧ encodeNat e.2 = e.1 := by decide

theorem test_decode_mul : ∀ e ∈ [
    ((0x07007C00 : Nat), Instr.mul false 16 0 31), (0x8700FC01, .mulh true 16 1 31), (0x07017C02, .mulhn false 16 2 31),
    (0x8701FC03, .div true 16 3 31), (0x07027C04, .divn false 16 4 31), (0x8702FC05, .rem true 16 5 31),
    (0x07037C06, .remn false 16 6 31)],
    decodeWord e.1 = .ok e.2 ∧ encodeNat e.2 = e.1 := by decide

theorem test_decode_compare : ∀ e ∈ [
    ((0x08180000 : Nat), Instr.slt false 1 16 0), (0x88180401, .sltn true 1 16 1), (0x08180802, .seq false 1 16 2),
    (0x88180C03, .min true 1 16 3), (0x08181004, .max false 1 16 4), (0x88181405, .minn true 1 16 5),
    (0x08181806, .maxn false 1 16 6)],
    decodeWord e.1 = .ok e.2 ∧ encodeNat e.2 = e.1 := by decide

theorem test_decode_imm : ∀ e ∈ [
    ((0x0BF0FFFF : Nat), Instr.addi false 31 1 32767), (0x8DF0FFFE, .andi true 31 1 32766),
    (0x0FF0FFFD, .ori false 31 1 32765), (0x91F0FFFC, .xori true 31 1 32764), (0x13F0FFFB, .slti false 31 1 32763),
    (0x95F0FFFA, .sltin true 31 1 32762), (0x16704000, .lapc false 7 0x4000), (0x1844003F, .slli false 4 8 63),
    (0x9844103E, .srli true 4 8 62), (0x1844203D, .srai false 4 8 61), (0x9844303C, .rori true 4 8 60)],
    decodeWord e.1 = .ok e.2 ∧ encodeNat e.2 = e.1 := by decide

theorem test_decode_branch : ∀ e ∈ [
    ((0x21907FFC : Nat), Instr.beq false 25 0 32764), (0xA390FFFC, .bne true 25 1 32764), (0x25917FFC, .blt false 25 2 32764),
    (0xA791FFFC, .bge true 25 3 32764), (0x29927FFC, .bltn false 25 4 32764), (0xAB92FFFC, .bgen true 25 5 32764),
    (0xADFFFFFE, .jal true 33554430), (0x2E008000, .jalr false 0 1), (0xAE531C01, .jtb true 5 6 7)],
    decodeWord e.1 = .ok e.2 ∧ encodeNat e.2 = e.1 := by decide

theorem test_decode_load : ∀ e ∈ [
    ((0x30827FF8 : Nat), Instr.ld false 8 4 0x7FF8), (0xB2440008, .st true 4 8 8), (0x34A5B010, .lxb false 10 11 12 .plain),
    (0xB4A5B080, .lxbn true 10 11 12 .wfull), (0x34A5B130, .lxh false 10 11 12 .take), (0xB4A5B1A0, .lxhn true 10 11 12 .fill),
    (0x34A5B250, .lxw false 10 11 12 .put), (0xB4A5B2C0, .lxwn true 10 11 12 .probe), (0x34A5B060, .lxd false 10 11 12 .plain),
    (0x34F10E68, .lxdRemote false 15 2 3 .put), (0x36110C80, .sxb false 1 2 3 .wfull), (0xB6110D20, .sxh true 1 2 3 .take),
    (0x36110DC0, .sxw false 1 2 3 .fill), (0xB6110E60, .sxd true 1 2 3 .put), (0x384A1480, .ldm false 4 20 5 .wfull),
    (0xB9AA0E01, .stm true 26 20 3 .put)],
    decodeWord e.1 = .ok e.2 ∧ encodeNat e.2 = e.1 := by decide

theorem test_decode_atomic : ∀ e ∈ [
    ((0x3A110C00 : Nat), Instr.aswap false 1 2 3 none), (0xBA110C69, .aadd true 1 2 3 (some (.rel, .core))),
    (0x3A110CB2, .aand false 1 2 3 (some (.acqrel, .cluster))), (0xBA110CC0, .aor true 1 2 3 none),
    (0x3A110D2C, .axor false 1 2 3 (some (.rel, .group))), (0xBA110D70, .amin true 1 2 3 (some (.acqrel, .hart))),
    (0x3A110D80, .amax false 1 2 3 none), (0xBA110DEA, .aminn true 1 2 3 (some (.rel, .cluster))),
    (0x3A110E33, .amaxn false 1 2 3 (some (.acqrel, .device))), (0xBA110E40, .acas true 1 2 3 none),
    (0x3C00001C, .fence false .sc .group), (0xBC000000, .fence true .acq .hart), (0x3C95003B, .ldsc false 9 10 .device),
    (0xBC95005C, .stsc true 9 10 .group)],
    decodeWord e.1 = .ok e.2 ∧ encodeNat e.2 = e.1 := by decide

theorem test_decode_vector1 : ∀ e ∈ [
    ((0x41CA0140 : Nat), Instr.vadd false ⟨7, true⟩ ⟨1, false⟩ ⟨2, true⟩ .i8),
    (0xC1CA0341, .vsub true ⟨7, true⟩ ⟨1, false⟩ ⟨2, true⟩ .i16),
    (0x41CA0542, .vmul false ⟨7, true⟩ ⟨1, false⟩ ⟨2, true⟩ .i32),
    (0xC1CA1143, .vdiv true ⟨7, true⟩ ⟨1, false⟩ ⟨2, true⟩ .bf16),
    (0x41CA0744, .vmin false ⟨7, true⟩ ⟨1, false⟩ ⟨2, true⟩ .i64), (0xC1CA0945, .vmax true ⟨7, true⟩ ⟨1, false⟩ ⟨2, true⟩ .n8),
    (0x41C81306, .vabs false ⟨7, true⟩ ⟨1, false⟩ .fp16), (0xC1C80107, .vneg true ⟨7, true⟩ ⟨1, false⟩ .i8),
    (0x41C81508, .vsqrt false ⟨7, true⟩ ⟨1, false⟩ .fp32),
    (0x43CA7560, .vfma false ⟨7, true⟩ ⟨1, false⟩ ⟨2, true⟩ ⟨3, true⟩ .fp32),
    (0xC3CA7161, .vfms true ⟨7, true⟩ ⟨1, false⟩ ⟨2, true⟩ ⟨3, true⟩ .bf16),
    (0x43CA7362, .vfnma false ⟨7, true⟩ ⟨1, false⟩ ⟨2, true⟩ ⟨3, true⟩ .fp16),
    (0xC3CA7563, .vfnms true ⟨7, true⟩ ⟨1, false⟩ ⟨2, true⟩ ⟨3, true⟩ .fp32),
    (0x45CA0940, .vand false ⟨7, true⟩ ⟨1, false⟩ ⟨2, true⟩ .n8), (0xC5CA0B41, .vor true ⟨7, true⟩ ⟨1, false⟩ ⟨2, true⟩ .n16),
    (0x45CA0D42, .vxor false ⟨7, true⟩ ⟨1, false⟩ ⟨2, true⟩ .n32),
    (0xC5CA0F43, .vandn true ⟨7, true⟩ ⟨1, false⟩ ⟨2, true⟩ .n64), (0x45C80104, .vnot false ⟨7, true⟩ ⟨1, false⟩ .i8),
    (0xC5CA0345, .vshl true ⟨7, true⟩ ⟨1, false⟩ ⟨2, true⟩ .i16),
    (0x45CA0546, .vshr false ⟨7, true⟩ ⟨1, false⟩ ⟨2, true⟩ .i32), (0xC5CA0747, .vshra true ⟨7, true⟩ ⟨1, false⟩ ⟨2, true⟩ .i64)],
    decodeWord e.1 = .ok e.2 ∧ encodeNat e.2 = e.1 := by decide

theorem test_decode_vector2 : ∀ e ∈ [
    ((0x47CA1540 : Nat), Instr.vceq false ⟨7, true⟩ ⟨1, false⟩ ⟨2, true⟩ .fp32),
    (0xC7CA1141, .vcne true ⟨7, true⟩ ⟨1, false⟩ ⟨2, true⟩ .bf16),
    (0x47CA0142, .vclt false ⟨7, true⟩ ⟨1, false⟩ ⟨2, true⟩ .i8), (0xC7CA0943, .vcle true ⟨7, true⟩ ⟨1, false⟩ ⟨2, true⟩ .n8),
    (0xC9CA6B60, .vsel true ⟨7, true⟩ ⟨1, false⟩ ⟨2, true⟩ ⟨3, true⟩ .n16),
    (0x4BC8110A, .vcvt false ⟨7, true⟩ ⟨1, false⟩ .bf16 .fp32),
    (0x4BCA1150, .vpack6 false ⟨7, true⟩ ⟨1, false⟩ ⟨2, true⟩ .bf16),
    (0xCBCA1551, .vunpk6 true ⟨7, true⟩ ⟨1, false⟩ ⟨2, true⟩ .fp32),
    (0x4DCA6B60, .vperm false ⟨7, true⟩ ⟨1, false⟩ ⟨2, true⟩ ⟨3, true⟩ .n16),
    (0xCDC80101, .vbcast true ⟨7, true⟩ ⟨1, false⟩ .i8), (0x4DCA0D42, .vrot false ⟨7, true⟩ ⟨1, false⟩ ⟨2, true⟩ .n32),
    (0xCDCA0943, .vzip true ⟨7, true⟩ ⟨1, false⟩ ⟨2, true⟩ .n8), (0x4DC80F04, .vunzip false ⟨7, true⟩ ⟨1, false⟩ .n64),
    (0x4FCA1540, .vrsum false ⟨7, true⟩ ⟨1, false⟩ ⟨2, true⟩ .fp32),
    (0xCFCA0541, .vrmax true ⟨7, true⟩ ⟨1, false⟩ ⟨2, true⟩ .i32),
    (0x4FCA1142, .vrmin false ⟨7, true⟩ ⟨1, false⟩ ⟨2, true⟩ .bf16),
    (0xCFCA7363, .vrdot true ⟨7, true⟩ ⟨1, false⟩ ⟨2, true⟩ ⟨3, true⟩ .fp16),
    (0x51C80700, .vmov false ⟨7, true⟩ ⟨1, false⟩ .i64), (0xD1C00D01, .vzero true ⟨7, true⟩ .n32)],
    decodeWord e.1 = .ok e.2 ∧ encodeNat e.2 = e.1 := by decide

theorem test_decode_array : ∀ e ∈ [
    ((0x60110C00 : Nat), Instr.lease false 1 2 3), (0xE0000001, .unlease true), (0x60000002, .unleaseDiscard false),
    (0x60300003, .acswap false 3), (0xE0200004, .acswapZero true 2), (0x60700005, .tbspill false 7),
    (0x60600006, .tbfill false 6), (0x62531EE0, .tbuild false 5 6 7 .trn .i8 true),
    (0xE2531D80, .tbuild true 5 6 7 .sgn .fp32 false), (0xE2400010, .tbuildRcv true 4),
    (0x642A79D4, .mmt false 2 20 30 .w3 true false 5), (0xE41A56AC, .mmt true 1 20 21 .t5 false true 3),
    (0x66357680, .mmd false 3 10 29 .lg6 .lg6), (0xE6057C40, .mmd true 0 10 31 .bf16 .fp16), (0x68148000, .acrd false 1 9),
    (0xE8248001, .acrdWorking true 2 9)],
    decodeWord e.1 = .ok e.2 ∧ encodeNat e.2 = e.1 := by decide

theorem test_decode_mask : ∀ e ∈ [
    ((0x6A048300 : Nat), Instr.mskld false 3 9), (0xEA848201, .mskcls true 2 8 9), (0x6A84A902, .mskel false 1 8 9 10),
    (0x6BC00213, .mskcnt false 2 28 true), (0xEC428000, .kvcommit true 4 5)],
    decodeWord e.1 = .ok e.2 ∧ encodeNat e.2 = e.1 := by decide

theorem test_decode_engine : ∀ e ∈ [
    ((0x70900000 : Nat), Instr.copy false 9), (0xF0A00001, .gather true 10), (0x70B00002, .scatter false 11),
    (0xF0C00003, .scadd true 12), (0x70000004, .idem false), (0xF0000005, .idemClose true),
    (0x703FC406, .evwait false 3 31 17), (0x72038300, .wlpush false 3 7), (0xF2638201, .wlins true 2 6 7),
    (0x72F07DF2, .wlpopb false 1 15 15 31)],
    decodeWord e.1 = .ok e.2 ∧ encodeNat e.2 = e.1 := by decide

theorem test_decode_task : ∀ e ∈ [
    ((0x78110000 : Nat), Instr.txsub false 1 2), (0xF8010001, .txscout true 2), (0x78010C02, .txchk false 2 3),
    (0x78000003, .txend false), (0x79800004, .inbox false 24), (0xF8900005, .done true 9)],
    decodeWord e.1 = .ok e.2 ∧ encodeNat e.2 = e.1 := by decide

theorem test_decode_message : ∀ e ∈ [
    ((0x7A110000 : Nat), Instr.send false 1 2), (0xFA378001, .recv true 3 15), (0x7A117C02, .qpush false 1 2 31),
    (0xFA428003, .qpop true 4 5 0), (0x7A012404, .barw false .rect 9), (0xFA63A305, .vote true 6 7 .max 8),
    (0x7A63A105, .vote false 6 7 .any 8)],
    decodeWord e.1 = .ok e.2 ∧ encodeNat e.2 = e.1 := by decide

theorem test_decode_system : ∀ e ∈ [
    ((0x7C500000 : Nat), Instr.rett false 5), (0x7DA00801, .ctlr false 26 2), (0xFC3FFC02, .ctlw true 3 1023),
    (0x7C400003, .wpsw false 4), (0x7C000004, .idle false), (0xFC000005, .tlball true), (0x7C900006, .tlbasid false 9),
    (0x7C950007, .tlbpage false 9 10), (0x7C000008, .icinv false), (0xFC000009, .dcinv true), (0x7D1003FF, .trap false 255 17)],
    decodeWord e.1 = .ok e.2 ∧ encodeNat e.2 = e.1 := by decide

theorem test_decode_prefix : ∀ e ∈ [
    ((0x7E358B00 : Nat), Instr.fmt (some .fp32) (some .bf16) .one true true), (0x7E000200, .fmt none none .hart true false),
    (0x7E40FFFF, .rep 65535), (0x7EBFFFFF, .lix 0x3FFFFF)],
    decodeWord e.1 = .ok e.2 ∧ encodeNat e.2 = e.1 := by decide

/-! Single steps, with results from the manual's worked examples or counted by hand from its rules. -/

def after (i : Instr) (s : State) : State := match exec i s with
  | .next t => t
  | _ => s
def reg (s : State) (n : Nat) : Word := readReg s 0 n

/-- The first step after reset runs the word that is placed: the NOP goes on to the next word, in one cycle. -/
theorem test_step_nop : (match step (State.reset.withFetchWord 32 0x0A000000) with
    | .next t => decide ((getSlot t 0).pc = wd (window0 + 0x4004) ∧ t.cycle = 1)
    | _ => false) = true := by decide +kernel

/-- 0x7FFF_FFFF_FFFF_FFFF + 1 wraps; ADDSAT clamps it (R263). -/
theorem test_add_wraps : reg (after (.add false 3 1 2) (regs [0x7FFFFFFFFFFFFFFF, 1])) 3 = 0x8000000000000000 ∧
    reg (after (.addsat false 3 1 2) (regs [0x7FFFFFFFFFFFFFFF, 1])) 3 = 0x7FFFFFFFFFFFFFFF := by decide +kernel

/-- A source that is also the destination, and w0 as one (R257). -/
theorem test_sub_same : reg (after (.sub false 1 1 2) (regs [5, 7])) 1 = 0xFFFFFFFFFFFFFFFE ∧
    reg (after (.sub false 0 1 2) (regs [5, 7])) 0 = 0 := by decide +kernel

/-- A shift count of 64 shifts by 0 (R263). -/
theorem test_shift_by_width : reg (after (.sll false 3 1 2) (regs [5, 64])) 3 = 5 ∧
    reg (after (.sra false 3 1 2) (regs [0x8000000000000000, 63])) 3 = 0xFFFFFFFFFFFFFFFF := by decide +kernel

/-- The jump table of the bounded dispatch: entry 1 of the table at 0x38 goes to 0x1C, and 3 falls through with w7 1. -/
def stTable (sel : Nat) : State := regs [0, 0, 0, 0, wd sel, wd (window0 + 0x4038)] (poke base [(own 0x4038, 3),
  (own 0x4040, wd (0xFFFFFFDC + 2 ^ 32 * 0xFFFFFFE4)), (own 0x4048, 0xFFFFFFEC)])
theorem test_jtb_example : (getSlot (after (.jtb false 7 6 5) (stTable 1)) 0).pc = wd (window0 + 0x401C) ∧
    (getSlot (after (.jtb false 7 6 5) (stTable 3)) 0).pc = wd (window0 + 0x4004) ∧
    ((getSlot (after (.jtb false 7 6 5) (stTable 3)) 0).outs.map (·.val)) = [some (wBytes 1)] := by decide +kernel

/-- The first execution of the 64-element dot product: the accumulator becomes 0x4B80_0001 and s0 steps by 64 bytes. -/
def stDot : State := writeRegs (poke base [(own 0x1000, 0x3F803F803F803F80), (own 0x2000, 0x3F803F8000004B80)]) 0 32
  [0xFC08FF0000001000, 0xFC08FF0000002000, 0xFC00FF0000003040]
theorem test_vrdot_example : let t := after (.vrdot true ⟨2, false⟩ ⟨0, true⟩ ⟨1, true⟩ ⟨2, false⟩ .bf16) stDot
    reg t 32 = 0xFC08FF0000001040 ∧ ((getSlot t 0).outs.filterMap (·.val)).flatten = [0x01, 0x00, 0x80, 0x4B] := by decide +kernel

/-- Rounding 1 + 2^-8 to bf16 is a tie and goes to the even 1; 1 + 3 × 2^-8 goes up to 1 + 2^-6 (R100). -/
theorem test_round_ties : let o : Fmt := ⟨none, none, false, false, false⟩
    rnd o .bf16 (flt o .fp32 0x3F808000) = 0x3F80 ∧ rnd o .bf16 (flt o .fp32 0x3F818000) = 0x3F82 := by decide +kernel

/-- An atomic minimum reads its operands by sign (R280). -/
theorem test_amin : rd64 (after (.amin false 3 1 2 none) (regs [wd (window0 + 0x5000), 0xFFFFFFFFFFFFFFFF] (poke base [(own 0x5000, 4)]))) (own 0x5000) =
    0xFFFFFFFFFFFFFFFF := by decide +kernel

/-- A byte store, little-endian, and a signed byte load of it (R259, R273, R274). -/
theorem test_store_byte : rd64 (after (.sxb false 3 1 2 .plain) (regs [wd (window0 + 0x5001), 0, 0x1FF] (poke base [(own 0x5000, 0x1111)]))) (own 0x5000) =
    0xFF11 := by decide +kernel

/-- The wake of the worked example: the status word becomes 0x101 and WAKEVAL 0x77, and IDLE then goes on (R355, R356). -/
def stIdle : State := modTr (modSlot base 0 fun x => { x with st := .waiting .idle }) fun t => { t with regs := tput 0x90 0x77 t.regs }
theorem test_wake_example : (getSlot (after (.wakesend 0) stIdle) 0).hsw = 0x101 ∧ (getSlot (after (.wakesend 0) stIdle) 0).wakeval = 0x77 := by
  decide +kernel

/-- CTLW of 1 to the status word 9 clears IE (R354). -/
theorem test_ctlw_example : (getSlot (after (.ctlw false 7 0) (hs 9 (regs [0, 0, 0, 0, 0, 0, 1]))) 0).hsw = 1 := by decide +kernel

/-- A TRAP of code 0x12 with value 5: words 58 to 61 and the vector of Kernel mode (R215, R218, R219). -/
theorem test_trap : let t := after (.trap false 0x12 4) (modSlot (regs [0, 0, 0, 5]) 0 fun x => { x with ktvec := 0x9000 })
    reg t 58 = 0x1206 ∧ reg t 59 = 5 ∧ reg t 60 = wd (window0 + 0x4004) ∧ reg t 61 = 1 ∧ (getSlot t 0).pc = 0x9000 := by decide +kernel

/-- A page of the low 512 MiB translates through the three levels (R408). -/
theorem test_walk : (okOr 0 ((xlate base ⟨0, 0, true⟩ 0x2008 .read).map (·.pa))) = 0x20002008 := by decide +kernel

/-- The mask unit's worked example: its program, its two documents and its trees. -/
def maskTree : List Nat :=
  let node := fun pre post => 2 ^ 31 + post * 2 ^ 16 + pre
  [node 0 7, node 1 3, node 5 6, node 2 1, node 4 2, node 6 5, node 3 0, node 7 4] ++ List.replicate 206 0 ++
  [node 8 13, node 9 10, node 12 12, node 10 8, node 11 9, node 13 11]
def maskCtx : MaskCtx := { prog := [0x5000, 0x1200, 0x7400, 0x6600, 0xB880, 0x9918, 0x8A08, 0x8B60, 0xE140]
                           consts := List.replicate 8 0, segs := [(0, 1), (300, 2)], tree := maskTree, limit := 512, tbase := 292 }
theorem test_mask_classes : packCodes ((gridClasses maskCtx 0 512 0 512).map (·.1)) = [0x01, 0x06, 0x15, 0x50] := by decide +kernel
theorem test_mask_row : (List.range 16).map (fun i => maskByte maskCtx 510 (384 + 8 * i)) = List.replicate 15 0xFF ++ [0x4F] := by decide +kernel

/-! A state for the hypotheses of each statement. -/

def st1 : State := regs [0x8000000000000001, 0x7FFFFFFFFFFFFFFF, 5, 0xFFFFFFFFFFFFFFFF, 0x123456789ABCDEF0]
def st2 : State := regs [0x8000000000000000, 0xFFFFFFFFFFFFFFFF, 0, 64, 67]
/-- With a pending LIX (R254). -/
def lix (s : State) : State := hs (setFld (wd (1 + 2 ^ 40 + 2 ^ 41)) 39 18 0x2468A) s

theorem test_meets_registers : Ordinary st1 ∧ MayIssue st1 .none 0 ∧ Clean st1 [1, 2] := by
  unfold Ordinary Placed MayIssue Clean; decide +kernel

/-- The overflow of the quotient, and a zero divisor (R264). -/
theorem test_meets_divide : MayIssue st2 .none 0 ∧ Clean st2 [1, 2, 3] ∧ (rg st2 1).toInt = -(2 ^ 63) ∧ (rg st2 2).toInt = -1 ∧
    rg st2 3 = 0 := by
  unfold MayIssue Clean; decide +kernel

theorem test_meets_immediates : Ordinary (lix st1) ∧ MayIssue (lix st1) .imm 0 ∧ Clean (lix st1) [1] ∧ pfxOf (lix st1) 0 = true ∧
    MayIssue st1 .imm 0 ∧ MayIssue st1 .none 0 ∧ pfxOf st1 0 = false := by
  unfold Ordinary Placed MayIssue Clean; decide +kernel

def stJ : State := regs [3, 8]
theorem test_meets_jumps : Ordinary stJ ∧ MayIssue stJ .none 0 ∧ Clean stJ [1, 2] ∧ (rg stJ 1).toNat % 4 ≠ 0 ∧
    (rg stJ 2).toNat % 4 = 0 ∧ (getSlot stJ 0).scout = false := by
  unfold Ordinary Placed MayIssue Clean; decide +kernel

/-- Words of scratchpad and HBM, w1 the address of a jump table of three entries. -/
def stM : State := regs [wd (window0 + 0x5000), 1, 3, wd (window0 + 0x5008), 0x1122334455667788, 8, 0x2000]
  (poke base [(own 0x5000, 3), (own 0x5008, wd (0xFFFFFFDC + 2 ^ 32 * 0xFFFFFFE6)), (own 0x5010, 0x80F1E2D3C4B5A697),
    (0x20002000, 0x80F1E2D3C4B5A697), (0x20002008, 0x8877665544332211)])

/-- The index at the entry count, an aligned target and a misaligned one. -/
theorem test_meets_jump_table : MayIssue stM .none 0 ∧ Fresh stM ∧ Clean stM [1, 3, 2, 0] ∧ (rg stM 1).toNat % 8 = 0 ∧
    readOwn stM (rg stM 1).toNat 8 = .ok (wBytes 3) false ∧ fld (ofBytes (wBytes 3)) 63 32 = 0 ∧
    fld (ofBytes (wBytes 3)) 31 0 = (rg stM 3).toNat ∧
    readOwn stM (rg stM 1 + 8).toNat 4 = .ok (leBytes 4 0xFFFFFFDC) false ∧ 0xFFFFFFDC % 4 = 0 ∧
    readOwn stM (rg stM 1 + 12).toNat 4 = .ok (leBytes 4 0xFFFFFFE6) false ∧ 0xFFFFFFE6 % 4 ≠ 0 := by
  unfold MayIssue Fresh Clean; decide +kernel

theorem test_meets_own_access : Ordinary stM ∧ Fresh stM ∧ MayIssue stM .imm 0 ∧ MayIssue stM .none 0 ∧ Clean stM [1, 6, 9] ∧
    (rg stM 1 + immOf stM 8).toNat = window0 + 0x5008 ∧ (rg stM 1 + rg stM 6).toNat = window0 + 0x5008 ∧
    Home stM 0x5008 8 false ∧ Home stM 0x5008 8 true ∧ CleanAt stM (homePas stM 0x5008 8) := by
  unfold Ordinary Placed MayIssue Fresh Clean Home CleanAt; decide +kernel

def xHbm : Xl := ⟨0x20002008, 0, false, false, false, false, none⟩
theorem test_meets_remote_access : Fresh stM ∧ MayIssue stM .imm 0 ∧ MayIssue stM .none 0 ∧ Clean stM [7, 6, 9] ∧
    (rg stM 7 + immOf stM 8).toNat = 0x2008 ∧ (rg stM 7 + rg stM 6).toNat = 0x2008 ∧
    Reaches stM 0x2008 8 .read (span 0x20002008 8) xHbm ∧ Reaches stM 0x2008 8 .write (span 0x20002008 8) xHbm ∧
    Reaches stM 0x2008 1 .read (span 0x20002008 1) xHbm ∧ CleanAt stM (span 0x20002008 8) ∧ xHbm.cache = false ∧
    journalRoom stM 0 = true ∧ writesPending stM 0 = false := by
  unfold MayIssue Fresh Clean Reaches CleanAt; decide +kernel

/-- A sync access to a word that is no multiple of 8. -/
theorem test_meets_sync_misaligned : Fresh stM ∧ MayIssue stM .none 0 ∧ Clean stM [7, 2, 9] ∧
    (rg stM 7 + rg stM 2).toNat % 8 ≠ 0 := by
  unfold MayIssue Fresh Clean; decide +kernel

/-- w62 names a reply table: at the last place, and past it. -/
def stR (w : Word) : State := writeReg stM 0 62 w false
theorem test_meets_reply_table : Ordinary (stR 0x2FF80) ∧ Fresh (stR 0x2FF80) ∧ MayIssue (stR 0x2FF80) .none 0 ∧
    Clean (stR 0x2FF80) [7, 6] ∧ 0x2FF80 + 128 ≤ 0x30000 ∧ Reaches (stR 0x2FF80) 0x2008 8 .read (span 0x20002008 8) xHbm ∧
    CleanAt (stR 0x2FF80) (span 0x20002008 8) ∧ (rd64 (stR 0x2FF80) (replyPa (stR 0x2FF80) 0 15)).getLsbD 63 = false ∧
    Ordinary (stR 0x30000) ∧ Clean (stR 0x30000) [7, 6] ∧ 0x30000 < (readReg (stR 0x30000) 0 62).toNat + 128 := by
  unfold Ordinary Placed MayIssue Fresh Clean Reaches CleanAt; decide +kernel

def stMul : State := regs [wd (window0 + 0x5004)]
/-- A resume point with 5 words left, and one past the 32 words (R262). -/
def stMres (n : Nat) : State := hs (wd (1 + 2 ^ 42 + 2 ^ 48 * n)) stM
theorem test_meets_multiple : ∀ s ∈ [stM, stMres 5], Ordinary s ∧ Fresh s ∧ MayIssue s .none 0 ∧ 0 + 31 + 1 ≤ 32 ∧
    (mres s 0 = true → repcnt s 0 ≤ 32) ∧ (if mres s 0 then 32 - repcnt s 0 else 0) < 32 ∧
    (rg s 1).toNat = window0 + 0x5000 ∧ (rg s 1).toNat % 8 = 0 ∧ regPa s 0 0 + 512 ≤ scratchPa s 0 0x5000 ∧
    Clean s (1 :: span 0 32) ∧ (∀ j ∈ List.range 32, Home s (0x5000 + 8 * j) 8 false ∧ Home s (0x5000 + 8 * j) 8 true) ∧
    CleanAt s (homePas s 0x5000 256) ∧
    Ordinary stMul ∧ Fresh stMul ∧ MayIssue stMul .none 0 ∧ (rg stMul 1).toNat % 8 ≠ 0 ∧
    mres (stMres 5) 0 = true ∧ mres (stMres 40) 0 = true ∧ 32 < repcnt (stMres 40) 0 ∧ MayIssue (stMres 40) .none 0 := by
  unfold Ordinary Placed MayIssue Fresh Clean Home CleanAt; decide +kernel

/-- Bytes from 0x5000 on are none of a frame that ends below. -/
theorem test_meets_apart {s : State} {y : Nat} (h : regPa s 0 0 + 512 ≤ scratchPa s (coreOf s.cur) 0x5000) (hy : y ∈ homePas s 0x5000 256) :
    y ∉ span (regPa s 0 0) 512 := by
  simp only [homePas, mem_span] at *
  omega

/-- Words of HBM, for one load or store each. -/
theorem test_meets_remote_multiple : ∀ s ∈ [stM, stMres 5], (rg s 7).toNat = 0x2000 ∧ Clean s (7 :: span 0 32) ∧
    journalRooms s 0 32 = true ∧ writesPending s 0 = false ∧ ∀ j ∈ List.range 32,
      let x : Xl := { xHbm with pa := 0x20002000 + 8 * j }
      Reaches s (0x2000 + 8 * j) 8 .read (span (0x20002000 + 8 * j) 8) x ∧ Reaches s (0x2000 + 8 * j) 8 .write (span (0x20002000 + 8 * j) 8) x ∧
      CleanAt s (span (0x20002000 + 8 * j) 8) ∧ cacheRead s 0 0 (span (0x20002000 + 8 * j) 8) = none := by
  unfold Clean Reaches CleanAt; decide +kernel

theorem test_meets_own_atomics : Ordinary stM ∧ Fresh stM ∧ MayIssue stM .none 0 ∧ Clean stM [1, 5, 9] ∧ Home stM 0x5000 8 true ∧
    CleanAt stM (homePas stM 0x5000 8) ∧ (rg stM 1).toNat = window0 + 0x5000 ∧ 0x5000 % 8 = 0 := by
  unfold Ordinary Placed MayIssue Fresh Clean Home CleanAt; decide +kernel

theorem test_meets_remote_atomics : Fresh stM ∧ MayIssue stM .none 0 ∧ Clean stM [7, 6, 2] ∧ (rg stM 2).toNat % 8 ≠ 0 ∧
    (rg stM 7).toNat % 8 = 0 ∧ Reaches stM 0x2000 8 .read (span 0x20002000 8) { xHbm with pa := 0x20002000 } ∧
    Reaches stM 0x2000 8 .write (span 0x20002000 8) { xHbm with pa := 0x20002000 } ∧
    CleanAt stM (span 0x20002000 8) ∧ writesPending stM 0 = false ∧ chunkBusy stM.flight 0 (span 0x20002000 8) = false ∧
    jobOverlap stM 0 (span 0x20002000 8) true = false ∧ jobOverlap stM 0 (span 0x20002000 8) false = false := by
  unfold MayIssue Fresh Clean Reaches CleanAt; decide +kernel

/-- A posted store of hart 0 in flight. -/
def flyStore : Access :=
  { uid := 7, hart := 0, va := 0x3000, pas := span 0x20003000 8, key := 0, cache := false, op := .store (wBytes 9),
    psn := false, dest := .journal 0 4 0, st := .flying }
def stW : State :=
  { modCore stM 0 (fun c => { c with journal := [⟨4, 0, 0, false, 0x3000, 0, none, none, 1, 7⟩] }) with flight := [flyStore], uid := 8 }
/-- Writes to wait for, of a FENCE, an LDSC and an STSC. -/
theorem test_meets_fence : MayIssue stW .none 0 ∧ writesPending stW 0 = true ∧ MayIssue stM .none 0 ∧ writesPending stM 0 = false ∧
    Fresh stW ∧ Clean stW [7, 9] ∧ (rg stW 7).toNat % 8 = 0 ∧ CleanAt stW (span 0x20002000 8) ∧
    Reaches stW 0x2000 8 .read (span 0x20002000 8) { xHbm with pa := 0x20002000 } ∧
    Reaches stW 0x2000 8 .write (span 0x20002000 8) { xHbm with pa := 0x20002000 } := by
  unfold MayIssue Fresh Clean Reaches CleanAt; decide +kernel

/-! Vector instructions. -/

def ptr (o : Nat) : Word := wd (4 * 2 ^ 58 + 2 ^ 48 + (0xFF0000000000 + o))
def stV : State := (List.range 4).foldl (fun s n => writeReg s 0 (32 + n) (ptr (0x6000 + 0x100 * n)) false) base
def fD : SRef := ⟨0, true⟩
def fA : SRef := ⟨1, true⟩
def fB : SRef := ⟨2, false⟩
def fC : SRef := ⟨3, true⟩

/-- The operand shapes of the vector statements. -/
def shapes : List (Nat × List (SRef × Nat × Nat)) := [
  (64, [(fA, 0x6100, 64), (fB, 0x6200, 64), (fC, 0x6300, 64)]), (64, [(fA, 0x6100, 64), (fB, 0x6200, 64)]),
  (64, [(fA, 0x6100, 64), (fB, 0x6200, 16), (fC, 0x6300, 64)]), (64, [(fA, 0x6100, 4)]), (64, [(fA, 0x6100, 64), (fB, 0x6200, 8)]),
  (128, [(fA, 0x6100, 64), (fB, 0x6200, 64)]), (128, [(fA, 0x6100, 128)]), (64, [(fA, 0x6100, 64)]), (64, []),
  (32, [(fA, 0x6100, 64)]), (32, [(fA, 0x6100, 64), (fB, 0x6200, 4)]), (64, [(fA, 0x6100, 32), (fB, 0x6200, 4)]),
  (4, [(fA, 0x6100, 64), (fB, 0x6200, 4)]), (4, [(fA, 0x6100, 64), (fB, 0x6200, 64), (fC, 0x6300, 4)]),
  (8, [(fA, 0x6100, 64), (fB, 0x6200, 8)])]
/-- With NANMODE; under an FMT of st bf16, SAT and FTZ; in the second of 3 executions under REP, a result of the first outstanding. -/
def stFmt : State := hs (wd (1 + 2 ^ 40 + encodeNat (.fmt (some .bf16) none .hart true true) % 2 ^ 22 * 2 ^ 18)) stV
def stRep : State := after (.vadd false fD fA fB .i8) (hs (wd (1 + 2 ^ 5 + 3 * 2 ^ 48)) stV)
theorem test_meets_vectors : (∀ s ∈ [stV, stFmt], ∀ e ∈ shapes, VecHome (afterRep s (fD :: e.2.map (·.1)) (srcPas s e.2)) fD 0x6000 e.1 e.2) ∧
    VecHome (afterRep stRep [fD, fA, fB] (srcPas stRep [(fA, 0x6108, 64), (fB, 0x6200, 64)])) fD 0x6008 64 [(fA, 0x6108, 64), (fB, 0x6200, 64)] ∧
    (fmtOf stV).st = none ∧ (fmtOf stV).dt = none ∧ (fmtOf stFmt).st = some .bf16 ∧ (fmtOf stFmt).sat = true ∧ (fmtOf stFmt).dt = none ∧
    nanOf stRep 0 = true ∧ repcnt stRep 0 = 2 ∧ (getSlot stRep 0).outs.length = 8 ∧ MayIssue stV .vec 0 ∧ MayIssue stFmt .vec 0 := by
  unfold MayIssue VecHome VecPlaced Ordinary Placed PtrTo PtrClean CleanAt Home; decide +kernel

/-- A source, or the destination, in HBM; then the words of the source, come back. -/
def farPtr (n : Nat) : State := writeReg stV 0 n (wd (4 * 2 ^ 58 + 2 ^ 48 + 0x2000)) false
def xVec : Xl := { xHbm with pa := 0x20002000 }
def stVGo : State := after (.vmov false fD fA .i8) (farPtr 33)
def stVBack : State := { stVGo with flight := stVGo.flight.map fun y => { y with st := .done (leBytes 8 y.uid) false } }
theorem test_meets_far_vectors : (∀ e ∈ [(33, fA, AccKind.read), (32, fD, .write)], Ordinary (farPtr e.1) ∧ MayIssue (farPtr e.1) .vec 0 ∧
      (fmtOf (farPtr e.1)).dt = none ∧ repOn (farPtr e.1) 0 = false ∧ fld (readReg (farPtr e.1) 0 e.1) 63 58 ≠ 0 ∧
      regPsn (farPtr e.1) 0 e.1 = false ∧ vecPlace (farPtr e.1) (sAddr (readReg (farPtr e.1) 0 e.1)) 64 e.2.2 = .ok (span 0x20002000 64, xVec)) ∧
    xVec.own = false ∧ xVec.past = none ∧ (∀ p ∈ span 0x20002000 64, isHbm p = true ∧ answers base (moduleOf p) = true) ∧
    PtrAt (farPtr 33) fD 0x6000 ∧ Home (farPtr 33) 0x6000 64 true ∧ CleanAt (farPtr 33) (span 0x20002000 64) ∧
    (∀ w ∈ vecWords 0x2000 (span 0x20002000 64) xVec, wordNow (farPtr 33) xVec w = none) ∧
    PtrAt (farPtr 32) fA 0x6100 ∧ Home (farPtr 32) 0x6100 64 false ∧ CleanAt (farPtr 32) (homePas (farPtr 32) 0x6100 64) ∧
    wrCheck (farPtr 32) 0 0x2000 xVec (span 0x20002000 64) = none ∧ journalRooms (farPtr 32) 0 (chunks (span 0x20002000 64)).length = true ∧
    (match vecOf stVBack 0 0 with
     | some p => decide (p.ins = .vmov false fD fA .i8 ∧ (fmtWord p.hsw).dt = none ∧ p.writes = [] ∧
        p.srcs = [(stVGo.flight.map (·.uid)).map fun w => (some w, [], [])]) &&
        stVBack.flight.all (fun y => decide (stVBack.flight.find? (·.uid == y.uid) = some y))
     | none => false) = true := by
  unfold MayIssue Ordinary Placed PtrAt PtrTo PtrClean CleanAt Home; decide +kernel

/-! Prefixes, system instructions and exceptions. -/

/-- With a handler in each mode. -/
def stT : State := modCore (modSlot (regs [0x123, 5, wd (window0 + 0x40), 2]) 0 fun x => { x with ktvec := 0x9000 }) 0
  fun c => { c with mtvec := 0xA000 }
theorem test_meets_prefix : MayIssue stT .fmtWord 0 ∧ MayIssue stT .none 0 := by unfold MayIssue; decide +kernel

/-- A handled trap from each mode, and an interrupt, whose cause has INT. -/
def inMode (m : Nat) : State := hs (wd m) stT
theorem test_meets_trap_entry : ∀ m ∈ [0, 1, 2], Placed (inMode m) 0 ∧ Memory.wf (inMode m).mem = true ∧
    (getSlot (inMode m) 0).outs = [] ∧ unhandled (inMode m) 0 (trap .misaligned 255 5) = false ∧
    unhandled (inMode m) 0 ⟨.monitor, 0, false, 5⟩ = false := by
  unfold Placed; decide +kernel

theorem test_meets_unhandled : (getSlot base 0).outs = [] ∧ (getSlot base 0).bound = none ∧
    unhandled base 0 (trap .illegal 0 0) = true := by decide +kernel

/-- Below the lowest mode; under FMT, LIX and REP. -/
theorem test_meets_forbidden : (∀ i ∈ [Instr.inbox false 1, .idle false, .rett false 0, .wpsw false 1, .tlball false],
      i.isWord = true ∧ modeOf (hs 0 stT) 0 < lowestMode i) ∧
    [Instr.add false 1 2 3, .addi false 1 2 3, .vmov false fD fA .i8, .mmd false 0 1 2 .bf16 .bf16, .fmt none none .hart false false].map governs =
      [.none, .imm, .vec, .fmt, .fmtWord] ∧
    (∀ s ∈ [hs (wd (1 + 2 ^ 40)) stT], pfxOf s 0 = true ∧ pfxLix s 0 = false) ∧
    (pfxOf (lix stT) 0 = true ∧ pfxLix (lix stT) 0 = true) ∧ repOn (hs (wd (1 + 2 ^ 48)) stT) 0 = true := by decide +kernel

/-- Operands poisoned, of scalar instructions, branches, and accesses in the own scratchpad and in HBM. -/
theorem test_meets_poison : (∀ s ∈ [poi 1 stM, pt (poi 1 stM), poi 7 stM, pt (poi 7 stM)], Ordinary s ∧ Fresh s ∧ MayIssue s .none 0 ∧
      MayIssue s .imm 0 ∧ ([1, 2].any (regPsn s 0) || [7, 6].any (regPsn s 0)) = true ∧
      Home s 0x5008 8 true ∧ Home s 0x5008 8 false ∧ Home s 0x5000 8 true ∧ CleanAt s (homePas s 0x5000 256) ∧
      (rg s 1 + immOf s 8).toNat = window0 + 0x5008 ∧ (rg s 1 + rg s 6).toNat = window0 + 0x5008 ∧ (rg s 1).toNat % 8 = 0 ∧
      mres s 0 = false ∧ (∀ j ∈ List.range 32, Home s (0x5000 + 8 * j) 8 false ∧ Home s (0x5000 + 8 * j) 8 true)) := by
  unfold Ordinary Placed MayIssue Fresh CleanAt Home; decide +kernel
theorem test_meets_far_poison : (∀ s ∈ [poi 7 stM, pt (poi 7 stM)], (rg s 7 + rg s 6).toNat = 0x2008 ∧ Reaches s 0x2008 8 .read (span 0x20002008 8) xHbm ∧
      Reaches s 0x2008 8 .write (span 0x20002008 8) xHbm ∧ CleanAt s (span 0x20002008 8) ∧ journalRoom s 0 = true ∧
      (rg s 7).toNat % 8 = 0 ∧ Reaches s 0x2000 8 .read (span 0x20002000 8) { xHbm with pa := 0x20002000 } ∧
      Reaches s 0x2000 8 .write (span 0x20002000 8) { xHbm with pa := 0x20002000 } ∧ CleanAt s (span 0x20002000 8)) := by
  unfold Reaches CleanAt; decide +kernel
theorem test_meets_poisoned_jumps : Reaches (poi 7 (stR 0x2FF80)) 0x2008 8 .read (span 0x20002008 8) xHbm ∧ regPsn (poi 7 (stR 0x2FF80)) 0 7 = true ∧
    (rg (poi 2 stJ) 2).toNat % 4 = 0 ∧ regPsn (poi 2 stJ) 0 2 = true ∧ MayIssue (poi 2 stJ) .none 0 ∧ Ordinary (poi 2 stJ) ∧
    readOwn (poi 3 stM) (rg stM 1).toNat 8 = .ok (wBytes 3) false ∧ regPsn (poi 3 stM) 0 3 = true ∧ (rg (poi 3 stM) 3).toNat = 3 := by
  unfold Ordinary Placed MayIssue Reaches; decide +kernel

/-- Memory poisoned: the last byte of a word of the own scratchpad, and of one of HBM. -/
def stDirty (b : Bool) : State :=
  let s := putBytes (putBytes stM 0 ((span (own 0x5008) 8).zip (wBytes 5)) true) 0 ((span 0x20002008 8).zip (wBytes 6)) true
  if b then pt s else s
theorem test_meets_poisoned_memory : ∀ b, let s := stDirty b
    Ordinary s ∧ Fresh s ∧ MayIssue s .imm 0 ∧ MayIssue s .none 0 ∧ pteOf s 0 = b ∧ [1, 6, 9, 7, 2].any (regPsn s 0) = false ∧
    Home s 0x5008 8 false ∧ Home s 0x5008 8 true ∧ firstPsnAt s (homePas s 0x5008 8) = some 0 ∧ (rg s 1 + rg s 6).toNat = window0 + 0x5008 ∧
    (rg s 4).toNat = window0 + 0x5008 ∧ 0x5008 % 8 = 0 ∧
    Reaches s 0x2008 8 .read (span 0x20002008 8) xHbm ∧ xHbm.cache = false ∧ firstPsnAt s (span 0x20002008 8) = some 0 ∧ Clean s [7, 6] := by
  unfold Ordinary Placed MayIssue Fresh Home Reaches Clean; decide +kernel

/-- A poisoned pointer; a source with a poisoned word. -/
def stVP (b : Bool) : State :=
  let s := putBytes stV 0 ((span (own 0x6108) 8).zip (wBytes 5)) true
  if b then pt s else s
def shapeOf (i : Instr) (s : State) : Option (ElemType × (VOp × List VOp)) :=
  (vecShape i).bind fun v => (v.ty (fmtOf s)).map fun t => (t, (v.go t (fmtOf s)).1, (v.go t (fmtOf s)).2.1)
theorem test_meets_poisoned_vectors : ∀ i ∈ [Instr.vadd false fD fA fB .i8, .vmov false fD fA .i8, .vsel false fD fA fB fC .i8,
      .vperm false fD fA fB fC .i8, .vbcast false fD fA .i64, .vrot false fD fA fB .i8, .vzip false fD fA fB .i8, .vunzip false fD fA .i8],
    (∀ s ∈ [poi 33 stV, stVP false, stVP true], (match shapeOf i s with
      | some (_, d, l) => decide (d.ref = fD ∧ l.map (·.ref) = [fA, fB, fC].take l.length)
      | none => false) = true) ∧
    PtrClean (poi 33 stV) fD ∧ ¬ PtrClean (poi 33 stV) fA ∧
    (∀ s ∈ [stVP false, stVP true], (∀ r ∈ [fD, fA, fB, fC], PtrClean s r) ∧
      firstPoison s [(fA, 0x6100, 64)] = some 0x6108 ∧ VecPlaced s fD 0x6000 64 [(fA, 0x6100, 64), (fB, 0x6200, 64), (fC, 0x6300, 64)]) ∧
    VecPlaced (poi 33 stV) fD 0x6000 64 [(fA, 0x6100, 64)] ∧ afterRep (stVP true) [fD, fA] (span (own 0x6100) 64) = stVP true := by
  unfold VecPlaced Ordinary Placed PtrTo PtrClean Home; decide +kernel

/-- Word 61 names a mode that is higher, is 3, is lower. -/
def stRet (w m : Nat) : State := writeReg (inMode m) 0 61 (wd w) false
theorem test_meets_return : ∀ e ∈ [(2, 1), (3, 2), (1, 1), (0, 2)], Fresh (stRet e.1 e.2) ∧ MayIssue (stRet e.1 e.2) .none 1 ∧
    MayIssue (stRet e.1 e.2) .none 0 ∧ Clean (stRet e.1 e.2) [1] ∧ Drained (stRet e.1 e.2) ∧
    fld (readReg (stRet e.1 e.2) 0 61) 1 0 = e.1 ∧ modeOf (stRet e.1 e.2) 0 = e.2 := by
  unfold Fresh MayIssue Clean Drained; decide +kernel

/-- A frame at 0x1200 with that status in word 61, and w1 names it. -/
def stRett (w m wp : Nat) : State := put64 (writeReg (inMode m) 0 1 (wd wp) false) (own (0x1200 + 8 * 61)) (wd w) false
theorem test_meets_return_to : (∀ e ∈ [(2, 1), (3, 2), (1, 1), (0, 2)], Ordinary (stRett e.1 e.2 0x1200) ∧
    Fresh (stRett e.1 e.2 0x1200) ∧ MayIssue (stRett e.1 e.2 0x1200) .none 1 ∧ Clean (stRett e.1 e.2 0x1200) [1] ∧
    Drained (stRett e.1 e.2 0x1200) ∧ fld (rd64 (stRett e.1 e.2 0x1200) (own (0x1200 + 8 * 61))) 1 0 = e.1 ∧
    modeOf (stRett e.1 e.2 0x1200) 0 = e.2 ∧ granOf (stRett e.1 e.2 0x1200) 0 = 0 ∧
    (rg (stRett e.1 e.2 0x1200) 1).toNat = 0x1200) ∧
    (rg (stRett 1 1 0x1208) 1).toNat % 512 ≠ 0 ∧ 0x30000 < (rg (stRett 1 1 0x30000) 1).toNat + 512 := by
  unfold Ordinary Placed Fresh MayIssue Clean Drained; decide +kernel

/-- The last frame, and the two ways to be none. -/
def stWp : State := regs [0x2FE00, 0x30000, 0x1210]
theorem test_meets_workspace : (∀ s ∈ kinds 1 stWp, Ordinary s ∧ Fresh s ∧ MayIssue s .none 1 ∧ Drained s ∧ (rg s 1).toNat % 512 = 0 ∧ (rg s 1).toNat + 512 ≤ 0x30000 ∧ granOf s 0 = 0 ∧ 0x30000 < (rg s 2).toNat + 512 ∧
    (rg s 3).toNat % 512 ≠ 0) ∧ Clean stWp [1] := by
  unfold Ordinary Placed Fresh MayIssue Drained Clean; decide +kernel

theorem test_meets_control : ∀ m ∈ [0, 1, 2], Ordinary (inMode m) ∧ MayIssue (inMode m) .none 0 ∧ Clean (inMode m) [1, 2] ∧
    modeOf (inMode m) 0 = m ∧ (inMode m).ks.queues = [] := by
  unfold Ordinary Placed MayIssue Clean; decide +kernel
theorem test_meets_no_queue (m q : Nat) (h : (inMode m).ks.queues = []) :
    ∀ p ∈ (getQueue (inMode m) q).poppers ++ (getQueue (inMode m) q).pushers.map (·.1), hartOf p ≠ 0 := by
  simp [getQueue, h, tget]

/-- Values at the edges of ASID, KSADDR and the writable part of HSW. -/
def stCtl : State := hs 2 (regs [1023, 1024, 0x3FF8, 0x4000, 0x3FFC, 0xFFFF07FFFFFC07FB])
theorem test_meets_control_values : (rg stCtl 1).toNat < 1024 ∧ ¬ (rg stCtl 2).toNat < 1024 ∧
    ((rg stCtl 3).toNat < 2 ^ 14 ∧ (rg stCtl 3).toNat % 8 = 0) ∧ ¬ (rg stCtl 4).toNat < 2 ^ 14 ∧ (rg stCtl 5).toNat % 8 ≠ 0 ∧
    fld (rg stCtl 6) 2 2 = 0 ∧ fld (rg stCtl 6) 17 11 = 0 ∧ fld (rg stCtl 6) 47 43 = 0 ∧ fld (rg stCtl 3) 17 11 ≠ 0 ∧ MayIssue stCtl .none 0 ∧
    Clean stCtl [1, 2, 3, 4, 5, 6] := by
  unfold MayIssue Clean; decide +kernel

def stTlb : State := modCluster (regs [3, 0x50000, wd (window0 - 1)]) 0
  fun c => { c with tlb := [⟨3, false, 5, 0⟩, ⟨3, true, 0, 0⟩, ⟨4, false, 5, 0⟩] }
theorem test_meets_maintenance : Fresh stTlb ∧ MayIssue stTlb .none 1 ∧ MayIssue stTlb .none 0 ∧
    fld (getSlot stTlb 0).hsw 10 8 = 0 ∧ fld (getSlot (hs 0x101 stTlb) 0).hsw 10 8 ≠ 0 ∧ MayIssue (hs 0x101 stTlb) .none 1 ∧
    Fresh (hs 0x101 stTlb) ∧ writesPending stTlb 0 = false ∧ translating stTlb none none (stTlb.uid + 1) = false ∧ Clean stTlb [1, 2, 3] ∧
    (rg stTlb 1).toNat < 1024 ∧ translating stTlb (some 3) none (stTlb.uid + 1) = false ∧ (rg stTlb 3).toNat < window0 ∧
    translating stTlb (some 3) (some (rg stTlb 3).toNat) (stTlb.uid + 1) = false := by
  unfold Fresh MayIssue Clean; decide +kernel

/-! The lookup array. -/

def leased (l : LeaseSt) : State := modCore base 0
  fun c => { c with arr := [(0, { lease := l, granted := l != .idle && l != .requesting, mask := 3 })] }
def holding (s : State) : State :=
  modArr s 0 fun a => { a with active := true, holder := 0, claims := [(0, 0), (1, 0)], seq := 5 }
def stAi (l : LeaseSt) : State := regs [wd (window0 + 0x5000), 15, 0xFFFFFFFF] (leased l)

theorem test_meets_lease : ∀ l ∈ [LeaseSt.idle, .active, .suspended], MayIssue (stAi l) .none 0 ∧ Fresh (stAi l) ∧
    Clean (stAi l) [1, 2, 3] ∧ (rg (stAi l) 2).toNat < 16 ∧ (rg (stAi l) 3).toNat < 2 ^ 32 ∧ (rg (stAi l) 1).toNat % 64 = 0 ∧
    (actCtx (stAi l) 0).lease = l := by
  unfold MayIssue Fresh Clean; decide +kernel

theorem test_meets_unlease : MayIssue (holding (leased .active)) .none 0 ∧ (actCtx (holding (leased .active)) 0).lease = .active ∧
    needMet (holding (leased .active)) 0 .arrayIdle = true ∧ ∀ i ∈ List.range 4, openBusy (holding (leased .active)) 0 i = none := by
  unfold MayIssue; decide +kernel

/-- Core 0 holds the period and core 1 waits for it. -/
def stPer (on : Bool) : State := { (modCore (modArr (leased .active) 0 fun a => { a with active := on, holder := 0, claims := [(0, 0)] }) 1
  fun c => { c with arr := [(0, { lease := .requesting, granted := true, mask := 4 })] }) with cycle := 16384 }
theorem test_meets_periods : (getArr (stPer false) 0).active = false ∧ nextHolder (stPer false) 0 = some 1 ∧
    (actCtx (stPer false) 1).granted = true ∧ (∀ e ∈ (stPer false).slots, leasePsn (stPer false) e.1 = none) ∧ (getArr (stPer true) 0).active = true ∧ othersWait (stPer true) 0 = true ∧
    (getArr (stPer true) 0).begun + 16384 ≤ (stPer true).cycle ∧ holderBusy (stPer true) 0 = false ∧
    (getArr (stPer true) 0).lastCmd + 256 ≤ (stPer true).cycle := by decide +kernel

def tab0 : Table := { st := .resident, kind := .sub, ty := .fp32, rows := 2, groups := 2, gbase := 0, reg := some 0, vals := [] }
def withTab (s : State) : State := modArr (modTab s 0 0 0 fun _ => tab0) 0 fun a => { a with regs := [(0, (0, 0))] }
def dTb : List Word := nestRec (window0 + 0x7100) [(8, 2), (2, 16), (1, 0), (1, 0)]
def nTb : Nest := nestAt dTb
/-- Table 0 resident; w1 the record of a table build. -/
def stTb : State := withTab (regs [wd (window0 + 0x7000), 0] (poke (holding (leased .active))
  (eight (own 0x7000) dTb ++ [(own 0x7100, 0x3F8040003F804000)])))

/-- With a spill area at 0x200000, whose slot of table 0 holds two entries. -/
def stSpill : State := modCore (poke stTb [(0x20200000, 0x40400000)]) 0
  fun c => { c with arr := c.arr.map fun e => (e.1, { e.2 with spill := 0x200000 }) }
def stSpilled : State := modArr (modTab stSpill 0 0 0 fun t => { t with st := .spilled, reg := none }) 0 fun a => { a with regs := [] }
def slotOf (s : State) (k : AccKind) : List (Nat × Nat) :=
  okOr [] (spillPas (stamped s) 0 (actCtx s 0) 0 (actTab s 0 0).size k)
theorem test_meets_table_commands : (MayIssue stTb .none 0 ∧ ArrayTurn stTb (some 1) ∧ openBusy stTb 0 1 = none ∧
      ArrayTurn stTb none ∧ EarlierDone (stamped stTb) [0] none true) ∧
    ((actTab stTb 0 0).st = .resident ∧ (actTab stTb 0 0).reg.isSome = true ∧ (actCtx stTb 0).spill = 0) ∧
    (MayIssue stSpill .none 0 ∧ ArrayTurn stSpill none ∧ EarlierDone (stamped stSpill) [0] none true ∧ scouting stSpill 0 = false ∧ unchecked stSpill 0 = false ∧
      (actTab stSpill 0 0).st = .resident ∧ (actTab stSpill 0 0).stale = none ∧ (actCtx stSpill 0).spill ≠ 0 ∧
      spillPas (stamped stSpill) 0 (actCtx stSpill 0) 0 (actTab stSpill 0 0).size .write = .ok (slotOf stSpill .write)) ∧
    (MayIssue stSpilled .none 0 ∧ ArrayTurn stSpilled none ∧ EarlierDone (stamped stSpilled) [0] none true ∧ MayIssue stTb .fmt 0 ∧ EarlierDone (stamped stTb) [] none true ∧
      (actTab stSpilled 0 0).st = .spilled ∧ tfind (getArr stSpilled 0).regs 7 = none ∧
      spillPas (stamped stSpilled) 0 (actCtx stSpilled 0) 0 (actTab stSpilled 0 0).size .read =
        .ok (slotOf stSpilled .read)) := by
  unfold MayIssue ArrayTurn EarlierDone
  refine ⟨?_, ?_, ?_, ?_⟩ <;> decide +kernel

def stTb2 : State := (place (afterRead (stamped stTb) (rg stTb 1).toNat 64) 0 0 3 [3]).getD base
theorem test_meets_table_build : (∀ s ∈ kinds 1 stTb, RecordAt (stamped s) (rg s 1) dTb) ∧ (∀ s ∈ kinds 1 stTb, MayIssue s .fmt 0 ∧ Fresh s ∧ Ordinary s ∧
      buildTypes .bf16 (fmtOf s) = some (.bf16, .bf16) ∧ (rg s 2).toNat < 32 ∧ ArrayTurn s none ∧ nestOf dTb = some nTb ∧ nTb.y ≤ 128 ∧
      strayByte (stamped s) 0 (esize .bf16) nTb = none ∧ nTb.misaligned (esize .bf16) = none ∧
      (rg s 2).toNat + (nTb.x + kindG .sub - 1) / kindG .sub ≤ kindMaxGroups .sub ∧
      nTb.y * ((nTb.x + kindG .sub - 1) / kindG .sub) * kindSlots .sub * esize .bf16 ≤ 131072 ∧
      pendBank (stamped s) (sourceStore (stamped s) 0 nTb) = none) ∧ Clean stTb [1, 2] ∧ EarlierDone (stamped stTb) [3] none true ∧
    place (afterRead (stamped stTb) (rg stTb 1).toNat 64) 0 (getCore stTb 0).actx 3 [3] = some stTb2 ∧ stTb2.mem = stTb.mem := by
  exact ⟨fun s hs => recordAt_of ((by decide +kernel : ∀ s ∈ kinds 1 stTb, recordOk (stamped s) (rg s 1) dTb = true) s hs),
    by unfold Ordinary Placed MayIssue Fresh Clean ArrayTurn EarlierDone; decide +kernel⟩

def dMm : List Word := nestRec 0x4000 [(1, 0), (2, 64), (1, 0), (1, 0)]
def nMm : Nest := nestAt dMm
/-- w1 the record of an MMT's codes, w2 its parameters. -/
def stMm : State := withTab (regs [wd (window0 + 0x7000), 2, 0x5000] (poke (holding (leased .active))
  (eight (own 0x7000) dMm ++ [(0x20004000, 0x35), (0x20004040, 0x7A)])))
def mm2 (s : State) : State := (okOr none (residents 0 0 [0] [0] (afterRead (stamped s) (rg s 1).toNat 64))).getD base
def fetched (s : State) (l : List Nat) : List Byte := match fetchBytes s l with
  | .ok b _ => b
  | _ => []
def codesAt : List Nat := (span 0 nMm.y).flatMap fun col => (codeBytes .w4 0 2).map fun o => (nMm.addr 0 col + o) % 2 ^ 64
def scalesAt : List Nat := (span 0 (4 * nMm.y)).map fun o => (0x5000 + o) % 2 ^ 64

theorem test_meets_mmt : (∀ s ∈ kinds 1 stMm, RecordAt (stamped s) (rg s 1) dMm) ∧ (∀ s ∈ kinds 1 stMm, Ordinary s ∧ MayIssue s .none 0 ∧ Fresh s ∧
      fld (rg s 2) 5 0 = 2 ∧ fld (rg s 2) 63 6 = 0 ∧ ArrayTurn s (some 1) ∧ EarlierDone (stamped s) [0] (some 1) true ∧ nestOf dMm = some nMm ∧
      nMm.y ≤ 128 ∧ nMm.cnt.getD 0 1 = 1 ∧ nMm.cnt.getD 2 1 = 1 ∧ (actTab s 0 0).st ≠ .expected ∧
      (tget {} (getArr s 0).accs 1).opn = none ∧ stepChecks (formKind .w4) 2 2 [(0, actTab s 0 0)] 0 = .ok ∧
      residents 0 (getCore s 0).actx [0] [0] (afterRead (stamped s) (rg s 1).toNat 64) = .ok (some (mm2 s)) ∧
      fetchBytes (mm2 s) codesAt = .ok (fetched (mm2 s) codesAt) false ∧ (rg s 3).toNat % 4 = 0 ∧
      fetchBytes (mm2 s) scalesAt = .ok (fetched (mm2 s) scalesAt) false) ∧ Clean stMm [1, 2, 3] := by
  exact ⟨fun s hs => recordAt_of ((by decide +kernel : ∀ s ∈ kinds 1 stMm, recordOk (stamped s) (rg s 1) dMm = true) s hs),
    by unfold Ordinary Placed MayIssue Fresh Clean ArrayTurn EarlierDone; decide +kernel⟩

def dMa : List Word := nestRec 0x4000 [(4, 2), (1, 0), (1, 0), (1, 0)]
def dMb : List Word := nestRec 0x4100 [(4, 2), (2, 8), (1, 0), (1, 0)]
/-- w1 and w2 the records of an MMD's operands. -/
def stMd : State := regs [wd (window0 + 0x7000), wd (window0 + 0x7040)] (poke (holding (leased .active))
  (eight (own 0x7040) dMb ++ eight (own 0x7000) dMa ++ [(0x20004000, 0x3F8040003F804000), (0x20004100, 0x4000C0003F803F80)]))

theorem test_meets_mmd : (∀ s ∈ kinds 1 stMd, RecordAt (stamped s) (rg s 1) dMa ∧ RecordAt (afterRead (stamped s) (rg s 1).toNat 64) (rg s 2) dMb) ∧
    (∀ s ∈ kinds 1 stMd, Ordinary s ∧ MayIssue s .fmt 0 ∧ pfxOf s 0 = false ∧ Fresh s ∧ ArrayTurn s (some 1) ∧
      mmdTypes .bf16 .bf16 (fmtOf s) = some (.bf16, .bf16) ∧ nestOf dMa = some (nestAt dMa) ∧ nestOf dMb = some (nestAt dMb) ∧
      (nestAt dMa).y ≤ 128 ∧ (nestAt dMa).x ≤ 1048576 ∧ (nestAt dMb).y ≤ 128 ∧ (nestAt dMb).x = (nestAt dMa).x ∧
      (nestAt dMa).misaligned 2 = none ∧ (nestAt dMb).misaligned 2 = none ∧ openBusy s 0 1 = none ∧
      pendBank (stamped s) ((placesOf (stamped s) ((nestAt dMa).elems ++ (nestAt dMb).elems ++ [] ++ [])).map (·.1)) = none ∧
      ∀ e ∈ [(2, (nestAt dMa).elems), (2, (nestAt dMb).elems), (4, []), (4, [])], operandFault (stamped s) e = none) ∧ Clean stMd [1, 2] := by
  exact ⟨fun s hs => ⟨recordAt_of ((by decide +kernel : ∀ s ∈ kinds 1 stMd, recordOk (stamped s) (rg s 1) dMa = true) s hs),
      recordAt_of ((by decide +kernel : ∀ s ∈ kinds 1 stMd, recordOk (afterRead (stamped s) (rg s 1).toNat 64) (rg s 2) dMb = true) s hs)⟩,
    by unfold Ordinary Placed MayIssue Fresh Clean ArrayTurn; decide +kernel⟩

/-- A command of each kind that is ready, an MMD of one element among them. -/
theorem test_meets_completions :
    ((readyCmd (after (.acswap false 1) stTb) 0 0).map fun c => c.op == .swap 1 false) = some true ∧
    ((readyCmd (after (.tbuild false 3 1 2 .sub .bf16 false) stTb) 0 0).map fun c => match c.op with
      | .build _ => true
      | _ => false) = some true ∧
    ((readyCmd (after (.mmt false 1 1 2 .w4 true false 0) stMm) 0 0).map fun c => match c.op with
      | .mmt _ => true
      | _ => false) = some true ∧
    ((readyCmd (after (.mmd false 1 1 1 .bf16 .bf16) stMd) 0 0).map fun c => match c.op with
      | .mmd m => m.m == 1 && m.n == 1 && m.ta != .lg6
      | _ => false) = some true := by decide +kernel

/-- A copy for a member that is IDLE, one for a member that takes it, and a stale notice. -/
def stCopy : State := modArr base 0 fun a => { a with copies := [⟨0, 16, 2, tab0⟩], notices := [(0, 16, 3)] }
def stCopy2 : State := modCore stCopy 16 fun c => { c with arr := [(0, { lease := .active, tabs := [(3, { tab0 with leader := some 0 })] })] }
theorem test_meets_copies : (getArr stCopy 0).copies[0]? = some ⟨0, 16, 2, tab0⟩ ∧ (actCtx stCopy 16).lease = .idle ∧
    (getArr stCopy2 0).copies[0]? = some ⟨0, 16, 2, tab0⟩ ∧ (actCtx stCopy2 16).lease ≠ .idle ∧
    ((getArr stCopy2 1).cmds.any fun c => c.blocks 16 (getCore stCopy2 16).actx [2] none) = false ∧
    ((place stCopy2 16 0 2 [2]).map fun t => decide ((getCore t 16).actx = (getCore stCopy2 16).actx)) = some true ∧
    (getArr stCopy2 0).notices[0]? = some (0, 16, 3) ∧
    ((getArr stCopy2 0).copies.any fun c => c.leader = 0 && c.dst = 16 && c.tb = 3) = false ∧
    (tget {} (arrCtx stCopy2 16 0).tabs 3).leader = some 0 := by decide +kernel

def dAc : List Word := nestRec (window0 + 0x7100) [(3, 4), (2, 12), (1, 0), (1, 0)]
def stAc : State := modAcc (regs [wd (window0 + 0x7000)] (poke (holding (leased .active)) (eight (own 0x7000) dAc))) 0 1
  fun a => { a with vis := { v := [(0, 0x3F800000), (129, 0x40490FDB)] }, work := { v := [(1, 0x3F800000)] } }
def lAc (u : State) : List (Nat × Option Xl) := okOr [] (destPas u 4 (nestAt dAc).elems)

/-- ACRD reads in the state, ACRD of the working bank in the state in which the array has noted it. -/
theorem test_meets_acrd : (∀ s ∈ kinds 1 stAc, ∀ u ∈ [s, stamped s], RecordAt u (rg s 1) dAc) ∧ (∀ s ∈ kinds 1 stAc, Ordinary s ∧ MayIssue s .fmt 0 ∧ Fresh s ∧
      acrdType (fmtOf s) = some .fp32 ∧ EarlierDone s [] (some 1) false ∧ ArrayTurn s (some 1) ∧ workBusy (stamped s) 0 1 = none ∧
      EarlierDone (stamped s) [] none true ∧ (tget {} (getArr s 0).accs 1).vis.psn = false ∧ (tget {} (getArr s 0).accs 1).work.psn = false ∧
      nestOf dAc = some (nestAt dAc) ∧ (nestAt dAc).x ≤ 128 ∧ (nestAt dAc).y ≤ 128 ∧ (nestAt dAc).misaligned 4 = none ∧
      ∀ u ∈ [s, stamped s], (match destPas u 4 (nestAt dAc).elems with
        | .ok l => decide (l = lAc u)
        | .error _ => false) = true ∧ (∀ e ∈ lAc u, destBad u 4 e.2 = false) ∧
        pendBank u (((lAc u).filterMap (·.2)).map (·.pa)) = none ∧ keyHeld u (((lAc u).filterMap (·.2)).map fun x => (x.pa, x.key)) = false) ∧
    Clean stAc [1] := by
  exact ⟨fun s hs u hu => recordAt_of ((by decide +kernel : ∀ s ∈ kinds 1 stAc, ∀ u ∈ [s, stamped s], recordOk u (rg s 1) dAc = true) s hs u hu),
    by unfold Ordinary Placed MayIssue Fresh Clean ArrayTurn EarlierDone; decide +kernel⟩

/-! The mask unit, the copy engine and the work-lists. -/

def bytesAt (s : State) (n : Nat) (va : Word) : List Byte := match readUnit s va.toNat n with
  | .ok b _ => b
  | _ => []
def mctx (s : State) : State := modMask s 0 2
  fun m => { m with prog := [0x1000, 0xE000], consts := [3, 0, 0, 0, 0, 0, 0, 0], limit := 4096, full := 7, part := 8, empty := 9, forced := 1 }
theorem test_meets_mskcnt : MayIssue (mctx base) .none 0 ∧ Fresh (mctx base) ∧ 1 ≤ 28 ∧ writesPending (mctx base) 0 = false := by
  unfold MayIssue Fresh; decide +kernel

def stMk : State := regs [wd (window0 + 0x7000), 5, 9] (poke base [(own 0x7000, 2), (own 0x7018, wd (2 ^ 32 * 4096)),
  (own 0x7020, wd (0x1000 + 0xE000 * 65536)), (own 0x7040, 3)])
def recMk : List Byte := bytesAt stMk 128 (wd (window0 + 0x7000))
theorem test_meets_mskld : (∀ s ∈ kinds 1 stMk, takeDone s 0 = false ∧ MayIssue s .none 0 ∧ Fresh s ∧ writesPending s 0 = false ∧ (rg s 1).toNat % 64 = 0 ∧ readUnit s (rg s 1).toNat 128 = .ok recMk false ∧ maskRecordTrap (words recMk) = none ∧
    fld ((words recMk).getD 0 0) 47 32 = 0 ∧ fld ((words recMk).getD 0 0) 31 16 = 0) ∧ Clean stMk [2, 1, 3] := by
  unfold MayIssue Fresh Clean; decide +kernel

/-- A grid of 2 by 3 tiles, one query and one key past a tile's edge. -/
def stMc : State := mctx (regs [wd (window0 + 0x7800), wd (window0 + 0x7000), 100]
  (poke base [(own 0x7008, wd (129 + 2 ^ 32 * 257)), (own 0x7010, wd (window0 + 0x7200))]))
def recMc : List Byte := bytesAt stMc 32 (wd (window0 + 0x7000))
def lMc : List (Nat × Xl) := okOr [] (destRegion stMc (window0 + 0x7200) 2)
theorem test_meets_mskcls : (∀ s ∈ kinds 2 stMc, MayIssue s .none 0 ∧ Fresh s ∧ writesPending s 0 = false ∧ (rg s 2).toNat % 32 = 0 ∧ readUnit s (rg s 2).toNat 32 = .ok recMc false ∧
    (words recMc).map BitVec.toNat = [0 + 2 ^ 32 * 0, 129 + 2 ^ 32 * 257, window0 + 0x7200, 0] ∧ (window0 + 0x7200) % 8 = 0 ∧
    ((129 + 127) / 128 * ((257 + 127) / 128) + 3) / 4 = 2 ∧ (getMask s 0 2).prog ≠ [] ∧
    destRegion s (window0 + 0x7200) 2 = .ok lMc ∧ writeNeed s lMc (window0 + 0x7200) 2 = none ∧ takeDone s 0 = false) ∧ Clean stMc [9, 2, 3] := by
  unfold MayIssue Fresh Clean; decide +kernel

def stMe : State := mctx (regs [wd (window0 + 0x7800), 0xFFFFFFFF, 0])
def lMe : List (Nat × Xl) := okOr [] (destRegion stMe (window0 + 0x7800) 2048)
theorem test_meets_mskel : (∀ s ∈ [stMe], MayIssue s .none 0 ∧ Fresh s ∧ writesPending s 0 = false ∧ (rg s 1).toNat % 64 = 0 ∧ (rg s 2).toNat < 2 ^ 32 ∧ (rg s 3).toNat < 2 ^ 32 ∧ (getMask s 0 2).prog ≠ [] ∧
    destRegion s (rg s 1).toNat 2048 = .ok lMe ∧ writeNeed s lMe (rg s 1).toNat 2048 = none ∧ takeDone s 0 = false) ∧ Clean stMe [1, 2, 3] := by
  unfold MayIssue Fresh Clean; decide +kernel

theorem test_meets_poisoned_mskel : let s := pt (poi 1 stMe)
    (rg s 1).toNat % 64 = 0 ∧ regPsn s 0 1 = true ∧ takeDone s 0 = false ∧ (match destRegion s (rg s 1).toNat 2048 with
      | .ok _ => true
      | .error _ => false) = true := by decide +kernel

def kvRec : List Word := [0x5000, wd (window0 + 0x8000), 0, wd (64 + 2 ^ 32 * 16), 5, 0, 3, 0]
/-- w2 the record of a KVCOMMIT, whose length word is in HBM. -/
def stKv (len mask : Word) : State :=
  regs [4, wd (window0 + 0x7000), 100] (poke base (eight (own 0x7000) (kvRec.set 4 mask) ++ [(0x20005000, len)]))
theorem test_meets_kvcommit : (∀ s ∈ kinds 2 (stKv 2 5), takeDone s 0 = false ∧ MayIssue s .none 0 ∧ Fresh s ∧ writesPending s 0 = false ∧
    (rg s 2).toNat % 64 = 0 ∧
    readUnit s (rg s 2).toNat 64 = .ok (bytesAt s 64 (wd (window0 + 0x7000))) false ∧
    words (bytesAt s 64 (wd (window0 + 0x7000))) = kvRec ∧ kvFields kvRec = some (64, 16, 3) ∧
    kvLength (afterRead s (rg s 2).toNat 64) 0x5000 = .ok (span 0x20005000 8, ⟨0x20005000, 0, false, false, false, false, none⟩)) ∧ Clean (stKv 2 5) [1, 2, 3] := by
  unfold MayIssue Fresh Clean; decide +kernel

/-- The state in which the take of a KVCOMMIT has been performed. -/
def kvTaken (len mask : Word) : State := after (.syncAccessArrival 0) (after (.kvcommit true 0 2) (stKv len mask))
/-- Just room and none accepted; one too many. -/
theorem test_meets_kv_takes : ∀ len ∈ [13, 14], ((kvTaken (wd len) 0).flight[0]?.map fun y => decide (y.dest = .kvTake ∧
      y.st = .done (wBytes (wd len)) false ∧ clusterOf (coreOf y.hart) = 0 ∧
      kvFields (getSlot (kvTaken (wd len) 0) y.hart).latch = some (64, 16, 3) ∧
      (∀ z ∈ (kvTaken (wd len) 0).flight, z.uid ≠ y.uid → z.hart ≠ y.hart) ∧
      (∀ k ∈ List.range 3, ((getSlot (kvTaken (wd len) 0) y.hart).latch.getD (4 + k / 64) 0).getLsbD (k % 64) = false) ∧
      (getSlot (kvTaken (wd len) 0) y.hart).latch.getD 8 0 = 0)) = some true ∧
    (destRegion (kvTaken (wd len) 0) (window0 + 0x8000 + len * 64) (3 * 64)).isOk = true := by decide +kernel

/-- A commit of entries 0 and 2 of three at length 2, entry 4 of the plane having a byte. -/
def kvMv : State := poke (kvTaken 2 5) [(own 0x8100, 0xABCD)]
/-- R163: entry 4 moves to 3 and the length becomes 4. -/
theorem test_meets_kv_moves : Memory.wf kvMv.mem = true ∧ (kvMv.flight[0]?.map fun y => decide (y.pas.Nodup ∧ y.pas.length = 8 ∧
      y.pas.all isHbm = true ∧ 0 < (getSlot kvMv y.hart).wp ∧ kvMv.flight.length = 1)) = some true ∧
    (kvEntries [(window0 + 0x8000, okOr [] (destRegion kvMv (window0 + 0x8080) 192))] 2 64 [true, false, true] 0 0
      kvMv none).isSome = true ∧
    (let t := after (.kvcommitTakePerformed 0 0) kvMv
     rd64 t (own 0x80C0) = 0xABCD ∧ rd64 t 0x20005000 = 4 ∧ isFull t 0x20005000 = true) := by decide +kernel

def engDesc (op et : Nat) : List Word :=
  [wd (op * 2 ^ 60 + et * 2 ^ 56 + 3 * 2 ^ 32 + 4), 8, 0x4000, wd (window0 + 0x8000), 0x5000, 64, 64, 0]
def stEn (op et : Nat) : State := regs [wd (window0 + 0x7000)] (poke base (eight (own 0x7000) (engDesc op et)))
def jobOf (d : List Word) (ops : List Nat) : Job := (jobFields 0 d ops).getD
  { uid := 0, hart := 0, opc := 0, et := .i8, iw := 0, evt := 0, count := 0, elen := 0, src := 0, dst := 0, idx := 0, rbound := 0, wbound := 0, asid := 0, pages := [], regions := [], core := 0, started := false, next := 0, stand := none, errs := 0, bad := none, region := false, tag := none, msg := [], issued := 0, more := [], rows := [], rowsPsn := false }
def readsOf (s : State) (j : Job) : List (Nat × Xl) × List (Nat × Nat × Bool) := okOr ([], []) (readRegions s (jobReads j))
def writesOf (s : State) (j : Job) : List (Nat × Xl) := okOr [] (engineRegion s (jobWrite j).1 (jobWrite j).2 .write)

/-- The hypotheses on a state, a descriptor and its job. -/
def EngineReady (s : State) (d : List Word) (ops : List Nat) (j : Job) : Prop :=
  recordOk s (rg s 1) d = true ∧ (getSlot s 0).region = none ∧ jobFields 0 d ops = some j ∧ readRegions s (jobReads j) = .ok (readsOf s j) ∧
  engineRegion s (jobWrite j).1 (jobWrite j).2 .write = .ok (writesOf s j) ∧ dstFifo s (jobWrite j).1 (jobWrite j).2 = false ∧
  regionFault s (writesOf s j) (jobWrite j).1 (jobWrite j).2 = none ∧
  regionLate s (writesOf s j) (jobWrite j).1 (jobWrite j).2 = false ∧
  fifoAt s (writesOf s j) = none ∧ needMet s 0 (.jobRoom j.evt) = true
theorem test_meets_engine : (∀ e ∈ [(0, 0, [0]), (1, 0, [1, 4]), (2, 0, [2]), (3, 10, [3])], ∀ s ∈ kinds 1 (stEn e.1 e.2.1),
      EngineReady s (engDesc e.1 e.2.1) e.2.2 (jobOf (engDesc e.1 e.2.1) e.2.2)) ∧
    (∀ e ∈ [(0, 0), (1, 0), (2, 0), (3, 10)], ∀ s ∈ kinds 1 (stEn e.1 e.2), Ordinary s ∧ MayIssue s .none 0 ∧ Fresh s) ∧ Clean (stEn 0 0) [1] ∧ Clean (stEn 1 0) [1] ∧ Clean (stEn 2 0) [1] ∧ Clean (stEn 3 10) [1] := by
  unfold EngineReady Ordinary Placed MayIssue Fresh Clean; decide +kernel

/-- A job that waits and one whose elements are behind it, alone on its line, for which hart 0 may wait. -/
def stJob (started : Bool) (next : Nat) : State := modCluster base 0
  fun c => { c with jobs := [{ jobOf (engDesc 0 0) [0] with started := started, next := next }] }
def stJobWait : State := modCluster (modSlot (stJob true 4) 0 fun x => { x with st := .waiting (.event 3), latch := [5] }) 0
  fun c => { c with lines := [(3, { pend := 1 })] }
theorem test_meets_jobs : noticesPending (stJob false 0) = false ∧
    ((getCluster (stJob false 0) 0).jobs[0]?.map fun j => j.started == false && mayStart (stJob false 0) 0 j &&
      !pagesHeld (stJob false 0) j.pages) = some true ∧
    (∀ s ∈ [stJob true 4, stJobWait], ((getCluster s 0).jobs[0]?.map fun j => j.started && decide (j.count ≤ j.next) && decide (j.evt = 3)) = some true ∧
      noticesPending s = false) ∧ (getLine stJobWait 0 3).pend - 1 = 0 ∧ Placed stJobWait 0 ∧ Memory.wf stJobWait.mem = true ∧
    (∀ e ∈ stJobWait.slots, (getSlot stJobWait e.1).st = .waiting (.event 3) ∧ e.1 = 0) ∧ atFifo base 0 4 = [] := by
  unfold Placed; decide +kernel

/-- A COPY of one element, accepted, whose places are plain: before a read, and with its element read before a write. -/
def stCp : State := after (.copy false 1) (regs [wd (window0 + 0x7000)] (poke base (eight (own 0x7000) ((engDesc 0 0).set 0 (wd (3 * 2 ^ 32 + 1))))))
def stCpAt (n : Nat) : State := modCluster stCp 0
  fun c => { c with jobs := c.jobs.map fun j => { j with started := true, buf := List.replicate n 7 } }
theorem test_meets_copy_job : ((getCluster stCp 0).jobs[0]?.map fun j => decide (j.started = false) && mayStart stCp 0 j) = some true ∧
    ∀ n ∈ [0, 8], ((getCluster (stCpAt n) 0).jobs[0]?.map fun j => let s := stCpAt n
      decide (j.opc = 0 ∧ j.next < j.count ∧ j.stand = none ∧ j.started = true ∧ j.overlaps = false ∧ j.elen = 8 ∧ j.buf.length = n ∧
        j.wr = 0 ∧ j.place 0 j.next = some (j.src, j.dst) ∧ pagesHeld s j.pages = false ∧ s.sched.choices.head? ≠ some true ∧
        rangeWay s j j.dst j.elen = .go ∧ ∀ e ∈ j.issuers, coreOf e.1 = j.core) &&
      ([j.src, j.dst].all fun v => match jobPas j.pages v (pieceLen v 8) with
        | some ps => (changing s (ps.map (·.1))).isNone && engineOk s (ps.map (·.1)) && ps.all (fun c => (fifoPort s [c.1]).isNone)
        | none => false)) = some true := by decide +kernel

/-- A load and a job that wait at a bank in FIFO mode, in which one slot is filled. -/
def stBank : State := modCluster base 0 fun c => { c with csbmode := wd (2 * 16), csbnext := wd (2 * 16), fifos := [(1, ⟨0, 1, 1⟩)] }
def waitAcc : Access :=
  { uid := 3, hart := 0, va := 0, pas := span (sramPa base 0 0x40000) 8, key := 0, cache := false, op := .load, psn := false
    dest := .nothing, st := .retry 2 }
def waitJob : Job := { jobOf (engDesc 0 0) [0] with started := true, stand := some (0, 1, true, 7) }
theorem test_meets_bank_waits : atFifo { stBank with flight := [waitAcc] } 0 1 = [(2, .inl waitAcc)] ∧
    atFifo (modCluster stBank 0 fun c => { c with jobs := [waitJob] }) 0 1 = [(7, .inr (0, waitJob))] ∧
    (match perform { stBank with flight := [waitAcc] } waitAcc with
     | (_, .done _ _) => true
     | _ => false) = true := by decide +kernel

theorem test_meets_events : MayIssue (stJob true 0) .none 0 ∧ jobsPending (stJob true 0) 0 = true ∧
    (getLine (modCluster base 0 fun c => { c with lines := [(31, { pend := 1 })] }) 0 31).pend ≠ 0 ∧ Ordinary base ∧ MayIssue base .none 0 ∧
    Fresh base ∧ (getLine base 0 31).pend = 0 ∧ jobsPending base 0 = false := by
  unfold MayIssue Ordinary Placed Fresh; decide +kernel

/-- Work-list 2, with a bitmap in cluster SRAM in which the bit of key 33 is set. -/
def wl0 : WorkList := { ok := true, cap := 4, ring := window0 + 0x1000000, bitmap := window0 + 0x1001000, keys := 64, items := [(7, false), (8, true), (9, false)], tail := 3, pages := [((window0 + 0x1000000) / 65536, sramPa base 0 0, 0)] }
def stWl (w : WorkList := wl0) : State := modList (poke (regs [wd 33, wd 63]) [(sramPa base 0 0x1000, wd (2 ^ 33))]) 0 2 fun _ => w
theorem test_meets_work_lists : (∀ s ∈ kinds 1 stWl, MayIssue s .none 0 ∧ Fresh s ∧ (getList s 0 2).ok = true ∧ pagesHeld s wl0.pages = false ∧
    itemsPoison s 0 0 2 1 = none ∧ scouting s 0 = false ∧
    unchecked s 0 = false ∧ wl0.poppers = [] ∧ wl0.items.length + 1 = wl0.cap ∧ wl0.items ≠ [] ∧
    writesPending s 0 = false ∧ Ordinary s ∧ wl0.bitmap ≠ 0 ∧ fld (rg s 2) 31 0 + 1 = wl0.keys ∧
    keyBit s wl0 (fld (rg s 1) 31 0) = true ∧ keyBit s wl0 (fld (rg s 2) 31 0) = false ∧
    (getList (stWl { wl0 with cap := 3 }) 0 2).cap = (getList (stWl { wl0 with cap := 3 }) 0 2).items.length ∧
    (getList (stWl { wl0 with items := [] }) 0 2).items = []) ∧ Clean stWl [1, 2] := by
  unfold MayIssue Fresh Clean Ordinary Placed; decide +kernel

/-! Tasks, messages and waits. -/

def tx0 : Txn :=
  { uid := 1, num := some 5, st := .running, stage := 0, checked := false, sealed := false, budget := 0, entry := 0x6000, arg := 1, foot := [⟨0x20004, true, false⟩], back := [], push := [], pushBack := [], restart := 0, onBack := false, gang := none, held := [⟨0x20004, true, false⟩], pushBuf := [], pushPsn := [], pooled := false, tag := 2, asid := 0, core := some 0, ent := 0, started := 0, passed := false, wroteW := false, ended := false, voidOf := none, gran := 0 }
def withTx (t : Txn) (s : State) : State :=
  modSlot (modKs s fun k => { k with txns := [t] }) 0 fun x => { x with bound := some t.uid }
/-- A kernel header at 0x6000: version 1, mode 0, 256 bytes, scout offset 64, entry offset 128 (R379). -/
def hdr : List (Nat × Word) :=
  [(0x20006000, wd (0xB153 * 2 ^ 48 + 2 ^ 40 + 256)), (0x20006008, wd (64 * 2 ^ 32 + 128)), (0x20006010, wd (0x8000 + 2 ^ 32 * 0x400))]
/-- A submission descriptor of one region (R42, R43). -/
def subm : List (Nat × Word) := eight (own 0x7000) [wd (2 ^ 34), 0x6000, 7, wd (window0 + 0x7080), 0, 0, 0, 0] ++
  [(own 0x7080, wd (2 ^ 56 + 0x4000)), (own 0x7088, 0x1000)]
def stTx (t : Txn := tx0) : State := withTx t (regs [wd (window0 + 0x7000), wd (window0 + 0x7080), 1, 0x0300000000000007] (poke base (hdr ++ subm)))
def entriesTx : List (Word × Word) := [(wd (2 ^ 56 + 0x4000), 0x1000)]

theorem test_meets_tasks : (∀ r ∈ [2, 4], ∀ s ∈ kinds r stTx, MayIssue s .none 0 ∧ Fresh s ∧ Bound s tx0 ∧ Passed tx0 ∧ writesPending s 0 = false ∧
      s.tr.keyCmd = none ∧ Ordinary s ∧ (rg s 3).toNat = 1 ∧ (rg s 2).toNat % 16 = 0 ∧ taskPending s 0 = false ∧ Drained s) ∧
    Clean stTx [1, 2, 3, 4] ∧ (tx0.passed && tx0.wroteW) = false ∧ tx0.ended = false ∧ tx0.gang = none ∧ boundTxn base 0 = none ∧
    (rg stTx 1).toNat % 64 = 0 ∧ modeOf stTx 0 ≠ 0 := by
  unfold MayIssue Fresh Bound Passed Clean Ordinary Placed Drained; decide +kernel

theorem test_meets_txchk : (∀ s ∈ kinds 2 stTx, (readEntries s (rg s 2).toNat 1).2 = .ok (entriesTx, none) ∧
      firstUncovered s 0 (heldReqs s tx0) entriesTx = none) ∧
    entriesTx.all (fun e => entryRes e = false && 0 < fld e.2 31 0 && fld e.2 31 0 ≤ 0x10000000) = true := by decide +kernel

/-- A footprint that the transaction holds no tile of; a check that is owed voids it, the open batch having room or none. -/
def stUnc (t : Txn) (n : Nat := 0) : State :=
  modKs (stTx { t with held := [] }) fun k => { k with openB := List.replicate n (.txn 9) }
theorem test_meets_uncovered : (∀ e ∈ [(false, 0), (true, 0), (true, 1022), (true, 1024)], let t : Txn := { tx0 with checked := e.1, held := [] }
      let s := stUnc t e.2
      firstUncovered s 0 (heldReqs s t) entriesTx = some 0x4000 ∧ (readEntries s (rg s 2).toNat 1).2 = .ok (entriesTx, none) ∧
      s.ks.openB.length = e.2 ∧ ∀ x ∈ s.ks.txns, x.uid ≠ t.uid → x.st ≠ .void) ∧ tx0.onBack = false ∧ tx0.gang = none := by decide +kernel

theorem test_meets_late_and_ended : Bound (stTx { tx0 with checked := true }) { tx0 with checked := true } ∧
    Bound (stTx { tx0 with ended := true }) { tx0 with ended := true } ∧ Clean (stTx { tx0 with ended := true }) [4] ∧
    taskPending (stTx { tx0 with ended := true }) 0 = false := by
  unfold Bound Clean; decide +kernel

theorem test_meets_scout : (∀ s ∈ kinds 1 stTx, readUnit s ((rg s 1).toNat + 8) 8 = .ok (wBytes 0x6000) false ∧
      readUnit (afterRead s ((rg s 1).toNat + 8) 8) ((ofBytes (wBytes 0x6000)).toNat + 8) 8 = .ok (wBytes (wd (64 * 2 ^ 32 + 128))) false) ∧
    fld (ofBytes (wBytes (wd (64 * 2 ^ 32 + 128)))) 63 32 = 64 ∧ (0x6000 + 64) % 4 = 0 := by decide +kernel

def inboxE : InboxEnt := ⟨1, 9, [1, 2, 3, wd (5 * 2 ^ 9 + 3), 4, 5, 6, 7], none⟩
def stIn : State := modCore base 0 fun c => { c with inbox := [inboxE] }
theorem test_meets_inbox : MayIssue stIn .none 0 ∧ Fresh stIn ∧ modeOf stIn 0 ≠ 0 ∧ boundTxn stIn 0 = none ∧
    inboxTurn stIn 0 = none ∧ recordFor stIn 0 = some inboxE ∧ inboxE.words.length = 8 ∧ Ordinary stIn ∧ recordFor base 0 = none := by
  unfold MayIssue Fresh Ordinary Placed; decide +kernel

/-- A message word for the last frame and slot of a core. -/
def stMs : State := regs [wd (2047 * 2 ^ 37 + 383 * 2 ^ 25 + 15), 0x55]
theorem test_meets_send : (∀ s ∈ kinds 1 stMs, Ordinary s ∧ MayIssue s .none 0 ∧ Fresh s ∧ scouting s 0 = false ∧ unchecked s 0 = false ∧
    fld (rg s 1) 52 48 = 0 ∧ fld (rg s 1) 36 34 = 0 ∧ fld (rg s 1) 24 4 = 0 ∧ fld (rg s 1) 33 25 = 383 ∧
    journalRoom s 0 = true) ∧ Clean stMs [1, 2] := by
  unfold Ordinary Placed MayIssue Fresh Clean; decide +kernel

/-- Slot 15 empty, full in the other format, full. -/
def stRc (f : Nat) : State := writeReg (writeReg base 0 56 (wd f) false) 0 55 0xABCD false
theorem test_meets_recv : ∀ f ∈ [0, 2 ^ 15 + 2 ^ 31, 2 ^ 15], Ordinary (stRc f) ∧ MayIssue (stRc f) .none 0 ∧ Fresh (stRc f) ∧
    (bit (readReg (stRc f) 0 56) 15 = decide (f ≠ 0)) ∧ (bit (readReg (stRc f) 0 56) 31 = decide (2 ^ 31 ≤ f)) ∧
    nanOf (stRc f) 0 = false ∧ Clean (stRc f) [40 + 15] ∧
    (∀ m ∈ (getCore (stRc f) 0).held, m.frame = (getSlot (stRc f) 0).wp / 512 → m.slot ≠ 15) := by
  unfold Ordinary Placed MayIssue Fresh Clean; decide +kernel

def dq0 : DQueue := { ok := true, ring := 0x20008000, cap := 4, pages := [(0x20008000 / 65536, 0x20000000, 0)], head := 1, tail := 4 }
def stQ (d : DQueue := dq0) : State := modKs (regs [17, 0x55]) fun k => { k with queues := [(17, d)] }
/-- One item short of full; full; empty. -/
theorem test_meets_queues : (∀ s ∈ kinds 1 stQ, Ordinary s ∧ MayIssue s .none 0 ∧ Fresh s ∧ queueOk s (rg s 1) = true ∧ pagesHeld s dq0.pages = false ∧
    scouting s 0 = false ∧ unchecked s 0 = false ∧ writesPending s 0 = false ∧
    queueLen (getQueue s 17) + 1 = dq0.cap ∧ dq0.pushers = [] ∧ dq0.poppers = [] ∧ 0 < queueLen (getQueue s 17) ∧
    (frontItem s 17).2 = false ∧ queueOk (stQ { dq0 with tail := 5 }) (rg s 1) = true ∧
    queueLen (getQueue (stQ { dq0 with tail := 5 }) 17) = dq0.cap ∧ queueOk (stQ { dq0 with tail := 1 }) (rg s 1) = true ∧
    queueLen (getQueue (stQ { dq0 with tail := 1 }) 17) = 0) ∧ Clean stQ [1, 2] := by
  unfold Ordinary Placed MayIssue Fresh Clean; decide +kernel

def gang0 : Gang := { id := 4, w := 2, h := 1, stage := 0, uids := [1, 2], place := some (0, 0, 0), lane := 0, arr := [], votes := [], since := none, reserved := none, recs := [] }
def txG : Txn := { tx0 with gang := some (4, 0, 2, 1) }
def stG (g : Gang := gang0) : State := modKs (withTx txG (regs [9, 1]))
  fun k => { k with gangs := [g], txns := k.txns ++ [{ tx0 with uid := 2, gang := some (4, 1, 2, 1), core := some 1 }] }
theorem test_meets_gangs : (∀ s ∈ kinds 2 stG, Ordinary s ∧ MayIssue s .none 0 ∧ Fresh s ∧ Bound s txG ∧ writesPending s 0 = false ∧
    myGang s 0 = some (gang0, 0) ∧ Bound stTx tx0 ∧ myGang stTx 0 = none) ∧ Clean stG [2] := by
  unfold Ordinary Placed MayIssue Fresh Bound Clean; decide +kernel

/-- The poisoned words of the states of `kinds` are poisoned, PTE clear and set; a lease, a message, a frame to return to and TLB
operands with one. -/
theorem test_meets_poisoned_words : (∀ e ∈ [(1, stTb), (1, stMm), (1, stMd), (1, stAc), (1, stMk), (2, stMc), (1, stMe), (2, stKv 2 5), (1, stEn 0 0),
      (1, stWl), (2, stTx), (4, stTx), (1, stTx), (1, stMs), (1, stQ), (2, stG), (1, stWp)], ∀ b, let s := if b = true then pt (poi e.1 e.2) else poi e.1 e.2
        regPsn s 0 e.1 = true ∧ pteOf s 0 = b) := by decide +kernel
theorem test_meets_poisoned_system : (∀ b, let f := fun (s : State) => if b = true then pt s else s
    (let s := f (poi 1 (stAi .active))
     MayIssue s .none 0 ∧ regPsn s 0 1 = true ∧ (rg s 2).toNat < 16 ∧ (rg s 3).toNat < 2 ^ 32 ∧ (rg s 1).toNat % 64 = 0 ∧ (actCtx s 0).lease = .active) ∧
    (let s := f (poi 55 (stRc (2 ^ 15)))
     MayIssue s .none 0 ∧ regPsn s 0 55 = true ∧ bit (readReg s 0 56) 15 = true ∧ bit (readReg s 0 56) 31 = nanOf s 0) ∧
    (let s := f (poi 1 (stRett 1 1 0x1200))
     MayIssue s .none 1 ∧ regPsn s 0 1 = true ∧ (rg s 1).toNat = 0x1200 ∧ Drained s ∧ fld (rd64 s (own (0x1200 + 8 * 61))) 1 0 ≤ modeOf s 0) ∧
    (let s := f (poi 2 (stTlb))
     MayIssue s .none 1 ∧ regPsn s 0 2 = true ∧ fld (rg s 2) 63 56 = 0 ∧ (rg s 1).toNat < 1024)) := by
  unfold MayIssue Drained; decide +kernel

/-! Events of harts, waits and accesses. -/

def at5000 (f : Slot → Slot) (s : State := base) : State := { modSlot s 0 f with cycle := 5000 }
def outR : Outst := { dest := (span (own 0x810) 8).zip (span 0 8), val := some (wBytes 0x1234567800), psn := false, src := none }
def stOut (st : SlotSt) : State := at5000 fun x => { x with st := st, outs := [outR] }
theorem test_meets_results : ∀ st ∈ [SlotSt.parked .results none, .issuing], (getSlot (stOut st) 0).outs[0]? = some outR ∧
    outR.val = some (wBytes 0x1234567800) ∧ outR.psn = false ∧ outR.vec = none ∧ Memory.wf (stOut st).mem = true ∧
    (∀ e ∈ outR.dest, isHbm e.1 = false) ∧ (outR.dest.map (·.1)).Nodup ∧ (getSlot (stOut st) 0).st = st := by decide +kernel

/-- A turn just over, TIMECMP just reached. -/
def stTurn : State := { modSlot base 0 fun x => { x with timecmp := 4096 } with cycle := 4096 }
theorem test_meets_turn : coreOf 0 = 0 ∧ (getSlot stTurn 0).st = .issuing ∧ (∀ k ∈ [1, 2, 3], (getSlot stTurn k).st ≠ .issuing) ∧
    (getSlot stTurn 0).since + 4096 = stTurn.cycle ∧ (getSlot stTurn 0).timecmp.toNat = stTurn.cycle ∧
    (getSlot stTurn 0).timDone = false ∧ stTurn.slots.map (·.1) = [0] := by decide +kernel

/-- An enabled interrupt of each kind, and one of a lower code beside it. -/
def stInt (st : SlotSt) (hsw : Nat) : State :=
  modCore (at5000 fun x => { x with st := st, hsw := wd hsw, ktvec := 0x9000 }) 0 fun c => { c with mtvec := 0x8000 }
theorem test_meets_interrupts : (∀ e ∈ [(8 + 0x700, 8), (8 + 0x600, 9), (8 + 0x400, 10)], ∀ st ∈ [SlotSt.issuing, .ready],
    let s := stInt st e.1
    bit (getSlot s 0).hsw 3 = true ∧ bit (getSlot s 0).hsw 4 = false ∧ bit (getSlot s 0).hsw e.2 = true ∧ (getSlot s 0).st = st ∧
    (getSlot s 0).inside = false ∧ asyncTrap s 0 = none) ∧
    (∀ k ∈ [TrapKind.wake, .timer, .monitor], vectorOf (stInt .ready 8) 0 (targetMode (stInt .ready 8) 0 k) ≠ 0) ∧
    bit (8 + 0x600 : Word) 8 = false ∧ bit (8 + 0x400 : Word) 9 = false := by decide +kernel

def syncAcc : Access :=
  { uid := 3, hart := 0, va := 0x3000, pas := span 0x20003000 8, key := 0, cache := false, op := .sync .take none, psn := false
    dest := .wait 5 false, st := .retry 2 }
def stWait (cancel : Bool) : State :=
  { modSlot (stInt (.waiting (.memory 3)) (8 + 0x100)) 0 fun x => { x with cancel := cancel } with flight := [syncAcc], uid := 9 }
theorem test_meets_cancel : (getSlot (stWait true) 0).st = .waiting (.memory 3) ∧ (getSlot (stWait true) 0).cancel = true ∧
    (getSlot (stWait true) 0).outs = [] ∧ bit (getSlot (stWait true) 0).hsw 8 = true ∧
    ((stWait false).flight.any fun a => a.uid = 3 && isSync a) = true := by decide +kernel

def jr0 : JEnt := ⟨4, 0, 0, false, 0x3000, 0, none, some .absent, 0, 7⟩
def stRef : State := modCore base 0 fun c => { c with journal := [jr0] }
def stAsy : State := modCore base 0 fun c => { c with late := [⟨4, ⟨.accessFault, 1, true, 9⟩, none⟩] }
theorem test_meets_async : (getSlot stRef 0).st = .issuing ∧ thOf stRef 0 = false ∧ refusedEntry stRef 0 = some jr0 ∧
    refusedEntry stAsy 0 = none ∧ lateFor stAsy 0 = some ⟨4, ⟨.accessFault, 1, true, 9⟩, none⟩ ∧ thOf stAsy 0 = false := by
  decide +kernel

def stPc (pc : Nat) : State := modSlot base 0 fun x => { x with pc := wd pc }
/-- A PC between two words, one of a page that is not mapped. -/
theorem test_meets_fetch_faults : ∀ e ∈ [(5, TrapKind.misaligned), (2 ^ 40, .pageFault)],
    (match fetchWord (stPc e.1) 0 with
     | .error f => f.kind == e.2
     | .ok _ => false) = true := by decide +kernel

def waits (w : Wait) (s : State := base) : State :=
  { modSlot s 0 fun x => { x with st := .waiting w, limit := some 100, since := 10, epoch := 7, latch := [9, 2, 1] } with cycle := 110 }
def stLines : State := modCluster base 0 fun c => { c with lines := [(3, { pend := 2 })] }
def stAll : State := stG { gang0 with arr := [(0, 2), (1, 2), (0, 0), (1, 0), (0, 1)], votes := [(0, .sum, 5), (1, .max, 9)] }
/-- Table 7 expects its copy. -/
def stExp : State := modTab (leased .active) 0 0 7 fun t => { t with st := .expected }
theorem test_meets_bounds : (∀ w ∈ [Wait.queuePush 17, .queuePop 17, .event 3, .list 2, .barrier .row, .vote, .lease, .arrayPeriod],
      (getSlot (waits w) 0).limit = some 100 ∧ (getSlot (waits w) 0).since + 100 = (waits w).cycle ∧ (getSlot (waits w) 0).st = .waiting w) ∧
    (getLine (waits (.event 3) stLines) 0 3).pend ≠ 0 ∧ (getSlot (waits (.barrier .row) stG) 0).limit = some 100 ∧
    myGang (waits (.barrier .row) stG) 0 = some (gang0, 0) ∧ myGang (waits .vote stG) 0 = some (gang0, 0) ∧
    domainFull gang0 0 (.barrier .row) = false ∧ domainFull gang0 0 .vote = false ∧ (actCtx (waits .lease) 0).lease ≠ .active ∧
    (getSlot (modSlot stExp 0 fun x => { x with st := .parked (.copy 7) none }) 0).st = .parked (.copy 7) none ∧
    (actTab stExp 0 7).st = .expected := by decide +kernel

def gangFull : Gang := { gang0 with arr := [(0, 2), (1, 2), (0, 0), (1, 0), (0, 1)], votes := [(0, .sum, 5), (1, .max, 9)] }
theorem test_meets_barriers : stAll.ks.gangs.find? (·.id == gangFull.id) = some gangFull ∧ domain gangFull .row 0 ≠ [] ∧
    (∀ j ∈ domain gangFull .row 0, (j, BarKind.row.code) ∈ gangFull.arr) ∧
    gangFull.votes.find? (·.1 == 0) = some (0, .sum, 5) ∧
    (∀ j ∈ domain gangFull .rect 0, (gangFull.votes.any fun y => y.1 == j) = true) ∧
    memberHart (waits .vote stAll) gangFull 0 = some 0 ∧ (getSlot (waits .vote stAll) 0).st = .waiting .vote := by decide +kernel

def stEdge : State :=
  let s := waits (.queuePop 17) (stQ { dq0 with lastPush := some 12 })
  { modSlot s 0 fun x => { x with edgeAt := some 10 } with cycle := 10 + 4096 }
def probing (p : Probe) : State := modKs stEdge fun k => { k with probes := [p] }
def noticed (w : Wait) : State := modKs (waits w) fun k => { k with notices := [⟨0, 7, 3, 5⟩] }
/-- A probe that comes back, one on its last hop but one, one that is dropped, and notices to a victim of each kind. -/
theorem test_meets_probes : (edgeNow stEdge 0).isSome = true ∧ (getSlot stEdge 0).edgeAt = some 10 ∧ 10 + 4096 = stEdge.cycle ∧
    (∀ p ∈ [(⟨0, 0, 7, 3, 8, 9⟩ : Probe), ⟨0, 5, 7, 253, 8, 9⟩, ⟨0, 5, 7, 254, 8, 9⟩], (probing p).ks.probes[0]? = some p ∧
      p.dst = (probing p).module * 8192 + 0 ∧ (edgeNow (probing p) 0).isSome = true) ∧
    (getSlot (probing ⟨0, 0, 7, 3, 8, 9⟩) 0).epoch = 7 ∧ waitsStill (probing ⟨0, 0, 7, 3, 8, 9⟩) 0 = true ∧
    ∀ w ∈ [Wait.message 15, .queuePush 255, .queuePop 0], (noticed w).ks.notices[0]? = some ⟨0, 7, 3, 5⟩ ∧
      (getSlot (noticed w) 0).st = .waiting w ∧ (getSlot (noticed w) 0).epoch = 7 ∧ waitsStill (noticed w) 0 = true := by decide +kernel

def flying (l : List Access) (s : State := base) : State := { s with flight := l, uid := 50, cycle := 1000 }
def loadAcc : Access :=
  { uid := 8, hart := 0, va := 0x3000, pas := span 0x20003000 8, key := 0, cache := false, op := .load, psn := false, dest := .result, st := .flying }
def sendAcc : Access :=
  { uid := 8, hart := 0, va := 0x3000, pas := span (framePa base 20 3 45) 8, key := 0, cache := false, op := .send 20 3 5 0x77 false 0
    psn := false, dest := .journal 0 4 1, st := .flying }
/-- A store that is not one word, of which all bytes but two have been performed. -/
def oddStore : Access := { flyStore with pas := span 0x20003003 8, va := 0x3003, part := 6 }
theorem test_meets_arrivals : ∀ a ∈ [flyStore, loadAcc, oddStore], (flying [a]).flight[0]? = some a ∧ a.st = .flying ∧ a.past = none ∧ a.acq = none ∧
    heldBack (flying [a]) 0 a = false ∧ refusal (flying [a]) a = none ∧ bankOf (a.pas.headD 0) = none ∧
    pendBank (flying [a]) a.pas = none ∧ keyHeld (flying [a]) a.keyed = false ∧ aligned a.pas = decide (a ≠ oddStore) ∧ a.part + 1 < a.pas.length := by
  decide +kernel

/-- A waiting fill that may be performed, and a take whose word is empty. -/
def fillAcc : Access := { syncAcc with st := .flying, op := .sync .fill (some 5) }
theorem test_meets_sync_performed : (flying [fillAcc] { base with empty := [0x20003000 / 8] }).flight[0]? = some fillAcc ∧
    (let s := flying [fillAcc] { base with empty := [0x20003000 / 8] }
     releaseHeld s 0 fillAcc = false ∧ syncMet .fill (isFull s 0x20003000) = true ∧ fillAcc.dest = .wait 5 false ∧ fillAcc.psn = false ∧
     anyPsn s fillAcc.pas = false ∧ fillAcc.ext = none ∧ fillAcc.pas.all isHbm = true ∧ fillAcc.pas.length = 8 ∧ fillAcc.pas.Nodup ∧
     (getSlot s 0).wp + 512 ≤ 0x30000 ∧ Memory.wf s.mem = true) := by decide +kernel

theorem test_meets_sync_arrival : (flying [{ syncAcc with st := .flying, op := .sync .fill (some 5) }]).flight[0]? =
      some { syncAcc with st := .flying, op := .sync .fill (some 5) } ∧
    releaseHeld (flying [{ syncAcc with st := .flying, op := .sync .fill (some 5) }]) 0 { syncAcc with st := .flying, op := .sync .fill (some 5) } = false ∧
    syncMet .fill (isFull (flying [syncAcc]) 0x20003000) = false ∧ retryCount (flying [syncAcc]) (sliceOf 0x20003000) < 4096 ∧
    bankOf 0x20003000 = none ∧ refusal (flying [syncAcc]) { syncAcc with st := .flying, op := .sync .fill (some 5) } = none := by decide +kernel

theorem test_meets_resends : (flying [{ syncAcc with st := .resend 936 }]).cycle = 936 + 64 ∧ isSync syncAcc = true ∧ isSend sendAcc = true := by
  decide +kernel

/-- The slot of a message empty; full; full with 32 messages held. -/
def stFull (n : Nat) : State := modCore (put64 (flying [sendAcc]) (framePa base 20 3 56) (wd 32) false) 20
  fun c => { c with held := List.replicate n ⟨3, 4, 1, false, none, false⟩ }
theorem test_meets_messages : sendAcc.st = .flying ∧ releaseHeld (flying [sendAcc]) 0 sendAcc = false ∧
    moduleOf (sendAcc.pas.headD 0) = 0 ∧ (flying [sendAcc]).populated.contains 0 = true ∧
    bit (rd64 (flying [sendAcc]) (framePa base (frameCore base 20 3) 3 56)) 5 = false ∧ (stFull 31).flight[0]? = some sendAcc ∧
    bit (rd64 (stFull 31) (framePa base (frameCore (stFull 31) 20 3) 3 56)) 5 = true ∧ (getCore (stFull 31) 20).held.length = 31 ∧
    bit (rd64 (stFull 32) (framePa base (frameCore (stFull 32) 20 3) 3 56)) 5 = true ∧ (getCore (stFull 32) 20).held.length = 32 := by
  decide +kernel

def replyAcc : Access := { loadAcc with dest := .slot 4 5 false, st := .done (wBytes 9) false }
/-- The answers to a store under an entry of the journal: its last write, and one of three. -/
def stAck (n : Nat) (st : AccSt) : State := { modCore base 0 (fun c => { c with journal := [⟨4, 0, 0, false, 0x3000, 0, none, none, n, 7⟩] }) with
  flight := [{ flyStore with st := st }] }
theorem test_meets_acknowledgements : (∀ n ∈ [1, 3], noticesPending (stAck n (.done [] false)) = false ∧
      (stAck n (.done [] false)).flight[0]? = some { flyStore with st := .done [] false } ∧
      ∀ e ∈ (getCore (stAck n (.done [] false)) 0).journal, e.of { flyStore with st := .done [] false } = true ∧ e.left = n ∧ e.refused = none) ∧
    (stAck 1 (.refused .absent)).flight[0]? = some { flyStore with st := .refused .absent } ∧
    (getSlot (stAck 1 (.refused .absent)) 0).outs = [] := by decide +kernel

theorem test_meets_replies : (flying [replyAcc]).flight[0]? = some replyAcc ∧ replyNow (flying [replyAcc]) replyAcc = some (wBytes 9, false) ∧
    (arriveMsg (flying [replyAcc]) (frameCore (flying [replyAcc]) 0 4) 4 5 (ofBytes ((wBytes 9).take 8)) false none (false || replyAcc.psn)).isSome = true ∧
    (replyNow (flying [{ replyAcc with st := .done (wBytes 9) true }]) { replyAcc with st := .done (wBytes 9) true }) = some (wBytes 9, true) ∧
    noticesPending (flying [replyAcc]) = false ∧ replyAcc.grp = none ∧ (getSlot (flying [{ loadAcc with st := .refused .absent }]) 0).st = .issuing := by
  decide +kernel

def aLine (c : Nat) : Line := { base := 0x20003000, key := 0, bytes := [], psn := [], filled := c, age := c }
def stLine : State := { modCluster (modCore base 0 fun c => { c with dcache := [aLine 61440] }) 0
  fun c => { c with ccache := [aLine 0], csbnext := 0x21, csbpend := 6 } with cycle := 65536 }
theorem test_meets_lines : (getCore stLine 0).dcache[0]? = some (aLine 61440) ∧ (aLine 61440).filled + 4096 = stLine.cycle ∧
    (getCluster stLine 0).ccache[0]? = some (aLine 0) ∧ (aLine 0).filled + 65536 = stLine.cycle ∧ bankPend stLine 0 1 = true := by
  decide +kernel

/-! Keystone, the abutments and the front end. -/

def lau : Launch :=
  { tag := 2, queue := some 3, whr := 4, asid := 0, qasid := 0, ctx := 0x8000, doneAt := 0x5000, notify := true, live := 0, last := 4
    ended := true, marked := false, reports := [], desc := 0, copy := [], ndesc := 0, next := 0 }
def stK (f : Keystone → Keystone) (s : State := base) : State := { modKs s f with cycle := 20000 }
def txReady : Txn := { tx0 with st := .ready, core := none }
def stLock (l : List LockEnt) : State :=
  stK fun k => { k with chans := [(3, [.req 5 0x20004 true false, .endMark])], locks := [(0x20004, l)] }
theorem test_meets_locks : ∀ l ∈ [[], [(⟨4, false, false, true⟩ : LockEnt)]],
    tget [] (stLock l).ks.chans 3 = .req 5 0x20004 true false :: [.endMark] ∧ tableSize (stLock l) 3 < 16384 ∧
    ∀ e ∈ tget [] (stLock l).ks.locks 0x20004, e.got = true := by decide +kernel

def stGrant : State := stK fun k => { k with txns := [{ tx0 with st := .granting, held := [] }], grants := [(5, 0x20004)], relq := [(5, 0x20004)] }
theorem test_meets_grants : stGrant.ks.grants[0]? = some (5, 0x20004) ∧ stGrant.ks.relq[0]? = some (5, 0x20004) ∧
    stGrant.ks.txns.find? (·.num == some 5) = some { tx0 with st := .granting, held := [] } ∧ tx0.gang = none ∧
    txnBy stGrant 1 = some { tx0 with st := .granting, held := [] } ∧ tx0.foot.find? (·.tile = 0x20004) = some ⟨0x20004, true, false⟩ ∧ tileGone stGrant 0x20004 = false ∧
    keyHeld stGrant (tilePush { tx0 with st := .granting, held := [] } 0x20004) = false := by
  decide +kernel

def stOpen : State := stK fun k => { k with txns := [{ tx0 with num := none, st := .submitted, held := [] }], openB := [.txn 1], openAt := 16400, batch := 8 }
def grp0 : Group := ⟨1, 3, 40, [7, 0, 9], 3, some (3, 0), [], none, 0, []⟩
theorem test_meets_batches : stOpen.ks.openB ≠ [] ∧ stOpen.ks.openAt + 3600 = stOpen.cycle ∧ stOpen.ks.group = none ∧
    (modKs stOpen fun k => { k with group := some grp0 }).ks.group ≠ none ∧
    (modKs stOpen fun k => { k with group := some grp0, closed := List.replicate 3 [.void] }).ks.closed.length < 4 ∧
    4 ≤ (modKs stOpen fun k => { k with group := some grp0, closed := List.replicate 4 [.void] }).ks.closed.length ∧
    (stK fun k => { k with poolNew := some 32 }).ks.poolNew = some 32 ∧ (stK fun k => { k with poolNew := some 32 }).ks.poolUsed = 0 := by
  decide +kernel

def stDisp : State := stK (fun k => { k with txns := [txReady], ready := [(0, [1])], launches := [{ lau with live := 1 }] }) (poke base hdr)
theorem test_meets_dispatch : tget [] stDisp.ks.ready 0 = 1 :: [] ∧ txnBy stDisp 1 = some txReady ∧ txReady.gang = none ∧
    leastLoaded stDisp ((span 0 2048).filter (openCore stDisp 0 none)) = some 0 ∧
    checkHeader stDisp txReady.asid txReady.entry.toNat = .ok ⟨0, 16, 64, 128, 0x8000, 0x400⟩ ∧ pushBytes txReady.push ≤ 0x400 ∧
    pushWaits stDisp 1 0 = false := by
  decide +kernel

def gangR : Gang := { gang0 with place := none, since := some 3616 }
def stGr : State := stK (fun k => { k with gangs := [gangR], ready := [(0, [1])], txns :=
  [{ txReady with gang := some (4, 0, 2, 1) }, { txReady with uid := 2, num := some 6, gang := some (4, 1, 2, 1) }], launches := [{ lau with live := 2 }] })
theorem test_meets_gang_dispatch :
    (((readyGangs stGr 0).findSome? fun (u, g) => (freeRect stGr g).map fun r => (u, g, r)) = some (1, gangR, (0, 0, 0), 0)) ∧
    readyGangs stGr 0 = (1, gangR) :: [] ∧ (∀ m ∈ gangR.uids.zip (rectCores 2 1 (0, 0, 0)), pushWaits stGr m.1 m.2 = false) ∧ (tget [] stGr.ks.ready 0).head? = some 1 ∧ gangR.since = some 3616 ∧ 3616 + 16384 = stGr.cycle ∧
    (∀ x ∈ stGr.ks.gangs, x.stage = 0 → x.reserved = none) ∧
    ((places gangR.w gangR.h).find? fun p => (rectCores gangR.w gangR.h p).all fun c => (getCore stGr c).stage = 0) = some (0, 0, 0) := by
  decide +kernel

def lauM : Launch := { lau with marked := true, reports := (treeKids 0).map fun k => (k, 0x0200000000000000) }
def stLau (l : Launch) : State := stK fun k => { k with launches := [l], posts := [(2, 77)] }
theorem test_meets_launch_end : launchBy (stLau lau) 2 = some lau ∧ lau.ended = true ∧ lau.live = 0 ∧ lau.marked = false ∧
    launchBy (stLau lauM) 2 = some lauM ∧ lauM.marked = true ∧ tfind lauM.reports 0 = none ∧ tfind lauM.reports 2047 = none ∧
    coreDone (stLau lauM) 2 0 = true ∧ coreDone (stLau lauM) 2 2047 = true ∧
    (∀ k ∈ treeKids 0, (tfind lauM.reports k).isSome = true) ∧ treeKids 2047 = [] ∧ (stLau lauM).ks.posts = (2, 77) :: [] ∧
    (stLau lauM).tr.quiesce = false := by decide +kernel

/-! Stages, cuts and groups. -/

def stMove : State := modCore (stK id) 3 fun c => { c with move := some 4, stage := 1 }
/-- A core to be moved, and one that a switch has vacated. -/
def stVac : State := modKs stMove fun k => { k with switching := [(3, 5, some 1), (7, 2, none)] }
theorem test_meets_stage_move : switchOf stMove 3 = none ∧ (getCore stMove 3).move = some 4 ∧ clearOf stMove 3 = true ∧
    switchOf stVac 3 = some (3, 5, some 1) ∧ ∀ h ∈ span 12 4, (getSlot stVac h).st = .free := by
  decide +kernel

def stCut (t : Txn) (st : SlotSt) : State :=
  { modSlot (withTx t (modKs base fun k => { k with switching := [(0, 3, none)], launches := [{ lau with live := 1 }] })) 0 fun x => { x with st := st } with cycle := 2024 }
def txSealed : Txn := { tx0 with sealed := true, budget := 1, started := 1000 }
theorem test_meets_cuts : cutDue (stCut tx0 .issuing) 0 = true ∧ cuttable (stCut tx0 .issuing) 0 = true ∧ boundTxn (stCut tx0 .issuing) 0 ≠ none ∧
    spared (stCut tx0 .issuing) 0 = false ∧ cutDue (stCut txSealed .issuing) 0 = true ∧ cuttable (stCut txSealed .issuing) 0 = true ∧
    spared (stCut txSealed .issuing) 0 = true ∧ inBudget (stCut txSealed .issuing) 0 = false ∧
    (getSlot (stCut tx0 (.parked .cut none)) 0).outs = [] ∧ jobsPending (stCut tx0 (.parked .cut none)) 0 = false ∧
    (stCut tx0 (.parked .cut none)).flight = [] ∧ boundTxn (stCut tx0 (.parked .cut none)) 0 = some tx0 ∧
    launchBy (stCut tx0 (.parked .cut none)) 2 = some { lau with live := 1 } ∧ freePos (stCut tx0 (.parked .cut none)) 2 = some 0 := by
  decide +kernel

/-- The words of a save record: PC, status, and the frame with its granules (R229). -/
def recW (wp g : Nat) : List Word := [0x6080, 0x21, wd (2 * 2 ^ 38 + wp * 2 ^ 16 + g), 5]
def savd : Saved :=
  { tag := 2, pos := 0, words := recW 6 0, kept := true, wp := 0xC00, hart := 2, txn := some 1, ctx := none, rerun := true, gang := none, stage := 0, lines := [], loop := none, bad := none, acqAt := none }
def stSaved (v : Saved := savd) : State :=
  stK fun k => { k with saved := [v], txns := [{ tx0 with core := none }], launches := [{ lau with ended := false, live := 1 }] }
/-- The last frame, and one that its granules do not fit behind. -/
theorem test_meets_resume : (∀ v ∈ [{ savd with words := recW 383 0 }, { savd with words := recW 383 1 }],
      (stSaved v).ks.saved[0]? = some v ∧ v.gang = none ∧ v.ctx = none ∧
      v.txn.bind (txnBy (stSaved v)) = some { tx0 with core := none } ∧ (getCore (stSaved v) 0).stage = v.stage ∧
      (∀ w ∈ (stSaved v).ks.saved, w.gang = none → coreOf w.hart = 0 → w.stage = v.stage → v.pos ≤ w.pos) ∧
      switchOf (stSaved v) 0 = none ∧ savedBusy (stSaved v) v = false ∧ (getSlot (stSaved v) 3).st = .free ∧ recordWords (stSaved v) v = v.words) ∧
    wpOk (wd (fld ((recW 383 0).getD 2 0) 24 16 * 512)) (fld ((recW 383 0).getD 2 0) 8 0) = true ∧
    wpOk (wd (fld ((recW 383 1).getD 2 0) 24 16 * 512)) (fld ((recW 383 1).getD 2 0) 8 0) = false ∧ tx0.gang = none := by
  decide +kernel

def stGangSaved : State := stK fun k => { k with gangs := [gang0], launches := [{ lau with ended := false, live := 2 }], saved :=
  [{ savd with gang := some 4, hart := 0 }, { savd with gang := some 4, hart := 5, txn := some 2, pos := 1 }], txns :=
  [txG, { tx0 with uid := 2, num := some 6, gang := some (4, 1, 2, 1), core := some 1 }] }
theorem test_meets_gang_resume : stGangSaved.ks.gangs.find? (·.id == gang0.id) = some gang0 ∧ gang0.place ≠ none ∧
    (gangTxns stGangSaved gang0.id).any (fun x => x.st ≠ .retired) = true ∧
    (∀ x ∈ gangTxns stGangSaved gang0.id, x.st ≠ .retired → (savedOf stGangSaved x.uid).isSome = true ∨ x.uid ∈ gang0.recs) ∧
    (places gang0.w gang0.h).find? (mayPlace stGangSaved gang0) = some (0, 0, 0) := by decide +kernel

def cut0 : CutSt := { num := 6, seen := [], log := [], recs := [], harts := [] }
/-- A cut whose markers at Keystone and the first abutment are next; later ones where the earlier have been seen. -/
def stMark (c : CutSt) : State := stK fun k => { k with cutSt := [c], chans := [(0, [.marker, .endMark])] }
theorem test_meets_markers : ∀ e ∈ [([], 0, 0), ([(0, 0)], 1, 0), ([(0, 0), (1, 0)], 1, 1)],
    (stMark { cut0 with seen := e.1 }).ks.cutSt.find? (fun c => !c.seen.contains (e.2.1, e.2.2)) = some { cut0 with seen := e.1 } ∧
    e.2.2 ∈ unitInputs (stMark { cut0 with seen := e.1 }) e.2.1 ∧
    (e.2.1 = 0 ∨ 128 < e.2.1 ∨ e.2.2 ≠ 0 ∨
      (tget [] (stMark { cut0 with seen := e.1 }).ks.chans ((stMark { cut0 with seen := e.1 }).module * 128 + (e.2.1 - 1))).head? = some .marker) ∧
    markerSent (stMark { cut0 with seen := e.1 }) { cut0 with seen := e.1 } e.2.1 e.2.2 = true := by decide +kernel

/-- Stage 2 has two READY units and may have one, stage 1 has none and at least one core to spare. -/
def stGov : State := modKs (modCore (modCore (stK fun k => { k with txns := [{ txReady with stage := 2 }, { txReady with stage := 2, uid := 7 }] }) 3
  fun c => { c with stage := 1 }) 8 fun c => { c with stage := 1 })
  fun k => { k with governed := 19488, regs := tput 0x1010 0x10001 (tput 0x1008 0x10001 k.regs) }
theorem test_meets_governor : stGov.ks.governed + 512 = stGov.cycle ∧
    ((span 0 16).filter fun st => fld (ksReg stGov (0x1000 + 8 * st)) 31 16 < stageOcc stGov st) = [2] ∧
    ((span 0 16).filter fun st => stageOcc stGov st < fld (ksReg stGov (0x1000 + 8 * st)) 15 0 &&
      fld (ksReg stGov (0x1000 + 8 * st)) 43 32 < stageCores stGov st) = [1] ∧ spareCore stGov 1 = some 8 := by decide +kernel

def sc0 : ScOp := { hart := 0, uid := 8, acc := none, scope := .device, cycle := 31 }
def stSc : State := { modKs base fun k => { k with sc := [sc0] } with cycle := 48 }
theorem test_meets_window : stSc.ks.sc = [sc0] ∧ sc0.acc = none ∧ sc0.foreign = false ∧ stSc.ks.group = none ∧ 32 * (sc0.cycle / 32) + 48 = stSc.cycle ∧
    (getSlot stSc 8191).st = .free ∧ wpOk (wd 0x2FE00) 0 = true := by decide +kernel

def stGrp (g : Group) : State := stK fun k => { k with group := some g }
def grp1 : Group := { grp0 with last := some (2, 2), gone := [0], heldAt := some 19280 }
theorem test_meets_groups : stOpen.ks.group = none ∧ [7, 0, 9][1]? = some stOpen.module ∧ (closeBatch stOpen).ks.batch < 10 ∧
    (∀ c ∈ grp1.heldAt, c + 18 * grp1.trot = (stGrp grp1).cycle) ∧ grp1.pos ∉ grp1.gone ∧ frameNext grp1 = (grp1.next, grp1.pos) ∧
    frameNext { grp0 with last := some (3, 1) } = (3, 2) ∧ 2 ∈ live { grp0 with last := some (3, 1) } ∧ 9 ∈ grp0.mods ∧
    9 ≠ (stGrp grp0).module ∧ 0 ∈ grp1.gone ∧ 0 ≠ grp1.pos ∧ 2 < grp0.n ∧ 2 ∉ grp0.gone ∧
    frameNext { grp0 with last := some (3, 1) } = (3, 2) ∧ grp0.heard + 100 * Config.cyclesPerUs = 180000 := by decide +kernel

/-! Trestle, the firmware and the links. -/

def pkw (l : List Nat) (s : State := base) : State :=
  (l.zip (List.range 64)).foldl (fun s e => putBytes s 0 ((span (0x20009000 + 4 * e.2) 4).zip (leBytes 4 e.1)) false) s
def cq0 : CmdQueue := { base := 0x9000, cfg := wd (2 ^ 24 + 6 * 2 ^ 16), wptr := 40, rptr := 0, st := .mapped, thread := 2 }
/-- A packet at the head of queue 3. -/
def pq (typ f : Nat) (p : List Nat) (s : State := base) : State :=
  modTr (pkw ((typ * 2 ^ 24 + p.length * 2 ^ 8 + f) :: p) s) fun x => { x with cqs := [(3, cq0)] }
def bv (p : List Nat) : List (BitVec 32) := p.map fun n => BitVec.ofNat 32 n
def waitP (v : Nat) : List Nat := [0, 0x5000, 0, v, 0, 0xFFFFFFFF, 0xFFFFFFFF]
def launchP : List Nat := [2 * 2 ^ 28, 0x5000, 0, 2, 0x10000, 0, 0x6000, 0]
def st77 : State := poke base [(0x20005000, 77)]
/-- Two descriptors whose headers pass, at 0x5000 (R42, R403), and a graph of one node at 0xB000 (R404). -/
def stDesc : State := poke base ([(0x20007000, wd (0xB153 * 2 ^ 48 + 2 ^ 40 + 256)), (0x20007008, wd (64 * 2 ^ 32 + 128)),
  (0x20007010, wd (0x8000 + 2 ^ 32 * 0x400)), (0x20005008, 0x7000), (0x20005048, 0x7000), (0x2000B000, 1), (0x2000B040, 9)])

def packets : List (Nat × Nat × List Nat) := [(1, 3, [5, 6]), (3, 2, []), (4, 2, waitP 77), (4, 2, waitP 78), (5, 2, [1, 0x5000, 0, 0x11223344, 0x55667788]),
  (6, 2, [10, 0xB000, 0]), (7, 0, [0x1FFF, 0x1234, 7]), (8, 0, [0x20F, 0x20001, 0x100]), (9, 2, [1]), (10, 2, [3 * 2 ^ 28 + 2, 2047]),
  (11, 2, [2 ^ 28 + 2 * 2 ^ 24 + 3 * 2 ^ 20 + 4 * 2 ^ 16, 2048]), (2, 2, launchP), (12, 2, [2 * 2 ^ 28, 0xB000, 0])]
theorem test_meets_packets : ∀ e ∈ packets, Parses (pq e.1 e.2.1 e.2.2 stDesc) 3 e.1 e.2.1 (bv e.2.2) :=
  fun e he => parses_of ((by decide +kernel : ∀ e ∈ packets, parsesOk (pq e.1 e.2.1 e.2.2 stDesc) 3 e.1 e.2.1 (bv e.2.2) = true) e he)

/-- A batch to be closed by CLOSE and by CUT, outside a group and in one that keeps three. -/
def inGroup (s : State) : State := modKs s fun k => { k with group := some grp0, closed := List.replicate 3 [.void] }
theorem test_meets_close_and_cut : ∀ e ∈ [(3, []), (9, [1])], ∀ s ∈ [stOpen, inGroup stOpen],
    Parses (pq e.1 2 e.2 s) 3 e.1 2 (bv e.2) ∧ s.ks.openB ≠ [] ∧ s.ks.closed.length < 4 ∧ s.ks.openB.length < 1024 :=
  fun e he s hs => ⟨parses_of ((by decide +kernel : ∀ e ∈ [(3, []), (9, [1])], ∀ s ∈ [stOpen, inGroup stOpen],
      parsesOk (pq e.1 2 e.2 s) 3 e.1 2 (bv e.2) = true) e he s hs),
    (by decide +kernel : ∀ s ∈ [stOpen, inGroup stOpen], s.ks.openB ≠ [] ∧ s.ks.closed.length < 4 ∧ s.ks.openB.length < 1024) s hs⟩

theorem test_meets_write_and_wait : JournalOff (pq 5 2 [1, 0x5000, 0, 1, 2]) ∧ (pq 5 2 [1, 0x5000, 0, 1, 2]).flight = [] ∧
    Memory.wf (pq 5 2 [1, 0x5000, 0, 1, 2]).mem = true ∧
    xlBytes (pq 5 2 [1, 0x5000, 0, 1, 2]) ⟨0, 0, true⟩ 0x5000 8 .write = .ok (span 0x20005000 8, ⟨0x20005000, 0, false, false, false, false, none⟩) ∧
    targetOf (offsetOf 0x20005000) = .hbm ∧ moduleOf 0x20005000 = 0 ∧ waitHolds (pq 4 2 (waitP 77) st77) cq0 (bv (waitP 77)) = true ∧
    waitHolds (pq 4 2 (waitP 78) st77) cq0 (bv (waitP 78)) = false ∧ getCq (pq 4 2 (waitP 77) st77) 3 = cq0 ∧ cq0.stack = [] := by
  unfold JournalOff; decide +kernel

theorem test_meets_launch_and_graph :
    (match peekWords (pq 2 2 launchP stDesc) none 0 (0x5000 + 64 + 8) 1 with
     | some [e] => (checkHeader (pq 2 2 launchP stDesc) 0 e.toNat).isOk
     | _ => false) = true ∧
    (match peekWords (pq 2 2 launchP stDesc) none 0 (0x5000 + 8) 1 with
     | some [e] => (checkHeader (pq 2 2 launchP stDesc) 0 e.toNat).isOk
     | _ => false) = true ∧ launchBy (pq 2 2 launchP stDesc) 2 = none ∧
    launchBy (pq 2 2 launchP (modKs base fun k => { k with launches := [lau] })) 2 = some lau ∧
    intakeFull (pq 2 2 launchP stDesc) = false ∧
    (readGraph (pq 12 2 [2 * 2 ^ 28, 0xB000, 0] stDesc) 0 0xB000).map (·.length) = some 1 := by decide +kernel

/-- Effects that last: none is owed; one is, and has come. -/
theorem test_meets_owed : (∀ t ∈ [5, 10, 11], payOwed (pq 10 2 [3 * 2 ^ 28 + 2, 2047] stDesc) 3 t = none) ∧ (getCq (pq 6 2 [10, 0xB000, 0] stDesc) 3).stack = [] ∧
    ∀ e ∈ [(5, some 7, []), (10, none, [0, 2047]), (11, none, [3])], let o : Owed := ⟨3, e.1, 9, e.2.1, e.2.2⟩
      o.paid (modTr base fun x => { x with owed := [o] }) = true := by decide +kernel

/-- A LAUNCH whose tag is in use, and one whose intake is full; a GRAPH whose slot is busy. -/
def stTag : State := modKs stDesc fun k => { k with launches := [lau] }
def stFullIn : State := modKs stDesc fun k => { k with group := some grp0, closed := List.replicate 4 [.void] }
def stBusy : State := modTr stDesc fun x => { x with graphs := [(2, ⟨[], 0, some 1⟩)] }
theorem test_meets_blocked : ∀ e ∈ [(2, launchP, stTag), (2, launchP, stFullIn), (12, [2 * 2 ^ 28, 0xB000, 0], stBusy)],
    Parses (pq e.1 2 e.2.1 e.2.2) 3 e.1 2 (bv e.2.1) :=
  fun e he => parses_of ((by decide +kernel : ∀ e ∈ [(2, launchP, stTag), (2, launchP, stFullIn), (12, [2 * 2 ^ 28, 0xB000, 0], stBusy)],
    parsesOk (pq e.1 2 e.2.1 e.2.2) 3 e.1 2 (bv e.2.1) = true) e he)
theorem test_meets_blocking : (launchBy stTag 2).isSome = true ∧ intakeFull stFullIn = true ∧
    ((tfind stBusy.tr.graphs 2).bind (·.busy)).isSome = true ∧ (tfind stDesc.tr.graphs 2).bind (·.busy) = none ∧ JournalOff stBusy := by
  unfold JournalOff; decide +kernel

def pend0 : Pend := ⟨4, 2, 0, bv (waitP 77), false⟩
def stCq (l : Tbl CmdQueue) (r : List Nat) (s : State := st77) : State := modTr s fun x => { x with cqs := l, runlist := r }
def cqW : CmdQueue := { cq0 with st := .waiting, pend := some pend0, rptr := 8, waitAt := 100 }
theorem test_meets_waits : (getCq (stCq [(3, cqW)] []) 3).pend = some pend0 ∧ waitHolds (stCq [(3, cqW)] []) cqW pend0.words = true ∧
    waitHolds (stCq [(3, cqW)] []) cqW (bv (waitP 78)) = false ∧ pend0.begun = false ∧ cqW.stack = [] ∧
    standStill (stCq [(3, cqW)] []) = false ∧ (stCq [(3, cqW)] []).tr.runlist = [] := by decide +kernel
theorem test_meets_slices : JournalOff (stCq [(3, cqW)] []) ∧ (let s : State := { stCq [(3, cqW), (4, { cq0 with st := .runnable })] [4] with cycle := 180100 }
     s.tr.runlist = [4] ∧ standStill s = false ∧ cqW.waitAt + 180000 = s.cycle ∧ ∀ e ∈ s.tr.cqs, e.2.st = .waiting → cqW.waitAt ≤ e.2.waitAt) := by
  unfold JournalOff; decide +kernel
theorem test_meets_deadlock : (let s : State := { stCq [(3, cqW)] [] with cycle := 1800000100 }
     (s.tr.cqs.filter fun e => onThread e.2) = [(3, cqW)] ∧ max s.tr.watch cqW.waitAt + (trReg s 0x20).toNat * 1800 = s.cycle) := by
  decide +kernel

def cqF : CmdQueue := { cq0 with st := .faulted, fault := 4 }
/-- A value of QCFG with EN set, LOG2 24 and ASID 1023, and one that clears EN. -/
theorem test_meets_queue_commands : freeThread (stCq [(3, { cq0 with st := .idle })] []) = some 0 ∧
    (getCq (stCq [(3, { cq0 with st := .idle })] []) 3).st = .idle ∧ (getCq (pq 5 2 [0, 1, 2, 3, 4]) 3).st ≠ .idle ∧
    (getCq (pq 5 2 [0, 1, 2, 3, 4]) 3).st = .mapped ∧ (getCq (pq 5 2 [0, 1, 2, 3, 4]) 3).pend = none ∧ cqOn cqW = true ∧
    (∀ n ∈ [0x11803FF, 0x60000], fld (wd n) 63 25 = 0 ∧ fld (wd n) 23 21 = 0 ∧ fld (wd n) 15 10 = 0 ∧ 6 ≤ fld (wd n) 20 16 ∧ fld (wd n) 20 16 ≤ 24) ∧
    bit (wd 0x60000) 24 = false ∧
    packetWord (modTr (pkw [5 * 2 ^ 24 + 5 * 2 ^ 8 + 2]) fun x => { x with cqs := [(3, cqF)] }) cqF 0 = .ok 0x5000502 ∧ 1 + 5 ≤ ringHas cqF := by
  decide +kernel
theorem test_meets_triggers : graphBusy base = false ∧ tfind base.tr.graphs 15 = none ∧ JournalOff base ∧ graphBusy stBusy = true ∧ stBusy.tr.fw ≠ .recovery ∧
    (let s : State := modTr base fun x => { x with graphs := [(2, ⟨[], 0, none⟩)] }
     (tfind s.tr.graphs 2).isSome = true ∧ launchBy s 3 = none ∧ readPatches s 0 0 0 = some [] ∧ graphBusy s = false) := by
  unfold JournalOff; decide +kernel

/-- A leaf that is sealed for the page at 0x20000000. -/
def stSealed : State := poke base [(0x130000, wd (0x20000000 + 2 + 2 ^ 55 + 2 ^ 56 + 2 ^ 57 + 2 ^ 59))]
theorem test_meets_register_writes : (getQueue base 255).pushers = [] ∧ base.tr.keyCmd = none ∧ base.tr.fw ≠ .recovery ∧
    (modTr base fun t => { t with fw := .recovery }).tr.fw = .recovery ∧
    (modTr base fun t => { t with keyCmd := some (8191, []) }).tr.keyCmd = some (8191, []) ∧ base.flight = [] ∧
    (let s : State := modTr base fun t => { t with fw := .trial, handover := some 2, flash := [(0, List.replicate 8 0 ++ leBytes 8 (3 + 2 ^ 16 * 2))] }
     s.tr.handover = some 2 ∧ s.tr.active = 0 ∧ acceptsRecord (activeImage s) 2 = true ∧ acceptsRecord (activeImage s) 1 = false) ∧
    (modTr base fun t => { t with fw := .trial }).tr.fw = .trial ∧
    (let s : State := { modTr base fun t => { t with fw := .trial } with cycle := 90000000 }
     s.tr.trialAt + 90000000 = s.cycle) ∧ clCounter 0x210 = true ∧ ksCounter 0x1110 = true ∧ trCounter 0x38 = true ∧
    regAt base 0x1F200000020 = some (.trestle, 0x20) ∧ regAt base 0x1F10000FFF8 = some (.keystone, 0xFFF8) ∧
    regAt base 0x1F0007FFFF8 = some (.cluster 127, 0xFFF8) ∧ regAt base 0x20003000 = none ∧
    (bases 65536 (span 0x20003000 8)).any (sealedFrame base) = false ∧ stores base (span 0x20003000 8) = true ∧
    Memory.wf base.mem = true ∧ (bases 65536 (span 0x20003000 8)).any (sealedFrame stSealed) = true ∧ JournalOff stSealed ∧
    (∀ b ∈ List.range 16, fld (0x2222222222222222 : Word) (4 * b + 1) (4 * b) ≠ 3) ∧ fld (0x3000000000000000 : Word) 61 60 = 3 := by
  unfold JournalOff; decide +kernel

def stFw (f : Trestle → Trestle) : State := modTr base f
/-- The parcels of ADDI x6, x5, -1 across two words (R393). -/
def stRv : State := modTr (poke base [(0x30000000, wd (0xFFF28313 * 65536))])
  fun t => { t with booted := true, turn := 31, threads := [(31, { pc := 0x30000002, x := [(5, 77)] })] }
theorem test_meets_firmware : base.tr.fw = .running ∧ submitting base = false ∧ base.tr.booted = false ∧
    (stFw fun t => { t with updated := true, svn := 62 }).tr.svn < 63 ∧ (stFw fun t => { t with spdm := .ready }).tr.spdm = .ready ∧
    (stFw fun t => { t with spdm := .ready }).tr.keyCmd = none ∧ stRv.tr.booted = true ∧ stRv.tr.turn = 31 ∧
    rvParcel stRv 31 0x30000002 = .ok 0x8313 ∧ rvParcel stRv 31 0x30000004 = .ok 0xFFF2 ∧ 0x8313 % 4 = 3 ∧
    (0xFFF2 * 65536 + 0x8313) % 128 = 0x13 ∧ bits (0xFFF2 * 65536 + 0x8313) 12 3 = 0 := by decide +kernel

/-- A request of its code and version, with the algorithms that NEGOTIATE_ALGORITHMS must offer; a state for each order. -/
def req (code : Nat) : List Byte := [if code = 0x84 then 0x10 else 0x13, BitVec.ofNat 8 code, 0, 255, 0, 0, 0, 0, 0x80, 0, 0, 0, 2]
theorem test_meets_spdm : (∀ c ∈ [0x84, 0xE1, 0xE3, 0x81, 0x82, 0x83, 0xE0, 0xE4, 0xE5], requestOf c (req c) = true) ∧
    requestOf 0xE1 (req 0x84) = false ∧ (msgByte (req 0xE3) 8).testBit 7 = true ∧ (msgByte (req 0xE3) 12).testBit 1 = true ∧
    ∀ x ∈ [SpdmSt.version, .caps, .algs, .session, .ready], (stFw fun t => { t with spdm := x }).tr.spdm = x := by decide +kernel

/-- A message of 64 bytes that opens in a session, whatever its key. -/
theorem test_meets_secured : ∃ data bs, openSecured (stFw fun t => { t with spdm := .ready }) data = some bs ∧ bs.length = 64 := by
  obtain ⟨data, bs, h, hl⟩ := gcm_opens (Config.sessionKey (stFw fun t => { t with spdm := .ready }).tr.secret)
    (beBytes 12 (Config.sessionNonce (stFw fun t => { t with spdm := .ready }).tr.secret ^^^ (stFw fun t => { t with spdm := .ready }).tr.secSeq))
  refine ⟨data, bs, ?_, hl⟩
  rw [openSecured, if_neg (by decide +kernel)]
  exact h

/-- A flit of type 1 with its CRC. -/
def flit (e : Nat) : BitVec 256 :=
  let f : BitVec 256 := BitVec.ofNat 256 (2 ^ 248 + (e % 4096) * 2 ^ 236 + 0x1234567 * 2 ^ 64)
  BitVec.ofNat 256 (f.toNat + flitCrc e f)
def strand0 : Strand := { sent := 9, held := [(5, 1), (6, 2), (8, 3)], expect := 2 ^ 32 - 1, retrain := [(2, 3)] }
def stLink (um : Bool) (x : Strand := strand0) : State :=
  { base with fab := { base.fab with links := [(1, ⟨true, um, [(111, x)]⟩)], checked := 180003 }, cycle := 360003 }
/-- A third retraining within an hour; a strand that has asked for a replay; one with a flit to send. -/
def strand3 : Strand := { strand0 with trained := [(2, [1, 2])] }
theorem test_meets_links : (∀ d ∈ [0, 1, 2, 4, 5, 6, 7], lit base d = true) ∧
    (∀ um, ∀ x ∈ [strand0, strand3, { strand0 with asked := true }, { strand0 with queue := [(1, 7)] }], let s := stLink um x
      strandOn s 1 111 = true ∧ strandSends s 1 111 = true ∧ (getLink s 1).umpel = um ∧ getStrand s 1 111 = x) ∧
    flitGood strand0.expect (flit (2 ^ 32 - 1)) = true ∧ flitGood strand0.expect (flit 0) = false ∧ laterFlit strand0 (flit 0) = true ∧
    flitGood strand0.expect 7 = false ∧ strand0.failed = [] ∧ strand0.expect < 2 ^ 32 ∧ strand0.window = [] ∧
    bits (flit (2 ^ 32 - 1)).toNat 236 12 = strand0.expect % 4096 ∧
    (∀ off ∈ [1, 64], bits (flit (off - 1)).toNat 236 12 = (strand0.expect + off) % 4096 ∧ flitGood ((strand0.expect + off) % 2 ^ 32) (flit (off - 1)) = true ∧
      flitGood ((strand0.expect + off) % 2 ^ 32) (flit (off - 1) + 1) = false ∧ bits (flit (off - 1) + 1).toNat 236 12 = (strand0.expect + off) % 4096) ∧
    strand0.held = (5, 1) :: [(6, 2), (8, 3)] ∧ strand0.queue = [] ∧ strand0.retrain.find? (·.1 == 2) = some (2, 3) ∧ 3 + 360000 = (stLink true).cycle ∧
    tget [] strand0.trained 2 = [] ∧ ((tget [] strand3.trained 2).filter fun c => 360003 ≤ c + 3600000000 * Config.cyclesPerUs).length = 2 ∧
    fibreRetired (stLink false strand3) 1 (111 / 16) < 15 := by decide +kernel

theorem test_meets_power : (2047, 8) ∉ base.fab.routes ∧ (stLink true).fab.checked + 180000 = (stLink true).cycle ∧
    1 < base.fab.dutyArr ∧ base.fab.stopped = false ∧ (stFw id).fab.dutyAll = 16 ∧ base.fab.dutyArr ≤ 16 ∧
    ({ base with fab := { base.fab with throtAt := some 0, stopped := true } } : State).fab.throtAt = some 0 ∧
    ({ base with fab := { base.fab with throtAt := some 0, stopped := true } } : State).fab.stopped = true := by decide +kernel

/-! The step. -/

/-- The schedule's turn is core 0's, whose hart has the word of an ADD at its PC. -/
def stStep : State := State.reset.withFetchWord 32 0x02321400
theorem test_meets_step : stStep.sched.agenda = [] ∧ (getSlot stStep stStep.cur).inside = false ∧ stStep.sched.errors = [] ∧ stStep.sched.stalls = [] ∧ stStep.sched.turns = (0 + 1) :: [] ∧
    (let r : State := { settle stStep with sched := { (settle stStep).sched with turns := [] } }
     let g := giveIssue (inTurn r 1) 0
     issuer r 0 = some 0 ∧ asyncTrap g 0 = none ∧ pendingInt g 0 = none ∧ g.cycle < (getSlot g 0).since + 4096 ∧
     g.cycle < (getSlot g 0).timecmp.toNat ∧
     (match fetchWord g 0 with
      | .ok (w, u) => decide (decodeWord w.toNat = .ok (.add false 3 4 5)) && (match exec (.add false 3 4 5) u with
        | .next _ => true
        | _ => false)
      | .error _ => false) = true) := by decide +kernel

theorem test_meets_agenda : (let s : State := { base with sched := { base.sched with agenda := [.fwhbTimeout] } }
     s.sched.agenda = .fwhbTimeout :: [] ∧ (match exec .fwhbTimeout (inTurn { s with sched := { s.sched with agenda := [] } } 0) with
       | .next _ => true
       | _ => false) = true) := by decide +kernel

/-- A step of a state whose memory is in canonical form (R88, log 9). -/
theorem test_meets_memory : Memory.wf stStep.mem = true ∧ (match step stStep with
    | .next _ => true
    | _ => false) = true := by decide +kernel

theorem test_meets_encoding : (Instr.add true 31 0 31).isWord = true ∧ (Instr.add true 31 0 31).wf = true ∧ 0x02321400 < 2 ^ 32 ∧
    decodeWord 0x02321400 = .ok (.add false 3 4 5) := by decide +kernel

end Sys2Proof.Tests
end

section
namespace Sys2Proof.Machine

/-- A projection that a function keeps is kept by a fold of it. -/
theorem foldl_proj {α β γ : Type} {π : β → γ} {f : β → α → β} (h : ∀ b a, π (f b a) = π b) (l : List α) (b : β) :
    π (l.foldl f b) = π b :=
  foldl_keeps (P := fun x => π x = π b) f l b rfl fun x a _ hx => (h x a).trans hx

/-- The part of the machine outside storage, harts, units and controllers: its number, its time and schedule, the hart that
executes, its links, and what is in flight. -/
def setting (s : State) : State :=
  { module := s.module, populated := s.populated, cycle := s.cycle, cur := s.cur, flight := s.flight, uid := s.uid
    fab := s.fab, sched := s.sched }

@[simp] theorem setting_modSlot (s : State) (h : Nat) (f : Slot → Slot) : setting (modSlot s h f) = setting s := by simp [setting]
@[simp] theorem setting_modCore (s : State) (c : Nat) (f : Core → Core) : setting (modCore s c f) = setting s := by simp [setting]
@[simp] theorem setting_modCluster (s : State) (c : Nat) (f : Cluster → Cluster) : setting (modCluster s c f) = setting s := by
  simp [setting]
@[simp] theorem setting_modKs (s : State) (f : Keystone → Keystone) : setting (modKs s f) = setting s := by simp [setting]
@[simp] theorem setting_modTr (s : State) (f : Trestle → Trestle) : setting (modTr s f) = setting s := by simp [setting]
@[simp] theorem setting_modTxn (s : State) (u : Nat) (f : Txn → Txn) : setting (modTxn s u f) = setting s := by simp [setting, modTxn]
@[simp] theorem setting_modLaunch (s : State) (t : Nat) (f : Launch → Launch) : setting (modLaunch s t f) = setting s := by simp [setting, modLaunch]
@[simp] theorem setting_modGang (s : State) (g : Nat) (f : Gang → Gang) : setting (modGang s g f) = setting s := by simp [setting, modGang]
@[simp] theorem setting_modPools (s : State) (f : List JEnt → List JEnt) : setting (modPools s f) = setting s := by simp [setting, modPools]
@[simp] theorem setting_bumpTr (s : State) (o : Nat) : setting (bumpTr s o) = setting s := by simp [setting, bumpTr]
@[simp] theorem setting_bumpKs (s : State) (o : Nat) : setting (bumpKs s o) = setting s := by simp [setting, bumpKs]
@[simp] theorem setting_addAcc (s : State) (c t : Nat) (w : Word) : setting (addAcc s c t w) = setting s := by simp [setting, addAcc]

@[simp] theorem setting_markStale (s : State) (pas : List Nat) : setting (markStale s pas) = setting s := by
  simp [setting]

@[simp] theorem setting_retag (s : State) (key pa : Nat) : setting (retag s key pa) = setting s := by
  have h : ∀ (c : Bool) (m : List Host.Cell) (k : Tbl Nat),
      setting (if c then { s with mem := m, keytag := k } else s) = setting s := by intro c m k; cases c <;> rfl
  exact h ..

@[simp] theorem setting_putBytes (s : State) (key : Nat) (cells : List (Nat × Byte)) (psn : Bool) :
    setting (putBytes s key cells psn) = setting s := by
  rw [putBytes, setting_markStale]
  exact foldl_proj (π := setting) (fun b a => setting_retag b key a) (cells.map (·.1)) s

@[simp] theorem setting_put64 (s : State) (pa : Nat) (v : Word) (psn : Bool) : setting (put64 s pa v psn) = setting s :=
  setting_putBytes ..

@[simp] theorem setting_dropOuts (s : State) (h : Nat) (pas : List Nat) : setting (dropOuts s h pas) = setting s := by
  obtain e | e := dropOuts_or s h pas <;> rw [e]; rfl

@[simp] theorem setting_writeReg (s : State) (h n : Nat) (v : Word) (psn : Bool) :
    setting (writeReg s h n v psn) = setting s := by
  unfold writeReg; split <;> simp

@[simp] theorem setting_writeWs (s : State) (h n : Nat) (v : Word) : setting (writeWs s h n v) = setting s :=
  setting_writeReg ..

@[simp] theorem setting_writeRegs (s : State) (h n : Nat) (vs : List Word) : setting (writeRegs s h n vs) = setting s := by
  induction vs generalizing s n with
  | nil => rfl
  | cons v vs ih => simp [writeRegs, ih]

@[simp] theorem setting_jwrite (s : State) (l : JLine) : setting (jwrite s l) = setting s := by
  simp only [jwrite]
  split
  · rfl
  · split <;> split <;> simp

@[simp] theorem setting_jlog (s : State) (kind queue status whr : Nat) (d0 d1 : Word) :
    setting (jlog s kind queue status whr d0 d1) = setting s := by
  simp only [jlog]; split <;> simp

@[simp] theorem setting_sendReleases (s : State) (n : Nat) (ts : List TileReq) : setting (sendReleases s n ts) = setting s := by
  simp [setting, sendReleases]

@[simp] theorem setting_releaseTxn (s : State) (u : Nat) : setting (releaseTxn s u) = setting s := by
  unfold releaseTxn
  split
  · rfl
  · simp only; split
    · simp
    · split <;> simp

@[simp] theorem setting_dropTxn (s : State) (u : Nat) : setting (dropTxn s u) = setting s := by
  unfold dropTxn
  split
  · rfl
  · simp only; split
    · simp
    · split <;> simp

@[simp] theorem setting_dropRefused (s : State) (h u n : Nat) : setting (dropRefused s h u n) = setting s := by
  simp only [dropRefused, setting_modPools]
  exact foldl_proj (fun _ _ => setting_jlog ..) _ _

@[simp] theorem setting_uninstall (s : State) (h : Nat) : setting (uninstall s h) = setting s := by
  rw [uninstall, setting_writeWs]

/-- What giving a slot back does: the frame is uninstalled, no marker is to cut the hart any more, and the slot changes. The
function and the state it matches on are names here, lest the kernel evaluate the uninstalling. -/
theorem toLoop_eq (s : State) (h : Nat) : ∃ g, toLoop s h = modSlot (unmark (uninstall s h) h) h g := by
  obtain ⟨f, hf⟩ : ∃ f, f = toLoop := ⟨_, rfl⟩
  obtain ⟨u, hu⟩ : ∃ u, u = unmark (uninstall s h) h := ⟨_, rfl⟩
  rw [← hf, ← hu]
  delta toLoop at hf
  rw [hf]
  beta_reduce
  rw [← hu]
  dsimp only
  split
  · exact ⟨_, rfl⟩
  · exact ⟨_, rfl⟩

@[simp] theorem setting_unmark (s : State) (h : Nat) : setting (unmark s h) = setting s := by simp [unmark]

@[simp] theorem setting_toLoop (s : State) (h : Nat) : setting (toLoop s h) = setting s := by
  obtain ⟨g, e⟩ := toLoop_eq s h
  rw [e, setting_modSlot, setting_unmark, setting_uninstall]

@[simp] theorem setting_endTask (s : State) (h : Nat) (o e : Word) : setting (endTask s h o e) = setting s := by
  unfold endTask
  split
  · simp
  · next t _ =>
    have : setting (if t.ended then s else releaseTxn s t.uid) = setting s := by split <;> simp
    exact (setting_toLoop ..).trans ((setting_dropTxn ..).trans ((setting_addAcc ..).trans this))

@[simp] theorem setting_endUnhandled (s : State) (h : Nat) (t : Trap) (pc : Word) :
    setting (endUnhandled s h t pc) = setting s := by
  simp only [endUnhandled]
  split
  · simp
  · split <;> simp

@[simp] theorem setting_enterHandler (s : State) (h : Nat) (t : Trap) (pc : Word) :
    setting (enterHandler s h t pc) = setting s := by simp [enterHandler]

@[simp] theorem setting_addBit (s : State) (h : Nat) (b : Word) : setting (addBit s h b) = setting s := by
  unfold addBit; split <;> simp

@[simp] theorem setting_enterTrap (s : State) (h : Nat) (t : Trap) (pc : Word) :
    setting (enterTrap s h t pc) = setting s := by
  simp only [enterTrap]
  split <;> split <;> simp

@[simp] theorem setting_takeTrap (s : State) (h : Nat) (t : Trap) (pc : Word) :
    setting (takeTrap s h t pc) = setting s := by
  unfold takeTrap; split <;> simp

@[simp] theorem setting_settleH (s : State) (h : Nat) : setting (settleH s h) = setting s := by
  simp only [settleH]
  split
  · split
    · split <;> simp
    · rfl
  · split
    · simp
    · split <;> simp
  · rfl

@[simp] theorem setting_acquire (s : State) (h : Nat) (sc : Scope) : setting (acquire s h sc) = setting s := by
  cases sc <;> rfl

@[simp] theorem setting_retireH (s : State) (h : Nat) (sw : Bool) (pc : Word) : setting (retireH s h sw pc) = setting s := by
  simp [setting, retireH]

@[simp] theorem setting_takeRecord (s : State) (h d : Nat) (e : InboxEnt) : setting (takeRecord s h d e) = setting s := by
  simp only [takeRecord, setting_acquire]
  split <;> simp

theorem setting_giveRecords (n : Nat) (s : State) (core : Nat) : setting (giveRecords n s core) = setting s := by
  induction n generalizing s with
  | zero => rfl
  | succ n ih =>
    unfold giveRecords
    split
    · rfl
    · split
      · rfl
      · simp [ih]

@[simp] theorem setting_settle (s : State) : setting (settle s) = setting s := by
  simp only [settle]
  rw [foldl_proj (π := setting) (fun b a => setting_giveRecords 4 b a), foldl_proj (π := setting) setting_settleH]

/-- Ending parks and waits does not touch the schedule. -/
theorem settle_sched (s : State) : (settle s).sched = s.sched := (congrArg State.sched (setting_settle s) :)

end Sys2Proof.Machine
end

section
namespace Sys2Proof.Machine

/-! The schedule (log 2): what a step picks, and what passing time leaves alone. -/

/-- With an agenda, a step runs its first event in its turn. -/
theorem step_of_agenda {s t : State} {i : Instr} {rest : List Instr} (ha : s.sched.agenda = i :: rest)
    (he : exec i (inTurn { s with sched := { s.sched with agenda := rest } }
      (eventRank { s with sched := { s.sched with agenda := rest } } i)) = .next t) : step s = .next (tick t) := by
  simp only [step, pick, ha, eventStep, he]

/-- A hart with nothing due at its boundary runs the instruction at its PC. -/
theorem hartStep_of_nothing_due {g u : State} {h : Nat} {w : IWord} {i : Instr} (ha : asyncTrap g h = none)
    (hp : (getSlot g h).inside = true ∨ pendingInt g h = none) (hc : g.cycle < (getSlot g h).since + 4096)
    (ht : g.cycle < (getSlot g h).timecmp.toNat ∨ (getSlot g h).timDone = true)
    (hf : fetchWord g h = .ok (w, u)) (hd : decodeWord w.toNat = .ok i) : hartStep g h = (i, u) := by
  have h1 : (!(getSlot g h).inside && (pendingInt g h).isSome) = false := by rcases hp with e | e <;> simp [e]
  have h2 : (decide ((getSlot g h).timecmp.toNat ≤ g.cycle) && !(getSlot g h).timDone) = false := by
    rcases ht with e | e
    · simp [Nat.not_le.mpr e]
    · simp [e]
  simp only [hartStep, ha, h1, h2, Nat.not_le.mpr hc, nextInstr, hf, hd, Option.isSome_none, Bool.false_eq_true, if_false]

/-- In a core's turn, a step runs the instruction of its issuing hart. -/
theorem step_of_turn {s t u : State} {c h : Nat} {rest : List Nat} {i : Instr} (ha : s.sched.agenda = [])
    (hs : s.sched.turns = (c + 1) :: rest)
    (hi : issuer { settle s with sched := { (settle s).sched with turns := rest } } c = some h)
    (hh : hartStep (giveIssue (inTurn { settle s with sched := { (settle s).sched with turns := rest } } (1 + c)) h) h = (i, u))
    (he : exec i (countStall u i) = .next t) : step s = .next (tick t) := by
  have hturns : (settle s).sched.turns = (c + 1) :: rest := by rw [settle_sched, hs]
  simp only [step, pick, ha, hturns, Nat.add_sub_cancel, coreStep, hi, hh, he]

/-- A soft error changes neither the cycle nor the schedule (R94). -/
theorem softError_clock (s : State) (e : MemErr) : (softError s e).cycle = s.cycle ∧ (softError s e).sched = s.sched := by
  have mark : ∀ (pa : Nat) (bad : Bool) (o : Nat),
      (bumpTr (markBad s pa bad) o).cycle = s.cycle ∧ (bumpTr (markBad s pa bad) o).sched = s.sched := by
    intro pa bad o; cases bad <;> exact ⟨rfl, rfl⟩
  cases e with
  | dcache | icache | ccache => exact ⟨rfl, rfl⟩
  | word pa bad =>
    simp only [softError]
    split
    · exact ⟨rfl, rfl⟩
    · split
      · exact mark ..
      · exact mark ..
      · exact ⟨rfl, rfl⟩
  | l2 pa bad | hbm pa k bad =>
    simp only [softError]
    split
    · exact mark ..
    · exact ⟨rfl, rfl⟩

/-- With no soft error in it, time changes no storage. -/
theorem tick_storage {t : State} (h : t.sched.errors = []) :
    (tick t).mem = t.mem ∧ (tick t).slots = t.slots ∧ (tick t).cores = t.cores := by
  simp [tick, h]

/-- A step of no stated length takes one cycle (log 4). -/
theorem tick_cycle {t : State} (h : t.sched.stalls = []) : (tick t).cycle = t.cycle + 1 := by
  simp only [tick]
  split
  · simp [softError_clock, h]
  · simp [h]

/-- A step takes its place in the cycle, or in the next one when that is past (R336). -/
theorem inTurn_eq (t : State) (k : Nat) : inTurn t k = if k = 0 then t else { t with
    cycle := if t.sched.phase < k ∨ (2048 < k ∧ t.sched.phase = k) then t.cycle else t.cycle + 1
    sched := { t.sched with phase := k } } := by
  unfold inTurn
  by_cases h : t.sched.phase < k ∨ (2048 < k ∧ t.sched.phase = k) <;> simp [h]

/-- An instruction that goes on after a park, or meets no bank conflict, counts no stall (R76). -/
theorem countStall_none {t : State} {i : Instr} (h : (getSlot t t.cur).inside = true ∨ bankStall t i = 0) :
    countStall t i = t := by
  rcases h with h | h <;> simp [countStall, h]

/-- Settles O59: the agenda's first event, or the issuing hart's instruction in its core's turn, and then time passes. -/
theorem stepRunsDecoded : Obligations.StepRunsDecoded := by
  unfold Obligations.StepRunsDecoded
  intro s
  refine ⟨fun i rest t ha he => step_of_agenda ha he, ?_, inTurn_eq, fun t i => countStall_none,
    fun t => ⟨tick_storage, tick_cycle⟩⟩
  intro c rest i w u t ha hs r h hi g hat hp hc ht hf hd he
  exact step_of_turn ha hs hi (hartStep_of_nothing_due hat hp hc ht hf hd) he

end Sys2Proof.Machine
end

section
namespace Sys2Proof.Machine

/-! A load of two pages (R260): the second may be a FIFO port, and then the hart waits for the load (R82). -/

/-- Memory that holds these 64-bit words. -/
def wordsAt (l : List (Nat × Nat)) : List Host.Cell :=
  memSetAll (l.flatMap fun e => (span e.1 8).zip (wBytes (wd e.2))) []

/-- Hart 0 in Kernel mode, its word 2 holding 0xFFFC: eight bytes from there lie on two pages, the first in HBM at 512 MiB, the
second in bank 0 of cluster 0's SRAM, which is in FIFO mode (R79, R408 to R410). -/
def straddling : State :=
  { slots := [(0, { st := .issuing, wp := 0x800, hsw := 1 })]
    clusters := [(0, { csbmode := 2 })]
    tr := { regs := [(0x100, 0x100001)] }
    mem := wordsAt [(0x100000, 2 ^ 63 + 0x120000), (0x120000, 0x130000 + 1), (0x130000, 0x140000 + 1),
      (0x140000, 0x20000000 + 3 + 2 ^ 55), (0x140008, 0x10100000000 + 3 + 2 ^ 55), (0x10000000810, 0xFFFC)] }

/-- The bytes and the translation of the load. -/
def straddlingPas : List Nat := span 0x2000FFFC 4 ++ span 0x10100000000 4
def straddlingXl : Xl :=
  { pa := 0x2000FFFC, key := 0, cache := false, sealed := false, own := false, win := false, past := some ⟨4, 0, false⟩ }

/-- Its first byte is in HBM and every check lets it pass. -/
theorem straddling_reaches : Reaches straddling (rg straddling 2 + immOf straddling 0).toNat 8 .read straddlingPas straddlingXl := by
  unfold Reaches; decide +kernel

/-- The hart waits for the access, which brings no outstanding result. -/
theorem straddling_waits {t : State} (h : exec (.ld false 1 2 0) straddling = .next t) : ∀ a ∈ t.flight, a.dest = .wait 1 false := by
  have key : (match exec (.ld false 1 2 0) straddling with
      | .next t => t.flight.all fun a => decide (a.dest = .wait 1 false)
      | _ => false) = true := by decide +kernel
  rw [h] at key
  intro a ha
  exact of_decide_eq_true (List.all_eq_true.mp key a ha)

/-- Refutes O9: a load whose first byte is in HBM and whose last is at a FIFO port of cluster SRAM, on the next page, makes its
hart wait (R82, R260); its destination is no outstanding result. -/
theorem not_remoteLoadsSent : ¬ Obligations.RemoteLoadsSent := by
  unfold Obligations.RemoteLoadsSent
  intro h
  have may : MayIssue straddling .imm 0 := by unfold MayIssue; decide +kernel
  have clean : Clean straddling [2] := by unfold Clean; decide +kernel
  have cleanAt : CleanAt straddling straddlingPas := by unfold CleanAt; decide +kernel
  obtain ⟨t, ht, sent, -⟩ := (h straddling false 1 2 0 0 straddlingPas straddlingXl).1 may clean straddling_reaches cleanAt
    (fun e => absurd e (by decide))
  obtain ⟨a, hf, -, -, -, -, -, -, ⟨hd, -, -⟩, -⟩ := sent
  have := straddling_waits ht a (by rw [hf]; simp)
  rw [hd] at this
  cases this

end Sys2Proof.Machine
end

section
namespace Sys2Proof.Machine

/-! Rules for the operations that an access makes on its way: none of them changes more than one part of the machine. -/

/-- An operand that no park has latched is the word (R16). -/
theorem operands_of_fresh {s : State} (h : Fresh s) (rs : List Nat) : operands s rs = rs.map (readReg s s.cur) := by
  unfold Fresh at h
  simp [operands, h]

theorem tlbFill_same (s : State) (w : Who) (va : Nat) : SameButUnits s (tlbFill s w va) := by
  unfold tlbFill
  split
  · rfl
  · simp only
    split
    · rfl
    · split
      · split <;> rfl
      · rfl

theorem dropLine_same (s : State) (c pa : Nat) : SameButUnits s (dropLine s c pa) := rfl

theorem tlbFill_cores (s : State) (w : Who) (va : Nat) : (tlbFill s w va).cores = s.cores := by
  unfold tlbFill
  split
  · rfl
  · simp only
    split
    · rfl
    · split
      · split <;> rfl
      · rfl

/-- Noting a write changes Keystone only (R60). -/
theorem noteWrite_eq (s : State) (h : Nat) (pas : List Nat) : ∃ k, noteWrite s h pas = { s with ks := k } := by
  unfold noteWrite
  split
  · exact ⟨s.ks, rfl⟩
  · split
    · exact ⟨_, rfl⟩
    · exact ⟨s.ks, rfl⟩

/-- The entries of a table under the other keys stay. -/
theorem filter_ne_tput {α : Type} (k : Nat) (v : α) (t : Tbl α) :
    (tput k v t).filter (fun e => decide (e.1 ≠ k)) = t.filter (fun e => decide (e.1 ≠ k)) := by
  induction t with
  | nil => simp [tput]
  | cons e t ih =>
    obtain ⟨k', v'⟩ := e
    simp only [tput]
    split
    · simp
    · split
      · next h => subst h; simp
      · next h =>
        have hk : k' ≠ k := fun e => h e.symm
        simp only [List.filter_cons, hk, ne_eq, not_false_eq_true, decide_true, if_true, ih]

/-- The entries of a frame, after a change of its core that keeps the journal (R223). -/
theorem framePool_modCore (s : State) (c n : Nat) {f : Core → Core} (hf : (f (getCore s c)).journal = (getCore s c).journal) :
    framePool (modCore s c f) c n = framePool s c n := by
  have e : (modCore s c f).cores.filter (fun e => decide (e.1 ≠ c)) = s.cores.filter (fun e => decide (e.1 ≠ c)) :=
    filter_ne_tput ..
  rw [framePool, framePool, e, getCore_modCore_self, hf]

/-- A change of a core that keeps its journal keeps the room for an entry (R183, R223). -/
theorem journalRoom_modCore (s : State) (h : Nat) {f : Core → Core}
    (hf : (f (getCore s (coreOf h))).journal = (getCore s (coreOf h)).journal) :
    journalRoom (modCore s (coreOf h) f) h = journalRoom s h := by
  rw [journalRoom, journalRoom, journalRooms, journalRooms, frameEntries, frameEntries, getSlot_modCore,
    framePool_modCore _ _ _ hf, getCore_modCore_self, hf]

theorem journalRoom_congr {s u : State} (h : Nat) (hc : u.cores = s.cores) (hs : u.slots = s.slots) :
    journalRoom u h = journalRoom s h := by
  rw [journalRoom, journalRoom, journalRooms, journalRooms, frameEntries, frameEntries, framePool, framePool, getSlot, getSlot,
    getCore, getCore, hc, hs]

/-- A slot in which only results, waiting and retirement have changed keeps its registers. -/
theorem slotRegsKept_refl (x : Slot) : SlotRegsKept x x := ⟨rfl, rfl, rfl, rfl, rfl, rfl, rfl, rfl, rfl, rfl, rfl, rfl, rfl⟩

/-! Sending. -/

/-- An access sent by the executing hart, from a machine in which only units differ, is the last in flight. -/
theorem sent_send {s u t : State} {a : Access} (hf : u.flight = s.flight) (hu : u.uid = s.uid) (hh : a.hart = s.cur)
    (hst : a.st = .flying) (htf : t.flight = (send u a).1.flight) (htu : t.uid = (send u a).1.uid) (hk : HartKept s t)
    {P : Access → Prop} (hP : P { a with uid := s.uid, tag := tagOf u a.hart }) : Sent s t a.pas a.op P :=
  ⟨{ a with uid := s.uid, tag := tagOf u a.hart }, by rw [htf, send, hf, hu], by rw [htu, send, hu], rfl, hh, rfl, rfl, hst,
    hP, hk⟩

/-- A hart that sends an access and waits for it keeps its registers, and stands in the wait (R20). -/
theorem sendWait_kept {s u : State} (hs : u.slots = s.slots) (hc : u.cur = s.cur) (hu : u.uid = s.uid) (a : Access) (ops : List Word) :
    HartKept s (sendWait u a ops) ∧ (getSlot (sendWait u a ops) s.cur).st = .waiting (.memory s.uid) ∧
      (getSlot (sendWait u a ops) s.cur).pc = pcOf s := by
  have g : ∀ k, getSlot (send u a).1 k = getSlot s k := fun k => by simp only [getSlot, send, hs]
  have hcur : (send u a).1.cur = s.cur := hc
  unfold sendWait waitFor
  simp only [hcur]
  refine ⟨⟨?_, fun k hk => ?_⟩, ?_, ?_⟩
  · rw [getSlot_modSlot_self, g]; exact slotRegsKept_refl _
  · rw [getSlot_modSlot_ne _ _ hk, g]
  · rw [getSlot_modSlot_self]; simp only [send, hu]
  · rw [getSlot_modSlot_self, g]; rfl

end Sys2Proof.Machine
end

section
namespace Sys2Proof.Machine

/-! Sync-mode accesses (R88, R273 to R275). -/

/-- The machine in which the executing hart sends a sync-mode access: the translation kept, the line out of its data cache. -/
def syncReady (s : State) (va : Nat) (x : Xl) : State := dropLine (tlbFill s (who s s.cur) va) (coreOf s.cur) x.pa

/-- The access that a sync mode sends. -/
def syncAcc (s : State) (va : Nat) (m : SyncMode) (data : Option Word) (pas : List Nat) (x : Xl) (dest : AccDest) : Access :=
  { uid := 0, hart := s.cur, va := wd va, pas := pas, key := x.key, cache := false, op := .sync m data, psn := false
    dest := dest, st := .flying
    acq := if m = .probe then none else some (syncScope (syncReady s va x) x.pa) }

/-- An outstanding result of the executing hart that an access brings into bytes from an address. -/
def awaitOut (s : State) (dst : List Nat) (o : Outst) : State :=
  modSlot (dropOuts s s.cur dst) s.cur fun y => { y with outs := y.outs ++ [o] }

/-- The outstanding result of the access with this number, of so many bytes. -/
def awaited (dst : List Nat) (n uid : Nat) : Outst :=
  { dest := dst.zip (span 0 n), val := none, psn := false, src := some uid, seq := uid + 1 }

theorem syncReady_same (s : State) (va : Nat) (x : Xl) : SameButUnits s (syncReady s va x) :=
  (tlbFill_same ..).trans (dropLine_same ..)

theorem syncReady_mem (s : State) (va : Nat) (x : Xl) : (syncReady s va x).mem = s.mem := (congrArg State.mem (syncReady_same s va x) :)
theorem syncReady_slots (s : State) (va : Nat) (x : Xl) : (syncReady s va x).slots = s.slots :=
  (congrArg State.slots (syncReady_same s va x) :)
theorem syncReady_cur (s : State) (va : Nat) (x : Xl) : (syncReady s va x).cur = s.cur := (congrArg State.cur (syncReady_same s va x) :)
theorem syncReady_uid (s : State) (va : Nat) (x : Xl) : (syncReady s va x).uid = s.uid := (congrArg State.uid (syncReady_same s va x) :)
theorem syncReady_flight (s : State) (va : Nat) (x : Xl) : (syncReady s va x).flight = s.flight :=
  (congrArg State.flight (syncReady_same s va x) :)

theorem syncReady_journal (s : State) (va : Nat) (x : Xl) :
    (getCore (syncReady s va x) (coreOf s.cur)).journal = (getCore s (coreOf s.cur)).journal := by
  rw [syncReady, dropLine, getCore_modCore_self, getCore, tlbFill_cores]; rfl

theorem syncReady_room (s : State) (va : Nat) (x : Xl) : journalRoom (syncReady s va x) s.cur = journalRoom s s.cur := by
  rw [syncReady, dropLine, journalRoom_modCore _ _ rfl]
  exact journalRoom_congr _ (tlbFill_cores ..) (congrArg State.slots (tlbFill_same ..) :)

/-- An aligned word in HBM that its address reaches passes the checks of a sync mode. -/
theorem wordCheck_of_reaches {s : State} {va : Nat} {k : AccKind} {pas : List Nat} {x : Xl} (ha : va % 8 = 0)
    (r : Reaches s va 8 k pas x) : wordCheck s va k true (decide (8 = 8) && decide (va % 8 = 0)) = .ok (pas, x) := by
  obtain ⟨hx, -, ht, hw⟩ := r
  have hw' : (if k = .write then wrCheck s s.cur va x pas else none) = none := by split <;> simp_all
  simp only [wordCheck, ha, hx, ht, hw', decide_true, Bool.and_self, Bool.not_true, Bool.false_eq_true, if_false]

theorem wordCheck_of_not_align (s : State) (va : Nat) (k : AccKind) (hbmOnly : Bool) :
    wordCheck s va k hbmOnly false = .error (trap .misaligned k.sub (wd va)) := rfl

/-- A width other than eight bytes, or a misaligned address, is MISALIGNED before anything else (R275). -/
theorem syncAccess_misaligned (s : State) {va n : Nat} (d : Nat) (m : SyncMode) (data : Option Word) (rs : List Nat) (ops : List Word)
    (sw : Bool) (h : n ≠ 8 ∨ va % 8 ≠ 0) :
    syncAccess s va n d m data rs ops sw = raise s (trap .misaligned (if data.isSome then 2 else 1) (wd va)) := by
  have hal : (decide (n = 8) && decide (va % 8 = 0)) = false := by rcases h with h | h <;> simp [h]
  rw [syncAccess, hal, wordCheck_of_not_align]
  cases data <;> rfl

/-- A mode that may wait sends its access, and the hart waits for it (R88, R206). -/
theorem syncAccess_waits {s : State} {va d : Nat} {m : SyncMode} {data : Option Word} {rs : List Nat} {ops : List Word} {sw : Bool}
    {pas : List Nat} {x : Xl} (hm : m ∈ [SyncMode.wfull, .take, .fill]) (hw : writesPending s s.cur = false) (hc : Clean s rs)
    (ha : va % 8 = 0) (r : Reaches s va 8 (if data.isSome then .write else .read) pas x) :
    syncAccess s va 8 d m data rs ops sw =
      sendWait (if data.isSome then noteWrite (syncReady s va x) s.cur pas else syncReady s va x) (syncAcc s va m data pas x (.wait d sw)) [] := by
  simp only [List.mem_cons, List.not_mem_nil, or_false] at hm
  rw [syncAccess, wordCheck_of_reaches ha r]
  dsimp only
  rw [consume_of_clean hc]
  rcases hm with rfl | rfl | rfl <;> simp [hw, syncReady, syncAcc]

theorem firstPsn_of_clean {s : State} {pas : List Nat} (h : CleanAt s pas) (va : Nat) : firstPsn s va pas = none := by
  have : (pas.zip (span va pas.length)).find? (fun p => isPsn s p.1) = none := by
    rw [List.find?_eq_none]
    intro p hp
    have := (List.any_eq_false.mp h) p.1 (List.of_mem_zip hp).1
    simpa using this
  rw [firstPsn, this]; rfl

/-- A load in mode PUT or PROBE is sent with its result outstanding (R273). -/
theorem syncAccess_result {s : State} {va d : Nat} {m : SyncMode} (hm : m ∈ [SyncMode.put, .probe]) {rs : List Nat} {ops : List Word}
    {sw : Bool} {pas : List Nat} {x : Xl} (hc : Clean s rs) (ha : va % 8 = 0) (r : Reaches s va 8 .read pas x) (hp : CleanAt s pas) :
    ∃ dst o, syncAccess s va 8 d m none rs ops sw =
      retire (awaitOut (send (syncReady s va x) (syncAcc s va m none pas x .result)).1 dst o) sw := by
  simp only [List.mem_cons, List.not_mem_nil, or_false] at hm
  have e : (send (syncReady s va x) (syncAcc s va m none pas x .result)).1.cur = s.cur := syncReady_cur s va x
  rw [syncAccess, Option.isSome_none, if_neg Bool.false_ne_true, wordCheck_of_reaches ha r]
  dsimp only
  rw [consume_of_clean hc, firstPsn_of_clean hp, ite_self]
  rcases hm with rfl | rfl
  · refine ⟨regBytes (syncReady s va x) s.cur d, awaited (regBytes (syncReady s va x) s.cur d) 8 (syncReady s va x).uid, ?_⟩
    rw [awaitOut, e]
    rfl
  · refine ⟨span (regPa (syncReady s va x) s.cur d) 16,
      awaited (span (regPa (syncReady s va x) s.cur d) 16) 16 (syncReady s va x).uid, ?_⟩
    rw [awaitOut, e]
    rfl

/-- The entry that a posted write of the executing hart takes in its journal (R223). -/
def postEntry (s u : State) (va : Nat) : JEnt :=
  ⟨(getSlot u s.cur).wp / 512, coreOf s.cur, freeNumber u (coreOf s.cur) ((getSlot u s.cur).wp / 512), false, va % 2 ^ 56, s.cur,
    (getSlot u s.cur).bound, none, 1, u.uid⟩

/-- A store in mode PUT is posted under an entry of the journal, for which there is room (R223, R274). -/
theorem syncAccess_put_store {s : State} {va d : Nat} {v : Word} {rs : List Nat} {ops : List Word}
    {sw : Bool} {pas : List Nat} {x : Xl} (hc : Clean s rs) (ha : va % 8 = 0) (r : Reaches s va 8 .write pas x)
    (hj : journalRoom s s.cur = true) :
    syncAccess s va 8 d .put (some v) rs ops sw =
      let u := noteWrite (syncReady s va x) s.cur pas
      retire (send (takeEntry u s.cur false (va % 2 ^ 56)).1 (syncAcc s va .put (some v) pas x
        (.journal (coreOf s.cur) ((getSlot u s.cur).wp / 512) (takeEntry u s.cur false (va % 2 ^ 56)).2))).1 sw := by
  rw [syncAccess, Option.isSome_some, if_pos rfl, wordCheck_of_reaches ha r]
  dsimp only
  rw [consume_of_clean hc]
  have hr : journalRoom (dropLine (tlbFill s (who s s.cur) va) (coreOf s.cur) x.pa) s.cur = true := (syncReady_room s va x).trans hj
  simp only [Option.isNone_some, Bool.false_and, Bool.false_eq_true, if_false, hr, Bool.not_true, reduceCtorEq, decide_false,
    Bool.or_false]
  rfl

/-- The hart of an instruction that changed no register but its results retires. -/
theorem retire_kept {s u : State} (hc : u.cur = s.cur) (hk : HartKept s u) (hpc : (getSlot u s.cur).pc = pcOf s) (sw : Bool) :
    HartKept s (retire u sw) ∧ (getSlot (retire u sw) s.cur).pc = pcOf s + 4 := by
  obtain ⟨hs, ho⟩ := hk
  rw [retire, retireH, hc]
  refine ⟨⟨?_, fun k e => ?_⟩, ?_⟩
  · rw [getSlot_modSlot_self]; exact hs
  · rw [getSlot_modSlot_ne _ _ e]; exact ho k e
  · rw [getSlot_modSlot_self, hpc]

theorem hartKept_of_slots {s u : State} (hs : u.slots = s.slots) : HartKept s u ∧ (getSlot u s.cur).pc = pcOf s := by
  have g : ∀ k, getSlot u k = getSlot s k := fun k => by simp only [getSlot, hs]
  exact ⟨⟨by rw [g]; exact slotRegsKept_refl _, fun k _ => g k⟩, by rw [g]; rfl⟩

/-- A result that is awaited changes no register of any hart. -/
theorem awaitOut_kept {s u : State} (hs : u.slots = s.slots) (hc : u.cur = s.cur) (dst : List Nat) (o : Outst) :
    HartKept s (awaitOut u dst o) ∧ (getSlot (awaitOut u dst o) s.cur).pc = pcOf s := by
  have g : ∀ k, getSlot u k = getSlot s k := fun k => by simp only [getSlot, hs]
  rw [awaitOut, hc]
  refine ⟨⟨?_, fun k e => ?_⟩, ?_⟩
  · rw [getSlot_modSlot_self, getSlot_dropOuts_self, g]; exact slotRegsKept_refl _
  · rw [getSlot_modSlot_ne _ _ e, getSlot_dropOuts_ne _ _ e, g]
  · rw [getSlot_modSlot_self, getSlot_dropOuts_self, g]; rfl

/-- An awaited result stands in no other part of the machine than the hart's results. -/
theorem awaitOut_parts (u : State) (dst : List Nat) (o : Outst) :
    (awaitOut u dst o).flight = u.flight ∧ (awaitOut u dst o).uid = u.uid ∧ (awaitOut u dst o).mem = u.mem ∧
      (awaitOut u dst o).cur = u.cur := by
  obtain e | e := dropOuts_or u u.cur dst <;> rw [awaitOut, e] <;> exact ⟨rfl, rfl, rfl, rfl⟩

/-- An indexed load in a sync mode is a sync-mode access of its operands (R273). -/
theorem indexedLoad_sync {i : Instr} {sw : Bool} {d a b : Fin 32} {m : SyncMode} {n : Nat} {sg : Bool} {s : State}
    (hf : Fresh s) (hi : MayIssue s .none 0) (hm : m ≠ .plain) :
    indexedLoad i sw d a b m n sg s =
      syncAccess s (rg s a + rg s b).toNat n d.val m none [a.val, b.val] [rg s a, rg s b] sw := by
  rw [indexedLoad, issue_of_may hi, operands_of_fresh hf]
  cases m
  case plain => exact absurd rfl hm
  all_goals rfl

/-- An indexed store in a sync mode is a sync-mode access of its operands (R274). -/
theorem indexedStore_sync {i : Instr} {sw : Bool} {d a b : Fin 32} {m : SyncMode} {n : Nat} {s : State}
    (hf : Fresh s) (hi : MayIssue s .none 0) (hm : m ≠ .plain) :
    indexedStore i sw d a b m n s = syncAccess s (rg s a + rg s b).toNat n 0 m (some (rg s d)) [a.val, b.val, d.val]
      [rg s a, rg s b, rg s d] sw := by
  rw [indexedStore, issue_of_may hi, operands_of_fresh hf]
  cases m
  case plain => exact absurd rfl hm
  all_goals rfl

/-- What a waiting sync-mode access leaves: the access is on its way, the hart waits for it, and no byte changes (R20, R88). -/
theorem sync_waits {s : State} {va d : Nat} {m : SyncMode} {data : Option Word} {rs : List Nat} {ops : List Word} {sw : Bool}
    {pas : List Nat} {x : Xl} (hm : m ∈ [SyncMode.wfull, .take, .fill]) (hw : writesPending s s.cur = false) (hc : Clean s rs)
    (ha : va % 8 = 0) (r : Reaches s va 8 (if data.isSome then .write else .read) pas x) :
    let t := syncAccess s va 8 d m data rs ops sw
    Sent s t pas (.sync m data) (fun y => y.dest = .wait d sw) ∧ (getSlot t s.cur).st = .waiting (.memory s.uid) ∧
      (getSlot t s.cur).pc = pcOf s ∧ t.mem = s.mem := by
  intro t
  have ht : t = _ := syncAccess_waits hm hw hc ha r
  obtain ⟨k, hk⟩ : ∃ k, (if data.isSome then noteWrite (syncReady s va x) s.cur pas else syncReady s va x) =
      { syncReady s va x with ks := k } := by
    split
    · exact noteWrite_eq ..
    · exact ⟨_, rfl⟩
  rw [ht, hk]
  obtain ⟨hkept, hst, hpc⟩ := sendWait_kept (s := s) (u := { syncReady s va x with ks := k }) (syncReady_slots s va x)
    (syncReady_cur s va x) (syncReady_uid s va x) (syncAcc s va m data pas x (.wait d sw)) []
  exact ⟨sent_send (u := { syncReady s va x with ks := k }) (t := sendWait _ _ _) (a := syncAcc s va m data pas x (.wait d sw)) (syncReady_flight s va x)
    (syncReady_uid s va x) rfl rfl rfl rfl hkept rfl, hst, hpc, syncReady_mem s va x⟩

/-- What a load in mode PUT or PROBE leaves: the access is on its way with its result outstanding, and the hart goes on (R273). -/
theorem sync_result {s : State} {va d : Nat} {m : SyncMode} (hm : m ∈ [SyncMode.put, .probe]) {rs : List Nat} {ops : List Word}
    {sw : Bool} {pas : List Nat} {x : Xl} (hc : Clean s rs) (ha : va % 8 = 0) (r : Reaches s va 8 .read pas x) (hp : CleanAt s pas) :
    let t := syncAccess s va 8 d m none rs ops sw
    Sent s t pas (.sync m none) (fun y => y.dest = .result) ∧ t.mem = s.mem ∧ (getSlot t s.cur).pc = pcOf s + 4 := by
  intro t
  obtain ⟨dst, o, ht⟩ : ∃ dst o, t = _ := syncAccess_result hm hc ha r hp
  rw [ht]
  let a := syncAcc s va m none pas x .result
  obtain ⟨hfl, huid, hmem, hcur⟩ := awaitOut_parts (send (syncReady s va x) a).1 dst o
  obtain ⟨hkept, hpc⟩ := awaitOut_kept (s := s) (u := (send (syncReady s va x) a).1) (syncReady_slots s va x) (syncReady_cur s va x) dst o
  obtain ⟨hkept', hpc'⟩ := retire_kept (hcur.trans (syncReady_cur s va x)) hkept hpc sw
  exact ⟨sent_send (t := retire (awaitOut _ dst o) sw) (a := a) (syncReady_flight s va x) (syncReady_uid s va x) rfl rfl hfl huid hkept' rfl,
    hmem.trans (syncReady_mem s va x), hpc'⟩

/-- What a store in mode PUT leaves: an entry of the journal, under which the access is on its way (R223, R274). -/
theorem sync_put_store {s : State} {va d : Nat} {v : Word} {rs : List Nat} {ops : List Word} {sw : Bool} {pas : List Nat} {x : Xl}
    (hc : Clean s rs) (ha : va % 8 = 0) (r : Reaches s va 8 .write pas x) (hj : journalRoom s s.cur = true) :
    let t := syncAccess s va 8 d .put (some v) rs ops sw
    t.mem = s.mem ∧ (getSlot t s.cur).pc = pcOf s + 4 ∧
      ∃ e, (getCore t (coreOf s.cur)).journal = (getCore s (coreOf s.cur)).journal ++ [e] ∧ e.hart = s.cur ∧
        e.addr = va % 2 ^ 56 ∧ e.refused = none ∧
        Sent s t pas (.sync .put (some v)) fun y => y.dest = .journal (coreOf s.cur) e.frame e.entry := by
  intro t
  have ht : t = _ := syncAccess_put_store hc ha r hj
  obtain ⟨k, hk⟩ := noteWrite_eq (syncReady s va x) s.cur pas
  rw [ht, hk]
  dsimp only
  obtain ⟨u, hu⟩ : ∃ u, u = { syncReady s va x with ks := k } := ⟨_, rfl⟩
  have hcur : u.cur = s.cur := by rw [hu]; exact syncReady_cur s va x
  have hslots : u.slots = s.slots := by rw [hu]; exact syncReady_slots s va x
  have hflight : u.flight = s.flight := by rw [hu]; exact syncReady_flight s va x
  have huid : u.uid = s.uid := by rw [hu]; exact syncReady_uid s va x
  have hmem : u.mem = s.mem := by rw [hu]; exact syncReady_mem s va x
  have hjournal : (getCore u (coreOf s.cur)).journal = (getCore s (coreOf s.cur)).journal := by rw [hu]; exact syncReady_journal s va x
  rw [← hu]
  obtain ⟨p, hp⟩ : ∃ p, p = takeEntry u s.cur false (va % 2 ^ 56) := ⟨_, rfl⟩
  have hp1 : p.1 = modCore u (coreOf s.cur) fun c => { c with journal := c.journal ++ [postEntry s u va] } := by rw [hp]; rfl
  rw [← hp]
  obtain ⟨w, hw⟩ : ∃ w, w = (send p.1 (syncAcc s va .put (some v) pas x (.journal (coreOf s.cur) ((getSlot u s.cur).wp / 512) p.2))).1 :=
    ⟨_, rfl⟩
  rw [← hw]
  have hws : w.slots = s.slots := by rw [hw]; exact (congrArg State.slots hp1 :).trans hslots
  have hwc : w.cur = s.cur := by rw [hw]; exact (congrArg State.cur hp1 :).trans hcur
  obtain ⟨hk0, hpc0⟩ := hartKept_of_slots hws
  obtain ⟨hkept, hpc⟩ := retire_kept hwc hk0 hpc0 sw
  refine ⟨?_, hpc, postEntry s u va, ?_, rfl, rfl, rfl, ?_⟩
  · rw [retire, retireH, modSlot_mem, hw]
    exact (congrArg State.mem hp1 :).trans hmem
  · have hg : getCore (retire w sw) (coreOf s.cur) = getCore p.1 (coreOf s.cur) := by rw [hw]; rfl
    rw [hg, hp1, getCore_modCore_self, hjournal]
  · refine sent_send (u := p.1) ((congrArg State.flight hp1 :).trans hflight) ((congrArg State.uid hp1 :).trans huid) rfl rfl
      (by rw [hw]; rfl) (by rw [hw]; rfl) hkept ?_
    rw [hp]; rfl

/-- Settles O11: an access in a sync mode is the shared `syncAccess` of its operands, and each of its ways out is a lemma above. -/
theorem syncModeAccesses : Obligations.SyncModeAccesses := by
  unfold Obligations.SyncModeAccesses
  intro s sw d a b pas x hf hi hc va
  have hc2 : Clean s [a.val, b.val] := fun r hr => hc r (by simp only [List.mem_cons] at hr ⊢; tauto)
  have load : ∀ (i : Instr) (m : SyncMode) (n : Nat) (sg : Bool), m ≠ .plain →
      indexedLoad i sw d a b m n sg s = syncAccess s va n d.val m none [a.val, b.val] [rg s a, rg s b] sw :=
    fun i m n sg hm => indexedLoad_sync hf hi hm
  have store : ∀ (i : Instr) (m : SyncMode) (n : Nat), m ≠ .plain → indexedStore i sw d a b m n s =
      syncAccess s va n 0 m (some (rg s d)) [a.val, b.val, d.val] [rg s a, rg s b, rg s d] sw :=
    fun i m n hm => indexedStore_sync hf hi hm
  refine ⟨fun m hm => ⟨fun i hi => ?_, fun hal => ?_⟩, fun m hm hw => ⟨fun ha r => ?_, fun ha r => ?_⟩, fun m hm ha r hp => ?_,
    fun ha r hj => ?_⟩
  · have hp : m ≠ .plain := by rintro rfl; simp at hm
    have mis : ∀ (i : Instr) (n : Nat) (sg : Bool), n ≠ 8 →
        (.next (indexedLoad i sw d a b m n sg s) : Out) = .next (raise s (trap .misaligned 1 (wd va))) := fun i n sg hn => by
      rw [load i m n sg hp, syncAccess_misaligned s d.val m none _ _ sw (.inl hn)]; rfl
    simp only [List.mem_cons, List.not_mem_nil, or_false] at hi
    rcases hi with rfl | rfl | rfl | rfl | rfl | rfl <;> exact mis _ _ _ (by decide)
  · have hp : m ≠ .plain := by rintro rfl; simp at hm
    change Host.Outcome.next (indexedLoad _ sw d a b m 8 false s) = _
    rw [load _ m 8 false hp, syncAccess_misaligned s d.val m none _ _ sw (.inr hal)]; rfl
  · have hp : m ≠ .plain := by rintro rfl; simp at hm
    exact ⟨_, congrArg Host.Outcome.next (load _ m 8 false hp), sync_waits hm hw hc2 ha r⟩
  · have hp : m ≠ .plain := by rintro rfl; simp at hm
    exact ⟨_, congrArg Host.Outcome.next (store _ m 8 hp), sync_waits hm hw hc ha r⟩
  · have hp' : m ≠ .plain := by rintro rfl; simp at hm
    exact ⟨_, congrArg Host.Outcome.next (load _ m 8 false hp'), sync_result hm hc2 ha r hp⟩
  · exact ⟨_, congrArg Host.Outcome.next (store _ .put 8 (by decide)), sync_put_store hc ha r hj⟩

end Sys2Proof.Machine
end

section
namespace Sys2Proof.Machine

/-! WPSW (R226, R352). -/

/-- A slot's change moves no word of memory. -/
theorem rd64_modSlot (s : State) (h pa : Nat) (f : Slot → Slot) : rd64 (modSlot s h f) pa = rd64 s pa := rfl

/-- A good WP is a frame of the scratchpad with the workspace behind it (R11). -/
theorem wpOk_iff (w : Word) (g : Nat) : wpOk w g = true ↔ w.toNat % 512 = 0 ∧ w.toNat + 512 + 128 * g ≤ 0x30000 := by
  simp [wpOk]

/-- An instruction that neither LIX nor REP may govern issues with none of them pending (R255). -/
theorem pfxOf_of_may {s : State} {mode : Nat} (h : MayIssue s .none mode) : pfxOf s s.cur = false := by
  obtain ⟨-, hok, -⟩ := h
  simp only [prefixOk, Bool.and_eq_true, Bool.not_eq_true'] at hok
  exact hok.1

/-- With clean operands and no result outstanding, WPSW uninstalls the frame and installs another (R352). -/
theorem execWpsw_of_ok {s : State} {sw : Bool} {a : Fin 32} (hf : Fresh s) (hi : MayIssue s .none 1) (hd : Drained s)
    (hc : Clean s [a.val]) (hw : wpOk (rg s a) (granOf s s.cur) = true) :
    exec (.wpsw sw a) s =
      .next (retire (modSlot (uninstall s s.cur) s.cur fun y => { y with wp := (rg s a).toNat }) true) := by
  have hfr : (getSlot s s.cur).inside = false := hf
  have ho : (getSlot s s.cur).outs = [] := hd
  have hw' : wpOk (readReg s s.cur a.val) (granOf s s.cur) = true := hw
  change Host.Outcome.next (issue _ _ _ _ _) = _
  rw [issue_of_may hi, operands_of_fresh hf]
  simp only [ho, List.isEmpty_nil, List.map_cons, List.map_nil, List.getD_cons_zero, hw', Bool.not_true, Bool.false_eq_true, if_false,
    consume_of_clean hc, hfr, Bool.not_false, Bool.or_true]
  rfl

/-- A WP that is no good is an ACCESS_FAULT with SUB 4 (R352). -/
theorem execWpsw_of_bad {s : State} {sw : Bool} {a : Fin 32} (hf : Fresh s) (hi : MayIssue s .none 1) (hd : Drained s)
    (hw : wpOk (rg s a) (granOf s s.cur) = false) :
    exec (.wpsw sw a) s = .next (raise s (trap .accessFault 4 (rg s a))) := by
  have ho : (getSlot s s.cur).outs = [] := hd
  have hw' : wpOk (readReg s s.cur a.val) (granOf s s.cur) = false := hw
  change Host.Outcome.next (issue _ _ _ _ _) = _
  rw [issue_of_may hi, operands_of_fresh hf]
  simp only [ho, List.isEmpty_nil, List.map_cons, List.map_nil, List.getD_cons_zero, hw', Bool.not_true, Bool.false_eq_true, if_false,
    Bool.not_false, if_true]
  rfl

/-- Settles O28: the status word goes to word 57 by the rules of a register write, and the slot's WP alone changes besides. -/
theorem workspaceSwitch : Obligations.WorkspaceSwitch := by
  unfold Obligations.WorkspaceSwitch
  intro s sw a ho hf hi hd last
  refine ⟨fun hbad => ?_, fun hm hl hc => ?_⟩
  · refine execWpsw_of_bad hf hi hd (Bool.eq_false_iff.mpr fun hw => ?_)
    have := (wpOk_iff _ _).mp hw
    omega
  · refine ⟨_, execWpsw_of_ok hf hi hd hc ((wpOk_iff _ _).mpr ⟨hm, hl⟩), ?_⟩
    have p : Placed s s.cur := ho.1
    have h57 : (57 : Nat) < 64 := by decide
    have hcur := writeReg_cur p h57 (getSlot s s.cur).hsw false
    have hself := getSlot_writeReg_self p (by decide : (57 : Nat) ≠ 0) h57 (getSlot s s.cur).hsw false
    have hb : bit (getSlot s s.cur).hsw 40 = false := pfxOf_of_may hi
    obtain ⟨u, hu⟩ : ∃ u, u = writeReg s s.cur 57 (getSlot s s.cur).hsw false := ⟨_, rfl⟩
    have hret : retire (modSlot (uninstall s s.cur) s.cur fun y => { y with wp := (rg s a).toNat }) true =
        retireH (modSlot u s.cur fun y => { y with wp := (rg s a).toNat }) s.cur true (pcOf s + 4) := by
      rw [retire, uninstall, writeWs, modSlot_cur, hcur, getSlot_modSlot_self, hself, ← hu]
      rfl
    rw [hret]
    rw [← hu] at hself
    have hread : rd64 (retireH (modSlot u s.cur fun y => { y with wp := (rg s a).toNat }) s.cur true (pcOf s + 4))
        (regPa s s.cur 57) = readReg u s.cur 57 := by
      rw [readReg, if_neg (by decide), hu, regPa_writeReg p h57, ← hu]
      exact (rd64_modSlot ..).trans (rd64_modSlot ..)
    refine ⟨?_, ?_, ?_, ?_, fun y hy => ?_, restKept_retireH ?_ ..⟩
    · rw [retireH, getSlot_modSlot_self, getSlot_modSlot_self, hself]
      exact slotRegsKept_refl _
    · rw [retireH, getSlot_modSlot_self, getSlot_modSlot_self, hself]
      simp only [hb, Bool.false_eq_true, if_false]
    · rw [retireH, getSlot_modSlot_self]
    · rw [hread, hu, readReg_writeReg_self p ho.2 h57, if_neg (by decide)]
    · have hy' : y < regPa s s.cur 57 ∨ regPa s s.cur 57 + 8 ≤ y := by
        have := mt mem_span.mpr hy
        omega
      rw [retireH, modSlot_mem, modSlot_mem, hu]
      exact writeReg_mem_frame p h57 _ _ (.inr hy')
    · obtain ⟨h1, h2, h3, h4, h5, h6, h7, h8, h9, h10, h11, h12, h13, h14⟩ := restKept_writeReg p h57 (getSlot s s.cur).hsw false
      rw [← hu] at h1 h2 h3 h4 h5 h6 h7 h8 h9 h10 h11 h12 h13 h14
      exact ⟨h1, h2, h3, h4, h5, h6, h7, h8, h9, h10, h11, h12, h13, fun k e => by rw [getSlot_modSlot_ne _ _ e]; exact h14 k e⟩

end Sys2Proof.Machine
end

section
namespace Sys2Proof.Machine

/-! What a write of bytes leaves of harts, cores and vectors, wherever the bytes lie. -/

/-- The machine without its storage: bytes, poison, key tags and reservations. -/
def offMem (s : State) : State :=
  { s with mem := [], poison := [], washed := [], keytag := [], lrs := [], flags := [], tileReads := [] }

@[simp] theorem offMem_retag (s : State) (key pa : Nat) : offMem (retag s key pa) = offMem s := by
  have h : ∀ (c : Bool) (m : List Host.Cell) (k : Tbl Nat),
      offMem (if c then { s with mem := m, keytag := k } else s) = offMem s := by intro c m k; cases c <;> rfl
  exact h ..

/-- Storage in which bytes are written, before the watches are told, is in the same machine. -/
theorem putBytes_offMem (s : State) (key : Nat) (cells : List (Nat × Byte)) (psn : Bool) :
    ∃ u, putBytes s key cells psn = markStale u (cells.map (·.1)) ∧ offMem u = offMem s :=
  ⟨_, rfl, foldl_proj (π := offMem) (fun b a => offMem_retag b key a) (cells.map (·.1)) s⟩

@[simp] theorem getSlot_putBytes (s : State) (key : Nat) (cells : List (Nat × Byte)) (psn : Bool) (h : Nat) :
    getSlot (putBytes s key cells psn) h = getSlot s h := by
  obtain ⟨u, e, hu⟩ := putBytes_offMem s key cells psn
  have hs : u.slots = s.slots := (congrArg State.slots hu :)
  rw [e, getSlot_markStale, getSlot, getSlot, hs]

/-- No write of bytes changes the Monitor's vector. -/
@[simp] theorem mtvec_putBytes (s : State) (key : Nat) (cells : List (Nat × Byte)) (psn : Bool) (c : Nat) :
    (getCore (putBytes s key cells psn) c).mtvec = (getCore s c).mtvec := by
  obtain ⟨u, e, hu⟩ := putBytes_offMem s key cells psn
  have hc : u.cores = s.cores := (congrArg State.cores hu :)
  rw [e, (congrArg Core.mtvec ((unitsKept_markStale u _).1 c) :), getCore, getCore, hc]

/-- The core of a hart whose results a younger write cuts keeps its Monitor's vector. -/
@[simp] theorem getCore_dropOuts (s : State) (h c : Nat) (pas : List Nat) : getCore (dropOuts s h pas) c = getCore s c := by
  obtain e | e := dropOuts_or s h pas <;> rw [e]
  rfl

/-- A write to a workspace word changes of its hart's slot at most the results. -/
theorem getSlot_writeWs (s : State) (h n : Nat) (v : Word) :
    ∃ l, getSlot (writeWs s h n v) h = { getSlot s h with outs := l } := by
  rw [writeWs, writeReg]
  split
  · exact ⟨_, rfl⟩
  · rw [getSlot_dropOuts_self, put64, getSlot_putBytes]
    exact ⟨_, rfl⟩

theorem mtvec_writeWs (s : State) (h n c : Nat) (v : Word) : (getCore (writeWs s h n v) c).mtvec = (getCore s c).mtvec := by
  rw [writeWs, writeReg]
  split
  · rfl
  · rw [getCore_dropOuts, put64, mtvec_putBytes]

theorem vectorOf_writeWs (s : State) (h n m : Nat) (v : Word) : vectorOf (writeWs s h n v) h m = vectorOf s h m := by
  obtain ⟨l, e⟩ := getSlot_writeWs s h n v
  rw [vectorOf, vectorOf, mtvec_writeWs, e]

/-- The handler is entered at the vector of the trap's mode (R218). -/
theorem pc_enterHandler (s : State) (h : Nat) (t : Trap) (pc : Word) :
    (getSlot (enterHandler s h t pc) h).pc = vectorOf s h (targetMode s h t.kind) := by
  simp only [enterHandler, getSlot_modSlot_self, vectorOf_writeWs]

/-- A vector depends on the hart's slot and its core alone. -/
theorem vectorOf_congr {s u : State} {h : Nat} (m : Nat) (hk : (getSlot u h).ktvec = (getSlot s h).ktvec)
    (hc : u.cores = s.cores) : vectorOf u h m = vectorOf s h m := by
  rw [vectorOf, vectorOf, hk, getCore, getCore, hc]

/-- Clearing a pending bit leaves the mode. -/
theorem mode_setBit_pending (w : Word) (b : Bool) (i : Nat) (hi : i ∈ [8, 9, 10]) : fld (setBit w i b) 1 0 = fld w 1 0 := by
  simp only [List.mem_cons, List.not_mem_nil, or_false] at hi
  have := w.isLt
  rcases hi with rfl | rfl | rfl <;> simp only [setBit, setFld, fld, bits, BitVec.toNat_ofNat] <;> omega

end Sys2Proof.Machine
end

section
namespace Sys2Proof.Machine

/-! Boundaries of harts (R16 to R21, R216 to R218, R256, R355). -/

/-- A park until the results have returned ends with the last of them (R16). -/
theorem settleH_of_parked {s : State} {h : Nat} (e : (getSlot s h).st = .parked .results none) :
    settleH s h = if (getSlot s h).outs.isEmpty then modSlot s h fun x => { x with st := .ready } else s := by
  simp only [settleH, e, needMet, Bool.and_true]

theorem settleH_of_issuing {s : State} {h : Nat} (e : (getSlot s h).st = .issuing) : settleH s h = s := by
  simp only [settleH, e]

/-- Bytes written at different addresses are read there. -/
theorem memGet_memSetAll_mem {l : List (Nat × Byte)} (hn : (l.map (·.1)).Nodup) {m : List Host.Cell} (w : Memory.wf m = true)
    {e : Nat × Byte} (he : e ∈ l) : memGet (memSetAll l m) e.1 = e.2 := by
  induction l generalizing m with
  | nil => exact absurd he List.not_mem_nil
  | cons c l ih =>
    obtain ⟨hc, hl⟩ := List.nodup_cons.mp hn
    rcases List.mem_cons.mp he with rfl | he
    · simp only [memSetAll]
      rw [memGet_memSetAll_ne, memGet_memSet_self w]
      intro e' he' heq
      change e.1 ∉ _ at hc
      rw [← heq] at hc
      exact hc (List.mem_map_of_mem he')
    · exact ih hl (memSet_wf _ _ w) he

/-- The bytes that a returning result writes. -/
def outCells (o : Outst) (v : List Byte) : List (Nat × Byte) := o.dest.map fun e => (e.1, v.getD e.2 0)

theorem outCells_fst (o : Outst) (v : List Byte) : (outCells o v).map (·.1) = o.dest.map (·.1) := by
  simp only [outCells, List.map_map]; rfl

/-- The machine in which a result has returned, before its hart's park is looked at. -/
def returned (s : State) (h i : Nat) (o : Outst) (v : List Byte) : State :=
  let u := match o.src with
    | some u => dropAcc s u
    | none => s
  modSlot (if o.dest.isEmpty then u else putBytes u 0 (outCells o v) false) h fun x => { x with outs := x.outs.eraseIdx i }

/-- A clean result whose value is there returns (R16). -/
theorem exec_resultReturn {s : State} {h i : Nat} {o : Outst} {v : List Byte} (ho : (getSlot s h).outs[i]? = some o)
    (hv : o.val = some v) (hp : o.psn = false) (hvec : o.vec = none) (hr : ∀ u, o.src = some u → chunkRead s u = true) :
    exec (.resultReturn h i) s = .next (settleH (returned s h i o v) h) := by
  have hw : vecOf s h i = none := by simp [vecOf, ho, hvec]
  have hch : (o.src.map (chunkRead s)).getD true = true := by
    cases e : o.src with
    | none => rfl
    | some u => exact hr u e
  change Host.Outcome.next _ = _
  rw [hw]
  simp only [returnResult, ho, hv, hch, hp, notePsn, Bool.not_true, Bool.false_eq_true, if_false]
  rfl

/-- What has returned: the hart's slot without the result, and the bytes (R16, R17). -/
theorem returned_slot (s : State) (h i : Nat) (o : Outst) (v : List Byte) :
    getSlot (returned s h i o v) h = { getSlot s h with outs := (getSlot s h).outs.eraseIdx i } := by
  have hd : ∀ u : State, getSlot u h = getSlot s h → getSlot (if o.dest.isEmpty then u else putBytes u 0 (outCells o v) false) h =
      getSlot s h := fun u hu => by split <;> simp [hu]
  rw [returned, getSlot_modSlot_self]
  cases e : o.src with
  | none => rw [hd _ rfl]
  | some u => rw [hd (dropAcc s u) rfl]

theorem returned_mem {s : State} (h i : Nat) {o : Outst} (v : List Byte) (hd : ∀ e ∈ o.dest, isHbm e.1 = false) :
    (returned s h i o v).mem = memSetAll (outCells o v) s.mem := by
  have hc : ∀ e ∈ outCells o v, isHbm e.1 = false := fun e he => by
    obtain ⟨d, hd', rfl⟩ := List.mem_map.mp he; exact hd d hd'
  have hput : ∀ u : State, u.mem = s.mem → (if o.dest.isEmpty then u else putBytes u 0 (outCells o v) false).mem =
      memSetAll (outCells o v) s.mem := fun u hu => by
    split
    · next he => simp [outCells, List.isEmpty_iff.mp he, memSetAll, hu]
    · rw [putBytes_plain hc, markStale_mem, ← hu]
  rw [returned, modSlot_mem]
  cases e : o.src with
  | none => exact hput _ rfl
  | some u => exact hput (dropAcc s u) rfl

/-- A result that returns is written where it is still due, and the last one ends a park (R16, R17). -/
theorem resultReturn_does {s : State} {h i : Nat} {o : Outst} {v : List Byte} (ho : (getSlot s h).outs[i]? = some o)
    (hv : o.val = some v) (hp : o.psn = false) (hvec : o.vec = none) (hr : ∀ u, o.src = some u → chunkRead s u = true)
    (hw : Memory.wf s.mem = true) (hd : ∀ e ∈ o.dest, isHbm e.1 = false) (hn : (o.dest.map (·.1)).Nodup)
    (hst : (getSlot s h).st = .parked .results none ∨ (getSlot s h).st = .issuing) :
    Does (.resultReturn h i) s fun t => (getSlot t h).outs = (getSlot s h).outs.eraseIdx i ∧
      (∀ e ∈ o.dest, memGet t.mem e.1 = v.getD e.2 0) ∧
      (∀ a, a ∉ o.dest.map (·.1) → memGet t.mem a = memGet s.mem a) ∧
      (getSlot t h).st = if (getSlot s h).st = .parked .results none ∧ (getSlot s h).outs.length = 1 then .ready
        else (getSlot s h).st := by
  refine ⟨_, exec_resultReturn ho hv hp hvec hr, ?_⟩
  have hi : i < (getSlot s h).outs.length := (List.getElem?_eq_some_iff.mp ho).1
  have hlen : ((getSlot s h).outs.eraseIdx i).isEmpty = decide ((getSlot s h).outs.length = 1) := by
    rw [Bool.eq_iff_iff, List.isEmpty_iff_length_eq_zero, List.length_eraseIdx_of_lt hi, decide_eq_true_eq]
    omega
  have hslot := returned_slot s h i o v
  have hmem := returned_mem (s := s) h i v hd
  obtain ⟨u, hu⟩ : ∃ u, u = returned s h i o v := ⟨_, rfl⟩
  rw [← hu] at hslot hmem ⊢
  have hset : (getSlot (settleH u h) h).outs = (getSlot s h).outs.eraseIdx i ∧ (settleH u h).mem = u.mem ∧
      (getSlot (settleH u h) h).st = if (getSlot s h).st = .parked .results none ∧ (getSlot s h).outs.length = 1 then .ready
        else (getSlot s h).st := by
    rcases hst with hst | hst
    · rw [settleH_of_parked (by rw [hslot]; exact hst), hslot]
      simp only [hlen, hst, true_and, decide_eq_true_eq]
      split
      · exact ⟨by rw [getSlot_modSlot_self, hslot], rfl, by rw [getSlot_modSlot_self]⟩
      · exact ⟨by rw [hslot], rfl, by rw [hslot]; exact hst⟩
    · rw [settleH_of_issuing (by rw [hslot]; exact hst), hslot]
      exact ⟨rfl, rfl, by simp [hst]⟩
  obtain ⟨h1, h2, h3⟩ := hset
  refine ⟨h1, fun e he => ?_, fun a ha => ?_, h3⟩
  · rw [h2, hmem]
    exact memGet_memSetAll_mem (e := (e.1, v.getD e.2 0)) (by rw [outCells_fst]; exact hn) hw (List.mem_map_of_mem he)
  · rw [h2, hmem]
    refine memGet_memSetAll_ne _ _ fun e he heq => ha ?_
    rw [← outCells_fst o v, ← heq]
    exact List.mem_map_of_mem he

/-- The hart that issues is found in the rotation of its core. -/
theorem find_issuing {s : State} {h : Nat} (n : Nat) (hst : (getSlot s h).st = .issuing)
    (ho : ∀ k, k ≠ h → coreOf k = coreOf h → (getSlot s k).st ≠ .issuing) :
    ((rotation n).map (coreOf h * 4 + ·)).find? (fun k => (getSlot s k).st = .issuing) = some h := by
  have hmem : h ∈ (rotation n).map (coreOf h * 4 + ·) := by
    simp only [rotation, coreOf, List.map_cons, List.map_nil, List.mem_cons, List.not_mem_nil, or_false]
    omega
  cases e : ((rotation n).map (coreOf h * 4 + ·)).find? (fun k => decide ((getSlot s k).st = .issuing)) with
  | none =>
    have := List.find?_eq_none.mp e h hmem
    simp [hst] at this
  | some k =>
    have hk := List.find?_some e
    have hin := List.mem_of_find?_eq_some e
    have hkc : coreOf k = coreOf h := by
      simp only [rotation, List.map_cons, List.map_nil, List.mem_cons, List.not_mem_nil, or_false] at hin
      unfold coreOf at *; omega
    by_cases hkh : k = h
    · rw [hkh]
    · exact absurd (by simpa using hk) (ho k hkh hkc)

/-- A hart that has issued for 4,096 cycles is parked (R19). -/
theorem forcedPark_does {s : State} {h : Nat} (hst : (getSlot s h).st = .issuing)
    (ho : ∀ k, k ≠ h → coreOf k = coreOf h → (getSlot s k).st ≠ .issuing) (hc : (getSlot s h).since + 4096 ≤ s.cycle) :
    Does (.forcedPark (coreOf h)) s fun t =>
      (getSlot t h).st = .parked .results none ∧ t.mem = s.mem ∧ ∀ k, k ≠ h → getSlot t k = getSlot s k := by
  refine ⟨modSlot (bumpCl s (clusterOf (coreOf h)) (0x600 + coreOf h % 16 * 8) 1) h
    fun x => { x with st := .parked .results none }, ?_, ?_, rfl, fun k e => ?_⟩
  · change Host.Outcome.next _ = _
    rw [find_issuing _ hst ho]
    simp only [Nat.not_lt.mpr hc, if_false]
  · rw [getSlot_modSlot_self]
  · rw [getSlot_modSlot_ne _ _ e]; rfl

/-- The timer sets its pending bit once (R355). -/
theorem timer_does {s : State} {h : Nat} (hc : (getSlot s h).timecmp.toNat ≤ s.cycle) (hd : (getSlot s h).timDone = false) :
    Does (.timerInterrupt h) s fun t =>
      getSlot t h = { getSlot s h with hsw := setBit (getSlot s h).hsw 9 true, timDone := true } ∧ t.mem = s.mem ∧
      ∀ k, k ≠ h → getSlot t k = getSlot s k := by
  refine ⟨modSlot (setPending s h 9) h fun x => { x with timDone := true }, ?_, ?_, rfl, fun k e => ?_⟩
  · change Host.Outcome.next _ = _
    simp only [hc, hd, decide_true, Bool.not_false, Bool.and_self, if_true]
  · rw [getSlot_modSlot_self, setPending, modHsw, getSlot_modSlot_self]
  · rw [getSlot_modSlot_ne _ _ e, setPending, modHsw, getSlot_modSlot_ne _ _ e]

/-! Interrupts. -/

/-- The pending bit of an interrupt. -/
def intBit : TrapKind → Nat
  | .wake => 8
  | .timer => 9
  | _ => 10

/-- With interrupts enabled, the pending interrupt of lowest code that has a vector is taken (R216, R217). -/
theorem pendingInt_eq {s : State} {h : Nat} (h3 : bit (getSlot s h).hsw 3 = true) (h4 : bit (getSlot s h).hsw 4 = false) :
    pendingInt s h =
      if bit (getSlot s h).hsw 8 = true ∧ vectorOf s h (targetMode s h .wake) ≠ 0 then some .wake
      else if bit (getSlot s h).hsw 9 = true ∧ vectorOf s h (targetMode s h .timer) ≠ 0 then some .timer
      else if bit (getSlot s h).hsw 10 = true ∧ vectorOf s h (targetMode s h .monitor) ≠ 0 then some .monitor
      else none := by
  have hp : ∀ (b : Bool) (p : Prop) [Decidable p] (k : TrapKind),
      (if (b && decide p) = true then some k else none) = if b = true ∧ p then some k else none := fun b p _ k => by
    simp only [Bool.and_eq_true, decide_eq_true_eq]
  simp only [pendingInt, h3, h4, Bool.not_true, Bool.or_self, Bool.false_eq_true, if_false, List.findSome?_cons, List.findSome?_nil, hp]
  split_ifs <;> rfl

theorem intBit_mem (k : TrapKind) : intBit k ∈ [8, 9, 10] := by
  unfold intBit; split <;> decide

theorem takeInterrupt_eq {s : State} {h : Nat} {k : TrapKind} (hk : pendingInt s h = some k) :
    takeInterrupt s h = takeTrap (modHsw (withdraw s h) h fun w => setBit w (intBit k) false) h ⟨k, 0, false, intValue s h k⟩
      (getSlot (modHsw (withdraw s h) h fun w => setBit w (intBit k) false) h).pc := by
  rw [takeInterrupt, hk]
  cases k <;> rfl

/-- An interrupt between instructions clears its pending bit and is taken (R216, R218). -/
theorem interruptEntry_running {s : State} {h : Nat} {k : TrapKind} (hk : pendingInt s h = some k)
    (hst : (getSlot s h).st = .issuing ∨ (getSlot s h).st = .ready) (hi : (getSlot s h).inside = false)
    (ha : asyncTrap s h = none) :
    exec (.interruptEntry h) s = .next (takeTrap (modSlot s h fun y => { y with hsw := setBit y.hsw (intBit k) false }) h
      ⟨k, 0, false, intValue s h k⟩ (getSlot s h).pc) := by
  have hb : atBoundary s h = true := by rcases hst with e | e <;> simp [atBoundary, e, hi, ha]
  have hr : wireReleased s h = false := by rcases hst with e | e <;> simp [wireReleased, e]
  have hw : withdraw s h = s := by rcases hst with e | e <;> simp only [withdraw, e]
  have ht := takeInterrupt_eq hk
  rw [hw, modHsw, getSlot_modSlot_self] at ht
  change Host.Outcome.next _ = _
  rw [hb, hk, hr, ← ht]
  rcases hst with e | e <;> simp [e]

/-- In a wait on memory, the access is cancelled first (R20, R21). -/
theorem interruptEntry_waiting {s : State} {h u : Nat} {k : TrapKind} (hk : pendingInt s h = some k)
    (hst : (getSlot s h).st = .waiting (.memory u)) (hf : (s.flight.any fun a => a.uid = u) = true) :
    Does (.interruptEntry h) s fun t => getSlot t h = { getSlot s h with cancel := true } ∧ t.flight = s.flight ∧ t.mem = s.mem := by
  have hb : atBoundary s h = true := by simp [atBoundary, hst]
  have hr : wireReleased s h = false := by
    simp only [wireReleased, hst]
    split
    · next w _ _ _ _ _ hw _ _ =>
      cases hw; rfl
    · rfl
  refine ⟨modSlot s h fun x => { x with cancel := true }, ?_, getSlot_modSlot_self .., rfl, rfl⟩
  change Host.Outcome.next _ = _
  rw [hb, hk, hr, hst]
  simp [hf]

theorem flight_of_setting {s u : State} (h : setting u = setting s) : u.flight = s.flight := (congrArg State.flight h :)

theorem enterHandler_flight (s : State) (h : Nat) (t : Trap) (pc : Word) : (enterHandler s h t pc).flight = s.flight :=
  flight_of_setting (setting_enterHandler s h t pc)

/-- An interrupt that has a vector enters its handler (R217, R218). -/
theorem pc_enterTrap_int {s : State} {h : Nat} {k : TrapKind} {v pc : Word} (hk : k.isInt = true)
    (hv : vectorOf s h (targetMode s h k) ≠ 0) :
    enterTrap s h ⟨k, 0, false, v⟩ pc = enterHandler s h ⟨k, 0, false, v⟩ pc := by
  have hb : trapBit k = none := by cases k <;> simp_all [TrapKind.isInt, trapBit]
  have hu : unhandled s h ⟨k, 0, false, v⟩ = false := by
    rw [unhandled, decide_eq_false hv, hk, Bool.not_true, Bool.and_false, Bool.or_false]
  simp [enterTrap, hb, hu]

/-- The answer to the cancellation: the access is gone and the handler is entered (R21). -/
theorem cancelAnswer_does {s : State} {h u : Nat} {k : TrapKind} (hk : pendingInt s h = some k) (hint : k.isInt = true)
    (hv : vectorOf s h (targetMode s h k) ≠ 0) (hst : (getSlot s h).st = .waiting (.memory u)) (hc : (getSlot s h).cancel = true)
    (ho : (getSlot s h).outs = []) :
    Does (.cancelAnswer h) s fun t => (getSlot t h).pc = vectorOf s h (targetMode s h k) ∧ ∀ a ∈ t.flight, a.uid ≠ u := by
  obtain ⟨w, hw⟩ : ∃ w, w = modHsw (withdraw s h) h fun w => setBit w (intBit k) false := ⟨_, rfl⟩
  have hwd : withdraw s h = modSlot { s with flight := s.flight.filter (·.uid ≠ u) } h
      fun x => { x with inside := false, latch := [], kept := [], limit := none, cancel := false } := by
    simp only [withdraw, hst]
  have hslot : getSlot w h = { getSlot s h with
      hsw := setBit (getSlot s h).hsw (intBit k) false, inside := false, latch := [], kept := [], limit := none, cancel := false } := by
    rw [hw, hwd, modHsw, getSlot_modSlot_self, getSlot_modSlot_self]; rfl
  have hmode : targetMode w h k = targetMode s h k := by
    rw [targetMode, targetMode, modeOf, modeOf, hslot, mode_setBit_pending _ _ _ (intBit_mem k)]
  have hvec : ∀ m, vectorOf w h m = vectorOf s h m := fun m =>
    vectorOf_congr m (by rw [hslot]) (by rw [hw, hwd]; rfl)
  have hex : exec (.cancelAnswer h) s = .next (enterHandler w h ⟨k, 0, false, intValue s h k⟩ (getSlot w h).pc) := by
    change Host.Outcome.next _ = _
    rw [hst]
    simp only [hc, if_true]
    rw [takeInterrupt_eq hk, ← hw, takeTrap, hslot, ho, List.isEmpty_nil, if_pos rfl,
      pc_enterTrap_int hint (by rw [hmode, hvec]; exact hv)]
  refine ⟨_, hex, ?_, fun a ha => ?_⟩
  · rw [pc_enterHandler, hmode, hvec]
  · have hf : w.flight = s.flight.filter (·.uid ≠ u) := by rw [hw, hwd]; rfl
    rw [enterHandler_flight, hf] at ha
    simpa using (List.mem_filter.mp ha).2

/-- Everything about the interrupt that a hart has pending and enabled, first in the order of codes (R216, R355). -/
theorem interrupt_taken {s : State} {h b : Nat} {k : TrapKind} {v : Word} (hb : intBit k = b) (hval : intValue s h k = v)
    (hk : pendingInt s h = some k) (hint : k.isInt = true)
    (hv : vectorOf s h (targetMode s h k) ≠ 0) :
    ((getSlot s h).st = .issuing ∨ (getSlot s h).st = .ready → (getSlot s h).inside = false → asyncTrap s h = none →
      exec (.interruptEntry h) s = .next (takeTrap (modSlot s h fun y => { y with hsw := setBit y.hsw b false }) h
        ⟨k, 0, false, v⟩ (getSlot s h).pc)) ∧
    (∀ u, (getSlot s h).st = .waiting (.memory u) →
      ((s.flight.any fun a => a.uid = u) = true → Does (.interruptEntry h) s fun t =>
        getSlot t h = { getSlot s h with cancel := true } ∧ t.flight = s.flight ∧ t.mem = s.mem) ∧
      ((getSlot s h).cancel = true → (getSlot s h).outs = [] → Does (.cancelAnswer h) s fun t =>
        (getSlot t h).pc = vectorOf s h (targetMode s h k) ∧ ∀ a ∈ t.flight, a.uid ≠ u)) :=
  hb ▸ hval ▸ ⟨interruptEntry_running hk, fun _ hst => ⟨interruptEntry_waiting hk hst, cancelAnswer_does hk hint hv hst⟩⟩

/-! Asynchronous traps. -/

/-- The oldest refused journal entry of the frame is taken (R223). -/
theorem asyncTrapEntry_refused {s : State} {h : Nat} {e : JEnt} (hst : (getSlot s h).st = .issuing ∨ (getSlot s h).st = .ready)
    (ht : thOf s h = false) (he : refusedEntry s h = some e) :
    exec (.asyncTrapEntry h) s =
      .next (takeTrap (modPools s fun l => l.erase e) h ⟨.remoteStoreRefused, 0, true, journalValue e⟩ (getSlot s h).pc) := by
  have ha : asyncTrap s h = some ⟨.remoteStoreRefused, 0, true, journalValue e⟩ := by simp [asyncTrap, ht, he]
  change Host.Outcome.next _ = _
  rw [ha, he]
  rcases hst with e | e <;> rw [e] <;> rfl

/-- With none, the oldest pending fault of the frame is taken (R224). -/
theorem asyncTrapEntry_late {s : State} {h : Nat} {l : Late} (hst : (getSlot s h).st = .issuing ∨ (getSlot s h).st = .ready)
    (ht : thOf s h = false) (he : refusedEntry s h = none) (hl : lateFor s h = some l) :
    exec (.asyncTrapEntry h) s =
      .next (takeTrap (modCore s (coreOf h) fun c => { c with late := c.late.erase l }) h l.trap (getSlot s h).pc) := by
  have ha : asyncTrap s h = some l.trap := by simp [asyncTrap, ht, he, hl]
  change Host.Outcome.next _ = _
  rw [ha, he, dropLate, hl]
  rcases hst with e | e <;> rw [e] <;> rfl

/-- Settles O45: each event at a boundary by its lemma; the order of the interrupts is that of `pendingInt`. -/
theorem hartBoundaries : Obligations.HartBoundaries := by
  unfold Obligations.HartBoundaries
  intro s h x
  refine ⟨fun i o v => resultReturn_does, ?_, timer_does, ?_, fun hst ht =>
    ⟨fun e he => asyncTrapEntry_refused hst ht he, fun l he hl => asyncTrapEntry_late hst ht he hl⟩, fun w e he => ?_, fun f hf => ?_⟩
  · rintro core rfl
    exact forcedPark_does
  · intro h3 h4 P E
    have h3' : bit (getSlot s h).hsw 3 = true := h3
    have h4' : bit (getSlot s h).hsw 4 = false := h4
    refine ⟨fun w => interrupt_taken rfl rfl ?_ rfl w.2, fun w t => interrupt_taken rfl rfl ?_ rfl t.2,
      fun w t m => interrupt_taken rfl rfl ?_ rfl m.2⟩
    · rw [pendingInt_eq h3' h4', if_pos w]
    · rw [pendingInt_eq h3' h4', if_neg w, if_pos t]
    · rw [pendingInt_eq h3' h4', if_neg w, if_neg t, if_pos m]
  · change Host.Outcome.next _ = _
    rw [he]
  · change Host.Outcome.next _ = _
    rw [hf]

end Sys2Proof.Machine
end

section
namespace Sys2Proof.Machine

/-! Ends of waits: bounds, barriers, votes and deadlock probes (R188, R193 to R196). -/

/-- A wait that no controller has met or released, and whose bound has passed, is withdrawn with its timeout trap (R188, R193). -/
theorem waitBoundExpiry_of_trap {s u : State} {h n : Nat} {w : Wait} {y : Trap} (hl : (getSlot s h).limit = some n)
    (hn : (getSlot s h).since + n ≤ s.cycle) (hst : (getSlot s h).st = .waiting w) (hm : waitMet s h w = false)
    (hr : wireReleased s h = false) (ht : boundTrap s h = some (y, u)) (hu : getSlot u h = getSlot s h) :
    exec (.waitBoundExpiry h) s = .next (takeTrap (withdraw u h) h y (getSlot s h).pc) := by
  have hp : boundPassed s h = true := by simp [boundPassed, hl, hn]
  change Host.Outcome.next _ = _
  simp only [hst, hm, hr, hp, ht, hu, Bool.or_self, Bool.not_true, Bool.false_eq_true, if_false]

/-- A wait other than at a barrier or a vote is released by no wire. -/
theorem wireReleased_of_other {s : State} {h : Nat} {w : Wait} (hst : (getSlot s h).st = .waiting w)
    (hw : ∀ g m, domainFull g m w = false) : wireReleased s h = false := by
  unfold wireReleased
  split
  · next e _ _ =>
    rw [hst] at e
    cases e
    exact hw _ _
  · rfl

/-- A wait at a barrier or a vote is released when its domain is full. -/
theorem wireReleased_of_gang {s : State} {h m : Nat} {g : Gang} {w : Wait} (hst : (getSlot s h).st = .waiting w)
    (hg : myGang s h = some (g, m)) (hd : domainFull g m w = false) : wireReleased s h = false := by
  unfold wireReleased
  split
  · next e ht hg' =>
    rw [hst] at e
    cases e
    simp only [myGang, Option.bind_eq_some_iff, Option.map_eq_some_iff, Prod.mk.injEq] at hg ht hg'
    obtain ⟨t, hb, x, hx, g', hgo, rfl, rfl⟩ := hg
    obtain ⟨t', hb', ht'⟩ := ht
    obtain ⟨t'', hb'', hg''⟩ := hg'
    rw [hb] at hb' hb''
    cases hb'; cases hb''
    rw [hx] at ht'
    rw [hgo] at hg''
    cases ht'; cases hg''
    exact hd
  · rfl

/-- The bound of a lease wait, or of a wait for a multicast copy, has passed (R120, R144). -/
theorem leaseTimeout_of_waits {s : State} {h n : Nat} (hl : (getSlot s h).limit = some n) (hn : (getSlot s h).since + n ≤ s.cycle)
    (hw : ((getSlot s h).st = .waiting .lease ∨ (getSlot s h).st = .waiting .arrayPeriod) ∧ (actCtx s (coreOf h)).lease ≠ .active ∨
      ∃ v ∈ span 0 8, (getSlot s h).st = .parked (.copy v) none ∧ (actTab s (coreOf h) v).st = .expected) :
    exec (.leaseTimeout h) s = .next (takeTrap (modSlot (withdraw s h) h fun y => { y with limit := none }) h
      (trap .leaseTimeout 0 (arrHold (getCluster s (clusterOf (coreOf h))).arr)) (getSlot s h).pc) := by
  have hp : boundPassed s h = true := by simp [boundPassed, hl, hn]
  change Host.Outcome.next _ = _
  rcases hw with ⟨hst | hst, he⟩ | ⟨v, -, hst, he⟩ <;> simp [hst, he, hp]

/-- A barrier whose members have all arrived is released (R192). -/
theorem barrierRelease_of_full {s : State} {g : Gang} {k : BarKind} {m : Nat} (hg : s.ks.gangs.find? (·.id == g.id) = some g)
    (hne : domain g k m ≠ []) (ha : ∀ j ∈ domain g k m, (j, k.code) ∈ g.arr) :
    exec (.barrierRelease g.id k m) s = .next ((domain g k m).foldl (fun u j => releaseMember u g j) (modGang s g.id fun y =>
      { y with arr := y.arr.filter fun e => !(e.2 = k.code && (domain g k m).contains e.1) })) := by
  have he : (domain g k m).isEmpty = false := by simpa using hne
  have hall : ((domain g k m).all fun j => g.arr.contains (j, k.code)) = true :=
    List.all_eq_true.mpr fun j hj => List.contains_iff_mem.mpr (ha j hj)
  change Host.Outcome.next _ = _
  rw [hg]
  simp only [he, hall, Bool.not_true, Bool.or_self, Bool.false_eq_true, if_false]

/-- A vote with every contribution gives each member the combination (R194). -/
theorem voteResult_of_full {s : State} {g : Gang} {op : VoteOp} {v : Word} (hg : s.ks.gangs.find? (·.id == g.id) = some g)
    (hv : g.votes.find? (·.1 == 0) = some (0, op, v)) (ha : ∀ j ∈ domain g .rect 0, ∃ y ∈ g.votes, y.1 = j) :
    exec (.voteResult g.id) s = .next ((domain g .rect 0).foldl (fun u j =>
      match memberHart u g j with
      | none => u
      | some k => releaseMember (writeReg u k ((getSlot u k).latch.getD 1 0).toNat
          (combineVotes op (g.votes.map (·.2.2))) false) g j) (modGang s g.id fun y => { y with votes := [] })) := by
  have hall : ((domain g .rect 0).all fun j => g.votes.any (·.1 == j)) = true :=
    List.all_eq_true.mpr fun j hj => List.any_eq_true.mpr (by simpa using ha j hj)
  change Host.Outcome.next _ = _
  rw [hg]
  dsimp only
  rw [hv]
  dsimp only
  rw [hall]
  rfl

/-- A released member goes on after its instruction, and no byte and no other hart changes (R192, R194). -/
theorem releaseMember_kept {s : State} {g : Gang} {h m : Nat} (hm : memberHart s g m = some h) :
    let t := releaseMember s g m
    (getSlot t h).pc = (getSlot s h).pc + 4 ∧
      (getSlot t h).st = (if (getSlot s h).latch.getD 2 0 = 1 then .parked .results none else .ready) ∧
      t.mem = s.mem ∧ ∀ k, k ≠ h → getSlot t k = getSlot s k := by
  intro t
  have ht : t = retireH (modSlot (modSlot (modCore s (coreOf h) fun c => { c with dcache := [] }) h fun x =>
      { x with acqAt := some s.cycle }) h fun x => { x with st := .ready }) h ((getSlot s h).latch.getD 2 0 = 1)
      ((getSlot s h).pc + 4) := by
    simp only [t, releaseMember, hm, completeWait, acquire, getSlot_modSlot_self, getSlot_modCore]
  rw [ht, retireH]
  refine ⟨?_, ?_, rfl, fun k e => ?_⟩
  · rw [getSlot_modSlot_self]
  · rw [getSlot_modSlot_self, getSlot_modSlot_self]
    simp only [decide_eq_true_eq]
  · rw [getSlot_modSlot_ne _ _ e, getSlot_modSlot_ne _ _ e, getSlot_modSlot_ne _ _ e, getSlot_modCore]

/-! Probes. -/

/-- A wait depends on no probe and no notice. -/
theorem waitMet_probes (s : State) (h : Nat) (w : Wait) (f : Keystone → Keystone) : waitMet (modKs s f) h w = waitMet s h w := by
  cases w <;> rfl

theorem waitsStill_probes (s : State) (h : Nat) (f : Keystone → Keystone) : waitsStill (modKs s f) h = waitsStill s h := by
  simp only [waitsStill, getSlot_modKs, waitMet_probes]

/-- The waits-for edge of a hart depends on Keystone's queues alone (R195). -/
theorem edgeNow_probes (s : State) (h : Nat) {f : Keystone → Keystone} (hf : (f s.ks).queues = s.ks.queues) :
    edgeNow (modKs s f) h = edgeNow s h := by
  have hw : ∀ w, waitEdge (modKs s f) h w = waitEdge s h w := fun w => by
    cases w with
    | message n => rfl
    | _ => simp only [waitEdge, modKs, hf]
  simp only [edgeNow, edgeOf, waitsStill_probes, getSlot_modKs, hw]

/-- After 4,096 cycles with an edge, a probe leaves along it (R196). -/
theorem deadlockProbe_does {s : State} {h e c : Nat} (he : edgeNow s h = some e) (hc : (getSlot s h).edgeAt = some c)
    (hn : c + 4096 ≤ s.cycle) :
    Does (.deadlockProbe h) s fun t =>
      t.ks.probes = s.ks.probes ++ [⟨e, s.module * 8192 + h, (getSlot s h).epoch, 1, s.module * 8192 + h, (getSlot s h).epoch⟩] ∧
      (getSlot t h).edgeAt = some s.cycle ∧ t.mem = s.mem := by
  refine ⟨modKs (modSlot (bumpKs s 0x1108) h fun x => { x with edgeAt := some s.cycle }) fun k =>
    { k with probes := k.probes ++ [⟨e, podHart s h, (getSlot s h).epoch, 1, podHart s h, (getSlot s h).epoch⟩] }, ?_, rfl, ?_, rfl⟩
  · change Host.Outcome.next _ = _
    simp only [he, hc, Nat.not_lt.mpr hn, if_false]
  · rw [getSlot_modKs, getSlot_modSlot_self]

/-- The place of a hart in the pod names its module and its number there (R7). -/
theorem podHart_parts {d m h : Nat} (e : d = m * 8192 + h) (hh : h < 8192) : d / 8192 = m ∧ hartOf d = h := by
  unfold hartOf; omega

section
variable {s : State} {h i : Nat} {p : Probe} (hp : s.ks.probes[i]? = some p) (hd : p.dst = s.module * 8192 + h) (hh : h < 8192)
include hp hd hh

/-- The probe has left its list; what it does then depends on the hart it came to. -/
theorem exec_probeReceive : exec (.probeReceive i) s =
    let u := modKs s fun k => { k with probes := k.probes.eraseIdx i }
    .next (if p.dst = p.origin then
      if waitsStill s h && (getSlot s h).epoch = p.oepoch then
        modKs u fun k => { k with notices := k.notices ++ [⟨p.high, p.hepoch, p.hops, p.origin⟩] }
      else u
    else
      match edgeNow s h with
      | none => u
      | some e =>
        if 255 ≤ p.hops + 1 then bumpKs u 0x1118
        else modKs u fun k => { k with probes := k.probes ++ [{ p with
          dst := e, hops := p.hops + 1, high := max p.high p.dst
          hepoch := if p.high < p.dst then (getSlot s h).epoch else p.hepoch }] }) := by
  obtain ⟨hm, hn⟩ := podHart_parts hd hh
  have hw := waitsStill_probes s h fun k => { k with probes := k.probes.eraseIdx i }
  have he := edgeNow_probes s h (f := fun k => { k with probes := k.probes.eraseIdx i }) rfl
  change Host.Outcome.next _ = _
  rw [hp]
  simp only [modKs_module, hm, hn, ne_eq, not_true_eq_false, if_false, hw, he, getSlot_modKs] <;> rfl

/-- A probe that comes back to its origin, still in the same wait, sends the victim its notice (R196). -/
theorem probeReceive_back (ho : p.dst = p.origin) (he : p.oepoch = (getSlot s h).epoch) (hw : waitsStill s h = true) :
    Does (.probeReceive i) s fun t => t.ks.probes = s.ks.probes.eraseIdx i ∧
      t.ks.notices = s.ks.notices ++ [⟨p.high, p.hepoch, p.hops, p.origin⟩] ∧ t.mem = s.mem := by
  refine ⟨_, exec_probeReceive hp hd hh, ?_⟩
  simp only [ho, he, hw, decide_true, Bool.and_self, if_true]
  exact ⟨rfl, rfl, rfl⟩

/-- A probe that comes to another waiting hart is forwarded along its edge (R196). -/
theorem probeReceive_forward {e : Nat} (ho : p.dst ≠ p.origin) (he : edgeNow s h = some e) (hn : p.hops < 254) :
    Does (.probeReceive i) s fun t => t.ks.notices = s.ks.notices ∧ t.mem = s.mem ∧
      t.ks.probes = s.ks.probes.eraseIdx i ++ [{ p with
        dst := e, hops := p.hops + 1, high := max p.high p.dst
        hepoch := if p.high < p.dst then (getSlot s h).epoch else p.hepoch }] := by
  refine ⟨_, exec_probeReceive hp hd hh, ?_⟩
  have hn' : ¬ 255 ≤ p.hops + 1 := by omega
  simp only [ho, he, hn', if_false]
  exact ⟨rfl, rfl, rfl⟩

/-- A probe of 255 hops is dropped and counted (R196). -/
theorem probeReceive_drop {e : Nat} (ho : p.dst ≠ p.origin) (he : edgeNow s h = some e) (hn : 254 ≤ p.hops) :
    exec (.probeReceive i) s = .next (bumpKs (modKs s fun k => { k with probes := k.probes.eraseIdx i }) 0x1118) := by
  have hn' : 255 ≤ p.hops + 1 := by omega
  rw [exec_probeReceive hp hd hh]
  simp only [ho, he, hn', if_false, if_true]

end

/-- The victim, still in the recorded wait, takes DEADLOCK_VICTIM (R196). -/
theorem victimNotice_of_waits {s : State} {h i k q : Nat} {n : Notice} (hn : s.ks.notices[i]? = some n)
    (hd : n.dst = s.module * 8192 + h) (hh : h < 8192) (he : n.epoch = (getSlot s h).epoch) (hw : waitsStill s h = true) (hq : q < 256)
    (hk : (k = 0 ∧ (getSlot s h).st = .waiting (.message q)) ∨
      (k = 1 ∧ ((getSlot s h).st = .waiting (.queuePush q) ∨ (getSlot s h).st = .waiting (.queuePop q)))) :
    exec (.victimNotice i) s = .next (takeTrap
      (withdraw (bumpKs (modKs s fun k => { k with notices := k.notices.eraseIdx i }) 0x1110) h) h
      (trap .deadlockVictim 0 (wd (k * 2 ^ 60 + q * 2 ^ 48 + n.hops % 256 * 2 ^ 40 + n.origin % 2 ^ 24))) (getSlot s h).pc) := by
  obtain ⟨hm, hno⟩ := podHart_parts hd hh
  have hw' := (waitsStill_probes s h fun k => { k with notices := k.notices.eraseIdx i }).trans hw
  have h0 : q / 2 ^ 12 = 0 ∧ q % 256 = q ∧ (2 ^ 12 + q) / 2 ^ 12 = 1 ∧ (2 ^ 12 + q) % 256 = q := by omega
  obtain ⟨h1, h2, h3, h4⟩ := h0
  change Host.Outcome.next _ = _
  rw [hn]
  rcases hk with ⟨rfl, hst⟩ | ⟨rfl, hst | hst⟩ <;>
    simp only [modKs_module, hm, hno, getSlot_modKs, hst, he, hw', h1, h2, h3, h4, ne_eq, not_true_eq_false, decide_false, Bool.or_self,
      Bool.not_true, Bool.false_eq_true, if_false]

/-- Settles O46: each event of a wait by its lemma above. -/
theorem waitEvents : Obligations.WaitEvents := by
  unfold Obligations.WaitEvents
  intro s h x d
  refine ⟨fun n hl hn => ?_, fun g k m hg hne ha => barrierRelease_of_full hg hne ha, fun g op v hg hv ha => voteResult_of_full hg hv ha,
    fun g m hm _ => releaseMember_kept hm, fun e c he hc hn => deadlockProbe_does he hc hn, fun i p hp hd hh => ?_,
    fun i n k q hn hd hh he hw hq hk => victimNotice_of_waits hn hd hh he hw hq hk⟩
  · have go {u : State} {w : Wait} {y : Trap} (hst : (getSlot s h).st = .waiting w) (hm : waitMet s h w = false)
        (hr : wireReleased s h = false) (ht : boundTrap s h = some (y, u))
        (hu : getSlot u h = getSlot s h) : exec (.waitBoundExpiry h) s = .next (takeTrap (withdraw u h) h y (getSlot s h).pc) :=
      waitBoundExpiry_of_trap hl hn hst hm hr ht hu
    refine ⟨fun q hst => ?_, fun e hst _ => ?_, fun l hst => ?_, fun k g m hst hg hf => ?_, fun g m hst hg hf => ?_,
      fun hw => leaseTimeout_of_waits hl hn hw⟩
    · rcases hst with hst | hst
      · exact go hst rfl (wireReleased_of_other hst fun _ _ => rfl) (by simp only [boundTrap, show (getSlot s h).st = _ from hst]; rfl) rfl
      · exact go hst rfl (wireReleased_of_other hst fun _ _ => rfl) (by simp only [boundTrap, show (getSlot s h).st = _ from hst]; rfl) rfl
    · exact go hst rfl (wireReleased_of_other hst fun _ _ => rfl) (by simp only [boundTrap, show (getSlot s h).st = _ from hst]; rfl) rfl
    · exact go hst rfl (wireReleased_of_other hst fun _ _ => rfl) (by simp only [boundTrap, show (getSlot s h).st = _ from hst]; rfl) rfl
    · exact go hst rfl (wireReleased_of_gang hst hg hf) (by simp only [boundTrap, show (getSlot s h).st = _ from hst, hg]; rfl) rfl
    · exact go hst rfl (wireReleased_of_gang hst hg hf) (by simp only [boundTrap, show (getSlot s h).st = _ from hst, hg]; rfl) rfl
  · exact ⟨probeReceive_back hp hd hh, fun e => probeReceive_forward hp hd hh, fun e => probeReceive_drop hp hd hh⟩

end Sys2Proof.Machine
end

section
namespace Sys2Proof.Machine

/-! Keystone's operations: what each leaves of the rest of the machine, and of Keystone itself. -/

@[simp] theorem putBytes_ks (s : State) (key : Nat) (cells : List (Nat × Byte)) (psn : Bool) : (putBytes s key cells psn).ks = s.ks := by
  obtain ⟨u, e, hu⟩ := putBytes_offMem s key cells psn
  rw [e, markStale_ks]
  exact (congrArg State.ks hu :)

@[simp] theorem put64_ks (s : State) (pa : Nat) (v : Word) (psn : Bool) : (put64 s pa v psn).ks = s.ks := putBytes_ks ..

@[simp] theorem jwrite_ks (s : State) (l : JLine) : (jwrite s l).ks = s.ks := by
  simp only [jwrite]
  split
  · rfl
  · split <;> split <;> simp [bumpTr]

/-- The journal is Trestle's, not Keystone's (R405). -/
@[simp] theorem jlog_ks (s : State) (kind queue status whr : Nat) (d0 d1 : Word) : (jlog s kind queue status whr d0 d1).ks = s.ks := by
  simp only [jlog]
  split <;> simp

/-- The machine outside Keystone. -/
def offKs (s : State) : State := { s with ks := {} }

theorem mem_of_offKs {s t : State} (h : offKs t = offKs s) : t.mem = s.mem := (congrArg State.mem h :)
theorem slots_of_offKs {s t : State} (h : offKs t = offKs s) : t.slots = s.slots := (congrArg State.slots h :)
theorem cores_of_offKs {s t : State} (h : offKs t = offKs s) : t.cores = s.cores := (congrArg State.cores h :)

/-- Keystone without what a batch entry changes on its way to its stage: transactions, launches, gangs, queues and channels. -/
def Keystone.kept (k : Keystone) : Keystone :=
  { k with txns := [], launches := [], gangs := [], ready := [], chans := [], cutSt := [], poolUsed := 0 }

@[simp] theorem offKs_modKs (s : State) (f : Keystone → Keystone) : offKs (modKs s f) = offKs s := by simp [offKs]
@[simp] theorem offKs_modTxn (s : State) (u : Nat) (f : Txn → Txn) : offKs (modTxn s u f) = offKs s := by simp [modTxn]
@[simp] theorem offKs_modLaunch (s : State) (u : Nat) (f : Launch → Launch) : offKs (modLaunch s u f) = offKs s := by simp [modLaunch]
@[simp] theorem offKs_modGang (s : State) (u : Nat) (f : Gang → Gang) : offKs (modGang s u f) = offKs s := by simp [modGang]

@[simp] theorem kept_modTxn (s : State) (u : Nat) (f : Txn → Txn) : (modTxn s u f).ks.kept = s.ks.kept := by simp [modTxn, Keystone.kept]
@[simp] theorem kept_modLaunch (s : State) (u : Nat) (f : Launch → Launch) : (modLaunch s u f).ks.kept = s.ks.kept := by
  simp [modLaunch, Keystone.kept]
@[simp] theorem kept_modGang (s : State) (u : Nat) (f : Gang → Gang) : (modGang s u f).ks.kept = s.ks.kept := by
  simp [modGang, Keystone.kept]

/-! Cut notes. -/

@[simp] theorem offKs_cutNote (s : State) (u i : Nat) (m : CutMsg) : offKs (cutNote s u i m) = offKs s := by simp [cutNote]
@[simp] theorem kept_cutNote (s : State) (u i : Nat) (m : CutMsg) : (cutNote s u i m).ks.kept = s.ks.kept := by
  simp [cutNote, Keystone.kept]

/-- What a note in the cuts leaves of Keystone. -/
theorem cutNote_ks (s : State) (u i : Nat) (m : CutMsg) : ∃ c, (cutNote s u i m).ks = { s.ks with cutSt := c } := ⟨_, rfl⟩

theorem abutNote_ks (s : State) (ab i : Nat) (m : CutMsg) :
    (∃ c, (abutNote s ab i m).ks = { s.ks with cutSt := c }) ∧ offKs (abutNote s ab i m) = offKs s := by
  unfold abutNote
  split
  · exact ⟨cutNote_ks .., offKs_cutNote ..⟩
  · exact ⟨⟨_, rfl⟩, rfl⟩

/-! Readiness and the push pool (R55). -/

@[simp] theorem offKs_noteHeads (s : State) : offKs (noteHeads s) = offKs s := by simp [noteHeads]
@[simp] theorem kept_noteHeads (s : State) : (noteHeads s).ks.kept = s.ks.kept := by simp [noteHeads, Keystone.kept]
@[simp] theorem offKs_enqueue (s : State) (st u : Nat) : offKs (enqueue s st u) = offKs s := by simp [enqueue]
@[simp] theorem kept_enqueue (s : State) (st u : Nat) : (enqueue s st u).ks.kept = s.ks.kept := by
  rw [enqueue, kept_noteHeads]; simp [Keystone.kept]

/-- What a transaction's coming to be READY can do: nothing, or it is READY, and its unit may join its stage's queue (R55). -/
theorem maybeReady_or (s : State) (u : Nat) :
    maybeReady s u = s ∨ ∃ t, txnBy s u = some t ∧ t.st = .granting ∧
      (maybeReady s u = modTxn s u (fun t => { t with st := .ready }) ∨
        ∃ v, maybeReady s u = enqueue (modTxn s u fun t => { t with st := .ready }) t.stage v) := by
  unfold maybeReady
  cases e : txnBy s u with
  | none => exact .inl rfl
  | some t =>
    simp only
    split
    · next h =>
      simp only [Bool.and_eq_true, decide_eq_true_eq] at h
      refine .inr ⟨t, rfl, h.1.1, ?_⟩
      cases t.gang with
      | none => exact .inr ⟨_, rfl⟩
      | some g =>
        simp only
        split
        · exact .inr ⟨_, rfl⟩
        · exact .inl rfl
    · exact .inl rfl

@[simp] theorem offKs_maybeReady (s : State) (u : Nat) : offKs (maybeReady s u) = offKs s := by
  obtain e | ⟨_, -, -, e | ⟨_, e⟩⟩ := maybeReady_or s u <;> rw [e] <;> simp
@[simp] theorem kept_maybeReady (s : State) (u : Nat) : (maybeReady s u).ks.kept = s.ks.kept := by
  obtain e | ⟨_, -, -, e | ⟨_, e⟩⟩ := maybeReady_or s u <;> rw [e] <;> simp

/-- The machine in which the pool has given a transaction its space (R55). -/
def pooled (s : State) (t : Txn) : State :=
  modKs (modTxn s t.uid fun t => { t with pooled := true }) fun k => { k with poolUsed := k.poolUsed + pushBytes t.push }

/-- A property that giving pool space and coming to be READY keep is kept by the whole allocation. -/
theorem poolTry_keeps {P : State → Prop} (hp : ∀ s t, t ∈ s.ks.txns → t.st = .granting → P s → P (pooled s t))
    (hm : ∀ s u, P s → P (maybeReady s u)) (n : Nat) (s : State) (h : P s) : P (poolTry n s) := by
  induction n generalizing s with
  | zero => exact h
  | succ n ih =>
    rw [poolTry]
    cases e : s.ks.txns.find? fun t => decide (t.st = .granting) && !t.pooled && decide (pushBytes t.push ≠ 0) with
    | none => exact h
    | some t =>
      have hst := List.find?_some e
      simp only [Bool.and_eq_true, decide_eq_true_eq] at hst
      simp only
      split
      · exact h
      · exact ih _ (hm _ _ (hp s t (List.mem_of_find?_eq_some e) hst.1.1 h))

@[simp] theorem offKs_poolAll (s : State) : offKs (poolAll s) = offKs s :=
  poolTry_keeps (P := fun t => offKs t = offKs s) (fun _ _ _ _ h => by simpa [pooled] using h) (fun _ _ h => by simpa using h) _ s rfl
@[simp] theorem kept_poolAll (s : State) : (poolAll s).ks.kept = s.ks.kept :=
  poolTry_keeps (P := fun t => t.ks.kept = s.ks.kept)
    (fun a t _ _ h => by rw [← h, ← kept_modTxn a t.uid fun t => { t with pooled := true }]; simp [pooled, Keystone.kept])
    (fun _ _ h => by simpa using h) _ s rfl

/-! Transactions by their numbers of submission, but for their state and pool space. -/

/-- A transaction but for what coming to be READY changes of it. -/
def Txn.waiting (t : Txn) : Txn := { t with st := .submitted, pooled := false }

theorem txnBy_modTxn (s : State) (v u : Nat) {f : Txn → Txn} (hf : ∀ t, (f t).uid = t.uid) :
    txnBy (modTxn s v f) u = (txnBy s u).map fun t => if t.uid = v then f t else t := by
  have hp : ((fun t : Txn => t.uid == u) ∘ fun t => if t.uid = v then f t else t) = fun t => t.uid == u := by
    funext t; simp only [Function.comp]; split <;> simp [hf]
  simp only [txnBy, modTxn, modKs, List.find?_map, hp]

/-- A transaction found under a number has it. -/
theorem txnBy_uid {s : State} {u : Nat} {t : Txn} (h : txnBy s u = some t) : t.uid = u := by
  simpa using List.find?_some h

/-- The transaction found is the same in two machines whose lists differ in what a projection hides. -/
theorem txnBy_map {α : Type} {s t : State} {p : Txn → α} {q : α → Nat} (hq : ∀ x, q (p x) = x.uid) (h : t.ks.txns.map p = s.ks.txns.map p)
    (u : Nat) : (txnBy t u).map p = (txnBy s u).map p := by
  have e : ∀ l : List Txn, (l.find? (·.uid == u)).map p = (l.map p).find? (fun y => q y == u) := fun l => by
    rw [List.find?_map]
    congr 2
    funext x
    simp [hq]
  rw [txnBy, txnBy, e, e, h]

theorem waiting_modTxn (s : State) (u : Nat) {f : Txn → Txn} (hf : ∀ t, (f t).waiting = t.waiting) :
    (modTxn s u f).ks.txns.map Txn.waiting = s.ks.txns.map Txn.waiting := by
  simp only [modTxn, modKs, List.map_map]
  refine List.map_congr_left fun t _ => ?_
  simp only [Function.comp]
  split
  · exact hf t
  · rfl

theorem enqueue_txns (s : State) (st u : Nat) : (enqueue s st u).ks.txns = s.ks.txns := rfl

theorem waiting_maybeReady (s : State) (u : Nat) : (maybeReady s u).ks.txns.map Txn.waiting = s.ks.txns.map Txn.waiting := by
  obtain e | ⟨_, -, -, e | ⟨_, e⟩⟩ := maybeReady_or s u <;> rw [e]
  · exact waiting_modTxn _ _ fun _ => rfl
  · rw [enqueue_txns]; exact waiting_modTxn _ _ fun _ => rfl

theorem waiting_poolAll (s : State) : (poolAll s).ks.txns.map Txn.waiting = s.ks.txns.map Txn.waiting :=
  poolTry_keeps (P := fun t => t.ks.txns.map Txn.waiting = s.ks.txns.map Txn.waiting)
    (fun a t _ _ h => h ▸ waiting_modTxn a t.uid fun _ => rfl) (fun a u h => h ▸ waiting_maybeReady a u) _ s rfl

/-! Gangs, but for since when they head their stage's queue. -/

/-- Every gang of `t` is one of `s` but for since when it has headed its stage's queue (R39). -/
def GangsFrom (s t : State) : Prop := ∀ x ∈ t.ks.gangs, ∃ y ∈ s.ks.gangs, ∃ c, x = { y with since := c }

theorem GangsFrom.of_eq {s t : State} (h : t.ks.gangs = s.ks.gangs) : GangsFrom s t := fun x hx =>
  ⟨x, h ▸ hx, x.since, rfl⟩

theorem GangsFrom.trans {s t u : State} (h : GangsFrom s t) (k : GangsFrom t u) : GangsFrom s u := fun x hx => by
  obtain ⟨y, hy, c, rfl⟩ := k x hx
  obtain ⟨z, hz, d, rfl⟩ := h y hy
  exact ⟨z, hz, c, rfl⟩

theorem gangsFrom_noteHeads (s : State) : GangsFrom s (noteHeads s) := fun x hx => by
  simp only [noteHeads, modKs, List.mem_map] at hx
  obtain ⟨y, hy, rfl⟩ := hx
  exact ⟨y, hy, _, rfl⟩

theorem gangsFrom_enqueue (s : State) (st u : Nat) : GangsFrom s (enqueue s st u) :=
  (GangsFrom.of_eq rfl).trans (gangsFrom_noteHeads _)

theorem gangsFrom_dequeue (s : State) (st u : Nat) : GangsFrom s (dequeue s st u) :=
  (GangsFrom.of_eq rfl).trans (gangsFrom_noteHeads _)

theorem gangsFrom_maybeReady (s : State) (u : Nat) : GangsFrom s (maybeReady s u) := by
  obtain e | ⟨_, -, -, e | ⟨_, e⟩⟩ := maybeReady_or s u <;> rw [e]
  · exact .of_eq rfl
  · exact .of_eq rfl
  · exact (GangsFrom.of_eq rfl).trans (gangsFrom_enqueue _ _ _)

theorem gangsFrom_poolAll (s : State) : GangsFrom s (poolAll s) :=
  poolTry_keeps (P := GangsFrom s) (fun _ _ _ _ h => h.trans (.of_eq rfl)) (fun _ _ h => h.trans (gangsFrom_maybeReady _ _)) _ s (.of_eq rfl)

end Sys2Proof.Machine
end

section
namespace Sys2Proof.Machine

/-! Batches on their way (R46, R47, R50, R66). -/

@[simp] theorem offKs_pushChan (s : State) (ab : Nat) (e : ChanEnt) : offKs (pushChan s ab e) = offKs s := by simp [pushChan]
@[simp] theorem kept_pushChan (s : State) (ab : Nat) (e : ChanEnt) : (pushChan s ab e).ks.kept = s.ks.kept := by
  simp [pushChan, Keystone.kept]
@[simp] theorem offKs_pushAll (s : State) (e : ChanEnt) : offKs (pushAll s e) = offKs s :=
  foldl_proj (π := offKs) (fun _ _ => offKs_pushChan ..) _ _
@[simp] theorem kept_pushAll (s : State) (e : ChanEnt) : (pushAll s e).ks.kept = s.ks.kept :=
  foldl_proj (π := fun s : State => s.ks.kept) (fun _ _ => kept_pushChan ..) _ _
@[simp] theorem offKs_cutNumber (s : State) (n : Nat) : offKs (cutNumber s n) = offKs s := by simp [cutNumber]
@[simp] theorem kept_cutNumber (s : State) (n : Nat) : (cutNumber s n).ks.kept = s.ks.kept := by simp [cutNumber, Keystone.kept]

/-- A marker that takes part here goes to every abutment (R68). -/
def feedMarker (s : State) (mine : Bool) (e : ManifestEntry) (n : Nat) : State :=
  match e.kind with
  | .marker g => if mine || g then pushAll (cutNumber s n) .marker else s
  | _ => s

/-- The lock requests of an entry go to the abutments of this group (R50). -/
def feedReqs (s : State) (e : ManifestEntry) (n : Nat) : State :=
  e.reqs.foldl (fun u r =>
    if (groupMods u).contains (moduleOf (r.tile * 4096)) then pushChan u (abutOf r.tile) (.req n r.tile r.excl r.push) else u) s

/-- The transaction of an entry waits for its grants (R55). -/
def feedTxn (s : State) (n : Nat) : State :=
  match s.ks.txns.find? (·.num == some n) with
  | some t => if t.st = .numbered then maybeReady (modTxn s t.uid fun t => { t with st := .granting }) t.uid else s
  | none => s

theorem feedOne_eq (s : State) (mine : Bool) (e : ManifestEntry) (n : Nat) :
    feedOne s mine e n = feedTxn (feedReqs (feedMarker s mine e n) e n) n := by
  unfold feedOne feedTxn feedReqs feedMarker
  rfl

/-- A property of the machine's rest that the operations of the feed keep is kept by the feed. -/
theorem feed_keeps {β : Type} {π : State → β} (h1 : ∀ s ab e, π (pushChan s ab e) = π s) (h2 : ∀ s n, π (cutNumber s n) = π s)
    (h3 : ∀ s u f, π (modTxn s u f) = π s) (h4 : ∀ s u, π (maybeReady s u) = π s) (h5 : ∀ s, π (poolAll s) = π s)
    (s : State) (pos batch : Nat) (mine : Bool) (es : List ManifestEntry) : π (feed s pos batch mine es) = π s := by
  have hall : ∀ s e, π (pushAll s e) = π s := fun s e => foldl_proj (fun _ _ => h1 ..) _ _
  have hm : ∀ s e n, π (feedMarker s mine e n) = π s := fun s e n => by
    unfold feedMarker; split
    · split
      · rw [hall, h2]
      · rfl
    · rfl
  have hr : ∀ s e n, π (feedReqs s e n) = π s := fun s e n =>
    foldl_proj (fun _ _ => by split <;> simp only [h1]) _ _
  have ht : ∀ s n, π (feedTxn s n) = π s := fun s n => by
    unfold feedTxn; split
    · split
      · rw [h4, h3]
      · rfl
    · rfl
  unfold feed
  rw [h5, hall]
  exact foldl_proj (fun u x => by obtain ⟨e, i⟩ := x; exact (congrArg π (feedOne_eq ..)).trans (by rw [ht, hr, hm])) _ _

@[simp] theorem offKs_feed (s : State) (pos batch : Nat) (mine : Bool) (es : List ManifestEntry) :
    offKs (feed s pos batch mine es) = offKs s :=
  feed_keeps offKs_pushChan offKs_cutNumber offKs_modTxn offKs_maybeReady offKs_poolAll ..
@[simp] theorem kept_feed (s : State) (pos batch : Nat) (mine : Bool) (es : List ManifestEntry) :
    (feed s pos batch mine es).ks.kept = s.ks.kept :=
  feed_keeps (π := fun s => s.ks.kept) kept_pushChan kept_cutNumber kept_modTxn kept_maybeReady kept_poolAll ..

@[simp] theorem kept_numberOne (s : State) (e : BatchEnt) (n : Nat) : (numberOne s e n).ks.kept = s.ks.kept := by
  unfold numberOne
  split
  · split
    · rfl
    · simp only
      split <;> simp
  · rfl

@[simp] theorem kept_numberBatch (s : State) (b : List BatchEnt) (batch pos : Nat) :
    (numberBatch s b batch pos).1.ks.kept = s.ks.kept :=
  foldl_proj (π := fun s : State => s.ks.kept) (fun u x => by obtain ⟨e, i⟩ := x; exact kept_numberOne ..) _ _

/-- The open batch closes: outside a group it is numbered and fed (R46, R47, R50). -/
theorem closeBatch_alone {s : State} (hb : s.ks.openB ≠ []) (hg : s.ks.group = none) :
    (closeBatch s).ks.openB = [] ∧ (closeBatch s).ks.batch = s.ks.batch + 1 := by
  have hb' : s.ks.openB.isEmpty = false := by simpa using hb
  have hk : (closeBatch s).ks.kept = { s.ks with openB := [], closeDue := false, batch := s.ks.batch + 1 }.kept := by
    have he : closeBatch s = feed (numberBatch (modKs (modKs s fun k => { k with openB := [], closeDue := false }) fun k =>
        { k with batch := s.ks.batch + 1 }) s.ks.openB (s.ks.batch + 1) 0).1 0 (s.ks.batch + 1) true
        (numberBatch (modKs (modKs s fun k => { k with openB := [], closeDue := false }) fun k =>
        { k with batch := s.ks.batch + 1 }) s.ks.openB (s.ks.batch + 1) 0).2 := by
      simp only [closeBatch, hb', hg, Bool.false_eq_true, if_false, Option.isSome_none, Bool.false_and, modKs]
    rw [he, kept_feed, kept_numberBatch]
    rfl
  exact ⟨(congrArg Keystone.openB hk :), (congrArg Keystone.batch hk :)⟩

/-- In a group it waits for the token (R49). -/
theorem closeBatch_group {s : State} (hb : s.ks.openB ≠ []) (hg : s.ks.group ≠ none) :
    closeBatch s = if 4 ≤ s.ks.closed.length then modKs s fun k => { k with closeDue := true }
      else modKs s fun k => { k with openB := [], closeDue := false, closed := k.closed ++ [s.ks.openB] } := by
  have hb' : s.ks.openB.isEmpty = false := by simpa using hb
  obtain ⟨g, hg'⟩ := Option.ne_none_iff_exists'.mp hg
  by_cases h : 4 ≤ s.ks.closed.length <;>
    simp only [closeBatch, hb', hg', h, Bool.false_eq_true, if_false, if_true, Option.isSome_some, Bool.true_and, decide_true,
      decide_false, modKs]

end Sys2Proof.Machine
end

section
namespace Sys2Proof.Machine

/-! Lock tables (R51, R57). -/

theorem tget_tdel_self {α : Type} (d : α) (k : Nat) (t : Tbl α) : tget d (tdel k t) k = d := by
  induction t with
  | nil => rfl
  | cons e t ih =>
    obtain ⟨k', v⟩ := e
    by_cases h : k' = k
    · simpa [tdel, h] using ih
    · simpa [tdel, h, tget] using ih

/-- A key taken from a table, or its list put there: either way the key has the list. -/
theorem tget_putOrDel {β : Type} (k : Nat) (l : List β) (t : Tbl (List β)) :
    tget [] (if l.isEmpty then tdel k t else tput k l t) k = l := by
  split
  · next h => rw [tget_tdel_self, List.isEmpty_iff.mp h]
  · rw [tget_tput_self]

theorem tfind_tput_self {α : Type} (k : Nat) (v : α) (t : Tbl α) : tfind (tput k v t) k = some v := by
  induction t with
  | nil => simp [tput, tfind]
  | cons e t ih =>
    obtain ⟨k', v'⟩ := e
    simp only [tput]
    split
    · simp [tfind]
    · split
      · simp [tfind]
      · next h =>
        have : (k' == k) = false := by simpa using fun e => h e.symm
        simpa [tfind, List.find?_cons, this] using ih

/-- The rules keep the entries' numbers (R51). -/
theorem applyRules_nums (f sh : Bool) (l : List LockEnt) : (applyRules f sh l).1.map (·.num) = l.map (·.num) := by
  induction l generalizing f sh with
  | nil => rfl
  | cons e l ih => simp [applyRules, ih]

/-- Behind entries that are granted, a new one is granted if it is the first, or shared with only shared ones before it (R51). -/
theorem applyRules_append (l : List LockEnt) (n : LockEnt) (hn : n.got = false) (f sh : Bool) (hl : ∀ e ∈ l, e.got = true) :
    let ok := if n.excl then f && l.isEmpty else sh && l.all fun e => !e.excl
    applyRules f sh (l ++ [n]) = (l ++ [{ n with got := ok }], if ok then [n.num] else []) := by
  induction l generalizing f sh with
  | nil =>
    cases he : n.excl <;> simp [applyRules, hn, he]
  | cons e l ih =>
    have hg : e.got = true := hl e List.mem_cons_self
    have ht := ih false (sh && !e.excl) fun x hx => hl x (List.mem_cons_of_mem _ hx)
    have he : { e with got := true } = e := by rw [← hg]
    dsimp only at ht ⊢
    rw [List.cons_append, applyRules, ht]
    cases hx : n.excl <;> simp [hg, he, Bool.and_assoc]

/-- A tile that can be granted: the entries after the rules, and the new grants on their way (R51). -/
theorem regrant_eq {s : State} {tile : Nat} (h : tileGone s tile = false) :
    regrant s tile = modKs s fun k => { k with
      locks := if (applyRules true true (tget [] s.ks.locks tile)).1.isEmpty then tdel tile k.locks
        else tput tile (applyRules true true (tget [] s.ks.locks tile)).1 k.locks
      grants := k.grants ++ (applyRules true true (tget [] s.ks.locks tile)).2.map fun n => (n, tile) } := by
  rw [regrant, h]; rfl

theorem regrant_gone {s : State} {tile : Nat} (h : tileGone s tile = true) : regrant s tile = s := by
  rw [regrant, h]; rfl

theorem regrant_or (s : State) (tile : Nat) : ∃ l g, regrant s tile = modKs s fun k => { k with locks := l, grants := g } := by
  cases h : tileGone s tile
  · exact ⟨_, _, regrant_eq h⟩
  · exact ⟨s.ks.locks, s.ks.grants, regrant_gone h⟩

/-- No entry of a tile comes to have a number that none had (R51). -/
theorem regrant_nums {s : State} {tile n : Nat} (h : ∀ e ∈ tget [] s.ks.locks tile, e.num ≠ n) :
    ∀ e ∈ tget [] (regrant s tile).ks.locks tile, e.num ≠ n := by
  cases hg : tileGone s tile
  · intro e he hn
    rw [regrant_eq hg] at he
    have he' : e ∈ tget [] (if (applyRules true true (tget [] s.ks.locks tile)).1.isEmpty then tdel tile s.ks.locks
        else tput tile (applyRules true true (tget [] s.ks.locks tile)).1 s.ks.locks) tile := he
    rw [tget_putOrDel] at he'
    have hm : n ∈ (applyRules true true (tget [] s.ks.locks tile)).1.map (·.num) := List.mem_map.mpr ⟨e, he', hn⟩
    rw [applyRules_nums] at hm
    obtain ⟨e', he'', hn'⟩ := List.mem_map.mp hm
    exact h e' he'' hn'
  · rw [regrant_gone hg]; exact h

/-- LOCK_REQUEST: the entry joins its tile's list behind granted ones (R51). -/
theorem lockRequest_does {s : State} {ab num tile : Nat} {excl push : Bool} {rest : List ChanEnt}
    (hc : tget [] s.ks.chans ab = .req num tile excl push :: rest) (hs : tableSize s ab < 16384)
    (hl : ∀ e ∈ tget [] s.ks.locks tile, e.got = true) :
    Does (.lockRequest ab) s fun t =>
      let l := tget [] s.ks.locks tile
      let ok := !tileGone s tile && (if excl then l.isEmpty else l.all fun e => !e.excl)
      tget [] t.ks.locks tile = l ++ [⟨num, excl, push, ok⟩] ∧ tget [] t.ks.chans ab = rest ∧
      t.ks.grants = s.ks.grants ++ (if ok then [(num, tile)] else []) ∧ t.mem = s.mem ∧ t.slots = s.slots := by
  obtain ⟨u, hu⟩ : ∃ u, u = modKs s fun k => { k with
    chans := if rest.isEmpty then tdel ab k.chans else tput ab rest k.chans
    locks := tmod [] tile (· ++ [⟨num, excl, push, false⟩]) k.locks } := ⟨_, rfl⟩
  have hex : exec (.lockRequest ab) s = .next (abutNote (regrant u tile) ab 0 (.request num tile excl push)) := by
    change Host.Outcome.next _ = _
    rw [hc]
    simp only [Nat.not_le.mpr hs, if_false]
    rw [hu]
  refine ⟨_, hex, ?_⟩
  obtain ⟨⟨c, hk⟩, ho⟩ := abutNote_ks (regrant u tile) ab 0 (.request num tile excl push)
  obtain ⟨l', g', hr⟩ := regrant_or u tile
  have hoff : offKs (abutNote (regrant u tile) ab 0 (.request num tile excl push)) = offKs s := by
    rw [ho, hr, offKs_modKs, hu, offKs_modKs]
  have hul : tget [] u.ks.locks tile = tget [] s.ks.locks tile ++ [⟨num, excl, push, false⟩] := by
    rw [hu]; exact tget_tput_self ..
  have hug : tileGone u tile = tileGone s tile := by rw [hu]; rfl
  have hchans : tget [] (regrant u tile).ks.chans ab = rest := by
    rw [hr]
    change tget [] u.ks.chans ab = rest
    rw [hu]
    exact tget_putOrDel ..
  have hgr : u.ks.grants = s.ks.grants := by rw [hu]; rfl
  refine ⟨?_, by rw [hk]; exact hchans, ?_, mem_of_offKs hoff, slots_of_offKs hoff⟩
  · rw [hk]
    change tget [] (regrant u tile).ks.locks tile = _
    cases hg : tileGone s tile
    · rw [regrant_eq (hug.trans hg)]
      exact (tget_putOrDel ..).trans (by rw [hul, applyRules_append _ _ rfl _ _ hl]; cases excl <;> simp)
    · rw [regrant_gone (hug.trans hg), hul]
      simp
  · rw [hk]
    change (regrant u tile).ks.grants = _
    cases hg : tileGone s tile
    · rw [regrant_eq (hug.trans hg)]
      change u.ks.grants ++ _ = _
      rw [hul, applyRules_append _ _ rfl _ _ hl, hgr]
      simp only [Bool.true_and, Bool.not_false, apply_ite (List.map fun n => (n, tile)), List.map_cons, List.map_nil]
    · rw [regrant_gone (hug.trans hg), hgr]
      simp

/-- LOCK_RELEASE: no entry of the number stays at the tile (R51, R57). -/
theorem lockRelease_does {s : State} {i num tile : Nat} (hi : s.ks.relq[i]? = some (num, tile)) :
    Does (.lockRelease i) s fun t =>
      t.ks.relq = s.ks.relq.eraseIdx i ∧ (∀ e ∈ tget [] t.ks.locks tile, e.num ≠ num) ∧ t.mem = s.mem ∧ t.slots = s.slots := by
  obtain ⟨u, hu⟩ : ∃ u, u = modKs (modKs s fun k => { k with relq := k.relq.eraseIdx i }) fun k =>
    { k with locks := tmod [] tile (fun l => l.filter (·.num ≠ num)) k.locks } := ⟨_, rfl⟩
  have hex : exec (.lockRelease i) s = .next (abutNote (regrant u tile) (abutOf tile) 1 (.release num tile)) := by
    change Host.Outcome.next _ = _
    rw [hi]
    dsimp only
    rw [unlock, ← hu]
  refine ⟨_, hex, ?_⟩
  obtain ⟨⟨c, hk⟩, ho⟩ := abutNote_ks (regrant u tile) (abutOf tile) 1 (.release num tile)
  obtain ⟨l', g', hr⟩ := regrant_or u tile
  have hoff : offKs (abutNote (regrant u tile) (abutOf tile) 1 (.release num tile)) = offKs s := by
    rw [ho, hr, offKs_modKs, hu, offKs_modKs, offKs_modKs]
  refine ⟨?_, ?_, mem_of_offKs hoff, slots_of_offKs hoff⟩
  · rw [hk, hr, hu]; rfl
  · rw [hk]
    refine regrant_nums fun e he => ?_
    rw [hu] at he
    have he' : e ∈ tget [] (tmod [] tile (fun l => l.filter (·.num ≠ num)) s.ks.locks) tile := he
    rw [tmod, tget_tput_self] at he'
    simpa using (List.mem_filter.mp he').2

/-! Grants (R54, R55). -/

/-- A transaction that a grant has reached, with the bytes of its pushed ranges in the tile (R54). -/
def Txn.granted (s : State) (r : TileReq) (ps : List (Nat × Nat)) (t : Txn) : Txn :=
  { t with
    held := addReq r t.held
    pushBuf := memSetAll (ps.map fun p => (p.1, rdByte s p.2 p.1)) t.pushBuf
    pushPsn := ps.foldl (fun l p => if isPsn s p.1 then sIns (granule p.1).1 l else l) t.pushPsn }

/-- GRANT_ARRIVAL: the grant's tile is held, with the bytes of the pushed ranges in it (R54, R55). -/
theorem grantArrival_does {s : State} {i num tile : Nat} {x : Txn} {r : TileReq} (hi : s.ks.grants[i]? = some (num, tile))
    (hx : s.ks.txns.find? (·.num == some num) = some x) (hg : x.gang = none) (hb : txnBy s x.uid = some x)
    (ht : tileGone s tile = false) (hk : keyHeld s (tilePush x tile) = false) (hr : x.foot.find? (·.tile = tile) = some r) :
    Does (.grantArrival i) s fun t =>
      t.ks.grants = s.ks.grants.eraseIdx i ∧ (txnBy t x.uid).map (·.held) = some (addReq r x.held) ∧
      (txnBy t x.uid).map (·.pushBuf) = some (memSetAll ((tilePush x tile).map fun p => (p.1, rdByte s p.2 p.1)) x.pushBuf) ∧
      t.mem = s.mem ∧ t.slots = s.slots := by
  have hgr : ∀ u : State, u.ks.txns = s.ks.txns → grantees u num = [x] := fun u hu => by
    simp only [grantees, hu, hx, hg]
  have hfm : [x].flatMap (fun t => tilePush t tile) = tilePush x tile := by simp
  obtain ⟨u, hu⟩ : ∃ u, u = cutNote (modKs s fun k => { k with grants := k.grants.eraseIdx i }) 129
      (grantInput (modKs s fun k => { k with grants := k.grants.eraseIdx i }) (abutOf tile)) (.grant num tile
        ((tilePush x tile).map fun p => (p.1, rdByte (modKs s fun k => { k with grants := k.grants.eraseIdx i }) p.2 p.1))
        (((tilePush x tile).map (·.1)).filter (isPsn (modKs s fun k => { k with grants := k.grants.eraseIdx i })))) := ⟨_, rfl⟩
  have hut : u.ks.txns = s.ks.txns := by rw [hu]; rfl
  have huo : offKs u = offKs s := by rw [hu, offKs_cutNote, offKs_modKs]
  have hread : Txn.granted u r (tilePush x tile) = Txn.granted s r (tilePush x tile) := by rw [hu]; rfl
  have hex : exec (.grantArrival i) s = .next (grantTo u x tile) := by
    change Host.Outcome.next _ = _
    rw [hi]
    simp only [ht, hgr s rfl, hfm, hk, Bool.or_self, Bool.false_eq_true, if_false,
      hgr (modKs s fun k => { k with grants := k.grants.eraseIdx i }) rfl, List.isEmpty_cons]
    rw [← hu, hgr u hut]
    rfl
  have hto : grantTo u x tile = maybeReady (modTxn u x.uid (Txn.granted s r (tilePush x tile))) x.uid := by
    rw [← hread]; simp only [grantTo, hr]; rfl
  rw [hto] at hex
  refine ⟨_, hex, ?_⟩
  obtain ⟨v, hv⟩ : ∃ v, v = modTxn u x.uid (Txn.granted s r (tilePush x tile)) := ⟨_, rfl⟩
  rw [← hv]
  have hoff : offKs (maybeReady v x.uid) = offKs s := by rw [offKs_maybeReady, hv, offKs_modTxn, huo]
  have hkept : (maybeReady v x.uid).ks.kept = u.ks.kept := by rw [kept_maybeReady, hv, kept_modTxn]
  have hvx : txnBy v x.uid = some (x.granted s r (tilePush x tile)) := by
    have hbu : txnBy u x.uid = some x := by rw [txnBy, hut]; exact hb
    rw [hv, txnBy_modTxn u x.uid x.uid (f := Txn.granted s r (tilePush x tile)) fun _ => rfl, hbu, Option.map_some, if_pos rfl]
  have hw := txnBy_map (p := Txn.waiting) (q := Txn.uid) (fun _ => rfl) (waiting_maybeReady v x.uid) x.uid
  rw [hvx] at hw
  refine ⟨?_, ?_, ?_, mem_of_offKs hoff, slots_of_offKs hoff⟩
  · have : (maybeReady v x.uid).ks.grants = u.ks.grants := (congrArg Keystone.grants hkept :)
    rw [this, hu]; rfl
  · have := congrArg (Option.map Txn.held) hw
    rwa [Option.map_map, Option.map_map] at this
  · have := congrArg (Option.map Txn.pushBuf) hw
    rwa [Option.map_map, Option.map_map] at this

/-! Batches and the pool (R47, R49, R190). -/

/-- BATCH_CLOSE_TIMER: the batch closes, or waits with four others (R47, R49). -/
theorem batchCloseTimer_does {s : State} (hb : s.ks.openB ≠ []) (hc : s.ks.openAt + 3600 ≤ s.cycle) :
    Does .batchCloseTimer s fun t =>
      (s.ks.group = none → t.ks.openB = [] ∧ t.ks.batch = s.ks.batch + 1) ∧
      (s.ks.group ≠ none → s.ks.closed.length < 4 →
        t.ks.openB = [] ∧ t.ks.closed = s.ks.closed ++ [s.ks.openB] ∧ t.mem = s.mem) ∧
      (s.ks.group ≠ none → 4 ≤ s.ks.closed.length → t = { s with ks := { s.ks with closeDue := true } }) := by
  have hb' : s.ks.openB.isEmpty = false := by simpa using hb
  refine ⟨closeBatch s, ?_, fun hg => closeBatch_alone hb hg, fun hg h => ?_, fun hg h => ?_⟩
  · change Host.Outcome.next _ = _
    simp only [hb', Nat.not_lt.mpr hc, decide_false, Bool.or_self, Bool.false_eq_true, if_false]
  · rw [closeBatch_group hb hg, if_neg (Nat.not_le.mpr h)]
    exact ⟨rfl, rfl, rfl⟩
  · rw [closeBatch_group hb hg, if_pos h]
    rfl

/-- PUSHPOOL_RESIZE: the size written takes effect (R190). -/
theorem pushpoolResize_does {s : State} {v : Nat} (hv : s.ks.poolNew = some v) (hu : s.ks.poolUsed = 0) :
    Does .pushpoolResize s fun t => ksReg t 0x1138 = wd v ∧ t.ks.poolNew = none ∧ t.mem = s.mem := by
  obtain ⟨u, hu'⟩ : ∃ u, u = modKs s fun k => { k with regs := tput 0x1138 (wd v) k.regs, poolNew := none } := ⟨_, rfl⟩
  have hex : exec .pushpoolResize s = .next (poolAll u) := by
    change Host.Outcome.next _ = _
    rw [hv, hu']
    simp only [hu, ne_eq, not_true_eq_false, if_false]
  have hk := kept_poolAll u
  have hr : (poolAll u).ks.regs = u.ks.regs := (congrArg Keystone.regs hk :)
  have hn : (poolAll u).ks.poolNew = u.ks.poolNew := (congrArg Keystone.poolNew hk :)
  have ho : offKs (poolAll u) = offKs s := by rw [offKs_poolAll, hu', offKs_modKs]
  refine ⟨_, hex, ?_, by rw [hn, hu']; rfl, mem_of_offKs ho⟩
  rw [ksReg, hr, hu']
  exact tget_tput_self ..

end Sys2Proof.Machine
end

section
namespace Sys2Proof.Machine

/-! Dispatch (R23, R24, R39, R56, R380). -/

/-- A write of bytes changes no inbox. -/
theorem inbox_putBytes (s : State) (key : Nat) (cells : List (Nat × Byte)) (psn : Bool) (c : Nat) :
    (getCore (putBytes s key cells psn) c).inbox = (getCore s c).inbox := by
  obtain ⟨u, e, hu⟩ := putBytes_offMem s key cells psn
  have hc : u.cores = s.cores := (congrArg State.cores hu :)
  rw [e, (congrArg Core.inbox ((unitsKept_markStale u _).1 c) :), getCore, getCore, hc]

/-- A copy of a push writes bytes and poison alone (R56). The function has a name here, lest the kernel evaluate its search of the
banks. -/
theorem copyPush_kept (s : State) (cl off stride : Nat) (d : List (Byte × Bool)) (c : Nat) :
    (copyPush s cl off stride d).1.ks = s.ks ∧ (getCore (copyPush s cl off stride d).1 c).inbox = (getCore s c).inbox := by
  have marked : ∀ u : State, u.ks = s.ks → (getCore u c).inbox = (getCore s c).inbox → ∀ l,
      ({ u with poison := l } : State).ks = s.ks ∧ (getCore ({ u with poison := l } : State) c).inbox = (getCore s c).inbox :=
    fun u h1 h2 l => ⟨h1, h2⟩
  obtain ⟨f, hf⟩ : ∃ f, f = copyPush := ⟨_, rfl⟩
  rw [← hf]
  delta copyPush at hf
  rw [hf]
  beta_reduce
  split
  · exact ⟨rfl, rfl⟩
  · exact marked _ (putBytes_ks ..) (inbox_putBytes ..) _

theorem freePool_or (s : State) (t : Txn) :
    freePool s t = s ∨ ∃ n, freePool s t = modKs (modTxn s t.uid fun t => { t with pooled := false }) fun k => { k with poolUsed := n } := by
  unfold freePool
  split
  · exact .inr ⟨_, rfl⟩
  · exact .inl rfl

@[simp] theorem offKs_freePool (s : State) (t : Txn) : offKs (freePool s t) = offKs s := by
  obtain e | ⟨_, e⟩ := freePool_or s t <;> rw [e]
  simp

theorem freePool_gangs (s : State) (t : Txn) : (freePool s t).ks.gangs = s.ks.gangs := by
  obtain e | ⟨_, e⟩ := freePool_or s t <;> rw [e]
  rfl

theorem waiting_freePool (s : State) (t : Txn) : (freePool s t).ks.txns.map Txn.waiting = s.ks.txns.map Txn.waiting := by
  obtain e | ⟨_, e⟩ := freePool_or s t <;> rw [e]
  exact waiting_modTxn s t.uid fun _ => rfl

/-- The inbox entry of a record, with the fault of its push area if it has one (R56, R385). -/
def recordEnt (s : State) (x : Txn) (hd : Header) (u c : Nat) : InboxEnt :=
  ⟨freeEnt s c, u, taskRecord x hd (freeEnt s c)
    (if x.push.isEmpty then 0 else window0 + 0x1000000 + (hd.pbase + (c % 16 * 8 + freeEnt s c) * hd.pstride)),
    (copyPush s (clusterOf c) (hd.pbase + (c % 16 * 8 + freeEnt s c) * hd.pstride) hd.pstride (pushData x)).2⟩

/-- The machine in which a push has been copied to its area and its pool space freed (R56). -/
def pushCopied (s : State) (x : Txn) (hd : Header) (c : Nat) : State :=
  freePool (copyPush s (clusterOf c) (hd.pbase + (c % 16 * 8 + freeEnt s c) * hd.pstride) hd.pstride (pushData x)).1 x

/-- A transaction dispatched to an entry of a core's inbox (R56). -/
def Txn.sentTo (c ent gran : Nat) (t : Txn) : Txn := { t with st := .dispatched, core := some c, ent := ent, gran := gran }

/-- A transaction with a good header goes to the core: entry, push, record (R56). -/
theorem sendTo_ok {s : State} {u c : Nat} {x : Txn} {hd : Header} (hx : txnBy s u = some x) (hh : headerFor s x = some hd) :
    sendTo s u c = cutNote (modCore (modTxn (pushCopied s x hd c) u (Txn.sentTo c (freeEnt s c) hd.gran)) c fun k =>
      { k with inbox := k.inbox ++ [recordEnt s x hd u c] }) (130 + c) 0 (.record (recordEnt s x hd u c)) := by
  rw [sendTo, hx]
  dsimp only
  rw [hh]
  rfl

/-- One without ends as by an unhandled trap (R380). -/
theorem sendTo_bad {s : State} {u c : Nat} {x : Txn} (hx : txnBy s u = some x) (hh : headerFor s x = none) :
    sendTo s u c = dropTxn (releaseTxn (addAcc (jlog (freePool s x) 6 0 (4 * 256 + 4) 0xFFFFFFFF x.entry 0) c x.tag
      (stTrapped ||| wd (2 ^ 32))) u) u := by
  rw [sendTo, hx]
  dsimp only
  rw [hh]

/-- The transaction of a number, dispatched to a core, wherever it is listed. -/
def DispatchedTo (s : State) (u c : Nat) : Prop := ∀ y ∈ s.ks.txns, y.uid = u → y.st = .dispatched ∧ y.core = some c

/-- No allocation of the pool moves a dispatched transaction. -/
theorem dispatchedTo_poolAll {s : State} {u c : Nat} (h : DispatchedTo s u c) : DispatchedTo (poolAll s) u c := by
  refine poolTry_keeps (P := fun t => DispatchedTo t u c) (fun a t _ _ ha y hy hu => ?_) (fun a v ha => ?_) _ s h
  · simp only [pooled, modKs, modTxn, List.mem_map] at hy
    obtain ⟨z, hz, rfl⟩ := hy
    split at hu
    · next e => rw [if_pos e]; exact ha z hz hu
    · next e => rw [if_neg e]; exact ha z hz hu
  · obtain e | ⟨t, ht, hst, e⟩ := maybeReady_or a v
    · rw [e]; exact ha
    · have hv : v ≠ u := fun hvu => by
        have := (ha t (List.mem_of_find?_eq_some ht) ((txnBy_uid ht).trans hvu)).1
        rw [hst] at this; cases this
      have key : DispatchedTo (modTxn a v fun t => { t with st := .ready }) u c := fun y hy hu => by
        simp only [modKs, modTxn, List.mem_map] at hy
        obtain ⟨z, hz, rfl⟩ := hy
        split at hu
        · next e' => exact absurd (e'.symm.trans hu) hv
        · next e' => rw [if_neg e']; exact ha z hz hu
      rcases e with e | ⟨w, e⟩ <;> rw [e]
      · exact key
      · exact key

/-- DISPATCH: the record stands in the core's inbox, and the transaction is dispatched there (R23, R56, R385). -/
theorem dispatch_does {s : State} {stage u c : Nat} {rest : List Nat} {x : Txn} {hd : Header} (hr : tget [] s.ks.ready stage = u :: rest)
    (hx : txnBy s u = some x) (hg : x.gang = none) (hc : leastLoaded s ((span 0 2048).filter (openCore s stage none)) = some c)
    (hh : checkHeader s x.asid x.entry.toNat = .ok hd) (hp : pushBytes x.push ≤ hd.pstride) (hw : pushWaits s u c = false) :
    Does (.dispatch stage) s fun t =>
      (txnBy t u).map (fun y => (y.st, y.core)) = some (.dispatched, some c) ∧
      ∃ e, (getCore t c).inbox = (getCore s c).inbox ++ [e] ∧ e.txn = u ∧ e.ent = freeEnt s c ∧
        e.words = taskRecord x hd e.ent
          (if x.push.isEmpty then 0 else window0 + 0x1000000 + hd.pbase + (c % 16 * 8 + e.ent) * hd.pstride) := by
  have hhd : headerFor s x = some hd := by simp only [headerFor, hh, Nat.not_lt.mpr hp, if_false]
  have hex : exec (.dispatch stage) s = .next (poolAll (dequeue (sendTo s u c) stage u)) := by
    have hf : (u :: rest).find? (fun v => ((txnBy s v).bind (·.gang)).isNone) = some u := by
      rw [List.find?_cons_of_pos]
      simp [hx, hg]
    change Host.Outcome.next _ = _
    rw [hr, hf]
    dsimp only
    rw [hc]
    simp only [hw, Bool.false_eq_true, if_false]
  refine ⟨_, hex, ?_⟩
  obtain ⟨p, hp'⟩ : ∃ p, p = pushCopied s x hd c := ⟨_, rfl⟩
  have hsend := sendTo_ok (c := c) hx hhd
  rw [← hp'] at hsend
  obtain ⟨w, hw'⟩ : ∃ w, w = dequeue (sendTo s u c) stage u := ⟨_, rfl⟩
  rw [← hw']
  have hpt : p.ks.txns.map Txn.waiting = s.ks.txns.map Txn.waiting := by
    rw [hp', pushCopied, waiting_freePool, (copyPush_kept _ _ _ _ _ c).1]
  have hwt : w.ks.txns = (modTxn p u (Txn.sentTo c (freeEnt s c) hd.gran)).ks.txns := by rw [hw', hsend]; rfl
  have hdisp : DispatchedTo w u c := fun y hy hu => by
    rw [hwt] at hy
    simp only [modTxn, modKs, List.mem_map] at hy
    obtain ⟨z, hz, rfl⟩ := hy
    split at hu
    · next e => rw [if_pos e]; exact ⟨rfl, rfl⟩
    · next e => exact absurd hu e
  have hsome : (txnBy (poolAll w) u).isSome = true := by
    have h1 := txnBy_map (p := Txn.waiting) (q := Txn.uid) (fun _ => rfl) (waiting_poolAll w) u
    have h2 : txnBy w u = txnBy (modTxn p u (Txn.sentTo c (freeEnt s c) hd.gran)) u := by rw [txnBy, hwt, txnBy]
    have h3 := txnBy_map (p := Txn.waiting) (q := Txn.uid) (fun _ => rfl) hpt u
    have h1' := congrArg Option.isSome h1
    have h3' := congrArg Option.isSome h3
    rw [Option.isSome_map, Option.isSome_map] at h1' h3'
    rw [h1', h2, txnBy_modTxn p u u (f := Txn.sentTo c (freeEnt s c) hd.gran) fun _ => rfl, Option.isSome_map, h3', hx]
    rfl
  have hcores : (poolAll w).cores = (modCore p c fun k => { k with inbox := k.inbox ++ [recordEnt s x hd u c] }).cores := by
    rw [cores_of_offKs (offKs_poolAll w), hw', dequeue, cores_of_offKs (offKs_noteHeads _), hsend]
    rfl
  have hpc : (getCore p c).inbox = (getCore s c).inbox := by
    rw [hp', pushCopied, getCore, cores_of_offKs (offKs_freePool _ _)]
    exact (copyPush_kept s _ _ _ _ c).2
  refine ⟨?_, recordEnt s x hd u c, ?_, rfl, rfl, ?_⟩
  · obtain ⟨y, hy⟩ := Option.isSome_iff_exists.mp hsome
    obtain ⟨h1, h2⟩ := dispatchedTo_poolAll hdisp y (List.mem_of_find?_eq_some hy) (txnBy_uid hy)
    rw [hy, Option.map_some, h1, h2]
  · have : getCore (poolAll w) c = getCore (modCore p c fun k => { k with inbox := k.inbox ++ [recordEnt s x hd u c] }) c := by
      rw [getCore, hcores]; rfl
    rw [this, getCore_modCore_self, ← hpc]
  · simp only [recordEnt, Nat.add_assoc]

/-! Gangs. -/

/-- The release of a transaction keeps the gangs (R57). -/
theorem releaseTxn_gangs (s : State) (u : Nat) : (releaseTxn s u).ks.gangs = s.ks.gangs := by
  unfold releaseTxn
  split
  · rfl
  · simp only
    split
    · rfl
    · split <;> rfl

/-- A transaction that retires takes at most its gang with it (R191). -/
theorem gangsFrom_dropTxn (s : State) (u : Nat) : GangsFrom s (dropTxn s u) := by
  unfold dropTxn
  split
  · exact .of_eq rfl
  · simp only
    split
    · exact .of_eq rfl
    · split
      · exact fun x hx => ⟨x, (List.mem_filter.mp hx).1, x.since, rfl⟩
      · exact .of_eq rfl

theorem gangsFrom_sendTo (s : State) (u c : Nat) : GangsFrom s (sendTo s u c) := by
  cases hx : txnBy s u with
  | none => rw [sendTo, hx]; exact .of_eq rfl
  | some x =>
    cases hh : headerFor s x with
    | none =>
      rw [sendTo_bad hx hh]
      refine GangsFrom.trans (.of_eq ?_) (gangsFrom_dropTxn _ _)
      rw [releaseTxn_gangs]
      exact (congrArg Keystone.gangs (jlog_ks ..)).trans (freePool_gangs s x)
    | some hd =>
      rw [sendTo_ok hx hh]
      refine .of_eq ?_
      change (pushCopied s x hd c).ks.gangs = _
      rw [pushCopied, freePool_gangs, (copyPush_kept s _ _ _ _ c).1]

theorem gangsFrom_foldl {α : Type} {f : State → α → State} (hf : ∀ s a, GangsFrom s (f s a)) (l : List α) (s : State) :
    GangsFrom s (l.foldl f s) :=
  foldl_keeps (P := GangsFrom s) f l s (.of_eq rfl) fun b a _ h => h.trans (hf b a)

/-- A property of a gang that does not depend on since when it has headed its queue holds of the gangs that came from those
that have it. -/
theorem GangsFrom.keeps {s t : State} {P : Gang → Prop} (h : GangsFrom s t) (hp : ∀ y c, P y → P { y with since := c })
    (hs : ∀ x ∈ s.ks.gangs, P x) : ∀ x ∈ t.ks.gangs, P x := fun x hx => by
  obtain ⟨y, hy, c, rfl⟩ := h x hx
  exact hp y c (hs y hy)

/-- A change of a gang holds of the gang of that number. -/
theorem modGang_all {s : State} {id : Nat} {f : Gang → Gang} {P : Gang → Prop} (hf : ∀ x, P (f x)) :
    ∀ x ∈ (modGang s id f).ks.gangs, x.id = id → P x := fun x hx he => by
  simp only [modGang, modKs, List.mem_map] at hx
  obtain ⟨y, -, rfl⟩ := hx
  split at he
  · next h => rw [if_pos h]; exact hf y
  · next h => exact absurd he h

/-- GANG_DISPATCH: the gang has its place and its lane, and no reservation (R24, R191). -/
theorem gangDispatch_does {s : State} {stage u lane : Nat} {g : Gang} {p : Nat × Nat × Nat}
    (hf : ((readyGangs s stage).findSome? fun (u, g) => (freeRect s g).map fun r => (u, g, r)) = some (u, g, p, lane))
    (hw : ∀ m ∈ g.uids.zip (rectCores g.w g.h p), pushWaits s m.1 m.2 = false) :
    Does (.gangDispatch stage) s fun t => ∀ x ∈ t.ks.gangs, x.id = g.id → x.place = some p ∧ x.lane = lane ∧ x.reserved = none := by
  have hany : ((g.uids.zip (rectCores g.w g.h p)).any fun (m, c) => pushWaits s m c) = false :=
    List.any_eq_false.mpr fun m hm => by simp [hw m hm]
  refine ⟨poolAll ((g.uids.zip (rectCores g.w g.h p)).foldl (fun s (m, c) => sendTo s m c)
    (modGang (dequeue s stage u) g.id fun x => { x with place := some p, lane := lane, reserved := none })), ?_, ?_⟩
  · change Host.Outcome.next _ = _
    rw [hf]
    dsimp only
    rw [hany]
    simp only [Bool.false_eq_true, if_false]
  · refine GangsFrom.keeps (P := fun x => x.id = g.id → x.place = some p ∧ x.lane = lane ∧ x.reserved = none)
      ((gangsFrom_foldl (f := fun s (m, c) => sendTo s m c) (fun s m => gangsFrom_sendTo s m.1 m.2) _ _).trans (gangsFrom_poolAll _))
      (fun _ _ h => h) ?_
    exact modGang_all fun _ => ⟨rfl, rfl, rfl⟩

/-- GANG_RESERVATION: a gang that has headed its queue for 16,384 cycles reserves the first rectangle of its stage (R39). -/
theorem gangReservation_does {s : State} {stage u c : Nat} {g : Gang} {p : Nat × Nat × Nat} {rest : List (Nat × Gang)}
    (hr : readyGangs s stage = (u, g) :: rest) (hu : (tget [] s.ks.ready stage).head? = some u) (hs : g.since = some c)
    (hc : c + 16384 ≤ s.cycle) (hn : ∀ x ∈ s.ks.gangs, x.stage = stage → x.reserved = none)
    (hp : ((places g.w g.h).find? fun p => (rectCores g.w g.h p).all fun c => (getCore s c).stage = stage) = some p) :
    Does (.gangReservation stage) s fun t => t.mem = s.mem ∧ t.ks.txns = s.ks.txns ∧
      ∀ x ∈ t.ks.gangs, x.id = g.id → x.reserved = some p := by
  have hany : (s.ks.gangs.any fun x => decide (x.stage = stage) && x.reserved.isSome) = false :=
    List.any_eq_false.mpr fun x hx => by
      by_cases e : x.stage = stage
      · simp [hn x hx e]
      · simp [e]
  refine ⟨modGang s g.id fun x => { x with reserved := some p }, ?_, rfl, rfl, modGang_all fun _ => rfl⟩
  change Host.Outcome.next _ = _
  rw [hr]
  simp only [hu, hs, hc, hany, hp, ne_eq, not_true_eq_false, decide_false, decide_true, Bool.not_true, Bool.or_self,
    Bool.false_eq_true, if_false]

end Sys2Proof.Machine
end

section
namespace Sys2Proof.Machine

/-! The end of launches (R34 to R36, R337, R403). -/

@[simp] theorem putBytes_tr (s : State) (key : Nat) (cells : List (Nat × Byte)) (psn : Bool) : (putBytes s key cells psn).tr = s.tr := by
  obtain ⟨u, e, hu⟩ := putBytes_offMem s key cells psn
  rw [e, markStale_tr]
  exact (congrArg State.tr hu :)

@[simp] theorem put64_tr (s : State) (pa : Nat) (v : Word) (psn : Bool) : (put64 s pa v psn).tr = s.tr := putBytes_tr ..

/-- Trestle without its journal and its registers. -/
def Trestle.offJournal (t : Trestle) : Trestle := { t with regs := [], seq := 0, jheld := [] }

theorem jwrite_offJournal (s : State) (l : JLine) : (jwrite s l).tr.offJournal = s.tr.offJournal := by
  simp only [jwrite]
  split
  · rfl
  · split <;> split <;> simp [bumpTr, Trestle.offJournal]

/-- A journal entry changes nothing of Trestle but its journal (R405). -/
theorem jlog_offJournal (s : State) (kind queue status whr : Nat) (d0 d1 : Word) :
    (jlog s kind queue status whr d0 d1).tr.offJournal = s.tr.offJournal := by
  simp only [jlog]
  split
  · simp [Trestle.offJournal]
  · exact jwrite_offJournal ..

theorem jlog_cpOut (s : State) (kind queue status whr : Nat) (d0 d1 : Word) : (jlog s kind queue status whr d0 d1).tr.cpOut = s.tr.cpOut :=
  (congrArg Trestle.cpOut (jlog_offJournal s kind queue status whr d0 d1) :)

theorem tryPoke_kept {s u : State} {asid va : Nat} {ws : List Word} (h : tryPoke s asid va ws = some u) : u.ks = s.ks ∧ u.tr = s.tr := by
  unfold tryPoke at h
  split at h
  · cases h
  · split at h
    · cases h
      exact ⟨putBytes_ks .., putBytes_tr ..⟩
    · cases h

/-- Words written under an address space change neither Keystone nor Trestle. -/
theorem pokeWords_kept (s : State) (asid va : Nat) (ws : List Word) :
    (pokeWords s asid va ws).ks = s.ks ∧ (pokeWords s asid va ws).tr = s.tr := by
  cases h : tryPoke s asid va ws with
  | none => rw [pokeWords, h]; exact ⟨rfl, rfl⟩
  | some u => rw [pokeWords, h]; exact tryPoke_kept h

theorem launchBy_modLaunch (s : State) (v tag : Nat) {f : Launch → Launch} (hf : ∀ l, (f l).tag = l.tag) :
    launchBy (modLaunch s v f) tag = (launchBy s tag).map fun l => if l.tag = v then f l else l := by
  have hp : ((fun l : Launch => l.tag == tag) ∘ fun l => if l.tag = v then f l else l) = fun l => l.tag == tag := by
    funext l; simp only [Function.comp]; split <;> simp [hf]
  simp only [launchBy, modLaunch, modKs, List.find?_map, hp]

theorem launchBy_tag {s : State} {tag : Nat} {l : Launch} (h : launchBy s tag = some l) : l.tag = tag := by
  simpa using List.find?_some h

/-- Only the root of the done tree has no parent (R35). -/
theorem treeParent_none {core : Nat} (h : core < 2048) : (treeParent core).isNone = decide (core = 0) := by
  rw [Bool.eq_iff_iff, decide_eq_true_eq]
  unfold treeParent
  split_ifs <;> simp <;> omega

/-- LAUNCH_END_MARKER: the marker is forwarded once the launch's count is zero (R35, R337). -/
theorem launchEndMarker_does {s : State} {tag : Nat} {l : Launch} (hl : launchBy s tag = some l) (he : l.ended = true) (hz : l.live = 0)
    (hm : l.marked = false) :
    Does (.launchEndMarker tag) s fun t => launchBy t tag = some { l with marked := true } ∧ t.mem = s.mem ∧ t.slots = s.slots := by
  refine ⟨modLaunch s tag fun l => { l with marked := true }, ?_, ?_, rfl, rfl⟩
  · change Host.Outcome.next _ = _
    rw [hl]
    simp only [he, hz, hm, Bool.not_true, Bool.not_false, decide_true, Bool.and_self, Bool.false_eq_true, if_false, if_true]
  · rw [launchBy_modLaunch s tag tag (f := fun l => { l with marked := true }) fun _ => rfl, hl, Option.map_some, if_pos (launchBy_tag hl)]

/-- The word that a node of the done tree passes up (R34, R35). -/
def treeWord (s : State) (l : Launch) (tag core : Nat) : Word :=
  (treeKids core).foldl (fun w k => combine w ((tfind l.reports k).getD 0)) (tget 0 (getCore s core).accs tag)

/-- DONE_TREE_REPORT: the combined word goes up, the root's to Keystone's posts (R35, R36). -/
theorem doneTreeReport_does {s : State} {tag core : Nat} {l : Launch} (hl : launchBy s tag = some l) (hm : l.marked = true) (hc : core < 2048)
    (hr : tfind l.reports core = none) (hk : ∀ k ∈ treeKids core, (tfind l.reports k).isSome = true) (hd : coreDone s tag core = true) :
    Does (.doneTreeReport tag core) s fun t =>
      (launchBy t tag).bind (fun x => tfind x.reports core) = some (treeWord s l tag core) ∧ t.mem = s.mem ∧ t.slots = s.slots ∧
      t.ks.posts = s.ks.posts ++ if core = 0 then [(tag, treeWord s l tag core)] else [] := by
  have hall : ((treeKids core).all fun c => (tfind l.reports c).isSome) = true := List.all_eq_true.mpr hk
  obtain ⟨u, hu⟩ : ∃ u, u = if tget 0 (getCore s core).accs tag = 0 then modLaunch s tag fun x =>
      { x with reports := tput core (treeWord s l tag core) x.reports } else modCore (modLaunch s tag fun x =>
      { x with reports := tput core (treeWord s l tag core) x.reports }) core fun c => { c with accs := tdel tag c.accs } := ⟨_, rfl⟩
  have hks : u.ks = (modLaunch s tag fun x => { x with reports := tput core (treeWord s l tag core) x.reports }).ks := by
    rw [hu]; split <;> rfl
  have hoff : u.mem = s.mem ∧ u.slots = s.slots := by rw [hu]; split <;> exact ⟨rfl, rfl⟩
  have hex : exec (.doneTreeReport tag core) s =
      .next (if core = 0 then modKs u fun k => { k with posts := k.posts ++ [(tag, treeWord s l tag core)] } else u) := by
    change Host.Outcome.next _ = _
    rw [hl]
    simp only [hm, hr, hall, hd, Nat.not_le.mpr hc, treeParent_none hc, Bool.not_true, decide_false, Option.isSome_none, Bool.or_self,
      Bool.false_eq_true, if_false, decide_eq_true_eq]
    rw [hu]
    rfl
  have hrep : (launchBy u tag).bind (fun x => tfind x.reports core) = some (treeWord s l tag core) := by
    have hb : launchBy u tag = launchBy (modLaunch s tag fun x =>
        { x with reports := tput core (treeWord s l tag core) x.reports }) tag := by rw [launchBy, hks, launchBy]
    rw [hb, launchBy_modLaunch s tag tag (f := fun x => { x with reports := tput core (treeWord s l tag core) x.reports }) fun _ => rfl, hl,
      Option.map_some, if_pos (launchBy_tag hl), Option.bind_some, tfind_tput_self]
  have hpo : u.ks.posts = s.ks.posts := by rw [hks]; rfl
  refine ⟨_, hex, ?_⟩
  split
  · exact ⟨hrep, hoff.1, hoff.2, by rw [← hpo]; rfl⟩
  · exact ⟨hrep, hoff.1, hoff.2, by rw [hpo, List.append_nil]⟩

/-- LAUNCH_COMPLETION: the tag and its posts leave, and the notification is sent if it was asked for (R36, R403). -/
theorem launchCompletion_does {s : State} {tag : Nat} {l : Launch} {w : Word} {rest : List (Nat × Word)} (hl : launchBy s tag = some l)
    (hp : s.ks.posts = (tag, w) :: rest) (hq : s.tr.quiesce = false) :
    Does (.launchCompletion tag) s fun t =>
      (∀ x ∈ t.ks.launches, x.tag ≠ tag) ∧ (∀ x ∈ t.ks.posts, x.1 ≠ tag) ∧
      t.tr.cpOut = s.tr.cpOut ++ (match l.queue with | some q => if l.notify then [.notify q l.whr] else [] | none => []) := by
  have ht := launchBy_tag hl
  have hex : exec (.launchCompletion tag) s = .next (completeLaunch s l w) := by
    change Host.Outcome.next _ = _
    rw [hp, hl]
    simp only [List.head?_cons, hq, decide_true, Bool.not_false, Bool.and_self, if_true]
  refine ⟨_, hex, fun x hx => ?_, fun x hx => ?_, ?_⟩
  · simpa [ht] using (List.mem_filter.mp hx).2
  · simpa [ht] using (List.mem_filter.mp hx).2
  · obtain ⟨u, hu⟩ : ∃ u, u = jlog (if l.doneAt = 0 then s else pokeWords s l.qasid l.doneAt [w]) 2 (l.queue.getD 0) l.tag l.whr w (wd l.last) :=
      ⟨_, rfl⟩
    have hcp : u.tr.cpOut = s.tr.cpOut := by
      rw [hu, jlog_cpOut]
      split
      · rfl
      · rw [(pokeWords_kept ..).2]
    have hc : (completeLaunch s l w).tr = (match l.queue with
        | some q => if l.notify then cpSend u (.notify q l.whr) else u
        | none => u).tr := by rw [hu]; rfl
    rw [hc, ← hcp]
    cases l.queue with
    | none => simp
    | some q =>
      simp only
      split
      · rfl
      · simp

/-- Settles O49: locks, grants, batches, dispatch, gangs and the end of launches, each by its lemma. -/
theorem locksBatchesAndDispatch : Obligations.LocksBatchesAndDispatch := by
  unfold Obligations.LocksBatchesAndDispatch
  intro s
  exact ⟨fun ab num tile excl push rest => lockRequest_does, fun i num tile => lockRelease_does,
    fun i num tile x r => grantArrival_does, batchCloseTimer_does, fun v => pushpoolResize_does,
    fun stage u rest x c hd => dispatch_does, fun stage u g p lane => gangDispatch_does,
    fun stage u g c p rest => gangReservation_does, fun tag l hl => ⟨launchEndMarker_does hl, fun core => doneTreeReport_does hl,
      fun w rest => launchCompletion_does hl⟩⟩

end Sys2Proof.Machine
end

section
namespace Sys2Proof.Machine

/-! Moves between stages, cuts and save records (R29 to R31, R228 to R230). -/

/-- What saving a core's array leaves: everything outside the cores, the clusters and the list of cores being taken (R231). -/
theorem saveArray_kept (s : State) (c : Nat) : (saveArray s c).mem = s.mem ∧ (saveArray s c).slots = s.slots ∧
    (saveArray s c).ks.saved = s.ks.saved := by
  unfold saveArray
  split
  · simp only
    split <;> exact ⟨rfl, rfl, rfl⟩
  · exact ⟨rfl, rfl, rfl⟩

/-- STAGE_MOVE of a marked core that is clear (R29). -/
theorem stageMove_marked {s : State} {core st : Nat} (hs : switchOf s core = none) (hm : (getCore s core).move = some st)
    (hc : clearOf s core = true) :
    Does (.stageMove core) s fun t => getCore t core = { getCore s core with stage := st, move := none, openAt := s.cycle + 64 } ∧
      t.mem = s.mem ∧ t.slots = s.slots := by
  refine ⟨modCore s core fun k => { k with stage := st, move := none, openAt := s.cycle + 64 }, ?_, getCore_modCore_self .., rfl, rfl⟩
  change Host.Outcome.next _ = _
  rw [hs, hm]
  simp only [hc, if_true]

/-- STAGE_MOVE of a pre-empted core whose slots are FREE (R30, R31). -/
theorem stageMove_switched {s : State} {core : Nat} {e : Nat × Nat × Option Nat} (hs : switchOf s core = some e)
    (hf : ∀ h ∈ span (core * 4) 4, (getSlot s h).st = .free) :
    Does (.stageMove core) s fun t => (getCore t core).stage = e.2.1 ∧ (getCore t core).move = none ∧
      switchOf t core = none ∧ t.mem = s.mem ∧ t.slots = s.slots := by
  have hall : ((span (core * 4) 4).all fun h => decide ((getSlot s h).st = .free)) = true :=
    List.all_eq_true.mpr fun h hh => decide_eq_true (hf h hh)
  obtain ⟨c0, st, x⟩ := e
  obtain ⟨hm, hsl, -⟩ := saveArray_kept s core
  obtain ⟨u, hu⟩ : ∃ u, u = saveArray s core := ⟨_, rfl⟩
  rw [← hu] at hm hsl
  refine ⟨modCore (modKs u fun k => { k with switching := k.switching.filter (·.1 ≠ core) }) core fun k =>
    { k with stage := st, move := none }, ?_, ?_, ?_, ?_, hm, hsl⟩
  · change Host.Outcome.next _ = _
    rw [hs]
    simp only [hall, if_true]
    rw [hu]
  · rw [getCore_modCore_self]
  · rw [getCore_modCore_self]
  · change (u.ks.switching.filter (·.1 ≠ core)).find? (·.1 == core) = none
    rw [List.find?_eq_none]
    intro e he
    simpa using (List.mem_filter.mp he).2

/-- A hart with a transaction is no loop that waits; cut, it stands in its park (R27, R228). -/
theorem cutHart_parked {s : State} {h : Nat} (hb : boundTxn s h ≠ none) : (getSlot (cutHart s h) h).st = .parked .cut none := by
  have hl : loopWaits s h = false := by
    rw [loopWaits, Option.isNone_eq_false_iff.mpr (Option.isSome_iff_ne_none.mpr hb), Bool.false_and]
  rw [cutHart, hl, if_neg Bool.false_ne_true, getSlot_modSlot_self]

theorem tryCut_parked {s : State} {h : Nat} (hc : cuttable s h = true) (hb : boundTxn s h ≠ none) :
    (getSlot (tryCut s h) h).st = .parked .cut none := by
  rw [tryCut, if_pos hc]; exact cutHart_parked hb

/-- HART_CUT of a hart that no budget spares (R228). -/
theorem hartCut_does {s : State} {h : Nat} (hd : cutDue s h = true) (hc : cuttable s h = true) (hb : boundTxn s h ≠ none)
    (hs : spared s h = false) : Does (.hartCut h) s fun t => (getSlot t h).st = .parked .cut none := by
  refine ⟨tryCut s h, ?_, tryCut_parked hc hb⟩
  change Host.Outcome.next _ = _
  rw [hd, hs]; rfl

/-- Where a cut may stop a hart does not depend on Keystone's counters. -/
theorem cuttable_bumpKs (s : State) (off h : Nat) : cuttable (bumpKs s off) h = cuttable s h := rfl

/-- SEALED_BUDGET_EXPIRY of a hart whose budget has run out (R230). -/
theorem sealedBudgetExpiry_does {s : State} {h : Nat} (hd : cutDue s h = true) (hc : cuttable s h = true) (hb : boundTxn s h ≠ none)
    (hs : spared s h = true) (hi : inBudget s h = false) :
    Does (.sealedBudgetExpiry h) s fun t => (getSlot t h).st = .parked .cut none := by
  refine ⟨tryCut (if cuttable s h && ((boundTxn s h).map (·.ended)) = some false then bumpKs s 0x1130 else s) h, ?_, ?_⟩
  · change Host.Outcome.next _ = _
    rw [hd, hs, hi]; rfl
  · split
    · exact tryCut_parked ((cuttable_bumpKs ..).trans hc) hb
    · exact tryCut_parked hc hb

/-! Save records. -/

theorem tryPoke_slots {s u : State} {asid va : Nat} {ws : List Word} (h : tryPoke s asid va ws = some u) (k : Nat) :
    getSlot u k = getSlot s k := by
  unfold tryPoke at h
  split at h
  · cases h
  · split at h
    · cases h
      exact getSlot_putBytes ..
    · cases h

@[simp] theorem dropOuts_ks (s : State) (h : Nat) (pas : List Nat) : (dropOuts s h pas).ks = s.ks := by
  obtain e | e := dropOuts_or s h pas <;> rw [e]; rfl

@[simp] theorem writeWs_ks (s : State) (h n : Nat) (v : Word) : (writeWs s h n v).ks = s.ks := by
  rw [writeWs, writeReg]
  split
  · rfl
  · rw [dropOuts_ks, put64_ks]

/-- The machine in which a hart's frame has left its status word and its KTVEC (R226, R228). -/
def frameLeft (s : State) (h : Nat) : State := writeWs (uninstall s h) h 63 (getSlot s h).ktvec

theorem frameLeft_kept (s : State) (h : Nat) : (frameLeft s h).ks = s.ks ∧ (getSlot (frameLeft s h) h).loop = (getSlot s h).loop := by
  rw [frameLeft, uninstall]
  obtain ⟨l, e⟩ := getSlot_writeWs s h 57 (getSlot s h).hsw
  obtain ⟨l', e'⟩ := getSlot_writeWs (writeWs s h 57 (getSlot s h).hsw) h 63 (getSlot s h).ktvec
  rw [writeWs_ks, writeWs_ks, e', e]
  exact ⟨rfl, rfl⟩

/-- The record of a hart that is saved (R229). -/
def saveEntry (s : State) (h : Nat) (x : Txn) (p : Nat) (kept : Bool) : Saved :=
  { tag := x.tag, pos := p, words := saveWords s h (some x), kept := kept, wp := (getSlot s h).wp, hart := h, txn := some x.uid
    ctx := heldCtx (frameLeft s h) (coreOf h), rerun := (getSlot s h).region.isSome, gang := x.gang.map (·.1), stage := x.stage
    lines := (getSlot s h).rerun, loop := (getSlot s h).loop, bad := (getSlot s h).entryFault, acqAt := (getSlot s h).acqAt }

/-- SAVE_RECORD_WRITE: the slot is FREE and Keystone has the record (R228, R229). -/
theorem saveRecordWrite_does {s : State} {h p : Nat} {x : Txn} {l : Launch} (hst : (getSlot s h).st = .parked .cut none)
    (ho : (getSlot s h).outs = []) (hj : jobsPending s h = false) (hf : ∀ a ∈ s.flight, a.hart ≠ h) (hb : boundTxn s h = some x)
    (hl : launchBy s x.tag = some l) (hp : freePos s x.tag = some p) :
    Does (.saveRecordWrite h) s fun t => (getSlot t h).st = .free ∧ (getSlot t h).bound = none ∧
      (getSlot t h).loop = (getSlot s h).loop ∧
      ∃ v, t.ks.saved = s.ks.saved ++ [v] ∧ v.hart = h ∧ v.tag = x.tag ∧ v.pos = p ∧ v.txn = some x.uid ∧
        v.wp = (getSlot s h).wp ∧ v.stage = x.stage ∧ v.words = saveWords s h (some x) := by
  have htag : ringTag s h = some x.tag := by rw [ringTag, tagOf, hb]; rfl
  have hany : ∀ q : Access → Bool, (s.flight.any fun a => decide (a.hart = h) && q a) = false := fun q =>
    List.any_eq_false.mpr fun a ha => by simp [hf a ha]
  obtain ⟨r, hr⟩ : ∃ r, r = tryPoke (frameLeft s h) l.qasid (l.ctx + 32 * p) (saveWords s h (some x)) := ⟨_, rfl⟩
  obtain ⟨u, hu⟩ : ∃ u, u = r.getD (frameLeft s h) := ⟨_, rfl⟩
  obtain ⟨hfk, hfl⟩ := frameLeft_kept s h
  have huk : u.ks = s.ks := by
    rw [hu]
    cases e : r with
    | none => rw [Option.getD_none]; exact hfk
    | some w => rw [e] at hr; rw [Option.getD_some]; exact (tryPoke_kept hr.symm).1.trans hfk
  have hus : (getSlot u h).loop = (getSlot s h).loop := by
    rw [hu]
    cases e : r with
    | none => rw [Option.getD_none]; exact hfl
    | some w => rw [e] at hr; rw [Option.getD_some]; exact (congrArg Slot.loop (tryPoke_slots hr.symm h)).trans hfl
  obtain ⟨w, hw⟩ : ∃ w, w = modSlot (unmark (modKs u fun k => { k with saved := k.saved ++ [saveEntry s h x p r.isNone] }) h) h Slot.vacate :=
    ⟨_, rfl⟩
  have hws : getSlot w h = (getSlot u h).vacate := by rw [hw, getSlot_modSlot_self]; rfl
  have hwk : w.ks.saved = s.ks.saved ++ [saveEntry s h x p r.isNone] := by rw [hw, ← huk]; rfl
  obtain ⟨-, hsl, hsv⟩ := saveArray_kept w (coreOf h)
  have hex : exec (.saveRecordWrite h) s = .next (saveArray w (coreOf h)) := by
    change Host.Outcome.next _ = _
    simp only [hst, ho, hj, List.isEmpty_nil, Bool.not_true, ne_eq, not_true_eq_false, decide_false, Bool.or_self, Bool.false_or]
    rw [hany]
    simp only [Bool.false_eq_true, if_false, htag, hb, hl, hp, Option.bind_some, Option.map_some]
    rw [hw, hu, hr]
    rfl
  have hg : getSlot (saveArray w (coreOf h)) h = (getSlot u h).vacate := by rw [getSlot, hsl, ← getSlot, hws]
  refine ⟨_, hex, by rw [hg]; rfl, by rw [hg]; rfl, by rw [hg]; exact hus, saveEntry s h x p r.isNone, by rw [hsv, hwk], rfl, rfl, rfl,
    rfl, rfl, rfl, rfl⟩

end Sys2Proof.Machine
end

section
namespace Sys2Proof.Machine

/-! Resumption of saved harts and gangs (R32, R226, R232, R234). -/

/-- An update of every core that keeps what a projection shows keeps it of each core. -/
theorem getCore_map {s u : State} {β : Type} {π : Core → β} {f : Core → Core} (hu : u.cores = s.cores.map fun c => (c.1, f c.2))
    (hf : ∀ c, π (f c) = π c) (c : Nat) : π (getCore u c) = π (getCore s c) := by
  rw [getCore, getCore, hu]
  induction s.cores with
  | nil => rfl
  | cons e l ih =>
    simp only [List.map_cons, tget]
    split
    · exact hf _
    · exact ih

/-- A journal entry of a frame that has gone to another hart (R232). -/
def retagEntry (old new frame : Nat) (e : JEnt) : JEnt :=
  if e.core = coreOf old && e.frame = frame then { e with core := coreOf new, hart := new } else e

/-- What following a frame's accesses and entries to its new hart leaves (R223, R232). -/
theorem retagFrame_kept (s : State) (old new frame : Nat) :
    (retagFrame s old new frame).mem = s.mem ∧ (retagFrame s old new frame).slots = s.slots ∧ (retagFrame s old new frame).ks = s.ks ∧
      (∀ c, (getCore (retagFrame s old new frame) c).accs = (getCore s c).accs) ∧ ∀ pa, rd64 (retagFrame s old new frame) pa = rd64 s pa :=
  ⟨rfl, rfl, rfl,
    getCore_map (π := Core.accs) (f := fun k => { k with journal := k.journal.map (retagEntry old new frame) }) rfl fun _ => rfl, fun _ => rfl⟩

/-- A frame that stays on its core is not moved (R232). -/
theorem moveFrame_same (s : State) (c wp gran tag : Nat) : moveFrame s c c wp gran tag = s := by rw [moveFrame, if_pos rfl]

section
variable {s : State} {v : Saved} {h wp gran : Nat} {pc hsw : Word} (hr : recordFields s v = (wp, gran, pc, hsw))
include hr

/-- A hart whose record is good, of no array context, resumes on its own core (R226, R234). -/
theorem install_ok {x : Txn} (hc : v.ctx = none) (hx : v.txn.bind (txnBy s) = some x)
    (hh : coreOf v.hart = coreOf h) (hw : wpOk (wd wp) gran = true) :
    install s v h =
      let u := retagFrame s v.hart h (wp / 512)
      addAcc (modTxn (modKs (setRerun (modSlot u h fun y =>
          y.resumed v pc hsw (rd64 u (scratchPa u (coreOf h) (wp + 8 * 63))) wp x.asid (some x.uid) h u.cycle)
          (clusterOf (coreOf h)) v.lines) fun k => { k with saved := k.saved.erase v }) x.uid fun t => { t with core := some (coreOf h) })
        (coreOf h) x.tag stCut := by
  rw [install, hr]
  simp only [hw, Bool.not_true, Bool.false_eq_true, if_false, resumeArray, hc, hx, hh, moveFrame_same, Option.map_some, Option.getD_some]

/-- One whose record's frame is bad is not installed (R11). -/
theorem install_bad (hw : wpOk (wd wp) gran = false) : install s v h = endSaved s v wp pc hsw := by
  rw [install, hr]
  simp only [hw, Bool.not_false, if_true]

end

@[simp] theorem offKs_releaseTxn (s : State) (u : Nat) : offKs (releaseTxn s u) = offKs s := by
  unfold releaseTxn
  split
  · rfl
  · simp only
    split
    · simp [sendReleases]
    · split <;> simp [sendReleases]

@[simp] theorem offKs_dropTxn (s : State) (u : Nat) : offKs (dropTxn s u) = offKs s := by
  unfold dropTxn
  split
  · rfl
  · simp only
    split
    · simp
    · split <;> simp

theorem releaseTxn_saved (s : State) (u : Nat) : (releaseTxn s u).ks.saved = s.ks.saved := by
  unfold releaseTxn
  split
  · rfl
  · simp only
    split
    · rfl
    · split <;> rfl

theorem dropTxn_saved (s : State) (u : Nat) : (dropTxn s u).ks.saved = s.ks.saved := by
  unfold dropTxn
  split
  · rfl
  · simp only
    split
    · rfl
    · split <;> rfl

/-- Trestle's journal is no part of any hart (R405). -/
theorem jlog_slots (s : State) (kind queue status whr : Nat) (d0 d1 : Word) : (jlog s kind queue status whr d0 d1).slots = s.slots := by
  have hput : ∀ (u : State) pa v, (put64 u pa v false).slots = u.slots := fun u pa v => by
    obtain ⟨w, e, hw⟩ := putBytes_offMem u 0 ((span pa 8).zip (wBytes v)) false
    rw [put64, e, markStale_slots]
    exact (congrArg State.slots hw :)
  simp only [jlog]
  split
  · rfl
  · simp only [jwrite]
    split
    · rfl
    · split <;> split <;> simp [bumpTr, hput]

theorem dropRefused_kept (s : State) (h u n : Nat) : (dropRefused s h u n).slots = s.slots ∧ (dropRefused s h u n).ks = s.ks := by
  have hs : ∀ (l : List JEnt) (f : State → JEnt → State), (∀ b a, (f b a).slots = b.slots ∧ (f b a).ks = b.ks) →
      (l.foldl f s).slots = s.slots ∧ (l.foldl f s).ks = s.ks := fun l f hf =>
    ⟨foldl_proj (π := State.slots) (fun b a => (hf b a).1) l s, foldl_proj (π := State.ks) (fun b a => (hf b a).2) l s⟩
  exact hs _ _ fun _ _ => ⟨jlog_slots .., jlog_ks ..⟩

/-- The transaction of a number, in no gang, leaves with its number (R56). -/
theorem dropTxn_gone {s : State} {u : Nat} {x : Txn} (hx : txnBy s u = some x) (hg : x.gang = none) :
    ∀ y ∈ (dropTxn s u).ks.txns, y.uid ≠ u := by
  have he : ∃ w, dropTxn s u = modKs w fun k => { k with txns := k.txns.filter (·.uid ≠ u) } := by
    rw [dropTxn, hx]
    simp only [hg]
    exact ⟨_, rfl⟩
  obtain ⟨w, he⟩ := he
  rw [he]
  intro y hy
  simpa using (List.mem_filter.mp hy).2

/-- The release of a transaction keeps which gang it is in (R57). -/
theorem releaseTxn_gang {s : State} {u : Nat} {x : Txn} (hx : txnBy s u = some x) (hg : x.gang = none) :
    ∃ y, txnBy (releaseTxn s u) u = some y ∧ y.gang = none := by
  have hu : x.uid = u := txnBy_uid hx
  have he : releaseTxn s u = modTxn (sendReleases (modTxn s u fun t => { t with ended := true, st := .ending }) (x.num.getD 0) x.held) u
      fun t => { t with held := [] } := by
    rw [releaseTxn, hx]
    simp only [hg]
  refine ⟨{ x with ended := true, st := .ending, held := [] }, ?_, hg⟩
  have h1 : txnBy (sendReleases (modTxn s u fun t => { t with ended := true, st := .ending }) (x.num.getD 0) x.held) u =
      some { x with ended := true, st := .ending } := by
    change txnBy (modTxn s u fun t => { t with ended := true, st := .ending }) u = _
    rw [txnBy_modTxn, hx, Option.map_some, if_pos hu]
    exact fun _ => rfl
  rw [he, txnBy_modTxn, h1, Option.map_some, if_pos hu]
  exact fun _ => rfl

end Sys2Proof.Machine
end

section
namespace Sys2Proof.Machine

theorem setRerun_kept (s : State) (cl : Nat) (ls : List Nat) :
    (setRerun s cl ls).mem = s.mem ∧ (setRerun s cl ls).slots = s.slots ∧ (setRerun s cl ls).ks = s.ks ∧
      (setRerun s cl ls).cores = s.cores := ⟨rfl, rfl, rfl, rfl⟩

/-- The slot of a saved hart on its own core, in a FREE slot, first of its stage, is where it is installed (R232, R234). -/
theorem exec_hartResume {s : State} {i slot : Nat} {v : Saved} (hi : s.ks.saved[i]? = some v) (hg : v.gang = none) (h4 : slot < 4)
    (hs : (getCore s (coreOf v.hart)).stage = v.stage)
    (hf : ∀ u ∈ s.ks.saved, u.gang = none → coreOf u.hart = coreOf v.hart → u.stage = v.stage → v.pos ≤ u.pos)
    (hw : switchOf s (coreOf v.hart) = none) (hfree : (getSlot s (coreOf v.hart * 4 + slot)).st = .free) :
    exec (.hartResume i (coreOf v.hart) slot) s = .next (install s v (coreOf v.hart * 4 + slot)) := by
  have hall : (s.ks.saved.all fun w => !(w.gang.isNone && decide (coreOf w.hart = coreOf v.hart) && decide (w.stage = v.stage) &&
      decide (w.pos < v.pos))) = true := List.all_eq_true.mpr fun u hu => by
    rw [Bool.not_eq_true', Bool.eq_false_iff]
    intro h
    simp only [Bool.and_eq_true, Option.isNone_iff_eq_none, decide_eq_true_eq] at h
    obtain ⟨⟨⟨h1, h2⟩, h3⟩, h5⟩ := h
    exact absurd (hf u hu h1 h2 h3) (Nat.not_le.mpr h5)
  change Host.Outcome.next _ = _
  rw [hi]
  simp only [hg, hs, hall, hw, hfree, Nat.not_le.mpr h4, Option.isSome_none, ne_eq, not_true_eq_false, decide_false, Bool.not_true,
    Bool.or_self, Bool.false_eq_true, if_false]

/-- The parts of the machine in which a hart has been installed. -/
theorem installed_parts (u : State) (h cl c tag uid : Nat) (ls : List Nat) (f : Slot → Slot) (g : Keystone → Keystone) (k : Txn → Txn)
    (w : Word) :
    let t := addAcc (modTxn (modKs (setRerun (modSlot u h f) cl ls) g) uid k) c tag w
    getSlot t h = f (getSlot u h) ∧ t.mem = u.mem ∧ t.ks.saved = (g u.ks).saved ∧
      tget 0 (getCore t c).accs tag = combine (tget 0 (getCore u c).accs tag) w := by
  intro t
  refine ⟨?_, ?_, ?_, ?_⟩
  · simp only [t, addAcc, modTxn, setRerun, getSlot_modCore, getSlot_modKs, getSlot_modCluster, getSlot_modSlot_self]
  · simp only [t, addAcc, modTxn, setRerun, modCore_mem, modKs_mem, modCluster_mem, modSlot_mem]
  · simp only [t, addAcc, modTxn, setRerun, modCore_ks, modKs, modCluster_ks, modSlot_ks]
  · simp only [t, addAcc, modTxn, setRerun, getCore_modCore_self, getCore_modKs, getCore_modCluster, getCore_modSlot, tmod, tget_tput_self]

/-- What a resumed hart's slot holds (R226, R228, R234), and what its resumption changes besides. -/
theorem hartResume_good {s : State} {i slot : Nat} {v : Saved} {x : Txn} (hi : s.ks.saved[i]? = some v) (hg : v.gang = none)
    (hc : v.ctx = none) (hx : v.txn.bind (txnBy s) = some x) (h4 : slot < 4)
    (hs : (getCore s (coreOf v.hart)).stage = v.stage)
    (hf : ∀ u ∈ s.ks.saved, u.gang = none → coreOf u.hart = coreOf v.hart → u.stage = v.stage → v.pos ≤ u.pos)
    (hw : switchOf s (coreOf v.hart) = none) (hfree : (getSlot s (coreOf v.hart * 4 + slot)).st = .free)
    (hok : wpOk (wd (recordFields s v).1) (recordFields s v).2.1 = true) :
    Does (.hartResume i (coreOf v.hart) slot) s fun t =>
      let y := getSlot t (coreOf v.hart * 4 + slot)
      y.st = .ready ∧ y.pc = (recordFields s v).2.2.1 ∧ y.hsw = (recordFields s v).2.2.2 ∧ y.wp = (recordFields s v).1 ∧
      y.asid = x.asid ∧ y.bound = some x.uid ∧
      y.ktvec = rd64 s (scratchPa s (coreOf v.hart) ((recordFields s v).1 + 8 * 63)) ∧ t.mem = s.mem ∧
      t.ks.saved = s.ks.saved.erase v ∧
      tget 0 (getCore t (coreOf v.hart)).accs x.tag = combine (tget 0 (getCore s (coreOf v.hart)).accs x.tag) stCut := by
  have hcore : coreOf (coreOf v.hart * 4 + slot) = coreOf v.hart := by unfold coreOf; omega
  have hex := exec_hartResume hi hg h4 hs hf hw hfree
  rw [install_ok (gran := (recordFields s v).2.1) (pc := (recordFields s v).2.2.1) (hsw := (recordFields s v).2.2.2)
    (wp := (recordFields s v).1) rfl hc hx hcore.symm hok, hcore] at hex
  obtain ⟨hm, hsl, hk, ha, hrd⟩ := retagFrame_kept s v.hart (coreOf v.hart * 4 + slot) ((recordFields s v).1 / 512)
  have hpa : ∀ c o, scratchPa (retagFrame s v.hart (coreOf v.hart * 4 + slot) ((recordFields s v).1 / 512)) c o = scratchPa s c o :=
    fun _ _ => rfl
  obtain ⟨u, hu⟩ : ∃ u, u = retagFrame s v.hart (coreOf v.hart * 4 + slot) ((recordFields s v).1 / 512) := ⟨_, rfl⟩
  rw [← hu] at hm hsl hk ha hrd hpa hex
  dsimp only at hex
  rw [hrd, hpa] at hex
  refine ⟨_, hex, ?_⟩
  obtain ⟨h1, h2, h3, h5⟩ := installed_parts u (coreOf v.hart * 4 + slot) (clusterOf (coreOf v.hart)) (coreOf v.hart) x.tag x.uid v.lines
    (fun y => y.resumed v (recordFields s v).2.2.1 (recordFields s v).2.2.2
      (rd64 s (scratchPa s (coreOf v.hart) ((recordFields s v).1 + 8 * 63))) (recordFields s v).1 x.asid (some x.uid)
      (coreOf v.hart * 4 + slot) u.cycle) (fun k => { k with saved := k.saved.erase v }) (fun t => { t with core := some (coreOf v.hart) }) stCut
  dsimp only
  rw [h1, h2, h3, h5, hm, ha, hk]
  exact ⟨rfl, rfl, rfl, rfl, rfl, rfl, rfl, rfl, rfl, rfl⟩

/-- What ends with a saved hart whose record is bad: its transaction, as by an unhandled trap (R11, R57, R58). -/
theorem endSaved_parts {s : State} {v : Saved} {x : Txn} (wp : Nat) (pc hsw : Word) (hx : v.txn.bind (txnBy s) = some x)
    (hb : savedBusy s v = false) (hg : x.gang = none) :
    (endSaved s v wp pc hsw).slots = s.slots ∧ (endSaved s v wp pc hsw).ks.saved = s.ks.saved.erase v ∧
      ∀ u ∈ (endSaved s v wp pc hsw).ks.txns, u.uid ≠ x.uid := by
  have hxs : txnBy s x.uid = some x := by
    obtain ⟨n, -, hn⟩ := Option.bind_eq_some_iff.mp hx
    rw [txnBy_uid hn]; exact hn
  obtain ⟨d, hd⟩ : ∃ d, d = dropRefused (jlog s 6 0 (4 * 256 + 4) (podHart s v.hart) (wd wp) pc) v.hart x.uid (x.num.getD 0) := ⟨_, rfl⟩
  have hds : d.slots = s.slots := by rw [hd, (dropRefused_kept ..).1, jlog_slots]
  have hdk : d.ks = s.ks := by rw [hd, (dropRefused_kept ..).2, jlog_ks]
  obtain ⟨e, he⟩ : ∃ e, e = if x.ended then d else releaseTxn d x.uid := ⟨_, rfl⟩
  have hdx : txnBy d x.uid = some x := by rw [txnBy, hdk]; exact hxs
  have hes : e.slots = s.slots := by
    rw [he]; split
    · exact hds
    · rw [slots_of_offKs (offKs_releaseTxn d x.uid), hds]
  have hev : e.ks.saved = s.ks.saved := by
    rw [he]; split
    · rw [hdk]
    · rw [releaseTxn_saved, hdk]
  have hex : ∃ y, txnBy e x.uid = some y ∧ y.gang = none := by
    rw [he]; split
    · exact ⟨x, hdx, hg⟩
    · exact releaseTxn_gang hdx hg
  obtain ⟨f, hf⟩ : ∃ f, f = addAcc e (coreOf v.hart) x.tag (stTrapped ||| (if bit hsw 7 then stPoisoned else 0) ||| wd (2 ^ 32)) := ⟨_, rfl⟩
  have hfs : f.slots = s.slots := by rw [hf]; exact hes
  have hfk : f.ks = e.ks := by rw [hf]; rfl
  have hend : endSaved s v wp pc hsw = modKs (dropTxn f x.uid) fun k => { k with saved := k.saved.erase v } := by
    rw [endSaved, hx]
    simp only [hb, Bool.false_eq_true, if_false]
    rw [hf, he, hd]
  rw [hend]
  refine ⟨?_, ?_, ?_⟩
  · rw [modKs_slots, slots_of_offKs (offKs_dropTxn f x.uid), hfs]
  · change (dropTxn f x.uid).ks.saved.erase v = _
    rw [dropTxn_saved, hfk, hev]
  · obtain ⟨y, hy, hyg⟩ := hex
    exact dropTxn_gone (x := y) (by rw [txnBy, hfk]; exact hy) hyg

/-! Gangs that resume (R32, R232). -/

theorem releaseTxn_or_gangs (s : State) (u : Nat) (b : Bool) : (if b then s else releaseTxn s u).ks.gangs = s.ks.gangs := by
  split
  · rfl
  · exact releaseTxn_gangs s u

theorem gangsFrom_endSaved (s : State) (v : Saved) (wp : Nat) (pc hsw : Word) : GangsFrom s (endSaved s v wp pc hsw) := by
  rw [endSaved]
  split
  · exact .of_eq (congrArg Keystone.gangs (jlog_ks ..) :)
  · next t _ =>
    split
    · exact .of_eq rfl
    · refine GangsFrom.trans (.of_eq ?_) ((gangsFrom_dropTxn _ _).trans (.of_eq rfl))
      refine (releaseTxn_or_gangs ..).trans ?_
      rw [(dropRefused_kept ..).2, jlog_ks]

theorem resumeArray_ks {s u : State} {c : Nat} {v : Saved} (h : resumeArray s c v = some u) : u.ks = s.ks := by
  unfold resumeArray at h
  split at h
  · cases h; rfl
  · split at h
    · cases h; rfl
    · split at h
      · cases h
      · cases h; rfl

theorem copyScratch_ks (s : State) (c0 c lo n : Nat) : (copyScratch s c0 c lo n).ks = s.ks := by
  obtain ⟨f, hf⟩ : ∃ f, f = copyScratch := ⟨_, rfl⟩
  rw [← hf]
  delta copyScratch at hf
  rw [hf]
  dsimp only
  generalize hu : putBytes s 0 _ false = u
  exact (congrArg State.ks hu.symm).trans (putBytes_ks ..)

theorem copyScratch_or_ks (s : State) (b : Bool) (c0 c lo n : Nat) : (if b then copyScratch s c0 c lo n else s).ks = s.ks := by
  split
  · exact copyScratch_ks ..
  · rfl

theorem moveFrame_ks (s : State) (c0 c wp gran tag : Nat) : (moveFrame s c0 c wp gran tag).ks = s.ks := by
  obtain ⟨f, hf⟩ : ∃ f, f = moveFrame := ⟨_, rfl⟩
  rw [← hf]
  delta moveFrame at hf
  rw [hf]
  beta_reduce
  split
  · rfl
  · dsimp only
    generalize rd64 s (scratchPa s c0 (wp + 8 * 62)) = w
    rw [modCore_ks, modCore_ks]
    exact (copyScratch_or_ks ..).trans (copyScratch_ks ..)

/-- Installing a saved hart changes no gang; ending it may take its gang along (R32, R191). -/
theorem gangsFrom_install (s : State) (v : Saved) (h : Nat) : GangsFrom s (install s v h) := by
  obtain ⟨wp, gran, pc, hsw, hr⟩ : ∃ wp gran pc hsw, recordFields s v = (wp, gran, pc, hsw) := ⟨_, _, _, _, rfl⟩
  cases hw : wpOk (wd wp) gran with
  | false => rw [install_bad hr hw]; exact gangsFrom_endSaved _ _ _ _ _
  | true =>
    rw [install, hr]
    simp only [hw, Bool.not_true, Bool.false_eq_true, if_false]
    cases ha : resumeArray s (coreOf h) v with
    | none => exact .of_eq rfl
    | some u =>
      have hk : (retagFrame (moveFrame u (coreOf v.hart) (coreOf h) wp gran v.tag) v.hart h (wp / 512)).ks = s.ks := by
        rw [(retagFrame_kept ..).2.2.1, moveFrame_ks, resumeArray_ks ha]
      simp only
      split
      · exact .of_eq (congrArg Keystone.gangs hk :)
      · exact .of_eq (congrArg Keystone.gangs hk :)

theorem gangsFrom_placeMember (s : State) (u c : Nat) : GangsFrom s (placeMember s u c) := by
  rw [placeMember]
  split
  · split
    · exact .of_eq rfl
    · exact gangsFrom_sendTo _ _ _
  · split
    · refine GangsFrom.trans (.of_eq ?_) (gangsFrom_install _ _ _)
      split <;> rfl
    · exact .of_eq rfl

/-- The gang at its new place, before its members go there. -/
def gangMoved (s : State) (g : Gang) (p : Nat × Nat × Nat) : State :=
  let lane := (freeLane (modGang s g.id fun x => { x with place := none }) (rectCores g.w g.h p)).getD 0
  modGang s g.id fun q => { q with place := some p, lane := lane, recs := [] }

/-- GANG_RESUME: the gang has its new place, and no member's record waits for it (R32, R232). -/
theorem gangResume_does {s : State} {g : Gang} {p : Nat × Nat × Nat} (hg : s.ks.gangs.find? (·.id == g.id) = some g) (hp : g.place ≠ none)
    (hl : ∃ x ∈ gangTxns s g.id, x.st ≠ .retired)
    (ha : ∀ x ∈ gangTxns s g.id, x.st ≠ .retired → (savedOf s x.uid).isSome = true ∨ x.uid ∈ g.recs)
    (hm : (places g.w g.h).find? (mayPlace s g) = some p) :
    Does (.gangResume g.id p.1 p.2.1 p.2.2) s fun t => ∀ x ∈ t.ks.gangs, x.id = g.id → x.place = some p ∧ x.recs = [] := by
  obtain ⟨live, hlive⟩ : ∃ l, l = (gangTxns s g.id).filter (fun t => decide (t.st ≠ .retired)) := ⟨_, rfl⟩
  have hmem : ∀ x, x ∈ live ↔ x ∈ gangTxns s g.id ∧ x.st ≠ .retired := fun x => by rw [hlive, List.mem_filter, decide_eq_true_eq]
  have hone : ∀ x ∈ live, ((savedOf s x.uid).isSome || g.recs.contains x.uid) = true := fun x hx => by
    obtain ⟨h1, h2⟩ := (hmem x).mp hx
    simpa using ha x h1 h2
  obtain ⟨x, hx, hxr⟩ := hl
  have hxl : x ∈ live := (hmem x).mpr ⟨hx, hxr⟩
  have hall := List.all_eq_true.mpr hone
  have hany : (live.any fun x => (savedOf s x.uid).isSome || g.recs.contains x.uid) = true := List.any_eq_true.mpr ⟨x, hxl, hone x hxl⟩
  have hne : live.isEmpty = false := List.isEmpty_eq_false_iff.mpr (List.ne_nil_of_mem hxl)
  have hps : g.place.isSome = true := Option.isSome_iff_ne_none.mpr hp
  have hexec : exec (.gangResume g.id p.1 p.2.1 p.2.2) s =
      .next ((g.uids.zip (rectCores g.w g.h p)).foldl (fun s (u, c) => placeMember s u c) (gangMoved s g p)) := by
    change Host.Outcome.next _ = _
    rw [hg]
    dsimp only
    rw [← hlive]
    simp only [hall, hany, hne, hps, hm, Bool.not_true, Bool.not_false, Bool.and_self, ne_eq, not_true_eq_false, decide_false, Bool.or_self,
      Bool.false_eq_true, if_false]
    rfl
  refine ⟨_, hexec, GangsFrom.keeps (P := fun y => y.id = g.id → y.place = some p ∧ y.recs = [])
    (gangsFrom_foldl (f := fun s (u, c) => placeMember s u c) (fun s m => gangsFrom_placeMember s m.1 m.2) _ _) (fun _ _ h => h) ?_⟩
  exact modGang_all fun _ => ⟨rfl, rfl⟩

end Sys2Proof.Machine
end

section
namespace Sys2Proof.Machine

/-! Resumptions (R11, R226, R228, R234). -/

theorem hartResume_bad {s : State} {i slot : Nat} {v : Saved} {x : Txn} (hi : s.ks.saved[i]? = some v) (hg : v.gang = none)
    (hx : v.txn.bind (txnBy s) = some x) (h4 : slot < 4) (hs : (getCore s (coreOf v.hart)).stage = v.stage)
    (hf : ∀ u ∈ s.ks.saved, u.gang = none → coreOf u.hart = coreOf v.hart → u.stage = v.stage → v.pos ≤ u.pos)
    (hw : switchOf s (coreOf v.hart) = none) (hfree : (getSlot s (coreOf v.hart * 4 + slot)).st = .free)
    (hok : wpOk (wd (recordFields s v).1) (recordFields s v).2.1 = false) (hb : savedBusy s v = false) (hgx : x.gang = none) :
    Does (.hartResume i (coreOf v.hart) slot) s fun t =>
      t.slots = s.slots ∧ t.ks.saved = s.ks.saved.erase v ∧ ∀ u ∈ t.ks.txns, u.uid ≠ x.uid := by
  have hex := exec_hartResume hi hg h4 hs hf hw hfree
  rw [install_bad (gran := (recordFields s v).2.1) (pc := (recordFields s v).2.2.1) (hsw := (recordFields s v).2.2.2)
    (wp := (recordFields s v).1) rfl hok] at hex
  exact ⟨_, hex, endSaved_parts _ _ _ hx hb hgx⟩

/-! Cut markers (R69, R70). -/

theorem modFirst_length {α : Type} (p : α → Bool) (f : α → α) (l : List α) : (modFirst p f l).length = l.length := by
  induction l with
  | nil => rfl
  | cons a t ih =>
    rw [modFirst]
    split
    · rfl
    · rw [List.length_cons, ih, List.length_cons]

theorem modFirst_mem {α : Type} {p : α → Bool} {f : α → α} {l : List α} {a : α} (h : l.find? p = some a) : f a ∈ modFirst p f l := by
  induction l with
  | nil => cases h
  | cons b t ih =>
    rw [modFirst]
    cases hb : p b with
    | true =>
      rw [List.find?_cons, hb] at h
      cases h
      exact List.mem_cons_self
    | false =>
      rw [List.find?_cons, hb] at h
      exact List.mem_cons_of_mem _ (ih h)

/-- A cut with one more input seen: its unit records with the last one. -/
theorem markInput_parts (s : State) (unit input : Nat) (c : CutSt) :
    (markInput s unit input c).num = c.num ∧ (markInput s unit input c).seen = c.seen ++ [(unit, input)] ∧
      (markInput s unit input c).recs.length = c.recs.length +
        (if (unitInputs s unit).all fun i => (c.seen ++ [(unit, input)]).contains (unit, i) then 1 else 0) := by
  have hr : recorded s { c with seen := c.seen ++ [(unit, input)] } unit =
    (unitInputs s unit).all fun i => (c.seen ++ [(unit, input)]).contains (unit, i) := rfl
  rw [← hr]
  unfold markInput
  dsimp only
  cases recorded s { c with seen := c.seen ++ [(unit, input)] } unit with
  | true => exact ⟨rfl, rfl, List.length_append⟩
  | false => exact ⟨rfl, rfl, rfl⟩

/-- Storage, harts and cuts. -/
def cutPart (s : State) : List Host.Cell × Tbl Slot × List CutSt := (s.mem, s.slots, s.ks.cutSt)

theorem cutPart_parts {s t : State} (h : cutPart t = cutPart s) : t.mem = s.mem ∧ t.slots = s.slots ∧ t.ks.cutSt = s.ks.cutSt :=
  ⟨congrArg (fun p => p.1) h, congrArg (fun p => p.2.1) h, congrArg (fun p => p.2.2) h⟩

theorem cutPart_returnGangs (s : State) : cutPart (returnGangs s) = cutPart s := by
  rw [returnGangs]
  refine foldl_proj (π := cutPart) (fun u ck => ?_) _ _
  obtain ⟨c, k⟩ := ck
  refine foldl_proj (π := cutPart) (fun u e => ?_) _ _
  split
  · rfl
  · rfl

theorem cutPart_returnGangs_or (s : State) (b : Bool) : cutPart (if b then returnGangs s else s) = cutPart s := by
  split
  · exact cutPart_returnGangs s
  · rfl

/-- MARKER_ARRIVAL: the marker has reached the input, and its unit records with the last one (R69, R70). -/
theorem markerArrival_does {s : State} {c : CutSt} {unit input : Nat}
    (hf : s.ks.cutSt.find? (fun c => !c.seen.contains (unit, input)) = some c) (hi : input ∈ unitInputs s unit)
    (hc : unit = 0 ∨ 128 < unit ∨ input ≠ 0 ∨ (tget [] s.ks.chans (s.module * 128 + (unit - 1))).head? = some .marker)
    (hm : markerSent s c unit input = true) : Does (.markerArrival unit input) s fun t => t.mem = s.mem ∧ t.slots = s.slots ∧
      t.ks.cutSt.length = s.ks.cutSt.length ∧ ∃ d ∈ t.ks.cutSt, d.num = c.num ∧ d.seen = c.seen ++ [(unit, input)] ∧
        d.recs.length = c.recs.length + (if (unitInputs s unit).all fun i => (c.seen ++ [(unit, input)]).contains (unit, i) then 1 else 0) := by
  obtain ⟨chan, hchan⟩ : ∃ b, b = (decide (1 ≤ unit) && decide (unit ≤ 128) && decide (input = 0)) := ⟨_, rfl⟩
  have hhead : (chan && decide ((tget [] s.ks.chans (s.module * 128 + (unit - 1))).head? ≠ some .marker)) = false := by
    rw [hchan, Bool.and_eq_false_iff, Bool.and_eq_false_iff, Bool.and_eq_false_iff]
    simp only [decide_eq_false_iff_not, not_not]
    rcases hc with h | h | h | h
    · exact .inl (by omega)
    · exact .inl (by omega)
    · exact .inl (.inr h)
    · exact .inr h
  have hin : (unitInputs s unit).contains input = true := List.contains_iff_mem.mpr hi
  obtain ⟨chans, hchans⟩ : ∃ l, l = if ((tget [] s.ks.chans (s.module * 128 + (unit - 1))).drop 1).isEmpty
    then tdel (s.module * 128 + (unit - 1)) s.ks.chans
    else tput (s.module * 128 + (unit - 1)) ((tget [] s.ks.chans (s.module * 128 + (unit - 1))).drop 1) s.ks.chans := ⟨_, rfl⟩
  obtain ⟨u, hu⟩ : ∃ u, u = if chan then modKs s fun k => { k with chans := chans } else s := ⟨_, rfl⟩
  have hups : cutPart u = cutPart s ∧ u.ks.group = s.ks.group := by
    rw [hu]; split <;> exact ⟨rfl, rfl⟩
  obtain ⟨hup, hug⟩ := hups
  have hui : unitInputs u unit = unitInputs s unit := by unfold unitInputs; rw [hug]
  obtain ⟨w, hw⟩ : ∃ w, w = modKs u fun k => { k with
    cutSt := modFirst (fun c => !c.seen.contains (unit, input)) (markInput u unit input) k.cutSt } := ⟨_, rfl⟩
  have hexec : exec (.markerArrival unit input) s = .next (if decide (130 ≤ unit) && decide (unit < 2178) then returnGangs w else w) := by
    change Host.Outcome.next _ = _
    simp only [hf]
    rw [← hchan]
    simp only [hin, hhead, hm, Bool.not_true, Bool.or_self, Bool.false_eq_true, if_false]
    rw [hw, hu, hchans]
    rfl
  refine ⟨_, hexec, ?_⟩
  obtain ⟨t, ht⟩ : ∃ t, t = if decide (130 ≤ unit) && decide (unit < 2178) then returnGangs w else w := ⟨_, rfl⟩
  have htp : cutPart t = cutPart w := by rw [ht]; exact cutPart_returnGangs_or ..
  rw [← ht]
  obtain ⟨hum, hus, huk⟩ := cutPart_parts hup
  obtain ⟨htm, hts, htk⟩ := cutPart_parts htp
  have hwp : w.mem = u.mem ∧ w.slots = u.slots ∧
      w.ks.cutSt = modFirst (fun c => !c.seen.contains (unit, input)) (markInput u unit input) u.ks.cutSt := by
    rw [hw]; exact ⟨rfl, rfl, rfl⟩
  obtain ⟨hwm, hws, hwk⟩ := hwp
  rw [htm, hwm, hum, hts, hws, hus, htk, hwk, huk, modFirst_length, ← hui]
  exact ⟨rfl, rfl, rfl, _, modFirst_mem hf, markInput_parts ..⟩

/-! The governor (R28). -/

/-- STAGE_GOVERNOR_EVALUATION with one starved and one surplus stage moves a core of the second to the first. -/
theorem governor_does {s : State} {a b c : Nat} (hc : s.ks.governed + 512 ≤ s.cycle)
    (ha : ((span 0 16).filter fun st => fld (ksReg s (0x1000 + 8 * st)) 31 16 < stageOcc s st) = [a])
    (hb : ((span 0 16).filter fun st => stageOcc s st < fld (ksReg s (0x1000 + 8 * st)) 15 0 &&
      fld (ksReg s (0x1000 + 8 * st)) 43 32 < stageCores s st) = [b]) (hs : spareCore s b = some c) :
    Does .stageGovernorEvaluation s fun t => (getCore t c).move = some a ∧ t.ks.governed = s.cycle ∧ t.mem = s.mem ∧
      t.slots = s.slots := by
  have hs' : spareCore (modKs s fun k => { k with governed := s.cycle }) b = some c := hs
  refine ⟨bumpKs (modCore (modKs s fun k => { k with governed := s.cycle }) c fun k => { k with move := some a }) 0x1100, ?_, ?_⟩
  · change Host.Outcome.next _ = _
    rw [if_neg (Nat.not_lt.mpr hc)]
    dsimp only
    rw [ha, hb]
    simp only [List.zip_cons_cons, List.zip_nil_right, List.foldl_cons, List.foldl_nil, hs']
  · refine ⟨?_, rfl, rfl, rfl⟩
    simp only [bumpKs, getCore_modKs, getCore_modCore_self]

/-! Windows of SC operations (R207 to R209). -/

theorem acquire_outs (s : State) (h k : Nat) (sc : Scope) : (getSlot (acquire s h sc) k).outs = (getSlot s k).outs := by
  have hd : (getSlot (modSlot (modCore s (coreOf h) fun c => { c with dcache := [] }) h fun x => { x with acqAt := some s.cycle }) k).outs
      = (getSlot s k).outs := by
    by_cases hk : k = h
    · rw [hk, getSlot_modSlot_self, getSlot_modCore]
    · rw [getSlot_modSlot_ne _ _ hk, getSlot_modCore]
  cases sc with
  | hart => rfl
  | core => rfl
  | cluster => rfl
  | device => exact hd
  | group => exact hd

theorem acquire_kept (s : State) (h : Nat) (sc : Scope) : (acquire s h sc).ks = s.ks ∧ (acquire s h sc).mem = s.mem := by
  cases sc <;> exact ⟨rfl, rfl⟩

/-- The order of a window's operations by their harts is sorted (R208). -/
theorem insertSc_sorted (o : ScOp) (l : List ScOp) (h : (l.map (·.hart)).Pairwise (· ≤ ·)) :
    ((insertSc o l).map (·.hart)).Pairwise (· ≤ ·) ∧ ∀ p ∈ insertSc o l, p = o ∨ p ∈ l := by
  induction l with
  | nil => exact ⟨List.pairwise_singleton .., fun p hp => .inl (List.mem_singleton.mp hp)⟩
  | cons q t ih =>
    rw [List.map_cons, List.pairwise_cons] at h
    obtain ⟨hq, ht⟩ := h
    obtain ⟨hs, hi⟩ := ih ht
    rw [insertSc]
    split
    · next hlt =>
      refine ⟨?_, fun p hp => by simpa using hp⟩
      rw [List.map_cons, List.map_cons, List.pairwise_cons, List.pairwise_cons]
      refine ⟨fun n hn => ?_, hq, ht⟩
      rcases List.mem_cons.mp hn with rfl | hn
      · exact hlt.le
      · exact hlt.le.trans (hq n hn)
    · next hge =>
      refine ⟨?_, fun p hp => ?_⟩
      · rw [List.map_cons, List.pairwise_cons]
        refine ⟨fun n hn => ?_, hs⟩
        obtain ⟨p, hp, rfl⟩ := List.mem_map.mp hn
        rcases hi p hp with rfl | hp
        · exact Nat.not_lt.mp hge
        · exact hq _ (List.mem_map_of_mem hp)
      · rcases List.mem_cons.mp hp with rfl | hp
        · exact .inr List.mem_cons_self
        · exact (hi p hp).imp_right (List.mem_cons_of_mem _)

theorem scOrder_sorted (l : List ScOp) : ((l.foldl (fun l p => insertSc p l) []).map (·.hart)).Pairwise (· ≤ ·) :=
  foldl_keeps (P := fun l : List ScOp => (l.map (·.hart)).Pairwise (· ≤ ·)) _ _ _ .nil fun l p _ h => (insertSc_sorted p l h).1

/-- A window with one operation performs it when it closes, in a group only below group scope. -/
theorem exec_scWindowClose {s : State} {o : ScOp} (h1 : s.ks.sc = [o]) (hg : s.ks.group = none ∨ o.scope ≠ .group)
    (hc : 32 * (o.cycle / 32) + 48 ≤ s.cycle) :
    exec .scWindowClose s = .next (performSc (modKs s fun k => { k with sc := [] }) o) := by
  have hclose : closeSc (modKs s fun k => { k with sc := [] }) o = performSc (modKs s fun k => { k with sc := [] }) o := by
    unfold closeSc
    split
    · next g hsome =>
      have hsc : o.scope ≠ .group := hg.resolve_left fun e => by
        rw [show (modKs s fun k => { k with sc := [] }).ks.group = s.ks.group from rfl, e] at hsome; cases hsome
      rw [if_neg hsc]
    · rfl
  have hsc : (modKs s fun k => { k with sc := k.sc.filter fun p => p.cycle / 32 ≠ o.cycle / 32 }) = modKs s fun k => { k with sc := [] } := by
    have hnil : (s.ks.sc.filter fun p => decide (p.cycle / 32 ≠ o.cycle / 32)) = [] := by rw [h1]; simp
    exact congrArg (fun l => ({ s with ks := { s.ks with sc := l } } : State)) hnil
  change Host.Outcome.next _ = _
  rw [show s.ks.sc.head? = some o by rw [h1]; rfl]
  have hw : s.ks.sc.foldl (fun m p => min m (p.cycle / 32)) (o.cycle / 32) = o.cycle / 32 := by
    rw [h1, List.foldl_cons, List.foldl_nil, Nat.min_self]
  have hnow : ((s.ks.sc.filter fun p => decide (p.cycle / 32 = o.cycle / 32)).foldl (fun l p => insertSc p l) []) = [o] := by
    rw [h1]; simp [insertSc]
  simp only [hw, hnow, hsc, if_neg (Nat.not_lt.mpr hc), List.foldl_cons, List.foldl_nil, hclose]

theorem scWindowClose_fence {s : State} {o : ScOp} (h1 : s.ks.sc = [o]) (hg : s.ks.group = none ∨ o.scope ≠ .group)
    (hc : 32 * (o.cycle / 32) + 48 ≤ s.cycle) (ha : o.acc = none) (hf : o.foreign = false) :
    Does .scWindowClose s fun t => t.ks.sc = [] ∧ t.mem = s.mem ∧
      (getSlot t o.hart).outs = (getSlot s o.hart).outs.map (fillOut o.uid [] false) := by
  refine ⟨_, exec_scWindowClose h1 hg hc, ?_⟩
  rw [performSc, ha, hf]
  simp only [Bool.false_eq_true, if_false]
  rw [performFence, modSlot_ks, modSlot_mem, getSlot_modSlot_self, fenceAcquire, (acquire_kept ..).1, (acquire_kept ..).2]
  refine ⟨rfl, rfl, ?_⟩
  dsimp only
  rw [acquire_outs]
  rfl

theorem scWindowClose_access {s : State} {o : ScOp} {a : Access} (h1 : s.ks.sc = [o]) (hg : s.ks.group = none ∨ o.scope ≠ .group)
    (hc : 32 * (o.cycle / 32) + 48 ≤ s.cycle) (ha : o.acc = some a) :
    exec .scWindowClose s = .next (arrive { s with ks := { s.ks with sc := [] }, flight := s.flight ++ [a] } a) := by
  rw [exec_scWindowClose h1 hg hc, performSc, ha]
  rfl

/-- RESIDENT_LOOP_START (R10, R27). -/
theorem residentLoopStart_does {s : State} {h wp : Nat} {pc hsw : Word} (hf : (getSlot s h).st = .free) (hw : wpOk (wd wp) 0 = true)
    (hh : h < 8192) : Does (.residentLoopStart h pc wp hsw) s fun t =>
      (getSlot t h).st = .ready ∧ (getSlot t h).pc = setFld pc 1 0 0 ∧ (getSlot t h).wp = (wd wp).toNat ∧
      (getSlot t h).hsw = hswClean hsw ∧ t.mem = s.mem ∧ ∀ k, k ≠ h → getSlot t k = getSlot s k := by
  refine ⟨modSlot s h fun x => { x with
    st := .ready, pc := setFld pc 1 0 0, wp := (wd wp).toNat, hsw := hswClean hsw, bound := none, scout := false, region := none
    outs := [], vpend := [], inside := false, latch := [], kept := [], answer := none, since := s.cycle }, ?_, ?_⟩
  · change Host.Outcome.next _ = _
    simp only [hf, hw, Nat.not_le.mpr hh, ne_eq, not_true_eq_false, decide_false, Bool.not_true, Bool.or_self, Bool.false_eq_true, if_false]
  · dsimp only
    rw [getSlot_modSlot_self]
    exact ⟨rfl, rfl, rfl, rfl, rfl, fun k hk => getSlot_modSlot_ne _ _ hk⟩

end Sys2Proof.Machine
end

section
namespace Sys2Proof.Machine

/-! The Causeway group (R65, R66, R209, R428, R429). -/

/-- The machine's setting and Keystone's group. -/
def groupPart (s : State) : State × Option Group := (setting s, s.ks.group)

theorem groupPart_of {s t : State} (h : offKs t = offKs s) (k : t.ks.kept = s.ks.kept) : groupPart t = groupPart s := by
  have hs : setting t = setting s := (congrArg setting h :)
  have hg : t.ks.group = s.ks.group := (congrArg Keystone.group k :)
  rw [groupPart, groupPart, hs, hg]

theorem groupPart_parts {s t : State} (h : groupPart t = groupPart s) : t.cycle = s.cycle ∧ t.ks.group = s.ks.group :=
  ⟨congrArg (fun p => p.1.cycle) h, congrArg (fun p => p.2) h⟩

theorem groupPart_numberOne (s : State) (e : BatchEnt) (n : Nat) : groupPart (numberOne s e n) = groupPart s := by
  have hs : setting (numberOne s e n) = setting s := by
    unfold numberOne
    split
    · split
      · rfl
      · dsimp only
        split
        · rw [setting_jlog, setting_modLaunch, setting_modTxn]
        · rw [setting_modLaunch, setting_modTxn]
    · rfl
  have hg : (numberOne s e n).ks.group = s.ks.group := (congrArg Keystone.group (kept_numberOne s e n) :)
  rw [groupPart, groupPart, hs, hg]

theorem groupPart_numberBatch (s : State) (b : List BatchEnt) (batch pos : Nat) :
    groupPart (numberBatch s b batch pos).1 = groupPart s :=
  foldl_proj (π := groupPart) (fun u x => by obtain ⟨e, i⟩ := x; exact groupPart_numberOne ..) _ _

theorem groupPart_feed (s : State) (pos batch : Nat) (mine : Bool) (es : List ManifestEntry) :
    groupPart (feed s pos batch mine es) = groupPart s := groupPart_of (offKs_feed ..) (kept_feed ..)

theorem groupPart_cutNote (s : State) (u i : Nat) (m : CutMsg) : groupPart (cutNote s u i m) = groupPart s :=
  groupPart_of (offKs_cutNote ..) (kept_cutNote ..)

theorem groupPart_closeBatch (s : State) : groupPart (closeBatch s) = groupPart s := by
  rw [closeBatch]
  split
  · rfl
  · split
    · rfl
    · dsimp only
      split
      · rfl
      · rw [groupPart_feed, groupPart_numberBatch]; rfl

theorem groupPart_closeBatch_or (s : State) (p : Prop) [Decidable p] : groupPart (if p then closeBatch s else s) = groupPart s := by
  split
  · exact groupPart_closeBatch s
  · rfl

theorem groupPart_placeEnts (s : State) (es : List BatchEnt) : groupPart (placeEnts s es) = groupPart s := by
  rw [placeEnts, groupPart_closeBatch_or]
  exact groupPart_closeBatch_or ..

theorem groupPart_placeVoids (n : Nat) (s : State) : groupPart (placeVoids n s) = groupPart s := by
  induction n generalizing s with
  | zero => rfl
  | succ n ih =>
    rw [placeVoids]
    split
    · rfl
    · split
      · rfl
      · rw [ih, groupPart_placeEnts]; rfl

theorem groupPart_closeAgain (s : State) : groupPart (closeAgain s) = groupPart s := by
  rw [closeAgain, groupPart_placeVoids]
  exact groupPart_closeBatch_or ..

theorem groupPart_holdBatch (s : State) : groupPart (holdBatch s).2 = groupPart s := by
  rw [holdBatch]
  split <;> rfl

/-- The member has sent its manifest: the token passes on, and the next group-scope operations take their places. -/
def tokenPassed (u : State) (g : Group) : State :=
  let s := modKs u fun k => { k with
    batch := g.next, sc := k.sc ++ (g.frames.take 64).map fun o => { o with scope := .device, cycle := u.cycle } }
  modGroup s fun x => { x with next := g.next + 1, last := some (g.next, g.pos), heldAt := some s.cycle, heard := s.cycle
                               frames := x.frames.drop 64 }

/-- The manifest of a hold is numbered, fed and noted, and what waited for it goes on. -/
def manifestSent (s : State) (g : Group) : State :=
  let n := numberBatch (holdBatch s).2 (holdBatch s).1 g.next g.pos
  closeAgain (cutNote (feed n.1 g.pos g.next true n.2) 0 1 (.manifest g.pos g.next n.2))

theorem groupPart_manifestSent (s : State) (g : Group) : groupPart (manifestSent s g) = groupPart s := by
  rw [manifestSent, groupPart_closeAgain, groupPart_cutNote, groupPart_feed, groupPart_numberBatch, groupPart_holdBatch]

theorem exec_tokenHold {s : State} {g : Group} (hg : s.ks.group = some g) (hc : ∀ c, g.heldAt = some c → c + 18 * g.trot ≤ s.cycle)
    (hp : g.pos ∉ g.gone) (hn : frameNext g = (g.next, g.pos)) : exec .tokenHold s = .next (tokenPassed (manifestSent s g) g) := by
  have hcont : g.gone.contains g.pos = false := by simpa using hp
  have hsent : ∀ e : Bool, e = false → (Host.Outcome.next (if e || g.gone.contains g.pos || decide (frameNext g ≠ (g.next, g.pos))
      then s else tokenPassed (manifestSent s g) g) : Out) = .next (tokenPassed (manifestSent s g) g) := fun e he => by
    simp only [he, hcont, hn, ne_eq, not_true_eq_false, decide_false, Bool.or_self, Bool.false_eq_true, if_false]
  change Host.Outcome.next _ = _
  rw [hg]
  refine hsent _ ?_
  cases hh : g.heldAt with
  | none => rfl
  | some c => exact decide_eq_false (Nat.not_lt.mpr (hc c hh))

/-- TOKEN_HOLD: the member's batch is numbered and the token passes on (R65, R66). -/
theorem tokenHold_does {s : State} {g : Group} (hg : s.ks.group = some g) (hc : ∀ c, g.heldAt = some c → c + 18 * g.trot ≤ s.cycle)
    (hp : g.pos ∉ g.gone) (hn : frameNext g = (g.next, g.pos)) : Does .tokenHold s fun t => t.ks.batch = g.next ∧
      t.ks.group = some { g with next := g.next + 1, last := some (g.next, g.pos), heldAt := some s.cycle, heard := s.cycle
                                 frames := g.frames.drop 64 } := by
  obtain ⟨huc, hug⟩ := groupPart_parts (groupPart_manifestSent s g)
  refine ⟨_, exec_tokenHold hg hc hp hn, ?_⟩
  obtain ⟨u, hu⟩ : ∃ u, u = manifestSent s g := ⟨_, rfl⟩
  rw [← hu] at huc hug ⊢
  refine ⟨rfl, ?_⟩
  change Option.map (fun x : Group => { x with next := g.next + 1, last := some (g.next, g.pos), heldAt := some u.cycle, heard := u.cycle
                                               frames := x.frames.drop 64 }) u.ks.group = _
  rw [hug, hg, huc]
  rfl

/-- MANIFEST_RECEIVE: the next frame is the last received (R66). -/
theorem manifestReceive_does {s : State} {g : Group} {pos batch : Nat} {es : List ManifestEntry} (hg : s.ks.group = some g)
    (hp : pos ≠ g.pos) (hl : pos ∈ live g) (he : es.length ≤ 1024) (hn : frameNext g = (batch, pos)) :
    Does (.manifestReceive pos batch es) s fun t => t.ks.group = some { g with last := some (batch, pos), heard := s.cycle } := by
  have hcont : (live g).contains pos = true := List.contains_iff_mem.mpr hl
  have hup := (groupPart_cutNote (feed s pos batch false es) 0 1 (.manifest pos batch es)).trans (groupPart_feed ..)
  obtain ⟨u, hu⟩ : ∃ u, u = cutNote (feed s pos batch false es) 0 1 (.manifest pos batch es) := ⟨_, rfl⟩
  rw [← hu] at hup
  refine ⟨modGroup u fun x => { x with last := some (batch, pos), heard := s.cycle }, ?_, ?_⟩
  · change Host.Outcome.next _ = _
    rw [hg]
    simp only [hp, hcont, Nat.not_lt.mpr he, hn, decide_false, Bool.not_true, Bool.or_self, Bool.false_eq_true, if_false, if_true]
    rw [hu]
  · change Option.map _ u.ks.group = _
    rw [(groupPart_parts hup).2, hg]
    rfl

/-- Another member's operation: its store is performed here when it is to this module (R209). -/
def foreignOp (s : State) (m h pa : Nat) (v : Option Word) : ScOp :=
  { hart := h, uid := s.uid, scope := .device, cycle := s.cycle, foreign := true
    acc := if moduleOf (pa % 2 ^ 52) ≠ s.module then none else v.map fun v =>
      { uid := s.uid, hart := (m + 1) * 8192 + h, va := wd (pa % 2 ^ 52), pas := span (pa % 2 ^ 52 / 8 * 8) 8, key := pa / 2 ^ 52
        cache := false, op := .store (wBytes v), psn := false, dest := .nothing, st := .flying, sc := true } }

/-- GROUP_SC_FRAME: another member's operation takes its place in this window (R209). -/
theorem groupScFrame_does {s : State} {g : Group} {m core slot pa : Nat} {v : Option Word} (hg : s.ks.group = some g) (hm : m ∈ g.mods)
    (hs : m ≠ s.module) : Does (.groupScFrame m core slot pa v) s fun t =>
      t.mem = s.mem ∧ ∃ o, t.ks.sc = s.ks.sc ++ [o] ∧ o.hart = core % 2048 * 4 + slot % 4 ∧ o.cycle = s.cycle ∧
        o.foreign = true ∧ (o.acc.isSome = true ↔ v.isSome = true ∧ moduleOf (pa % 2 ^ 52) = s.module) := by
  have hcont : g.mods.contains m = true := List.contains_iff_mem.mpr hm
  obtain ⟨o, ho⟩ : ∃ o, o = foreignOp s m (core % 2048 * 4 + slot % 4) pa v := ⟨_, rfl⟩
  have hacc : o.acc.isSome = true ↔ v.isSome = true ∧ moduleOf (pa % 2 ^ 52) = s.module := by
    rw [ho, foreignOp]
    dsimp only
    split
    · next h => exact ⟨fun e => (by cases e), fun e => absurd e.2 h⟩
    · next h => rw [Option.isSome_map]; exact ⟨fun e => ⟨e, not_not.mp h⟩, And.left⟩
  refine ⟨modKs { s with uid := s.uid + 1 } fun k => { k with sc := k.sc ++ [o] }, ?_, rfl, o, rfl, ?_, ?_, ?_, hacc⟩
  · change Host.Outcome.next _ = _
    rw [hg]
    simp only [hcont, hs, decide_false, Bool.not_true, Bool.or_self, Bool.false_eq_true, if_false]
    rw [ho, foreignOp]
  · rw [ho, foreignOp]
  · rw [ho, foreignOp]
  · rw [ho, foreignOp]

/-- TOKEN_LOSS: the silent member has departed, and the regeneration is counted (R429). -/
theorem tokenLoss_does {s : State} {g : Group} {pos : Nat} (hg : s.ks.group = some g) (hp : (frameNext g).2 = pos) (hn : pos ∉ g.gone)
    (hc : g.heard + 100 * Config.cyclesPerUs ≤ s.cycle) : Does (.tokenLoss pos) s fun t =>
      t.ks.group = some { g with gone := g.gone ++ [pos], heard := s.cycle } ∧ trReg t 0x398 = trReg s 0x398 + 1 ∧ t.mem = s.mem := by
  have hcont : g.gone.contains pos = false := by simpa using hn
  refine ⟨bumpTr (modGroup s fun x => { x with gone := x.gone ++ [pos], heard := s.cycle }) 0x398, ?_, ?_, ?_, rfl⟩
  · change Host.Outcome.next _ = _
    rw [hg]
    simp only [hp, hcont, Nat.not_lt.mpr hc, ne_eq, not_true_eq_false, decide_false, Bool.or_self, Bool.false_eq_true, if_false]
  · change Option.map _ s.ks.group = _
    rw [hg]; rfl
  · have h0 : trReset 0x398 = 0 := by decide
    change tget (trReset 0x398) (tmod 0 0x398 (· + 1) s.tr.regs) 0x398 = tget (trReset 0x398) s.tr.regs 0x398 + 1
    rw [h0, tmod, tget_tput_self]

theorem groupPart_regrants (l : List Nat) (s : State) :
    (l.foldl regrant s).ks.group = s.ks.group ∧ (l.foldl regrant s).mem = s.mem := by
  have h : ∀ u tile, (fun s : State => (s.ks.group, s.mem)) (regrant u tile) = (u.ks.group, u.mem) := fun u tile => by
    obtain ⟨l, g, hr⟩ := regrant_or u tile
    rw [hr]; rfl
  have := foldl_proj (π := fun s : State => (s.ks.group, s.mem)) h l s
  exact ⟨congrArg Prod.fst this, congrArg Prod.snd this⟩

/-- GROUP_REFORM: a departed member returns (R429). -/
theorem groupReform_does {s : State} {g : Group} {pos : Nat} (hg : s.ks.group = some g) (hp : pos ∈ g.gone) (hn : pos ≠ g.pos) :
    Does (.groupReform pos) s fun t => t.ks.group = some { g with gone := g.gone.filter (· ≠ pos), heard := s.cycle } ∧ t.mem = s.mem := by
  have hcont : g.gone.contains pos = true := List.contains_iff_mem.mpr hp
  obtain ⟨u, hu⟩ : ∃ u, u = modGroup s fun x => { x with gone := x.gone.filter (· ≠ pos), heard := s.cycle } := ⟨_, rfl⟩
  refine ⟨(u.ks.locks.map (·.1)).foldl regrant u, ?_, ?_⟩
  · change Host.Outcome.next _ = _
    rw [hg]
    simp only [hcont, hn, ne_eq, not_false_eq_true, Bool.not_true, Bool.false_eq_true, if_false, if_true]
    rw [hu]
  · obtain ⟨h1, h2⟩ := groupPart_regrants (u.ks.locks.map (·.1)) u
    rw [h1, h2, hu]
    refine ⟨?_, rfl⟩
    change Option.map _ s.ks.group = _
    rw [hg]; rfl

/-- GROUP_FORMATION: the member joins with its batch closed (R428). -/
theorem groupFormation_does {s : State} {pos n trot b0 : Nat} {mods : List Nat} (hg : s.ks.group = none) (hn : n ≤ 64) (hp : pos < n)
    (hl : mods.length = n) (hm : mods[pos]? = some s.module) (ht : trot ≤ 400) (hb : (closeBatch s).ks.batch < b0) :
    Does (.groupFormation pos n trot b0 mods) s fun t =>
      t.ks.group = some ⟨pos, n, trot, mods, b0, none, [], none, s.cycle, []⟩ ∧ t.ks.openB = [] := by
  have hopen : (closeBatch s).ks.openB = [] := by
    by_cases he : s.ks.openB = []
    · rw [closeBatch, he]; exact he
    · exact (closeBatch_alone he hg).1
  refine ⟨modKs (closeBatch s) fun k => { k with group := some ⟨pos, n, trot, mods, b0, none, [], none, s.cycle, []⟩ }, ?_, rfl, hopen⟩
  change Host.Outcome.next _ = _
  simp only [hg, Nat.not_lt.mpr hn, Nat.not_le.mpr hp, hl, hm, Nat.not_lt.mpr ht, Nat.not_le.mpr hb, Option.isSome_none, ne_eq,
    not_true_eq_false, decide_false, Bool.or_self, Bool.false_eq_true, if_false]

/-- Settles O50: each event of stages, cuts, resumptions, windows and the group by its lemma. -/
theorem stagesCutsAndGroups : Obligations.StagesCutsAndGroups := by
  unfold Obligations.StagesCutsAndGroups
  intro s
  refine ⟨?_, ?_, ?_, ?_, ?_, ?_, ?_, ?_, ?_, scOrder_sorted, ?_, ?_, ?_⟩
  · exact fun core st h1 h2 h3 => stageMove_marked h1 h2 h3
  · exact fun core e h1 h2 => stageMove_switched h1 h2
  · exact fun h h1 h2 h3 => ⟨fun h4 => hartCut_does h1 h2 h3 h4, fun h4 h5 => sealedBudgetExpiry_does h1 h2 h3 h4 h5⟩
  · exact fun h x l p h1 h2 h3 h4 h5 h6 h7 => saveRecordWrite_does h1 h2 h3 h4 h5 h6 h7
  · intro i slot v x h1 h2 h3 h4 h5 core w wp h6 h7 h8 h9
    exact ⟨fun h10 => hartResume_good h1 h2 h3 h4 h5 h6 h7 h8 h9 h10, fun h10 h11 h12 => hartResume_bad h1 h2 h4 h5 h6 h7 h8 h9 h10 h11 h12⟩
  · exact fun g p h1 h2 h3 h4 h5 => gangResume_does h1 h2 h3 h4 h5
  · exact fun c unit input h1 h2 h3 h4 => markerArrival_does h1 h2 h3 h4
  · exact fun a b c h1 h2 h3 h4 => governor_does h1 h2 h3 h4
  · exact fun o h1 h2 h3 => ⟨fun h4 h5 => scWindowClose_fence h1 h2 h3 h4 h5, fun a h4 => scWindowClose_access h1 h2 h3 h4⟩
  · exact fun h pc wp hsw h1 h2 h3 => residentLoopStart_does h1 h2 h3
  · exact fun pos n trot b0 mods h1 h2 h3 h4 h5 h6 h7 => groupFormation_does h1 h2 h3 h4 h5 h6 h7
  · exact fun g hg => ⟨fun h1 h2 h3 => tokenHold_does hg h1 h2 h3, fun pos batch es h1 h2 h3 h4 => manifestReceive_does hg h1 h2 h3 h4,
      fun m core slot pa v h1 h2 => groupScFrame_does hg h1 h2, fun pos h1 h2 h3 => tokenLoss_does hg h1 h2 h3,
      fun pos h1 h2 => groupReform_does hg h1 h2⟩

end Sys2Proof.Machine
end

section
namespace Sys2Proof.Machine

/-! Command packets (R396 to R399): what is read does not depend on the queues' own state. -/

/-- The machine with other command queues and journal entries held. -/
def queued (s : State) (a : Tbl CmdQueue) (b : List JLine) : State := { s with tr := { s.tr with cqs := a, jheld := b } }

theorem keyMat_queued (s : State) (a : Tbl CmdQueue) (b : List JLine) : keyMat (queued s a b) = keyMat s := rfl

theorem rdByte_queued (s : State) (a : Tbl CmdQueue) (b : List JLine) : rdByte (queued s a b) = rdByte s := by
  funext key pa
  rw [rdByte, rdByte, keyMat_queued]; rfl

theorem answers_queued (s : State) (a : Tbl CmdQueue) (b : List JLine) : answers (queued s a b) = answers s := rfl

theorem tableWord_queued (s : State) (a : Tbl CmdQueue) (b : List JLine) : tableWord (queued s a b) = tableWord s := by
  funext pa
  rw [tableWord, tableWord, answers_queued, rd64, rd64, rdByte_queued]

theorem trReg_queued (s : State) (a : Tbl CmdQueue) (b : List JLine) : trReg (queued s a b) = trReg s := rfl

theorem walk_queued (s : State) (a : Tbl CmdQueue) (b : List JLine) : walk (queued s a b) = walk s := by
  funext asid va
  rw [walk, walk, tableWord_queued, trReg_queued]

theorem tlbFind_queued (s : State) (a : Tbl CmdQueue) (b : List JLine) : tlbFind (queued s a b) = tlbFind s := rfl

theorem xlWindow_queued (s : State) (a : Tbl CmdQueue) (b : List JLine) : xlWindow (queued s a b) = xlWindow s := rfl

theorem xlate_queued (s : State) (a : Tbl CmdQueue) (b : List JLine) : xlate (queued s a b) = xlate s := by
  funext w va k
  rw [xlate, xlate, walk_queued, trReg_queued, tlbFind_queued, xlWindow_queued]

theorem xlBytes_queued (s : State) (a : Tbl CmdQueue) (b : List JLine) : xlBytes (queued s a b) = xlBytes s := by
  funext w va n k
  rw [xlBytes, xlBytes, xlate_queued]

theorem stores_queued (s : State) (a : Tbl CmdQueue) (b : List JLine) : stores (queued s a b) = stores s := by
  funext pas
  rw [stores, stores, answers_queued]; rfl

theorem peek_queued (s : State) (a : Tbl CmdQueue) (b : List JLine) : peek (queued s a b) = peek s := by
  funext core asid va n
  rw [peek, peek, xlBytes_queued, stores_queued]
  simp only [rdBytes, rdByte_queued]

theorem peekWords_queued (s : State) (a : Tbl CmdQueue) (b : List JLine) : peekWords (queued s a b) = peekWords s := by
  funext core asid va n
  rw [peekWords, peekWords, peek_queued]

theorem checkHeader_queued (s : State) (a : Tbl CmdQueue) (b : List JLine) : checkHeader (queued s a b) = checkHeader s := by
  funext asid va
  rw [checkHeader, checkHeader, peekWords_queued]

theorem packetWord_queued (s : State) (a : Tbl CmdQueue) (b : List JLine) : packetWord (queued s a b) = packetWord s := by
  funext c k
  rw [packetWord, packetWord, peek_queued]

theorem waitHolds_queued (s : State) (a : Tbl CmdQueue) (b : List JLine) : waitHolds (queued s a b) = waitHolds s := by
  funext c p
  rw [waitHolds, waitHolds, peekWords_queued]
  rfl

theorem readGraph_queued (s : State) (a : Tbl CmdQueue) (b : List JLine) : readGraph (queued s a b) = readGraph s := by
  funext asid va
  rw [readGraph, readGraph, peekWords_queued]

theorem pagesX_queued (s : State) (a : Tbl CmdQueue) (b : List JLine) (w : Who) (k : AccKind) (fuel va n : Nat) :
    pagesX (queued s a b) w k fuel va n = pagesX s w k fuel va n := by
  induction fuel generalizing va n with
  | zero => rfl
  | succ m ih =>
    rw [pagesX, pagesX, xlate_queued]
    simp only [ih]

theorem reaches_queued (s : State) (a : Tbl CmdQueue) (b : List JLine) : reaches (queued s a b) = reaches s := by
  funext c k va n
  rw [reaches, reaches, pagesX_queued]

theorem payloadWords_queued (s : State) (a : Tbl CmdQueue) (b : List JLine) (c : CmdQueue) (n k : Nat) :
    payloadWords (queued s a b) c n k = payloadWords s c n k := by
  induction n generalizing k with
  | zero => rfl
  | succ n ih => rw [payloadWords, payloadWords, packetWord_queued, ih]

theorem payloadFault_queued (s : State) (a : Tbl CmdQueue) (b : List JLine) : payloadFault (queued s a b) = payloadFault s := by
  funext c typ p
  delta payloadFault
  rw [reaches_queued, peek_queued, xlate_queued]
  rfl

/-! A packet that parses is tried. -/

/-- A queue whose thread begins to parse (R401). -/
def CmdQueue.parsing (c : CmdQueue) : CmdQueue := if c.blocked then { c with latch := false, blocked := false } else c

theorem CmdQueue.parsing_parts (c : CmdQueue) : c.parsing.st = c.st ∧ c.parsing.pend = c.pend ∧ c.parsing.rptr = c.rptr ∧
    c.parsing.stack = c.stack ∧ c.parsing.cfg = c.cfg := by
  unfold CmdQueue.parsing
  split <;> exact ⟨rfl, rfl, rfl, rfl, rfl⟩

theorem getCq_modCq_self (s : State) (q : Nat) (f : CmdQueue → CmdQueue) : getCq (modCq s q f) q = f (getCq s q) := tget_tput_self ..

theorem beginParse_eq (s : State) (q : Nat) : beginParse s q = queued s (tmod {} q CmdQueue.parsing s.tr.cqs) s.tr.jheld := rfl

theorem getCq_queued (s : State) (a : Tbl CmdQueue) (b : List JLine) (q : Nat) : getCq (queued s a b) q = tget {} a q := rfl

theorem getCq_beginParse (s : State) (q : Nat) : getCq (beginParse s q) q = (getCq s q).parsing := by
  rw [beginParse_eq, getCq_queued, tmod, tget_tput_self]
  rfl

theorem packet_parses {s : State} {q typ f : Nat} {p : List (BitVec 32)} (hp : Parses s q typ f p)
    (ready : State → CmdQueue → List (BitVec 32) → Ready) (k : State → Nat → Nat → List (BitVec 32) → State) :
    packet s q typ ready k = tryPacket (beginParse s q) q typ f (packetAt (getCq s q)) p ready k := by
  obtain ⟨hst, hon, hpend, hstill, -, h1, h12, hf, ⟨hdr, hhdr, ht, hn, hfl⟩, hcount, hhas, hpay, hok, hbar⟩ := hp
  have hpay' : payloadWords (beginParse s q) (getCq s q) p.length 1 = .ok p := by rw [beginParse_eq, payloadWords_queued, hpay]
  have hok' : payloadFault (beginParse s q) (getCq s q) typ p = none := by rw [beginParse_eq, payloadFault_queued, hok]
  have hbar' : (decide (f % 2 = 1) && (beginParse s q).ks.launches.any (·.queue == some q)) = false := by
    rw [Bool.and_eq_false_iff, decide_eq_false_iff_not]
    by_cases h : f % 2 = 1
    · exact .inr (List.any_eq_false.mpr fun l hl he => hbar h l hl (beq_iff_eq.mp he))
    · exact .inl h
  rw [packet, hstill, hpend]
  simp only [hst, hon, hhdr, ht, hn, hfl, hcount, hpay', hok', hbar', Nat.not_le.mpr hhas, Nat.not_le.mpr hf, Nat.not_lt.mpr h12,
    show ¬ typ = 0 by omega, show ¬ hasWords (getCq s q) = 0 by omega, ne_eq, not_true_eq_false, decide_false, Bool.not_true, Bool.or_self,
    Bool.false_eq_true, if_false]

/-! A packet that is consumed. -/

/-- A queue past a packet of `n` payload words (R399). -/
def CmdQueue.past (x : CmdQueue) (n : Nat) : CmdQueue :=
  let c : CmdQueue := { x with pend := none, st := if x.st = .waiting then .mapped else x.st }
  match c.stack with
  | b :: rest => { c with stack := { b with va := b.va + 4 * (n + 1), left := b.left - (n + 1) } :: rest }
  | [] => { c with rptr := (c.rptr + n + 1) % ringSize c }

theorem CmdQueue.past_parts {c : CmdQueue} (h : c.st = .mapped) (n : Nat) :
    (c.past n).st = .mapped ∧ (c.past n).pend = none ∧ (c.stack = [] → (c.past n).stack = [] ∧ (c.past n).rptr = (c.rptr + n + 1) % ringSize c) ∧
      ∀ b rest, c.stack = b :: rest → (c.past n).rptr = c.rptr ∧
        (c.past n).stack = { b with va := b.va + 4 * (n + 1), left := b.left - (n + 1) } :: rest := by
  rw [CmdQueue.past, h]
  dsimp only
  cases hs : c.stack with
  | nil => exact ⟨rfl, rfl, fun _ => ⟨rfl, rfl⟩, fun _ _ e => (by cases e)⟩
  | cons b rest => exact ⟨rfl, rfl, fun e => (by cases e), fun _ _ e => (by cases e; exact ⟨rfl, rfl⟩)⟩

/-- The machine in which the packet at hand has been consumed, its effect not begun. -/
def taken (s : State) (q typ : Nat) (p : List (BitVec 32)) : State := takePacket (beginParse s q) q typ (packetAt (getCq s q)) p

/-- The queue in it. -/
def takenCq (s : State) (q : Nat) (p : List (BitVec 32)) : CmdQueue := (getCq s q).parsing.past p.length

theorem taken_eq (s : State) (q typ : Nat) (p : List (BitVec 32)) : ∃ a, tget {} a q = takenCq s q p ∧
    taken s q typ p = jlog (queued s a s.tr.jheld) 1 q typ (packetAt (getCq s q)) (if 2 ≤ p.length then wd (long p 0) else 0) 0 := by
  refine ⟨tmod {} q (·.past p.length) (tmod {} q CmdQueue.parsing s.tr.cqs), ?_, rfl⟩
  rw [tmod, tget_tput_self, tmod, tget_tput_self]
  rfl

/-- What an operation leaves of a command queue, and of what Trestle has to send and to run, after a packet is taken. -/
def Behind (s : State) (q : Nat) (p : List (BitVec 32)) (u : State) : Prop :=
  getCq u q = takenCq s q p ∧ u.tr.runlist = [] ∧ u.tr.cpOut = s.tr.cpOut

theorem Behind.of_tr {s u v : State} {q : Nat} {p : List (BitVec 32)} (h : Behind s q p u) (e : v.tr.offJournal = u.tr.offJournal) :
    Behind s q p v := by
  obtain ⟨h1, h2, h3⟩ := h
  have hc : v.tr.cqs = u.tr.cqs := (congrArg Trestle.cqs e :)
  have hr : v.tr.runlist = u.tr.runlist := (congrArg Trestle.runlist e :)
  have ho : v.tr.cpOut = u.tr.cpOut := (congrArg Trestle.cpOut e :)
  exact ⟨by rw [getCq, hc]; exact h1, hr.trans h2, ho.trans h3⟩

theorem taken_behind {s : State} {q typ f : Nat} {p : List (BitVec 32)} (hp : Parses s q typ f p) : Behind s q p (taken s q typ p) := by
  obtain ⟨-, -, -, -, hrun, -⟩ := hp
  obtain ⟨a, ha, e⟩ := taken_eq s q typ p
  rw [e]
  exact Behind.of_tr (u := queued s a s.tr.jheld) ⟨ha, hrun, rfl⟩ (jlog_offJournal ..)

theorem taken_slots (s : State) (q typ : Nat) (p : List (BitVec 32)) : (taken s q typ p).slots = s.slots := by
  obtain ⟨a, -, e⟩ := taken_eq s q typ p
  rw [e, jlog_slots]; rfl

theorem taken_ks (s : State) (q typ : Nat) (p : List (BitVec 32)) : (taken s q typ p).ks = s.ks := by
  obtain ⟨a, -, e⟩ := taken_eq s q typ p
  rw [e, jlog_ks]; rfl

theorem taken_setting (s : State) (q typ : Nat) (p : List (BitVec 32)) : setting (taken s q typ p) = setting s := by
  obtain ⟨a, -, e⟩ := taken_eq s q typ p
  rw [e, setting_jlog]; rfl

theorem jlog_off {s : State} (h : JournalOff s) (kind queue status whr : Nat) (d0 d1 : Word) :
    ∃ b, jlog s kind queue status whr d0 d1 = queued s s.tr.cqs b := by
  unfold JournalOff at h
  rw [jlog]
  split
  · exact ⟨_, rfl⟩
  · refine ⟨s.tr.jheld, ?_⟩
    rw [jwrite, h]
    rfl

/-- With the journal off a consumed packet changes nothing else (R405). -/
theorem taken_off {s : State} (h : JournalOff s) (q typ : Nat) (p : List (BitVec 32)) :
    ∃ a b, tget {} a q = takenCq s q p ∧ taken s q typ p = queued s a b := by
  obtain ⟨a, ha, e⟩ := taken_eq s q typ p
  obtain ⟨b, hb⟩ := jlog_off (s := queued s a s.tr.jheld) h 1 q typ (packetAt (getCq s q)) (if 2 ≤ p.length then wd (long p 0) else 0) 0
  exact ⟨a, b, ha, by rw [e, hb]; rfl⟩

/-! A packet that has completed (R396, R399). -/

/-- The machine with other command queues and messages to the Control Port. -/
def sent (u : State) (a : Tbl CmdQueue) (m : List CpMsg) : State := { u with tr := { u.tr with cqs := a, cpOut := m } }

/-- A queue but for its indirect buffers. -/
def CmdQueue.offStack (c : CmdQueue) : CmdQueue := { c with stack := [] }

/-- Leaving the indirect buffers at their ends changes a queue's stack and the messages alone. -/
theorem popBufs_sent (n : Nat) (u : State) (q : Nat) :
    ∃ a m, popBufs n u q = sent u a m ∧ (tget {} a q).offStack = (getCq u q).offStack := by
  induction n generalizing u with
  | zero => exact ⟨u.tr.cqs, u.tr.cpOut, rfl, rfl⟩
  | succ n ih =>
    rw [popBufs]
    cases hs : (getCq u q).stack with
    | nil => exact ⟨u.tr.cqs, u.tr.cpOut, rfl, rfl⟩
    | cons b rest =>
      dsimp only
      split
      · obtain ⟨a, m, e, ha⟩ := ih (if b.notify then cpSend (modCq u q fun c => { c with stack := rest }) (.notify q b.whr)
          else modCq u q fun c => { c with stack := rest })
        have hq : (getCq (if b.notify then cpSend (modCq u q fun c => { c with stack := rest }) (.notify q b.whr)
            else modCq u q fun c => { c with stack := rest }) q).offStack = (getCq u q).offStack := by
          have hget : (getCq (modCq u q fun c => { c with stack := rest }) q).offStack = (getCq u q).offStack := by
            rw [getCq_modCq_self]
            rfl
          split <;> exact hget
        refine ⟨a, m, ?_, ha.trans hq⟩
        rw [e]
        split <;> rfl
      · exact ⟨u.tr.cqs, u.tr.cpOut, rfl, rfl⟩

theorem popBufs_still (n : Nat) {u : State} {q : Nat} (h : ∀ b rest, (getCq u q).stack = b :: rest → b.left ≠ 0) : popBufs n u q = u := by
  cases n with
  | zero => rfl
  | succ n =>
    rw [popBufs]
    cases hs : (getCq u q).stack with
    | nil => rfl
    | cons b rest => exact if_neg (h b rest hs)

theorem remap_empty {u : State} (h : u.tr.runlist = []) : remap u = u := by
  rw [remap, mapQueues, h]
  rfl

/-- A queue at the boundary behind a packet (R394, R401). -/
def CmdQueue.atBoundary (c : CmdQueue) : CmdQueue :=
  match c.cfgNext, c.pend with
  | some v, none => { c with cfg := v, cfgNext := none }
  | _, _ => c

theorem CmdQueue.atBoundary_parts (c : CmdQueue) :
    c.atBoundary.st = c.st ∧ c.atBoundary.pend = c.pend ∧ c.atBoundary.rptr = c.rptr ∧ c.atBoundary.stack = c.stack := by
  unfold CmdQueue.atBoundary
  split <;> exact ⟨rfl, rfl, rfl, rfl⟩

theorem boundary_eq (u : State) (q : Nat) : boundary u q = modCq u q CmdQueue.atBoundary := rfl

theorem modCq_sent (u : State) (a : Tbl CmdQueue) (m : List CpMsg) (q : Nat) (f : CmdQueue → CmdQueue) :
    modCq (sent u a m) q f = sent u (tmod {} q f a) m := rfl

/-- What a completed packet leaves: its queue parses on, and the notification is sent. -/
theorem packetDone_sent {u : State} {q : Nat} {c : CmdQueue} (f w : Nat) (hc : getCq u q = c) (hr : u.tr.runlist = [])
    (hst : c.st = .mapped) :
    ∃ a m, packetDone u q f w = sent u a m ∧ (tget {} a q).st = .mapped ∧ (tget {} a q).pend = none ∧ (tget {} a q).rptr = c.rptr ∧
      ((∀ b rest, c.stack = b :: rest → b.left ≠ 0) →
        (tget {} a q).stack = c.stack ∧ m = u.tr.cpOut ++ if f / 2 % 2 = 1 then [.notify q w] else []) := by
  obtain ⟨n, hn⟩ : ∃ n : List CpMsg, n = u.tr.cpOut ++ if f / 2 % 2 = 1 then [.notify q w] else [] := ⟨_, rfl⟩
  obtain ⟨a0, ha0⟩ : ∃ a, a = tmod {} q (fun c => { c with pend := none, st := if c.st = .waiting then .mapped else c.st }) u.tr.cqs :=
    ⟨_, rfl⟩
  have hstart : modCq (if f / 2 % 2 = 1 then cpSend u (.notify q w) else u) q
      (fun c => { c with pend := none, st := if c.st = .waiting then .mapped else c.st }) = sent u a0 n := by
    rw [ha0, hn]
    split
    · rfl
    · rw [List.append_nil]; rfl
  have h0 : tget {} a0 q = { c with pend := none } := by
    have hst' : (if c.st = .waiting then .mapped else c.st) = c.st := by rw [hst]; rfl
    rw [ha0, tmod, tget_tput_self, show tget {} u.tr.cqs q = c from hc, hst']
  obtain ⟨a1, m, hpop, h1⟩ : ∃ a m, popBufs 5 (sent u a0 n) q = sent u a m ∧ (tget {} a q).offStack = (tget {} a0 q).offStack := by
    obtain ⟨a, m, e, h⟩ := popBufs_sent 5 (sent u a0 n) q
    exact ⟨a, m, e, h⟩
  obtain ⟨g, hg⟩ : ∃ g : CmdQueue → CmdQueue, g = fun c => { c with blocked := c.blocked || decide (hasWords c = 0) } := ⟨_, rfl⟩
  have hdone : packetDone u q f w = sent u (tmod {} q CmdQueue.atBoundary (tmod {} q g a1)) m := by
    rw [packetDone, hstart, hpop, boundary_eq, ← hg, modCq_sent, modCq_sent]
    exact remap_empty hr
  have hget : tget {} (tmod {} q CmdQueue.atBoundary (tmod {} q g a1)) q = (g (tget {} a1 q)).atBoundary := by
    rw [tmod, tget_tput_self, tmod, tget_tput_self]
  obtain ⟨hb1, hb2, hb3, hb4⟩ := CmdQueue.atBoundary_parts (g (tget {} a1 q))
  refine ⟨_, m, hdone, ?_, ?_, ?_, fun h => ?_⟩
  · rw [hget, hb1, hg]; exact (congrArg CmdQueue.st h1).trans (by rw [h0]; exact hst)
  · rw [hget, hb2, hg]; exact (congrArg CmdQueue.pend h1).trans (by rw [h0]; rfl)
  · rw [hget, hb3, hg]; exact (congrArg CmdQueue.rptr h1).trans (by rw [h0]; rfl)
  · have hstill : popBufs 5 (sent u a0 n) q = sent u a0 n := popBufs_still 5 fun b rest e => h b rest (by
      rw [← e, show getCq (sent u a0 n) q = tget {} a0 q from rfl, h0])
    have heq := congrArg State.tr (hstill.symm.trans hpop)
    have hacq : a1 = a0 := (congrArg Trestle.cqs heq).symm
    have hm : m = n := (congrArg Trestle.cpOut heq).symm
    rw [hget, hb4, hg, hacq, h0, hm, hn]
    exact ⟨rfl, rfl⟩

/-- A packet whose effect has been performed is done (R396). -/
theorem behind_done {s u : State} {q typ f : Nat} {p : List (BitVec 32)} (hp : Parses s q typ f p) (hu : Behind s q p u) (g : Nat) :
    ∃ a m, packetDone u q g (packetAt (getCq s q)) = sent u a m ∧ PacketDone s (sent u a m) q g p.length := by
  obtain ⟨hst, -⟩ := hp
  obtain ⟨hq, hrun, hout⟩ := hu
  obtain ⟨p1, -, p3, p4, p5⟩ := CmdQueue.parsing_parts (getCq s q)
  obtain ⟨t1, -, t3, t4⟩ := CmdQueue.past_parts (p1.trans hst) p.length
  obtain ⟨a, m, e, e1, e2, e3, e4⟩ := packetDone_sent g (packetAt (getCq s q)) hq hrun t1
  have hring : ringSize (getCq s q).parsing = ringSize (getCq s q) := by rw [ringSize, ringSize, p5]
  rw [p4, p3, hring] at t3
  rw [p4, p3] at t4
  refine ⟨a, m, e, ⟨fun hs => ?_, fun b rest hs hb => ?_⟩, e1, e2, fun hs => ?_⟩
  · obtain ⟨h1, h2⟩ := t3 hs
    have hstill : ∀ b rest, (takenCq s q p).stack = b :: rest → b.left ≠ 0 := fun b rest h => by
      rw [takenCq, h1] at h; cases h
    exact ⟨(e4 hstill).1.trans h1, e3.trans h2⟩
  · obtain ⟨h1, h2⟩ := t4 b rest hs
    have hstill : ∀ b rest, (takenCq s q p).stack = b :: rest → b.left ≠ 0 := fun b' rest' h => by
      rw [takenCq, h2] at h; cases h; exact Nat.sub_ne_zero_of_lt hb
    exact ⟨e3.trans h1, (e4 hstill).1.trans h2⟩
  · have hstill : ∀ b rest, (takenCq s q p).stack = b :: rest → b.left ≠ 0 := fun b rest h => by
      cases hstk : (getCq s q).stack with
      | nil => rw [takenCq, (t3 hstk).1] at h; cases h
      | cons b' rest' =>
        rw [takenCq, (t4 b' rest' hstk).2] at h
        rw [← (List.cons.inj h).1]
        exact Nat.sub_ne_zero_of_lt (hs b' rest' hstk)
    rw [← hout]
    exact (e4 hstill).2

/-- A packet that completes at once: its effect is performed on the machine that has consumed it. -/
theorem simplePacket_does {s : State} {q typ f : Nat} {p : List (BitVec 32)} (k : State → List (BitVec 32) → State) (hp : Parses s q typ f p)
    (hk : Behind s q p (k (taken s q typ p) p)) :
    ∃ a m, simplePacket s q typ k = .next (sent (k (taken s q typ p) p) a m) ∧
      PacketDone s (sent (k (taken s q typ p) p) a m) q f p.length := by
  obtain ⟨a, m, e, hd⟩ := behind_done hp hk f
  refine ⟨a, m, ?_, hd⟩
  rw [simplePacket, packet_parses hp, ← e]
  rfl

end Sys2Proof.Machine
end

section
namespace Sys2Proof.Machine

/-! What closing the open batch leaves of Trestle (R46, R47). -/

theorem tr_of_offKs {s t : State} (h : offKs t = offKs s) : t.tr = s.tr := (congrArg State.tr h :)

theorem offJournal_numberOne (s : State) (e : BatchEnt) (n : Nat) : (numberOne s e n).tr.offJournal = s.tr.offJournal := by
  unfold numberOne
  split
  · split
    · rfl
    · dsimp only
      split
      · exact jlog_offJournal ..
      · rfl
  · rfl

theorem offJournal_numberBatch (s : State) (b : List BatchEnt) (batch pos : Nat) :
    (numberBatch s b batch pos).1.tr.offJournal = s.tr.offJournal :=
  foldl_proj (π := fun s : State => s.tr.offJournal) (fun u x => by obtain ⟨e, i⟩ := x; exact offJournal_numberOne ..) _ _

theorem offJournal_closeBatch (s : State) : (closeBatch s).tr.offJournal = s.tr.offJournal := by
  rw [closeBatch]
  split
  · rfl
  · split
    · rfl
    · dsimp only
      split
      · rfl
      · rw [tr_of_offKs (offKs_feed ..), offJournal_numberBatch]; rfl

theorem offJournal_closeBatch_or (s : State) (p : Prop) [Decidable p] :
    (if p then closeBatch s else s).tr.offJournal = s.tr.offJournal := by
  split
  · exact offJournal_closeBatch s
  · rfl

theorem offJournal_placeEnts (s : State) (es : List BatchEnt) : (placeEnts s es).tr.offJournal = s.tr.offJournal := by
  rw [placeEnts, offJournal_closeBatch_or]
  exact offJournal_closeBatch_or ..

/-! Cuts begin when their markers are numbered (R68). -/

/-- How many cuts are under way. -/
def cutLen (s : State) : Nat := s.ks.cutSt.length

theorem cutLen_maybeReady (s : State) (u : Nat) : cutLen (maybeReady s u) = cutLen s := by
  obtain e | ⟨_, -, -, e | ⟨_, e⟩⟩ := maybeReady_or s u <;> rw [e] <;> rfl

theorem cutLen_poolAll (s : State) : cutLen (poolAll s) = cutLen s :=
  poolTry_keeps (P := fun t => cutLen t = cutLen s) (fun _ _ _ _ h => h) (fun u v h => (cutLen_maybeReady u v).trans h) _ s rfl

theorem cutLen_pushChan (s : State) (ab : Nat) (e : ChanEnt) : cutLen (pushChan s ab e) = cutLen s := rfl

theorem cutLen_pushAll (s : State) (e : ChanEnt) : cutLen (pushAll s e) = cutLen s :=
  foldl_proj (π := cutLen) (fun _ _ => cutLen_pushChan ..) _ _

theorem cutLen_feedReqs (s : State) (e : ManifestEntry) (n : Nat) : cutLen (feedReqs s e n) = cutLen s :=
  foldl_proj (π := cutLen) (fun _ _ => by split <;> rfl) _ _

theorem cutLen_feedTxn (s : State) (n : Nat) : cutLen (feedTxn s n) = cutLen s := by
  unfold feedTxn
  split
  · split
    · exact cutLen_maybeReady ..
    · rfl
  · rfl

/-- A fed entry begins a cut if it is a marker of this module. -/
theorem cutLen_feedOne (s : State) (e : ManifestEntry) (n : Nat) :
    cutLen s ≤ cutLen (feedOne s true e n) ∧ ∀ g, e.kind = .marker g → cutLen s < cutLen (feedOne s true e n) := by
  have hm : ∀ u, cutLen (pushAll (cutNumber u n) .marker) = cutLen u + 1 := fun u => by
    rw [cutLen_pushAll]; exact List.length_append
  rw [feedOne_eq, cutLen_feedTxn, cutLen_feedReqs, feedMarker]
  split
  · simp only [Bool.true_or, if_true]
    rw [hm]
    exact ⟨Nat.le_succ _, fun _ _ => Nat.lt_succ_self _⟩
  · next h => exact ⟨le_rfl, fun g hg => absurd hg (h g)⟩

theorem cutLen_feedAll (l : List (ManifestEntry × Nat)) (f : Nat → Nat) (s : State) :
    cutLen s ≤ cutLen (l.foldl (fun s (e, i) => feedOne s true e (f i)) s) ∧
      ((∃ x ∈ l, ∃ g, x.1.kind = .marker g) → cutLen s < cutLen (l.foldl (fun s (e, i) => feedOne s true e (f i)) s)) := by
  induction l generalizing s with
  | nil => exact ⟨le_rfl, fun ⟨_, h, _⟩ => absurd h List.not_mem_nil⟩
  | cons y l ih =>
    obtain ⟨e, i⟩ := y
    obtain ⟨h1, h2⟩ := cutLen_feedOne s e (f i)
    obtain ⟨i1, i2⟩ := ih (feedOne s true e (f i))
    refine ⟨h1.trans i1, fun ⟨x, hx, g, hg⟩ => ?_⟩
    rcases List.mem_cons.mp hx with rfl | hx
    · exact (h2 g hg).trans_le i1
    · exact h1.trans_lt (i2 ⟨x, hx, g, hg⟩)

theorem cutLen_numberOne (s : State) (e : BatchEnt) (n : Nat) : cutLen (numberOne s e n) = cutLen s := by
  unfold numberOne
  split
  · split
    · rfl
    · dsimp only
      split
      · rw [cutLen, jlog_ks]; rfl
      · rfl
  · rfl

theorem cutLen_numberBatch (s : State) (b : List BatchEnt) (batch pos : Nat) : cutLen (numberBatch s b batch pos).1 = cutLen s :=
  foldl_proj (π := cutLen) (fun u x => by obtain ⟨e, i⟩ := x; exact cutLen_numberOne ..) _ _

theorem cutLen_feed (s : State) (pos batch : Nat) (es : List ManifestEntry) :
    cutLen s ≤ cutLen (feed s pos batch true es) ∧ ((∃ e ∈ es, ∃ g, e.kind = .marker g) → cutLen s < cutLen (feed s pos batch true es)) := by
  obtain ⟨h1, h2⟩ := cutLen_feedAll (es.zip (span 0 es.length)) (fun i => batch * 2 ^ 16 + pos * 2 ^ 10 + i) s
  rw [feed, cutLen_poolAll, cutLen_pushAll]
  refine ⟨h1, fun ⟨e, he, g, hg⟩ => h2 ?_⟩
  have hmem : e ∈ (es.zip (span 0 es.length)).map Prod.fst := by rw [List.map_fst_zip (by rw [span_length])]; exact he
  obtain ⟨x, hx, rfl⟩ := List.mem_map.mp hmem
  exact ⟨x, hx, g, hg⟩

/-- Closing a batch outside a group ends no cut, and begins one if it holds a marker (R68). -/
theorem cutLen_closeBatch {s : State} (hg : s.ks.group = none) :
    cutLen s ≤ cutLen (closeBatch s) ∧ ((∃ m, .marker m ∈ s.ks.openB) → cutLen s < cutLen (closeBatch s)) := by
  cases hb : s.ks.openB.isEmpty with
  | true =>
    rw [closeBatch, hb]
    refine ⟨le_rfl, fun ⟨m, hm⟩ => ?_⟩
    rw [List.isEmpty_iff.mp hb] at hm
    exact absurd hm List.not_mem_nil
  | false =>
    obtain ⟨n, hn⟩ : ∃ n, n = numberBatch (modKs (modKs s fun k => { k with openB := [], closeDue := false }) fun k =>
        { k with batch := s.ks.batch + 1 }) s.ks.openB (s.ks.batch + 1) 0 := ⟨_, rfl⟩
    have he : closeBatch s = feed n.1 0 (s.ks.batch + 1) true n.2 := by
      rw [hn]
      simp only [closeBatch, hb, hg, Bool.false_eq_true, if_false, Option.isSome_none, Bool.false_and, modKs]
    have hs : cutLen n.1 = cutLen s := by rw [hn, cutLen_numberBatch]; rfl
    obtain ⟨h1, h2⟩ := cutLen_feed n.1 0 (s.ks.batch + 1) n.2
    rw [he, ← hs]
    refine ⟨h1, fun ⟨m, hm⟩ => h2 ⟨_, ?_, m, (rfl : (manifestOf n.1 (.marker m)).kind = .marker m)⟩⟩
    rw [hn]
    exact List.mem_map_of_mem hm

theorem closeBatch_empty {s : State} (h : s.ks.openB = []) : closeBatch s = s := by
  have hb : s.ks.openB.isEmpty = true := by rw [h]; rfl
  rw [closeBatch, hb]
  rfl

theorem closeBatch_again {s : State} (h : (closeBatch s).ks.openB = []) (p : Prop) [Decidable p] :
    closeBatch (if p then closeBatch s else s) = closeBatch s := by
  split
  · exact closeBatch_empty h
  · rfl

/-- The open batch with entries placed in it (R47). -/
def entered (s : State) (es : List BatchEnt) : State :=
  modKs s fun k => { k with openB := k.openB ++ es, openAt := if k.openB.isEmpty then s.cycle else k.openAt }

theorem entered_ks (s : State) (es : List BatchEnt) : (entered s es).ks.openB = s.ks.openB ++ es ∧ (entered s es).ks.closed = s.ks.closed ∧
    (entered s es).ks.group = s.ks.group ∧ cutLen (entered s es) = cutLen s := ⟨rfl, rfl, rfl, rfl⟩

theorem placeEnts_eq (s : State) (es : List BatchEnt) : ∃ p, ∃ _ : Decidable p,
    placeEnts s es = if p then closeBatch (entered (if 1024 < s.ks.openB.length + es.length then closeBatch s else s) es)
      else entered (if 1024 < s.ks.openB.length + es.length then closeBatch s else s) es := ⟨_, _, rfl⟩

/-- A marker placed outside a group begins its cut when its batch closes. -/
theorem marker_closes {s : State} (hg : s.ks.group = none) (m : Bool) :
    (closeBatch (placeEnts s [.marker m])).ks.openB = [] ∧ cutLen s < cutLen (closeBatch (placeEnts s [.marker m])) := by
  obtain ⟨p, inst, hplace⟩ := placeEnts_eq s [.marker m]
  obtain ⟨u, hu⟩ : ∃ u, u = if 1024 < s.ks.openB.length + [BatchEnt.marker m].length then closeBatch s else s := ⟨_, rfl⟩
  have hug : u.ks.group = none := by
    rw [hu, (groupPart_parts (groupPart_closeBatch_or ..)).2]; exact hg
  have hul : cutLen s ≤ cutLen u := by
    rw [hu]; split
    · exact (cutLen_closeBatch hg).1
    · exact le_rfl
  obtain ⟨hvb, -, hvg, hvl⟩ := entered_ks u [.marker m]
  rw [← hu] at hplace
  obtain ⟨v, hv⟩ : ∃ v, v = entered u [.marker m] := ⟨_, rfl⟩
  rw [← hv] at hvb hvg hvl hplace
  have hvm : .marker m ∈ v.ks.openB := by rw [hvb]; exact List.mem_append_right _ (List.mem_singleton_self _)
  have hopen := (closeBatch_alone (List.ne_nil_of_mem hvm) (hvg.trans hug)).1
  have hcut := (cutLen_closeBatch (hvg.trans hug)).2 ⟨m, hvm⟩
  rw [hplace, closeBatch_again hopen]
  exact ⟨hopen, (hul.trans hvl.ge).trans_lt hcut⟩

/-- In a group a marker's batch joins those that wait for the token (R49, R68). -/
theorem marker_waits {s : State} (hg : s.ks.group ≠ none) (hc : s.ks.closed.length < 4) (hb : s.ks.openB.length < 1024) (m : Bool) :
    (closeBatch (placeEnts s [.marker m])).ks.openB = [] ∧
      (closeBatch (placeEnts s [.marker m])).ks.closed = s.ks.closed ++ [s.ks.openB ++ [.marker m]] := by
  obtain ⟨p, inst, hplace⟩ := placeEnts_eq s [.marker m]
  have hroom : ¬ 1024 < s.ks.openB.length + [BatchEnt.marker m].length := Nat.not_lt.mpr hb
  rw [if_neg hroom] at hplace
  obtain ⟨hvb, hvc, hvg, -⟩ := entered_ks s [.marker m]
  obtain ⟨v, hv⟩ : ∃ v, v = entered s [.marker m] := ⟨_, rfl⟩
  rw [← hv] at hvb hvg hvc hplace
  have hne : v.ks.openB ≠ [] := by rw [hvb]; exact List.append_ne_nil_of_right_ne_nil _ (List.cons_ne_nil _ _)
  have hclose : closeBatch v = modKs v fun k => { k with openB := [], closeDue := false, closed := k.closed ++ [v.ks.openB] } := by
    rw [closeBatch_group hne (by rw [hvg]; exact hg), hvc, if_neg (Nat.not_le.mpr hc)]
  have hopen : (closeBatch v).ks.openB = [] := by rw [hclose]; rfl
  rw [hplace, closeBatch_again hopen]
  refine ⟨hopen, ?_⟩
  rw [hclose, ← hvc, ← hvb]
  rfl

/-! The packets that complete at once (R397). -/

section
variable {s : State} {q f : Nat} {p : List (BitVec 32)}

theorem nop_does (hp : Parses s q 1 f p) : Does (.nop q) s fun t =>
    PacketDone s t q f p.length ∧ t.slots = s.slots ∧ t.ks = s.ks ∧ t.flight = s.flight := by
  obtain ⟨a, m, e, hd⟩ := simplePacket_does (fun s _ => s) hp (taken_behind hp)
  have hset := taken_setting s q 1 p
  exact ⟨_, e, hd, taken_slots .., taken_ks .., (congrArg State.flight hset :)⟩

theorem close_behind (hp : Parses s q 3 f p) : Behind s q p (closeBatch (taken s q 3 p)) :=
  (taken_behind hp).of_tr (offJournal_closeBatch _)

theorem close_alone (hb : s.ks.openB ≠ []) (hg : s.ks.group = none) (hp : Parses s q 3 f p) : Does (.close q) s fun t =>
    PacketDone s t q f p.length ∧ t.ks.openB = [] ∧ t.ks.batch = s.ks.batch + 1 := by
  obtain ⟨a, m, e, hd⟩ := simplePacket_does (fun s _ => closeBatch s) hp (close_behind hp)
  have hk := taken_ks s q 3 p
  have hc := closeBatch_alone (s := taken s q 3 p) (by rw [hk]; exact hb) (by rw [hk]; exact hg)
  rw [hk] at hc
  exact ⟨_, e, hd, hc⟩

theorem close_group (hb : s.ks.openB ≠ []) (hg : s.ks.group ≠ none) (hc : s.ks.closed.length < 4) (hp : Parses s q 3 f p) :
    Does (.close q) s fun t => PacketDone s t q f p.length ∧ t.ks.openB = [] ∧ t.ks.closed = s.ks.closed ++ [s.ks.openB] := by
  obtain ⟨a, m, e, hd⟩ := simplePacket_does (fun s _ => closeBatch s) hp (close_behind hp)
  have hk := taken_ks s q 3 p
  have hclose := closeBatch_group (s := taken s q 3 p) (by rw [hk]; exact hb) (by rw [hk]; exact hg)
  rw [hk, if_neg (Nat.not_le.mpr hc)] at hclose
  refine ⟨_, e, hd, ?_⟩
  change (closeBatch (taken s q 3 p)).ks.openB = [] ∧ (closeBatch (taken s q 3 p)).ks.closed = _
  rw [hclose, ← hk]
  exact ⟨rfl, rfl⟩

theorem wake_does (hp : Parses s q 7 f p) : Does (.wake q) s fun t => PacketDone s t q f p.length ∧
    getSlot t (pf p 0 12 0) = { getSlot s (pf p 0 12 0) with
      hsw := setBit (getSlot s (pf p 0 12 0)).hsw 8 true, wakeval := wd (long p 1) } ∧
    ∀ k, k ≠ pf p 0 12 0 → getSlot t k = getSlot s k := by
  obtain ⟨a, m, e, hd⟩ := simplePacket_does (fun s p => wakeHart s (pf p 0 12 0) (wd (long p 1))) hp ((taken_behind hp).of_tr rfl)
  have hs : ∀ k, getSlot (taken s q 7 p) k = getSlot s k := fun k => by rw [getSlot, taken_slots]; rfl
  refine ⟨_, e, hd, ?_, fun k hk => ?_⟩
  · change getSlot (wakeHart (taken s q 7 p) (pf p 0 12 0) (wd (long p 1))) (pf p 0 12 0) = _
    rw [wakeHart, setPending, modHsw, getSlot_modSlot_self, getSlot_modSlot_self, hs]
  · change getSlot (wakeHart (taken s q 7 p) (pf p 0 12 0) (wd (long p 1))) k = _
    rw [wakeHart, setPending, modHsw, getSlot_modSlot_ne _ _ hk, getSlot_modSlot_ne _ _ hk, hs]

/-- REGWRITE of a stage's threshold (R190, R397). -/
theorem regwrite_does {st : Nat} {v : Word} (h16 : st < 16) (h31 : pf p 0 31 31 = 0) (hoff : pf p 0 13 0 = 0x200 + st)
    (hv : v = wd (long p 1)) (h1 : fld v 15 0 ≤ fld v 31 16) (h2 : fld v 43 32 ≤ 2048) (h3 : fld v 63 44 = 0) (hp : Parses s q 8 f p) :
    Does (.regwrite q) s fun t => PacketDone s t q f p.length ∧ ksReg t (0x1000 + 8 * st) = v := by
  obtain ⟨u, hu⟩ : ∃ u, u = taken s q 8 p := ⟨_, rfl⟩
  have hwrite : regWrite u false (if pf p 0 31 31 = 1 then .trestle else .keystone) (8 * pf p 0 13 0) (wd (long p 1)) =
      modKs u fun k => { k with regs := tput (0x1000 + 8 * st) v k.regs } := by
    have hne : ¬ (0x2200 ≤ 8 * (0x200 + st) ∧ 8 * (0x200 + st) < 0x4000) := by omega
    have hst : (8 * (0x200 + st) - 0x1000) / 8 = st := by omega
    rw [h31, hoff, ← hv, if_neg (by decide), regWrite]
    simp only [ksStore]
    rw [if_neg (by simp only [Bool.and_eq_true, decide_eq_true_eq]; omega), ksWrite, if_neg (by omega),
      if_pos (by simp only [Bool.and_eq_true, decide_eq_true_eq]; omega), hst, sgthrWrite,
      if_neg (by simp only [Bool.or_eq_true, decide_eq_true_eq, h3]; omega)]
  have hb : Behind s q p (regWrite u false (if pf p 0 31 31 = 1 then .trestle else .keystone) (8 * pf p 0 13 0) (wd (long p 1))) := by
    rw [hwrite, hu]; exact (taken_behind hp).of_tr rfl
  rw [hu] at hb hwrite
  obtain ⟨a, m, e, hd⟩ := simplePacket_does (fun s p =>
    regWrite s false (if pf p 0 31 31 = 1 then .trestle else .keystone) (8 * pf p 0 13 0) (wd (long p 1))) hp hb
  refine ⟨_, e, hd, ?_⟩
  rw [hwrite]
  exact tget_tput_self ..

theorem cut_behind (hp : Parses s q 9 f p) :
    Behind s q p (closeBatch (placeEnts (taken s q 9 p) [.marker (pf p 0 0 0 = 1)])) :=
  ((taken_behind hp).of_tr (offJournal_placeEnts ..)).of_tr (offJournal_closeBatch _)

theorem cut_alone (hg : s.ks.group = none) (hp : Parses s q 9 f p) : Does (.cut q) s fun t =>
    PacketDone s t q f p.length ∧ t.ks.openB = [] ∧ s.ks.cutSt.length < t.ks.cutSt.length := by
  have hroom : entryRoom s = true := by
    rw [entryRoom, hg, Option.isSome_none, Bool.false_and, Bool.not_false, Bool.or_true]
  have hk := taken_ks s q 9 p
  obtain ⟨a, m, e, hd⟩ := simplePacket_does (fun s p => closeBatch (placeEnts s [.marker (pf p 0 0 0 = 1)])) hp (cut_behind hp)
  have hm := marker_closes (s := taken s q 9 p) (by rw [hk]; exact hg) (pf p 0 0 0 = 1)
  rw [cutLen, hk] at hm
  exact ⟨_, (if_pos hroom).trans e, hd, hm⟩

theorem cut_group (hg : s.ks.group ≠ none) (hc : s.ks.closed.length < 4) (hb : s.ks.openB.length < 1024) (hp : Parses s q 9 f p) :
    Does (.cut q) s fun t => PacketDone s t q f p.length ∧ t.ks.openB = [] ∧
      t.ks.closed = s.ks.closed ++ [s.ks.openB ++ [.marker (pf p 0 0 0 = 1)]] := by
  have hroom : entryRoom s = true := by rw [entryRoom, decide_eq_true hb, Bool.true_or]
  have hk := taken_ks s q 9 p
  obtain ⟨a, m, e, hd⟩ := simplePacket_does (fun s p => closeBatch (placeEnts s [.marker (pf p 0 0 0 = 1)])) hp (cut_behind hp)
  have hm := marker_waits (s := taken s q 9 p) (by rw [hk]; exact hg) (by rw [hk]; exact hc) (by rw [hk]; exact hb) (pf p 0 0 0 = 1)
  rw [hk] at hm
  exact ⟨_, (if_pos hroom).trans e, hd, hm⟩

/-- INDIRECT: the thread parses the buffer next (R399). -/
theorem indirect_does (hp : Parses s q 6 f p) (hs : (getCq s q).stack = []) : Does (.indirect q) s fun t =>
    (getCq t q).stack = [⟨long p 1, pf p 0 23 0, (getCq s q).rptr, decide (f / 2 % 2 = 1)⟩] ∧
    (getCq t q).rptr = ((getCq s q).rptr + p.length + 1) % ringSize (getCq s q) ∧ t.tr.cpOut = s.tr.cpOut := by
  obtain ⟨hq, -, hout⟩ := taken_behind hp
  obtain ⟨hst, -⟩ := id hp
  obtain ⟨p1, -, p3, p4, p5⟩ := CmdQueue.parsing_parts (getCq s q)
  obtain ⟨-, -, t3, -⟩ := CmdQueue.past_parts (p1.trans hst) p.length
  obtain ⟨t3s, t3r⟩ := t3 (p4.trans hs)
  have hat : packetAt (getCq s q) = (getCq s q).rptr := by rw [packetAt, hs]
  refine ⟨modCq (taken s q 6 p) q fun c => { c with
    stack := ⟨long p 1, pf p 0 23 0, packetAt (getCq s q), f / 2 % 2 = 1⟩ :: c.stack }, ?_, ?_⟩
  · change Host.Outcome.next _ = _
    rw [packet_parses hp]
    rfl
  · dsimp only
    rw [getCq_modCq_self, hq, takenCq, t3s, hat]
    refine ⟨rfl, ?_, hout⟩
    rw [show ringSize (getCq s q) = ringSize (getCq s q).parsing by rw [ringSize, ringSize, p5], ← p3]
    exact t3r

/-- The completions that have come are notified (R396). -/
theorem owed_paid {o : Owed} (ho : s.tr.owed = [o]) (hq : o.queue = q) (hpaid : o.paid s = true) :
    payOwed s q o.typ = some { s with tr := { s.tr with owed := [], cpOut := s.tr.cpOut ++ [.notify q o.whr] } } := by
  have hl : (s.tr.owed.filter fun x => decide (x.queue = q) && decide (x.typ = o.typ) && x.paid s) = [o] := by
    rw [ho]; simp [hq, hpaid]
  have hrest : (s.tr.owed.filter fun x => !(([o] : List Owed).contains x)) = [] := by rw [ho]; simp
  rw [payOwed, hl]
  simp only [List.isEmpty_cons, Bool.false_eq_true, if_false, modTr, hrest, List.map_cons, List.map_nil]

theorem owed_does {o : Owed} (ho : s.tr.owed = [o]) (hq : o.queue = q) (hpaid : o.paid s = true) :
    ∀ i ∈ [(5, Instr.write q), (10, .stage q), (11, .switch q)], o.typ = i.1 →
      exec i.2 s = .next { s with tr := { s.tr with owed := [], cpOut := s.tr.cpOut ++ [.notify q o.whr] } } := by
  intro i hi ht
  have hpay := owed_paid ho hq hpaid
  have hlast : ∀ k, lastingPacket s q o.typ k =
      .next { s with tr := { s.tr with owed := [], cpOut := s.tr.cpOut ++ [.notify q o.whr] } } := fun k => by
    rw [lastingPacket, hpay]
  simp only [List.mem_cons, List.not_mem_nil, or_false] at hi
  rcases hi with rfl | rfl | rfl
  · rw [ht] at hlast; exact hlast _
  · rw [ht] at hlast; exact hlast _
  · rw [ht] at hlast; exact hlast _

end

end Sys2Proof.Machine
end

section
namespace Sys2Proof.Machine

/-! Packets that may last: STAGE and SWITCH (R29, R30, R396). -/

theorem PacketDone.of_flags {s t : State} {q f g n : Nat} (h : PacketDone s t q f n) (e : f / 2 % 2 = 1 ↔ g / 2 % 2 = 1) :
    PacketDone s t q g n := by
  obtain ⟨h1, h2, h3, h4⟩ := h
  refine ⟨h1, h2, h3, fun hs => (h4 hs).trans ?_⟩
  simp only [e]

theorem taken_owed (s : State) (q typ : Nat) (p : List (BitVec 32)) : (taken s q typ p).tr.owed = s.tr.owed := by
  obtain ⟨a, -, e⟩ := taken_eq s q typ p
  rw [e]
  exact (congrArg Trestle.owed (jlog_offJournal ..) :)

/-- The end of a packet whose effect may last, with its effect: it has completed, or its notification is owed (R396). -/
def lastingEnd (q typ f w : Nat) (r : State × Option Nat × List Nat) : State :=
  let o : Owed := ⟨q, typ, w, r.2.1, r.2.2⟩
  if f / 2 % 2 = 1 && !o.paid r.1 then packetDone (modTr r.1 fun t => { t with owed := t.owed ++ [o] }) q 0 w
  else packetDone r.1 q f w

theorem lastingPacket_parses {s : State} {q typ f : Nat} {p : List (BitVec 32)} (k : State → List (BitVec 32) → State × Option Nat × List Nat)
    (hp : Parses s q typ f p) (hpay : payOwed s q typ = none) :
    lastingPacket s q typ k = .next (lastingEnd q typ f (packetAt (getCq s q)) (k (taken s q typ p) p)) := by
  rw [lastingPacket, hpay]
  dsimp only
  rw [packet_parses hp]
  rfl

/-- A packet whose effect lasts as long as cores of its own have not moved: it is done, or its notification is owed. -/
theorem lastingPacket_does {s : State} {q typ f : Nat} {p : List (BitVec 32)} {k : State → List (BitVec 32) → State × Option Nat × List Nat}
    {u : State} {late : List Nat} (hp : Parses s q typ f p) (hpay : payOwed s q typ = none) (hk : k (taken s q typ p) p = (u, none, late))
    (hu : Behind s q p u) (ho : u.tr.owed = s.tr.owed)
    (hl : ∀ c ∈ late, ((switchOf u c).isNone && (getCore u c).move.isNone) = false) :
    ∃ t, lastingPacket s q typ k = .next t ∧ Lasting s t q typ f p.length late ∧ t.ks = u.ks ∧ t.cores = u.cores := by
  obtain ⟨o, hoo⟩ : ∃ o : Owed, o = ⟨q, typ, packetAt (getCq s q), none, late⟩ := ⟨_, rfl⟩
  have hpaid : o.paid u = decide (late = []) := by
    rw [hoo, Owed.paid]
    cases late with
    | nil => rfl
    | cons c rest => simp [hl c List.mem_cons_self]
  rw [lastingPacket_parses k hp hpay, hk, lastingEnd]
  dsimp only
  rw [← hoo]
  cases hlate : decide (late = []) with
  | true =>
    have hnil := of_decide_eq_true hlate
    obtain ⟨a, m, e, hd⟩ := behind_done hp hu f
    rw [hpaid, hlate, Bool.not_true, Bool.and_false, if_neg Bool.false_ne_true, e]
    refine ⟨_, rfl, ⟨?_, ?_⟩, rfl, rfl⟩
    · rw [if_pos hnil]; exact hd
    · rw [if_neg fun h => h.1 hnil, List.append_nil]; exact ho
  | false =>
    have hcons := of_decide_eq_false hlate
    rw [hpaid, hlate, Bool.not_false, Bool.and_true]
    by_cases hf : f / 2 % 2 = 1
    · obtain ⟨h1, h2, h3⟩ := hu
      obtain ⟨a, m, e, hd⟩ := behind_done (u := modTr u fun t => { t with owed := t.owed ++ [o] }) hp ⟨h1, h2, h3⟩ 0
      rw [if_pos (decide_eq_true hf), e]
      refine ⟨_, rfl, ⟨?_, ?_⟩, rfl, rfl⟩
      · rw [if_neg hcons]; exact hd
      · rw [if_pos ⟨hcons, hf⟩, ← hoo, ← ho]; rfl
    · obtain ⟨a, m, e, hd⟩ := behind_done hp hu f
      rw [if_neg (by simpa using hf), e]
      refine ⟨_, rfl, ⟨?_, ?_⟩, rfl, rfl⟩
      · rw [if_neg hcons]; exact hd.of_flags ⟨fun h => absurd h hf, fun h => absurd h (by decide)⟩
      · rw [if_neg fun h => hf h.2, List.append_nil]; exact ho

/-! The cores that a STAGE marks (R29). -/

theorem stage_putBytes (s : State) (key : Nat) (cells : List (Nat × Byte)) (psn : Bool) (c : Nat) :
    (getCore (putBytes s key cells psn) c).stage = (getCore s c).stage := by
  obtain ⟨u, e, hu⟩ := putBytes_offMem s key cells psn
  have hc : u.cores = s.cores := (congrArg State.cores hu :)
  rw [e, (congrArg Core.stage ((unitsKept_markStale u _).1 c) :), getCore, getCore, hc]

theorem stage_put64 (s : State) (pa : Nat) (v : Word) (psn : Bool) (c : Nat) :
    (getCore (put64 s pa v psn) c).stage = (getCore s c).stage := stage_putBytes ..

theorem stage_jwrite (s : State) (l : JLine) (c : Nat) : (getCore (jwrite s l) c).stage = (getCore s c).stage := by
  simp only [jwrite]
  split
  · rfl
  · split <;> split <;> simp [bumpTr, stage_put64]

theorem stage_jlog (s : State) (kind queue status whr : Nat) (d0 d1 : Word) (c : Nat) :
    (getCore (jlog s kind queue status whr d0 d1) c).stage = (getCore s c).stage := by
  simp only [jlog]
  split
  · rfl
  · exact stage_jwrite ..

theorem stage_taken (s : State) (q typ : Nat) (p : List (BitVec 32)) (c : Nat) :
    (getCore (taken s q typ p) c).stage = (getCore s c).stage := by
  obtain ⟨a, -, e⟩ := taken_eq s q typ p
  rw [e, stage_jlog]
  rfl

/-- One core is marked for a stage, unless it holds a gang member or is being switched. -/
def markMove (st : Nat) (s : State) (c : Nat) : State :=
  if (switchOf s c).isSome || holdsGang s c then s
  else modCore s c fun k => { k with move := if k.stage = st then none else some st }

theorem markMoves_eq (s : State) (cs : List Nat) (st : Nat) : markMoves s cs st = cs.foldl (markMove st) s := rfl

theorem markMove_kept (st : Nat) (s : State) (c : Nat) :
    (markMove st s c).ks = s.ks ∧ (markMove st s c).tr = s.tr ∧ ∀ k, (getCore (markMove st s c) k).stage = (getCore s k).stage := by
  unfold markMove
  split
  · exact ⟨rfl, rfl, fun _ => rfl⟩
  · refine ⟨rfl, rfl, fun k => ?_⟩
    by_cases hk : k = c
    · rw [hk, getCore_modCore_self]
    · rw [getCore_modCore_ne _ _ hk]

/-- The mark that a core gets. -/
def moveTo (s : State) (st k : Nat) : Option Nat := if (getCore s k).stage = st then none else some st

theorem moveTo_markMove (st : Nat) (s : State) (c k : Nat) : moveTo (markMove st s c) st k = moveTo s st k := by
  rw [moveTo, moveTo, (markMove_kept st s c).2.2]

theorem switchOf_ks {s t : State} (h : t.ks = s.ks) (k : Nat) : switchOf t k = switchOf s k := by rw [switchOf, switchOf, h]
theorem holdsGang_ks {s t : State} (h : t.ks = s.ks) (k : Nat) : holdsGang t k = holdsGang s k := by
  rw [holdsGang, holdsGang, onCore, onCore, h]

/-- A core that may be marked has its mark once its turn has come. -/
theorem markMove_move {st : Nat} {s : State} {c k : Nat} (h1 : switchOf s k = none) (h2 : holdsGang s k = false)
    (h : k = c ∨ (getCore s k).move = moveTo s st k) : (getCore (markMove st s c) k).move = moveTo s st k := by
  unfold markMove
  by_cases hk : k = c
  · rw [← hk, h1, h2]
    simp only [Option.isSome_none, Bool.or_self, Bool.false_eq_true, if_false, getCore_modCore_self]
    rfl
  · split
    · exact h.resolve_left hk
    · rw [getCore_modCore_ne _ _ hk]; exact h.resolve_left hk

theorem markMoves_does (cs : List Nat) (st : Nat) (s : State) :
    (markMoves s cs st).ks = s.ks ∧ (markMoves s cs st).tr = s.tr ∧
      ∀ k, (k ∈ cs ∨ (getCore s k).move = moveTo s st k) → switchOf s k = none → holdsGang s k = false →
        (getCore (markMoves s cs st) k).move = moveTo s st k := by
  induction cs generalizing s with
  | nil => exact ⟨rfl, rfl, fun k h _ _ => h.resolve_left List.not_mem_nil⟩
  | cons c cs ih =>
    obtain ⟨hk, ht, -⟩ := markMove_kept st s c
    obtain ⟨i1, i2, i3⟩ := ih (markMove st s c)
    rw [markMoves_eq] at i1 i2
    refine ⟨i1.trans hk, i2.trans ht, fun k h h1 h2 => ?_⟩
    have h3 := i3 k ?_ ((switchOf_ks hk k).trans h1) ((holdsGang_ks hk k).trans h2)
    · rw [moveTo_markMove] at h3
      exact h3
    · rw [moveTo_markMove]
      rcases h with h | h
      · rcases List.mem_cons.mp h with h | h
        · exact .inr (markMove_move h1 h2 (.inl h))
        · exact .inl h
      · exact .inr (markMove_move h1 h2 (.inr h))

section
variable {s : State} {q f : Nat} {p : List (BitVec 32)}

/-- STAGE: the cores of the range are marked for their new stage (R29, R397). -/
theorem stage_does (hpay : payOwed s q 10 = none) (hp : Parses s q 10 f p) : Does (.stage q) s fun t =>
    let late := (span (pf p 0 10 0) (pf p 1 10 0 + 1 - pf p 0 10 0)).filter fun k => (getCore t k).move.isSome
    Lasting s t q 10 f p.length late ∧
    ∀ k, pf p 0 10 0 ≤ k → k ≤ pf p 1 10 0 → switchOf s k = none → holdsGang s k = false →
      (getCore t k).move = if (getCore s k).stage = pf p 0 31 28 then none else some (pf p 0 31 28) := by
  obtain ⟨cs, hcs⟩ : ∃ cs, cs = span (pf p 0 10 0) (pf p 1 10 0 + 1 - pf p 0 10 0) := ⟨_, rfl⟩
  have hks := taken_ks s q 10 p
  have hstage := stage_taken s q 10 p
  have hbehind := taken_behind hp
  have howed := taken_owed s q 10 p
  obtain ⟨v, hv⟩ : ∃ v, v = taken s q 10 p := ⟨_, rfl⟩
  rw [← hv] at hks hstage hbehind howed
  obtain ⟨m1, m2, m3⟩ := markMoves_does cs (pf p 0 31 28) v
  obtain ⟨u, hu⟩ : ∃ u, u = markMoves v cs (pf p 0 31 28) := ⟨_, rfl⟩
  rw [← hu] at m1 m2 m3
  obtain ⟨t, hex, hlast, -, hcores⟩ := lastingPacket_does (u := u) (late := cs.filter fun c => (getCore u c).move.isSome)
    (k := fun s p =>
      let cs := span (pf p 0 10 0) (pf p 1 10 0 + 1 - pf p 0 10 0)
      let s := markMoves s cs (pf p 0 31 28)
      (s, none, cs.filter fun c => (getCore s c).move.isSome)) hp hpay (by rw [hu, hcs, hv]) (hbehind.of_tr (congrArg _ m2))
    ((congrArg Trestle.owed m2).trans howed) fun c hc => by
      obtain ⟨-, hsome⟩ := List.mem_filter.mp hc
      rw [Option.isNone_eq_false_iff.mpr hsome, Bool.and_false]
  have hget : ∀ k, getCore t k = getCore u k := fun k => by rw [getCore, hcores]; rfl
  refine ⟨t, hex, ?_, fun k h1 h2 h3 h4 => ?_⟩
  · simp only [hget, ← hcs]
    exact hlast
  · rw [hget, m3 k (.inl ?_) ((switchOf_ks hks k).trans h3) ((holdsGang_ks hks k).trans h4), moveTo, hstage]
    rw [hcs, mem_span]; omega

/-! The cores that a SWITCH takes (R30, R31). -/

theorem chooseCores_parts (s : State) (cand : List Nat) (n : Nat) (order got : List Nat) (hl : got.length ≤ n) (hc : ∀ c ∈ got, c ∈ cand) :
    (chooseCores s cand n order got).length ≤ n ∧ ∀ c ∈ chooseCores s cand n order got, c ∈ cand := by
  induction order generalizing got with
  | nil => exact ⟨hl, hc⟩
  | cons c rest ih =>
    rw [chooseCores]
    split
    · exact ih got hl hc
    · dsimp only
      split
      · next h =>
        simp only [Bool.and_eq_true, decide_eq_true_eq, List.all_eq_true, List.contains_iff_mem] at h
        obtain ⟨⟨h1, h2⟩, -⟩ := h
        refine ih _ (by rw [List.length_append]; exact h1) fun x hx => ?_
        rcases List.mem_append.mp hx with hx | hx
        · exact hc x hx
        · exact h2 x hx
      · exact ih got hl hc

theorem span_nodup (a n : Nat) : (span a n).Nodup := by
  induction n generalizing a with
  | zero => exact List.nodup_nil
  | succ n ih =>
    refine List.nodup_cons.mpr ⟨fun h => ?_, ih _⟩
    rw [mem_span] at h; omega

theorem returnRecords_kept (s : State) (c : Nat) : (returnRecords s c).tr = s.tr ∧ (returnRecords s c).ks.switching = s.ks.switching := by
  have h : ∀ (l : List InboxEnt) (u : State), (fun u : State => (u.tr, u.ks.switching)) (l.foldl (fun s e =>
    match txnBy s e.txn with
    | none => s
    | some t =>
      match t.gang with
      | some (g, _) => modGang (modTxn s t.uid fun t => { t with core := none }) g fun x => { x with recs := x.recs ++ [t.uid] }
      | none =>
        let s := modTxn s t.uid fun t => { t with st := .ready, core := none }
        let num := fun u => ((txnBy s u).bind (·.num)).getD 0
        modKs s fun k => { k with ready := tmod [] t.stage (reinsert num t.uid) k.ready }) u) = (u.tr, u.ks.switching) := fun l u => by
    refine foldl_proj (π := fun u : State => (u.tr, u.ks.switching)) (fun u e => ?_) l u
    split
    · rfl
    · split <;> rfl
  have h' := h (getCore s c).inbox (modCore s c fun k => { k with inbox := [] })
  exact ⟨(congrArg Prod.fst h' :), (congrArg Prod.snd h' :)⟩

theorem saveArray_switching (s : State) (c : Nat) : (saveArray s c).tr = s.tr ∧ ((saveArray s c).ks.switching = s.ks.switching ∨
    ∃ x, (saveArray s c).ks.switching = s.ks.switching.map fun e => if e.1 = c then (e.1, e.2.1, some x) else e) := by
  unfold saveArray
  split
  · simp only
    split
    · exact ⟨rfl, .inl rfl⟩
    · exact ⟨rfl, .inr ⟨_, rfl⟩⟩
  · exact ⟨rfl, .inl rfl⟩

/-- The core and the new stage of a switch under way. -/
def switchPair (e : Nat × Nat × Option Nat) : Nat × Nat := (e.1, e.2.1)

/-- A core's records return and its array context is saved, as a switch takes it. -/
def takeCore (s : State) (c : Nat) : State := saveArray (returnRecords (modCore s c fun k => { k with move := none }) c) c

/-- What taking cores leaves of the switches under way: those of other cores, and each taken core's pair. -/
theorem takeCores_does {s : State} {base m : List (Nat × Nat × Option Nat)} (cs : List Nat) (hs : s.ks.switching = base ++ m)
    (hb : ∀ e ∈ base, e.1 ∉ cs) : (cs.foldl takeCore s).tr = s.tr ∧
      ∃ l, (cs.foldl takeCore s).ks.switching = base ++ l ∧ l.map switchPair = m.map switchPair := by
  refine foldl_keeps (P := fun v : State => v.tr = s.tr ∧ ∃ l, v.ks.switching = base ++ l ∧ l.map switchPair = m.map switchPair)
    takeCore cs s ⟨rfl, m, hs, rfl⟩ fun v c hc ⟨ht, l, hl, hm⟩ => ?_
  obtain ⟨r1, r2⟩ := returnRecords_kept (modCore v c fun k => { k with move := none }) c
  obtain ⟨a1, a2⟩ := saveArray_switching (returnRecords (modCore v c fun k => { k with move := none }) c) c
  have hsw : (returnRecords (modCore v c fun k => { k with move := none }) c).ks.switching = base ++ l := r2.trans hl
  refine ⟨a1.trans (r1.trans ht), ?_⟩
  rw [hsw] at a2
  rcases a2 with e | ⟨x, e⟩
  · exact ⟨l, e, hm⟩
  · refine ⟨l.map fun e => if e.1 = c then (e.1, e.2.1, some x) else e, ?_, ?_⟩
    · rw [takeCore, e, List.map_append]
      congr 1
      have hid : ∀ e ∈ base, (if e.1 = c then (e.1, e.2.1, some x) else e) = e := fun e he =>
        if_neg fun h : e.1 = c => hb e he (h ▸ hc)
      rw [List.map_congr_left hid, List.map_id']
    · rw [← hm, List.map_map]
      refine List.map_congr_left fun e _ => ?_
      simp only [Function.comp]
      split <;> rfl

theorem switchCores_eq (s : State) (flo fhi tlo thi n : Nat) : ∃ asc : List Nat, asc.length ≤ n ∧ asc.Nodup ∧
    (∀ c ∈ asc, switchOf s c = none ∧ flo ≤ (getCore s c).stage ∧ (getCore s c).stage ≤ fhi) ∧
    switchCores s flo fhi tlo thi n = asc.foldl takeCore (modKs s fun k => { k with
      switching := k.switching ++ (asc.zip (span 0 asc.length)).map fun (c, i) => (c, tlo + i % (thi + 1 - tlo), (none : Option Nat)) }) := by
  obtain ⟨cand, hcand⟩ : ∃ l, l = ((span flo (fhi + 1 - flo)).flatMap (stageList s)).filter fun c => (switchOf s c).isNone := ⟨_, rfl⟩
  obtain ⟨got, hgot⟩ : ∃ l, l = chooseCores s cand n ((span 0 2048).filter (cand.contains ·)).reverse [] := ⟨_, rfl⟩
  obtain ⟨h1, h2⟩ := chooseCores_parts s cand n ((span 0 2048).filter (cand.contains ·)).reverse [] (Nat.zero_le _)
    (fun _ h => absurd h List.not_mem_nil)
  rw [← hgot] at h1 h2
  have hsub : ∀ c ∈ (span 0 2048).filter (got.contains ·), c ∈ got := fun c hc => List.contains_iff_mem.mp (List.mem_filter.mp hc).2
  have hnd : ((span 0 2048).filter (got.contains ·)).Nodup := (span_nodup 0 2048).filter _
  refine ⟨(span 0 2048).filter (got.contains ·), (hnd.subperm hsub).length_le.trans h1, hnd, fun c hc => ?_, ?_⟩
  · have hmem := h2 c (hsub c hc)
    rw [hcand] at hmem
    obtain ⟨hst, hsw⟩ := List.mem_filter.mp hmem
    obtain ⟨st, hspan, hlist⟩ := List.mem_flatMap.mp hst
    have hstage := of_decide_eq_true (List.mem_filter.mp hlist).2
    rw [mem_span] at hspan
    exact ⟨Option.isNone_iff_eq_none.mp hsw, by omega, by omega⟩
  · rw [hgot, hcand]
    rfl

/-- The pairs that a switch adds: its cores in order, and stages of the range that it gives them to. -/
theorem switchPairs {asc : List Nat} {tlo thi : Nat} (h : tlo ≤ thi) :
    (((asc.zip (span 0 asc.length)).map fun (c, i) => (c, tlo + i % (thi + 1 - tlo), (none : Option Nat))).map switchPair).map Prod.fst = asc ∧
      ∀ e ∈ ((asc.zip (span 0 asc.length)).map fun (c, i) => (c, tlo + i % (thi + 1 - tlo), (none : Option Nat))).map switchPair,
        tlo ≤ e.2 ∧ e.2 ≤ thi := by
  constructor
  · rw [List.map_map, List.map_map]
    exact List.map_fst_zip (by rw [span_length])
  · intro e he
    simp only [List.map_map, List.mem_map, Function.comp] at he
    obtain ⟨⟨c, i⟩, -, rfl⟩ := he
    have := Nat.mod_lt i (show 0 < thi + 1 - tlo by omega)
    simp only [switchPair]
    omega

theorem switch_ranges (hp : Parses s q 11 f p) : pf p 0 23 20 ≤ pf p 0 19 16 := by
  obtain ⟨-, -, -, -, -, -, -, -, -, -, -, -, hok, -⟩ := hp
  by_contra h
  have hbad : payloadFault s (getCq s q) 11 p = some 3 := by
    delta payloadFault
    dsimp only
    rw [if_pos]
    simp only [Bool.or_eq_true, decide_eq_true_eq]
    exact .inr (Nat.not_le.mp h)
  rw [hbad] at hok
  cases hok

/-- SWITCH: cores of its stages are taken for its others (R30, R397). -/
theorem switch_does (hpay : payOwed s q 11 = none) (hp : Parses s q 11 f p) : Does (.switch q) s fun t =>
    ∃ l, Lasting s t q 11 f p.length (l.map (·.1)) ∧ t.ks.switching = s.ks.switching ++ l ∧ l.length ≤ pf p 1 11 0 ∧
    ∀ e ∈ l, pf p 0 31 28 ≤ (getCore s e.1).stage ∧ (getCore s e.1).stage ≤ pf p 0 27 24 ∧
      pf p 0 23 20 ≤ e.2.1 ∧ e.2.1 ≤ pf p 0 19 16 := by
  have hks := taken_ks s q 11 p
  have hstage := stage_taken s q 11 p
  have hbehind := taken_behind hp
  have howed := taken_owed s q 11 p
  obtain ⟨v, hv⟩ : ∃ v, v = taken s q 11 p := ⟨_, rfl⟩
  rw [← hv] at hks hstage hbehind howed
  obtain ⟨asc, hlen, hnd, hasc, hsw⟩ := switchCores_eq v (pf p 0 31 28) (pf p 0 27 24) (pf p 0 23 20) (pf p 0 19 16) (pf p 1 11 0)
  obtain ⟨m, hm⟩ : ∃ m, m = (asc.zip (span 0 asc.length)).map fun (c, i) =>
    (c, pf p 0 23 20 + i % (pf p 0 19 16 + 1 - pf p 0 23 20), (none : Option Nat)) := ⟨_, rfl⟩
  obtain ⟨hfst, hrange⟩ := switchPairs (asc := asc) (switch_ranges hp)
  rw [← hm] at hfst hrange hsw
  have hfree : ∀ e ∈ s.ks.switching, e.1 ∉ asc := fun e he hc => by
    have hnone := (hasc e.1 hc).1
    rw [switchOf, hks, List.find?_eq_none] at hnone
    exact hnone e he (beq_self_eq_true _)
  obtain ⟨ht, l, hl, hpair⟩ := takeCores_does (s := modKs v fun k => { k with switching := k.switching ++ m }) (base := s.ks.switching) (m := m)
    asc (by rw [← hks]; rfl) hfree
  obtain ⟨u, hu⟩ : ∃ u, u = switchCores v (pf p 0 31 28) (pf p 0 27 24) (pf p 0 23 20) (pf p 0 19 16) (pf p 1 11 0) := ⟨_, rfl⟩
  rw [← hsw, ← hu] at ht hl
  have hlfst : l.map (·.1) = asc := by
    rw [← hfst, ← hpair, List.map_map]
    rfl
  have hlate : (u.ks.switching.map (·.1)).filter (fun c => !(v.ks.switching.map (·.1)).contains c) = l.map (·.1) := by
    rw [hl, List.map_append, List.filter_append, hks]
    have h1 : (s.ks.switching.map (·.1)).filter (fun c => !(s.ks.switching.map (·.1)).contains c) = [] :=
      List.filter_eq_nil_iff.mpr fun c hc => by rw [List.contains_iff_mem.mpr hc]; exact Bool.false_ne_true
    have h2 : (l.map (·.1)).filter (fun c => !(s.ks.switching.map (·.1)).contains c) = l.map (·.1) :=
      List.filter_eq_self.mpr fun c hc => by
        rw [Bool.not_eq_true', Bool.eq_false_iff]
        intro h
        obtain ⟨e, he, rfl⟩ := List.mem_map.mp (List.contains_iff_mem.mp h)
        exact hfree e he (hlfst ▸ hc)
    rw [h1, h2, List.nil_append]
  obtain ⟨t, hex, hlast, htks, -⟩ := lastingPacket_does (u := u) (late := l.map (·.1))
    (k := fun s p =>
      let old := s.ks.switching.map (·.1)
      let s := switchCores s (pf p 0 31 28) (pf p 0 27 24) (pf p 0 23 20) (pf p 0 19 16) (pf p 1 11 0)
      (s, none, (s.ks.switching.map (·.1)).filter fun c => !old.contains c)) hp hpay (by rw [← hlate, hu, hv]) (hbehind.of_tr (congrArg _ ht))
    ((congrArg Trestle.owed ht).trans howed) fun c hc => by
      obtain ⟨e, he, rfl⟩ := List.mem_map.mp hc
      have hsome : (switchOf u e.1).isSome = true := by
        rw [switchOf, List.find?_isSome]
        exact ⟨e, by rw [hl]; exact List.mem_append_right _ he, beq_self_eq_true _⟩
      rw [Option.isNone_eq_false_iff.mpr hsome, Bool.false_and]
  refine ⟨t, hex, l, hlast, by rw [htks, hl], ?_, fun e he => ?_⟩
  · rw [← List.length_map (f := fun e : Nat × Nat × Option Nat => e.1), hlfst]; exact hlen
  · obtain ⟨-, h1, h2⟩ := hasc e.1 (hlfst ▸ List.mem_map_of_mem he)
    rw [hstage] at h1 h2
    obtain ⟨h3, h4⟩ := hrange (switchPair e) (hpair ▸ List.mem_map_of_mem he)
    exact ⟨h1, h2, h3, h4⟩

end

end Sys2Proof.Machine
end

section
namespace Sys2Proof.Machine

/-! Packets that wait at their headers (R400, R402 to R404). -/

theorem packet_go {s : State} {q typ f : Nat} {p : List (BitVec 32)} {ready : State → CmdQueue → List (BitVec 32) → Ready}
    (k : State → Nat → Nat → List (BitVec 32) → State) (hp : Parses s q typ f p)
    (hr : ready (beginParse s q) (getCq s q).parsing p = .go) :
    packet s q typ ready k = k (taken s q typ p) f (packetAt (getCq s q)) p := by
  rw [packet_parses hp, tryPacket, getCq_beginParse, hr]
  rfl

theorem block_parts (u : State) (q typ f w : Nat) (p : List (BitVec 32)) (begun : Bool) :
    getCq (block u q typ f w p begun) q = { getCq u q with
      st := .waiting, pend := some ⟨typ, f, w, p, begun⟩, blocked := true
      waitAt := if (getCq u q).st = .waiting then (getCq u q).waitAt else u.cycle } ∧
    (block u q typ f w p begun).ks = u.ks := ⟨getCq_modCq_self .., rfl⟩

/-- A packet that must wait blocks its thread at its header: nothing of it is seen (R400). -/
theorem packet_blocks {s : State} {q typ f : Nat} {p : List (BitVec 32)} {ready : State → CmdQueue → List (BitVec 32) → Ready}
    (k : State → Nat → Nat → List (BitVec 32) → State) (hp : Parses s q typ f p)
    (hr : ready (beginParse s q) (getCq s q).parsing p = .wait) :
    ∃ t, packet s q typ ready k = t ∧ BlockedAt s t q ⟨typ, f, packetAt (getCq s q), p, false⟩ := by
  refine ⟨_, rfl, ?_⟩
  rw [packet_parses hp, tryPacket, getCq_beginParse, hr]
  dsimp only
  obtain ⟨-, -, p3, p4, -⟩ := CmdQueue.parsing_parts (getCq s q)
  have hq := (block_parts (beginParse s q) q typ f (packetAt (getCq s q)) p false).1
  rw [getCq_beginParse] at hq
  unfold BlockedAt
  rw [hq]
  exact ⟨rfl, rfl, p3, p4, rfl, rfl, rfl, rfl⟩

/-- A packet that is ready, and whose effect ends with its completion. -/
theorem packet_done {s u : State} {q typ f : Nat} {p : List (BitVec 32)} {ready : State → CmdQueue → List (BitVec 32) → Ready}
    {k : State → Nat → Nat → List (BitVec 32) → State} (hp : Parses s q typ f p)
    (hr : ready (beginParse s q) (getCq s q).parsing p = .go)
    (hk : k (taken s q typ p) f (packetAt (getCq s q)) p = packetDone u q f (packetAt (getCq s q))) (hu : Behind s q p u) :
    ∃ a m, packet s q typ ready k = sent u a m ∧ PacketDone s (sent u a m) q f p.length := by
  obtain ⟨a, m, e, hd⟩ := behind_done hp hu f
  exact ⟨a, m, by rw [packet_go k hp hr, hk, e], hd⟩

theorem cqAsid_parsing (c : CmdQueue) : cqAsid c.parsing = cqAsid c := by
  obtain ⟨-, -, -, -, e⟩ := CmdQueue.parsing_parts c
  rw [cqAsid, cqAsid, e]

theorem cqAsid_past (c : CmdQueue) (n : Nat) : cqAsid (c.past n) = cqAsid c := by
  rw [CmdQueue.past]
  split <;> rfl

theorem cqAsid_taken {s : State} {q typ f : Nat} {p : List (BitVec 32)} (hp : Parses s q typ f p) :
    cqAsid (getCq (taken s q typ p) q) = cqAsid (getCq s q) := by
  rw [(taken_behind hp).1, takenCq, cqAsid_past, cqAsid_parsing]

theorem waitHolds_parsing (s : State) (q : Nat) (p : List (BitVec 32)) :
    waitHolds (beginParse s q) (getCq s q).parsing p = waitHolds s (getCq s q) p := by
  rw [beginParse_eq, waitHolds_queued, waitHolds, waitHolds, cqAsid_parsing]

section
variable {s : State} {q f : Nat} {p : List (BitVec 32)}

/-- WAIT completes if its condition holds (R400). -/
theorem wait_does (hj : JournalOff s) (hw : waitHolds s (getCq s q) p = true) (hp : Parses s q 4 f p) : Does (.wait q) s fun t =>
    PacketDone s t q f p.length ∧ t.mem = s.mem ∧ t.slots = s.slots := by
  have hr : waitReady (beginParse s q) (getCq s q).parsing p = .go := by rw [waitReady, waitHolds_parsing, hw, if_pos rfl]
  obtain ⟨a, m, e, hd⟩ := packet_done (u := taken s q 4 p) (k := fun s f w _ => packetDone s q f w) hp hr rfl (taken_behind hp)
  obtain ⟨b, c, -, hoff⟩ := taken_off hj q 4 p
  exact ⟨_, congrArg Host.Outcome.next e, hd, (congrArg State.mem hoff :), taken_slots ..⟩

theorem wait_blocks (hw : waitHolds s (getCq s q) p = false) (hp : Parses s q 4 f p) : Does (.wait q) s fun t =>
    BlockedAt s t q ⟨4, f, packetAt (getCq s q), p, false⟩ := by
  have hr : waitReady (beginParse s q) (getCq s q).parsing p = .wait := by
    rw [waitReady, waitHolds_parsing, hw, if_neg Bool.false_ne_true]
  obtain ⟨t, e, ht⟩ := packet_blocks (fun s f w _ => packetDone s q f w) hp hr
  exact ⟨t, congrArg Host.Outcome.next e, ht⟩

/-! GRAPH (R404). -/

theorem graph_blocks (hb : ((tfind s.tr.graphs (pf p 0 31 28)).bind (·.busy)).isSome = true) (hp : Parses s q 12 f p) :
    Does (.graph q) s fun t => BlockedAt s t q ⟨12, f, packetAt (getCq s q), p, false⟩ := by
  have hr : graphReady (beginParse s q) (getCq s q).parsing p = .wait := by
    rw [graphReady, show (beginParse s q).tr.graphs = s.tr.graphs from rfl, hb, if_pos rfl]
  obtain ⟨t, e, ht⟩ := packet_blocks (fun s f w p =>
    packetDone (modTr s fun t => { t with
      graphs := tput (pf p 0 31 28) ⟨(readGraph s (cqAsid (getCq s q)) (long p 1)).getD [], cqAsid (getCq s q), none⟩ t.graphs }) q f w) hp hr
  exact ⟨t, congrArg Host.Outcome.next e, ht⟩

theorem graph_does {n : List Word} {ns : List (List Word)} (hj : JournalOff s)
    (hg : readGraph s (cqAsid (getCq s q)) (long p 1) = some (n :: ns)) (hb : (tfind s.tr.graphs (pf p 0 31 28)).bind (·.busy) = none)
    (hp : Parses s q 12 f p) : Does (.graph q) s fun t => PacketDone s t q f p.length ∧
      tfind t.tr.graphs (pf p 0 31 28) = some ⟨n :: ns, cqAsid (getCq s q), none⟩ ∧ t.mem = s.mem := by
  have hr : graphReady (beginParse s q) (getCq s q).parsing p = .go := by
    rw [graphReady, show (beginParse s q).tr.graphs = s.tr.graphs from rfl, hb, beginParse_eq, readGraph_queued, cqAsid_parsing, hg]
    rfl
  obtain ⟨a0, b0, -, hoff⟩ := taken_off hj q 12 p
  obtain ⟨u, hu⟩ : ∃ u, u = modTr (taken s q 12 p) fun t => { t with
    graphs := tput (pf p 0 31 28) ⟨n :: ns, cqAsid (getCq s q), none⟩ t.graphs } := ⟨_, rfl⟩
  have hbehind : Behind s q p u := by
    obtain ⟨h1, h2, h3⟩ := taken_behind hp
    rw [hu]
    exact ⟨h1, h2, h3⟩
  obtain ⟨a, m, e, hd⟩ := packet_done (u := u) (k := fun s f w p =>
    packetDone (modTr s fun t => { t with
      graphs := tput (pf p 0 31 28) ⟨(readGraph s (cqAsid (getCq s q)) (long p 1)).getD [], cqAsid (getCq s q), none⟩ t.graphs }) q f w)
    hp hr (by
      rw [cqAsid_taken hp, hu, show readGraph (taken s q 12 p) = readGraph s by rw [hoff, readGraph_queued], hg]
      rfl) hbehind
  refine ⟨_, congrArg Host.Outcome.next e, hd, ?_, ?_⟩
  · change tfind u.tr.graphs _ = _
    rw [hu]
    exact tfind_tput_self ..
  · change u.mem = s.mem
    rw [hu, modTr_mem, hoff]
    rfl

/-! LAUNCH (R403). -/

theorem launch_blocks (hb : (launchBy s (pf p 0 31 28)).isSome = true ∨ intakeFull s = true) (hp : Parses s q 2 f p) :
    ∀ k, ∃ t, packet s q 2 launchReady k = t ∧ BlockedAt s t q ⟨2, f, packetAt (getCq s q), p, false⟩ := by
  have hr : launchReady (beginParse s q) (getCq s q).parsing p = .wait := by
    rw [launchReady, show launchBy (beginParse s q) = launchBy s from rfl, show intakeFull (beginParse s q) = intakeFull s from rfl]
    exact if_pos (Bool.or_eq_true_iff.mpr hb)
  exact fun k => packet_blocks k hp hr

end

/-- What a launch is known by (R403). -/
def Launch.ident (l : Launch) : Nat × Option Nat × Nat × Nat × Nat := (l.tag, l.queue, l.asid, l.ctx, l.doneAt)

/-- Trestle but for its journal, and the launches by what they are known by. -/
def launchPart (s : State) : Trestle × List (Nat × Option Nat × Nat × Nat × Nat) := (s.tr.offJournal, s.ks.launches.map Launch.ident)

theorem launchPart_modLaunch (s : State) (tag : Nat) {f : Launch → Launch} (hf : ∀ l, (f l).ident = l.ident) :
    launchPart (modLaunch s tag f) = launchPart s := by
  have h : (modLaunch s tag f).ks.launches.map Launch.ident = s.ks.launches.map Launch.ident := by
    simp only [modLaunch, modKs, List.map_map]
    refine List.map_congr_left fun l _ => ?_
    simp only [Function.comp]
    split
    · exact hf l
    · rfl
  rw [launchPart, launchPart, h]
  rfl

theorem launchPart_jlog (s : State) (kind queue status whr : Nat) (d0 d1 : Word) :
    launchPart (jlog s kind queue status whr d0 d1) = launchPart s := by
  rw [launchPart, launchPart, jlog_offJournal, jlog_ks]

theorem launchPart_numberOne (s : State) (e : BatchEnt) (n : Nat) : launchPart (numberOne s e n) = launchPart s := by
  have hm : ∀ u t m, launchPart (modLaunch (modTxn s u t) m fun l => { l with last := max l.last n }) = launchPart s := fun u t m =>
    launchPart_modLaunch _ _ fun _ => rfl
  unfold numberOne
  split
  · split
    · rfl
    · dsimp only
      split
      · rw [launchPart_jlog, hm]
      · rw [hm]
  · rfl

theorem launchPart_numberBatch (s : State) (b : List BatchEnt) (batch pos : Nat) :
    launchPart (numberBatch s b batch pos).1 = launchPart s :=
  foldl_proj (π := launchPart) (fun u x => by obtain ⟨e, i⟩ := x; exact launchPart_numberOne ..) _ _

theorem launchPart_maybeReady (s : State) (u : Nat) : launchPart (maybeReady s u) = launchPart s := by
  obtain e | ⟨_, -, -, e | ⟨_, e⟩⟩ := maybeReady_or s u <;> rw [e] <;> rfl

theorem launchPart_poolAll (s : State) : launchPart (poolAll s) = launchPart s :=
  poolTry_keeps (P := fun t => launchPart t = launchPart s) (fun _ _ _ _ h => h) (fun u v h => (launchPart_maybeReady u v).trans h) _ s rfl

theorem launchPart_feed (s : State) (pos batch : Nat) (mine : Bool) (es : List ManifestEntry) :
    launchPart (feed s pos batch mine es) = launchPart s :=
  feed_keeps (fun _ _ _ => rfl) (fun _ _ => rfl) (fun _ _ _ => rfl) launchPart_maybeReady launchPart_poolAll ..

theorem launchPart_closeBatch (s : State) : launchPart (closeBatch s) = launchPart s := by
  rw [closeBatch]
  split
  · rfl
  · split
    · rfl
    · dsimp only
      split
      · rfl
      · rw [launchPart_feed, launchPart_numberBatch]; rfl

theorem launchPart_closeBatch_or (s : State) (p : Prop) [Decidable p] : launchPart (if p then closeBatch s else s) = launchPart s := by
  split
  · exact launchPart_closeBatch s
  · rfl

theorem launchPart_placeEnts (s : State) (es : List BatchEnt) : launchPart (placeEnts s es) = launchPart s := by
  rw [placeEnts, launchPart_closeBatch_or]
  exact launchPart_closeBatch_or ..

theorem launchPart_numbered (s : State) (n : Nat) {f : Keystone → Keystone}
    (h : (f s.ks).launches.map Launch.ident = s.ks.launches.map Launch.ident) :
    launchPart (modKs { s with uid := n } f) = launchPart s := by
  rw [launchPart, launchPart]
  exact congrArg (Prod.mk s.tr.offJournal) h

/-- An accepted submission places its entries, its launch counting more members (R44, R337). -/
theorem acceptSub_eq (s : State) (w0 : Word) (l : List Txn) : ∃ n f es, acceptSub s w0 l = placeEnts (modKs { s with uid := n } f) es ∧
    (f s.ks).launches.map Launch.ident = s.ks.launches.map Launch.ident := by
  refine ⟨_, _, _, rfl, ?_⟩
  rw [List.map_map]
  refine List.map_congr_left fun x _ => ?_
  simp only [Function.comp]
  split <;> rfl

theorem launchPart_acceptSub (s : State) (w0 : Word) (l : List Txn) : launchPart (acceptSub s w0 l) = launchPart s := by
  obtain ⟨n, f, es, e, hf⟩ := acceptSub_eq s w0 l
  rw [e, launchPart_placeEnts, launchPart_numbered s n hf]

theorem launchPart_cutNote (s : State) (u i : Nat) (m : CutMsg) : launchPart (cutNote s u i m) = launchPart s := rfl

theorem launchPart_submit (s : State) (u : Submitter) (al : Bool) (desc : Nat → Option (List Word)) (limit : Nat) :
    launchPart (submit s u al desc limit).1 = launchPart s := by
  rw [submit]
  split
  · rfl
  · rw [launchPart_cutNote, launchPart_acceptSub]

theorem launchPart_submitAll (fuel : Nat) (s : State) (tag : Nat) : launchPart (submitAll fuel s tag) = launchPart s := by
  induction fuel generalizing s with
  | zero => rfl
  | succ fuel ih =>
    rw [submitAll]
    split
    · rfl
    · split
      · exact launchPart_modLaunch _ _ fun _ => rfl
      · dsimp only
        split
        · rfl
        · rw [ih, launchPart_modLaunch]
          · split
            · exact launchPart_submit ..
            · rw [launchPart_jlog, launchPart_submit]
          · exact fun _ => rfl

theorem badHeader_none {s : State} {asid : Nat} {es : List (Nat × Word)} (h : ∀ e ∈ es, ∃ hd, checkHeader s asid e.2.toNat = .ok hd) :
    badHeader s asid es = none := by
  rw [badHeader]
  refine foldl_keeps (P := fun x : List Word × Option (Nat × Word × Nat) => x.2 = none) _ es _ rfl fun x e he hx => ?_
  obtain ⟨i, w⟩ := e
  obtain ⟨hd, hok⟩ := h _ he
  dsimp only at hok ⊢
  split
  · exact hx
  · rw [hok]

/-- A launch whose headers are good starts (R403). -/
theorem startLaunch_good {s : State} {l : Launch} (hc : l.copy = []) (h : ∀ i < l.ndesc, ∃ e hd,
    peekWords s none l.qasid (l.desc + 64 * i + 8) 1 = some [e] ∧ checkHeader s l.asid e.toNat = .ok hd) :
    startLaunch s l = (submitAll (l.ndesc + 1) (modKs s fun k => { k with launches := k.launches ++ [l] }) l.tag, true) := by
  have hgood : badHeader s l.asid ((span 0 l.ndesc).filterMap fun i =>
      (if l.copy.isEmpty then (peekWords s none l.qasid (l.desc + 64 * i + 8) 1).map (·.headD 0)
       else some (l.copy.getD (8 * i + 1) 0)).map fun e => (i, e)) = none := badHeader_none fun x hx => by
    obtain ⟨i, hi, hx⟩ := List.mem_filterMap.mp hx
    rw [mem_span] at hi
    obtain ⟨e, hd, hpeek, hok⟩ := h i (by omega)
    rw [hc, hpeek] at hx
    simp only [List.isEmpty_nil, if_true, Option.map_some, List.headD_cons, Option.some.injEq] at hx
    exact ⟨hd, by rw [← hx]; exact hok⟩
  rw [startLaunch, hgood]

section
variable {s : State} {q f : Nat} {p : List (BitVec 32)}

/-- The launch that a LAUNCH packet starts. -/
def packetLaunch (s : State) (q f : Nat) (p : List (BitVec 32)) : Launch :=
  { tag := pf p 0 31 28, queue := some q, whr := packetAt (getCq s q), asid := pf p 0 9 0, qasid := cqAsid (getCq s q), ctx := long p 4
    doneAt := long p 6, notify := f / 2 % 2 = 1, live := 0, last := 0, ended := false, marked := false
    reports := [], desc := long p 1, copy := [], ndesc := long p 3 % 2 ^ 32, next := 0 }

theorem Consumed.of_taken {t : State} {typ : Nat} (hp : Parses s q typ f p) (h1 : (getCq t q).rptr = (takenCq s q p).rptr)
    (h2 : (getCq t q).stack = (takenCq s q p).stack) : Consumed s t q p.length := by
  obtain ⟨hst, -⟩ := hp
  obtain ⟨p1, -, p3, p4, p5⟩ := CmdQueue.parsing_parts (getCq s q)
  obtain ⟨-, -, t3, t4⟩ := CmdQueue.past_parts (p1.trans hst) p.length
  have hring : ringSize (getCq s q).parsing = ringSize (getCq s q) := by rw [ringSize, ringSize, p5]
  rw [p4, p3, hring] at t3
  rw [p4, p3] at t4
  refine ⟨fun hs => ?_, fun b rest hs _ => ?_⟩
  · obtain ⟨e1, e2⟩ := t3 hs
    exact ⟨h2.trans e1, h1.trans e2⟩
  · obtain ⟨e1, e2⟩ := t4 b rest hs
    exact ⟨h1.trans e1, h2.trans e2⟩

/-- A LAUNCH that has submitted what it could is consumed, and its launch goes on (R402, R403). -/
theorem launchGo_does {v : State} (hp : Parses s q 2 f p) (hv : Behind s q p v) :
    Consumed s (launchGo v q f (packetAt (getCq s q)) p) q p.length ∧ (launchGo v q f (packetAt (getCq s q)) p).ks = v.ks := by
  rw [launchGo]
  split
  · obtain ⟨h1, h2⟩ := block_parts v q 2 f (packetAt (getCq s q)) p true
    refine ⟨.of_taken hp ?_ ?_, h2⟩
    · rw [h1]; exact (congrArg CmdQueue.rptr hv.1 :)
    · rw [h1]; exact (congrArg CmdQueue.stack hv.1 :)
  · obtain ⟨a, m, e, hd⟩ := behind_done hp hv 0
    rw [e]
    exact ⟨hd.1, rfl⟩

/-- LAUNCH starts its launch (R403). -/
theorem launch_does (hj : JournalOff s) (hp : Parses s q 2 f p) (hl : launchBy s (pf p 0 31 28) = none) (hi : intakeFull s = false)
    (hh : ∀ i, i < long p 3 % 2 ^ 32 → ∃ e hd, peekWords s none (cqAsid (getCq s q)) (long p 1 + 64 * i + 8) 1 = some [e] ∧
      checkHeader s (pf p 0 9 0) e.toNat = .ok hd) :
    Does (.launch q) s fun t => Consumed s t q p.length ∧ ∃ l ∈ t.ks.launches, l.tag = pf p 0 31 28 ∧ l.queue = some q ∧
      l.asid = pf p 0 9 0 ∧ l.ctx = long p 4 ∧ l.doneAt = long p 6 := by
  have hr : launchReady (beginParse s q) (getCq s q).parsing p = .go := by
    rw [launchReady, show launchBy (beginParse s q) = launchBy s from rfl, show intakeFull (beginParse s q) = intakeFull s from rfl, hl, hi]
    rfl
  have hasid := cqAsid_taken hp
  have hbehind := taken_behind hp
  obtain ⟨a0, b0, -, hoff⟩ := taken_off hj q 2 p
  obtain ⟨u, hu⟩ : ∃ u, u = taken s q 2 p := ⟨_, rfl⟩
  rw [← hu] at hasid hbehind hoff
  obtain ⟨l, hlv⟩ : ∃ l, l = packetLaunch s q f p := ⟨_, rfl⟩
  have hstart : startLaunch u l = (submitAll (l.ndesc + 1) (modKs u fun k => { k with launches := k.launches ++ [l] }) l.tag, true) := by
    refine startLaunch_good (by rw [hlv]; rfl) ?_
    rw [hoff, peekWords_queued, checkHeader_queued, hlv]
    exact hh
  obtain ⟨v, hv⟩ : ∃ v, v = submitAll (l.ndesc + 1) (modKs u fun k => { k with launches := k.launches ++ [l] }) l.tag := ⟨_, rfl⟩
  rw [← hv] at hstart
  have hpart : launchPart v = launchPart (modKs u fun k => { k with launches := k.launches ++ [l] }) := by rw [hv, launchPart_submitAll]
  have htr : v.tr.offJournal = u.tr.offJournal := congrArg Prod.fst hpart
  have hids : v.ks.launches.map Launch.ident = (u.ks.launches ++ [l]).map Launch.ident := congrArg Prod.snd hpart
  obtain ⟨hcons, hks⟩ := launchGo_does hp (hbehind.of_tr htr)
  have hexec : exec (.launch q) s = .next (launchGo v q f (packetAt (getCq s q)) p) := by
    obtain ⟨hst, -, hpend, -⟩ := id hp
    have hgo : packet s q 2 launchReady (fun s f w p =>
        let c := getCq s q
        let l : Launch := {
          tag := pf p 0 31 28, queue := some q, whr := w, asid := pf p 0 9 0, qasid := cqAsid c, ctx := long p 4
          doneAt := long p 6, notify := f / 2 % 2 = 1, live := 0, last := 0, ended := false, marked := false
          reports := [], desc := long p 1, copy := [], ndesc := long p 3 % 2 ^ 32, next := 0 }
        let r := startLaunch s l
        if r.2 then launchGo r.1 q f w p else packetDone r.1 q f w) = launchGo v q f (packetAt (getCq s q)) p := by
      rw [packet_go _ hp hr, ← hu]
      dsimp only
      rw [hasid]
      change (if (startLaunch u (packetLaunch s q f p)).2 then launchGo (startLaunch u (packetLaunch s q f p)).1 q f _ p
        else packetDone (startLaunch u (packetLaunch s q f p)).1 q f _) = _
      rw [← hlv, hstart]
      rfl
    change Host.Outcome.next _ = _
    rw [hpend]
    exact congrArg Host.Outcome.next hgo
  refine ⟨_, hexec, hcons, ?_⟩
  have hmem : l.ident ∈ v.ks.launches.map Launch.ident := by
    rw [hids]
    exact List.mem_map_of_mem (List.mem_append_right _ (List.mem_singleton_self _))
  obtain ⟨x, hx, hxl⟩ := List.mem_map.mp hmem
  rw [hks]
  rw [hlv] at hxl
  simp only [Launch.ident, packetLaunch, Prod.mk.injEq] at hxl
  exact ⟨x, hx, hxl⟩

end

end Sys2Proof.Machine
end

section
namespace Sys2Proof.Machine

/-! Bytes written in storage that holds them (R93, R413). -/

theorem retag_wf {s : State} (w : Memory.wf s.mem = true) (key pa : Nat) : Memory.wf (retag s key pa).mem = true := by
  have h : ∀ (c : Bool) (m : List Host.Cell) (k : Tbl Nat), Memory.wf m = true →
      Memory.wf (if c then { s with mem := m, keytag := k } else s).mem = true := by
    intro c m k hm
    cases c
    · exact w
    · exact hm
  exact h _ _ _ (memSetAll_wf _ w)

theorem putBytes_mem {s : State} (w : Memory.wf s.mem = true) (key : Nat) (cells : List (Nat × Byte)) (psn : Bool) :
    ∃ m, Memory.wf m = true ∧ (putBytes s key cells psn).mem = memSetAll cells m := by
  refine ⟨((cells.map (·.1)).foldl (fun s a => retag s key a) s).mem, ?_, ?_⟩
  · exact foldl_keeps (P := fun u : State => Memory.wf u.mem = true) _ _ _ w fun u a _ hu => retag_wf hu key a
  · rw [putBytes]
    exact markStale_mem ..

/-- A word written is there. -/
theorem putBytes_word {s : State} (w : Memory.wf s.mem = true) (key pa : Nat) (v : Word) (psn : Bool) :
    (span pa 8).map (memGet (putBytes s key ((span pa 8).zip (wBytes v)) psn).mem) = wBytes v := by
  obtain ⟨m, hm, e⟩ := putBytes_mem w key ((span pa 8).zip (wBytes v)) psn
  rw [e]
  exact map_memGet_memSetAll (wBytes v) hm pa

/-! An aligned word of HBM (R75, R197, R407). -/

theorem targetOf_hbm {o : Nat} : targetOf o = .hbm ↔ o < 0x9000000000 := by
  unfold targetOf
  split
  · next h => exact ⟨fun _ => h, fun _ => rfl⟩
  · next h =>
    refine ⟨fun e => ?_, fun e => absurd e h⟩
    split at e
    · split at e <;> cases e
    · split at e
      · cases e
      · split at e
        · cases e
        · split at e
          · cases e
          · split at e <;> cases e

/-- The bytes of an aligned word of HBM are in HBM of its module. -/
theorem hbm_word {pa a : Nat} (h8 : pa % 8 = 0) (ht : targetOf (offsetOf pa) = .hbm) (ha : a ∈ span pa 8) :
    targetOf (offsetOf a) = .hbm ∧ moduleOf a = moduleOf pa := by
  rw [targetOf_hbm] at ht ⊢
  rw [mem_span] at ha
  simp only [offsetOf, moduleOf] at *
  omega

theorem bankOf_hbm {a : Nat} (h : targetOf (offsetOf a) = .hbm) : bankOf a = none := by rw [bankOf, h]

theorem pendBank_hbm {s : State} {pas : List Nat} (h : ∀ a ∈ pas, targetOf (offsetOf a) = .hbm) : pendBank s pas = none :=
  List.findSome?_eq_none_iff.mpr fun a ha => by rw [bankOf_hbm (h a ha)]; rfl

theorem refusal_hbm {s : State} {x : Access} (h : ∀ a ∈ x.pas, targetOf (offsetOf a) = .hbm ∧ answers s (moduleOf a) = true) :
    refusal s x = none :=
  List.findSome?_eq_none_iff.mpr fun a ha => by
    obtain ⟨h1, h2⟩ := h a ha
    rw [refusalAt, h2, h1]
    rfl

/-- The store of a WRITE packet (R397). -/
def packetStore (s : State) (va pa key : Nat) (v : Word) : Access :=
  { uid := s.uid, hart := 8192, va := wd va, pas := span pa 8, key := key, cache := false
    op := .store (wBytes v), psn := false, dest := .nothing, st := .flying }

/-- It is performed where it arrives, and leaves nothing in flight (R81, R201). -/
theorem arrive_packetStore {s u : State} {va pa key : Nat} {v : Word} (h8 : pa % 8 = 0) (ht : targetOf (offsetOf pa) = .hbm)
    (ha : answers u (moduleOf pa) = true) (hk : u.tr.keyCmd = none) :
    arrive u (packetStore s va pa key v) = dropAcc (putBytes u key ((span pa 8).zip (wBytes v)) false) s.uid := by
  obtain ⟨x, hx⟩ : ∃ x, x = packetStore s va pa key v := ⟨_, rfl⟩
  have hpas : x.pas = span pa 8 := by rw [hx]; rfl
  have hop : x.op = .store (wBytes v) := by rw [hx]; rfl
  have hbytes : ∀ a ∈ x.pas, targetOf (offsetOf a) = .hbm ∧ answers u (moduleOf a) = true := fun a hm => by
    rw [hpas] at hm
    obtain ⟨h1, h2⟩ := hbm_word h8 ht hm
    exact ⟨h1, by rw [h2]; exact ha⟩
  have hheld : keyHeld u x.keyed = false := by rw [keyHeld, hk]
  have hpend : pendBank u x.pas = none := pendBank_hbm fun a hm => (hbytes a hm).1
  have hport : fifoPort u x.pas = none := by
    rw [fifoPort, hpas, show (span pa 8).headD 0 = pa from rfl, bankOf_hbm ht]
    rfl
  have hready : accReady u x = true := by rw [accReady, hpend, hport, hop]; rfl
  have hstop : poisonStop u x = false := by
    rw [poisonStop, show x.waited = false by rw [hx]; rfl, Bool.false_and, Bool.false_and, Bool.false_and]
  have hwhole : x.whole u = true := by
    have hal : aligned x.pas = true := by
      rw [hpas, aligned, span_length, show (span pa 8).headD 0 = pa from rfl, h8]
      rfl
    rw [Access.whole, hal, Bool.true_or, Bool.true_or]
  have heffect : effect u x = (putBytes u key ((span pa 8).zip (wBytes v)) false, [], false) := by
    rw [effect, hport]
    simp only [hop]
    rw [Access.put, show x.past = none by rw [hx]; rfl, hpas]
    rw [hx]
    rfl
  have hperform : perform u x = (putBytes u key ((span pa 8).zip (wBytes v)) false, .done [] false) := by
    rw [perform, hpend, hheld, refusal_hbm hbytes]
    simp only [hready, hstop, hwhole, heffect, Option.isSome_none, Bool.or_self, Bool.not_true, Bool.false_eq_true, if_false, if_true]
  have hcopies : ∀ w : State, copiesAfter w x = w := fun w => by
    rw [copiesAfter, if_pos]
    rw [Bool.or_eq_true, decide_eq_true_eq]
    refine .inr ?_
    rw [hx]
    split <;> exact le_rfl
  rw [← hx, arrive, hheld, if_neg Bool.false_ne_true, hperform]
  simp only [hcopies, hop]
  rw [deliver, hop, hx]
  rfl

/-! Translations of aligned words (R409, R410). -/

theorem pteXl_parts (e : Word) (big : Bool) (va : Nat) : (pteXl e big va).pa % 8 = va % 8 ∧ (pteXl e big va).win = false := by
  refine ⟨?_, rfl⟩
  cases big
  · change (fld e 51 16 * 2 ^ 16 + va % 2 ^ 16) % 8 = va % 8
    omega
  · change (fld e 51 29 * 2 ^ 29 + va % 2 ^ 29) % 8 = va % 8
    omega

/-- A translation's place: registers are not reached, and only HBM has keys and caches. -/
def placeOf (va : Nat) (k : AccKind) (x : Xl) : Except Trap Xl :=
  match targetOf (offsetOf x.pa) with
  | .clBlock _ | .ksBlock | .trBlock => Except.error (trap .accessFault k.sub (wd va))
  | .hbm => .ok x
  | _ => .ok { x with key := 0, cache := false }

theorem placeOf_ok {va : Nat} {k : AccKind} {x y : Xl} (h : placeOf va k x = .ok y) : y.pa = x.pa ∧ y.win = x.win := by
  unfold placeOf at h
  split at h <;> cases h <;> exact ⟨rfl, rfl⟩

/-- A translation by the tables. -/
def walked (s : State) (w : Who) (va : Nat) (k : AccKind) : Except Trap Xl :=
  match walk s w.asid va with
  | .error t => Except.error (trap t k.sub (wd va))
  | .ok (e, big) => if pteAllows e w.priv k then placeOf va k (pteXl e big va) else .error (trap .accessFault k.sub (wd va))

theorem placeOf_pteXl {va : Nat} {k : AccKind} {e : Word} {big : Bool} {y : Xl} (h : placeOf va k (pteXl e big va) = .ok y) :
    y.pa % 8 = va % 8 ∧ y.win = false := by
  obtain ⟨h1, h2⟩ := placeOf_ok h
  obtain ⟨h3, h4⟩ := pteXl_parts e big va
  rw [h1, h2]
  exact ⟨h3, h4⟩

theorem walked_ok {s : State} {w : Who} {va : Nat} {k : AccKind} {y : Xl} (h : walked s w va k = .ok y) :
    y.pa % 8 = va % 8 ∧ y.win = false := by
  unfold walked at h
  split at h
  · cases h
  · split at h
    · exact placeOf_pteXl h
    · cases h

theorem xlate_eq {s : State} {w : Who} {va : Nat} {k : AccKind} (hv : va < window0) : xlate s w va k =
    match (if bit (trReg s 0x100) 0 then tlbFind s (clusterOf w.core) w.asid va else none) with
    | some e => if pteAllows e.pte w.priv k then placeOf va k (pteXl e.pte e.big va) else walked s w va k
    | none => walked s w va k := by
  have hlt : ¬ 2 ^ 56 ≤ va := by unfold window0 at hv; omega
  rw [xlate, if_neg hlt, if_neg (Nat.not_le.mpr hv)]
  rfl

/-- The address that a translation outside the windows gives is as aligned as the one translated. -/
theorem xlate_parts {s : State} {w : Who} {va : Nat} {k : AccKind} {x : Xl} (hv : va < window0) (h : xlate s w va k = .ok x) :
    x.pa % 8 = va % 8 ∧ x.win = false := by
  rw [xlate_eq hv] at h
  split at h
  · split at h
    · exact placeOf_pteXl h
    · exact walked_ok h
  · exact walked_ok h

/-- An aligned word lies within its page. -/
theorem xlBytes_word {s : State} {w : Who} {va : Nat} {k : AccKind} {pas : List Nat} {x : Xl} (hv : va < window0) (h8 : va % 8 = 0)
    (h : xlBytes s w va 8 k = .ok (pas, x)) : pas = span x.pa 8 ∧ x.pa % 8 = 0 := by
  rw [xlBytes] at h
  cases hx : xlate s w va k with
  | error t => rw [hx] at h; cases h
  | ok y =>
    rw [hx] at h
    obtain ⟨ha, hw⟩ := xlate_parts hv hx
    have hleft : 8 ≤ 65536 - va % 65536 := by omega
    simp only [hleft, hw, if_true, Bool.false_and, Bool.false_eq_true, if_false] at h
    cases h
    exact ⟨rfl, ha.trans h8⟩

/-! WRITE (R88, R397). -/

section
variable {s : State} {q f : Nat} {p : List (BitVec 32)}

theorem payloadFault_write (s : State) (c : CmdQueue) (p : List (BitVec 32)) : ∃ b e, payloadFault s c 5 p =
    if decide (pf p 0 31 1 ≠ 0) then some 3
    else if decide (long p 1 % 8 ≠ 0) || !reaches s c .write (long p 1) 8 || b then some 4 else e := ⟨_, _, rfl⟩

theorem write_aligned (hp : Parses s q 5 f p) : long p 1 % 8 = 0 ∧ long p 1 < window0 := by
  obtain ⟨-, -, -, -, -, -, -, -, -, -, -, -, hok, -⟩ := hp
  by_contra h
  have hreach : long p 1 % 8 ≠ 0 ∨ reaches s (getCq s q) .write (long p 1) 8 = false := by
    by_cases h8 : long p 1 % 8 = 0
    · refine .inr ?_
      have : ¬ long p 1 + 8 ≤ window0 := fun hle => h ⟨h8, by omega⟩
      rw [reaches, decide_eq_false this, Bool.false_and]
    · exact .inl h8
  obtain ⟨b, e, heq⟩ := payloadFault_write s (getCq s q) p
  rw [heq, show (decide (long p 1 % 8 ≠ 0) || !reaches s (getCq s q) .write (long p 1) 8 || b) = true by
    rw [Bool.or_eq_true, Bool.or_eq_true, decide_eq_true_eq, Bool.not_eq_true']; exact .inl hreach, if_pos rfl] at hok
  split at hok <;> cases hok

/-- A packet whose effect is performed at once. -/
theorem lastingPacket_paid {typ : Nat} {k : State → List (BitVec 32) → State × Option Nat × List Nat} {u : State} {uid : Option Nat}
    (hp : Parses s q typ f p) (hpay : payOwed s q typ = none) (hk : k (taken s q typ p) p = (u, uid, []))
    (hpaid : ∀ n, uid = some n → (u.flight.any (·.uid == n)) = false) (hu : Behind s q p u) :
    ∃ a m, lastingPacket s q typ k = .next (sent u a m) ∧ PacketDone s (sent u a m) q f p.length := by
  obtain ⟨a, m, e, hd⟩ := behind_done hp hu f
  refine ⟨a, m, ?_, hd⟩
  have hall : (uid.all fun n => !(u.flight.any (·.uid == n))) = true := by
    cases uid with
    | none => rfl
    | some n => rw [Option.all_some, hpaid n rfl]; rfl
  rw [lastingPacket_parses k hp hpay, hk, lastingEnd]
  dsimp only
  rw [Owed.paid, hall, List.all_nil, Bool.and_true, Bool.not_true, Bool.and_false, if_neg Bool.false_ne_true, e]

theorem sent_mem (u : State) (a : Tbl CmdQueue) (m : List CpMsg) : (sent u a m).mem = u.mem := rfl

theorem mem_dropAcc (u : State) (uid : Nat) : (dropAcc u uid).mem = u.mem := rfl

theorem setFull_sent (u : State) (pa : Nat) (a : Tbl CmdQueue) (m : List CpMsg) :
    (sent (setFull u pa true) a m).mem = u.mem ∧ isFull (sent (setFull u pa true) a m) pa = true := by
  refine ⟨rfl, ?_⟩
  change (!(sDel (pa / 8) u.empty).contains (pa / 8)) = true
  rw [Bool.not_eq_true', Bool.eq_false_iff]
  intro h
  have := List.mem_filter.mp (List.contains_iff_mem.mp h)
  simp at this

/-- The machine after a WRITE's effect. -/
def wroteWord (u : State) (x : Xl) (v : Word) : State := putBytes u x.key ((span x.pa 8).zip (wBytes v)) false

theorem wroteWord_kept (u : State) (x : Xl) (v : Word) : (wroteWord u x v).flight = u.flight ∧ (wroteWord u x v).tr = u.tr := by
  have h := setting_putBytes u x.key ((span x.pa 8).zip (wBytes v)) false
  exact ⟨(congrArg State.flight h :), putBytes_tr ..⟩

theorem retryScan_none {u : State} (h : u.flight = []) (n pa : Nat) : retryScan n u pa = u := by
  cases n with
  | zero => rfl
  | succ n =>
    have hw : wordWaiters u pa = [] := by rw [wordWaiters, h]; rfl
    rw [retryScan, hw]
    rfl

/-- The effect of a WRITE whose address translates. The function has a name here, lest the kernel evaluate it. -/
theorem writePacket_eq {u : State} {x : Xl} {pas : List Nat} (hx : xlBytes u ⟨0, cqAsid (getCq u q), true⟩ (long p 1) 8 .write = .ok (pas, x)) :
    writePacket u q p = if pf p 0 0 0 = 1 then
        (retryScan ((setFull (putBytes u x.key (pas.zip (wBytes (wd (long p 3)))) false) x.pa true).flight.length + 1)
          (setFull (putBytes u x.key (pas.zip (wBytes (wd (long p 3)))) false) x.pa true) x.pa, none)
      else (arrive { u with uid := u.uid + 1, flight := u.flight ++ [{ packetStore u (long p 1) x.pa x.key (wd (long p 3)) with pas := pas }] }
        { packetStore u (long p 1) x.pa x.key (wd (long p 3)) with pas := pas }, some u.uid) := by
  obtain ⟨f, hf⟩ : ∃ f, f = writePacket := ⟨_, rfl⟩
  rw [← hf]
  delta writePacket at hf
  rw [hf]
  beta_reduce
  rw [hx]
  rfl

/-- WRITE with a put: the word is stored, and is full (R88). -/
theorem writePacket_put {u : State} {x : Xl} (hx : xlBytes u ⟨0, cqAsid (getCq u q), true⟩ (long p 1) 8 .write = .ok (span x.pa 8, x))
    (hput : pf p 0 0 0 = 1) (hf : u.flight = []) :
    writePacket u q p = (setFull (wroteWord u x (wd (long p 3))) x.pa true, none) := by
  have hfl : (setFull (wroteWord u x (wd (long p 3))) x.pa true).flight = [] := (wroteWord_kept u x (wd (long p 3))).1.trans hf
  rw [writePacket_eq hx, if_pos hput, ← wroteWord, retryScan_none hfl]

/-- WRITE without one: the store is performed, and nothing of it stays in flight. -/
theorem writePacket_store {u : State} {x : Xl} (hx : xlBytes u ⟨0, cqAsid (getCq u q), true⟩ (long p 1) 8 .write = .ok (span x.pa 8, x))
    (hput : pf p 0 0 0 ≠ 1) (h8 : x.pa % 8 = 0) (ht : targetOf (offsetOf x.pa) = .hbm) (ha : answers u (moduleOf x.pa) = true)
    (hk : u.tr.keyCmd = none) : ∃ w : State, w.mem = u.mem ∧ w.tr = u.tr ∧
      writePacket u q p = (dropAcc (wroteWord w x (wd (long p 3))) u.uid, some u.uid) := by
  obtain ⟨y, hy⟩ : ∃ y, y = { packetStore u (long p 1) x.pa x.key (wd (long p 3)) with pas := span x.pa 8 } := ⟨_, rfl⟩
  have hyp : y = packetStore u (long p 1) x.pa x.key (wd (long p 3)) := hy
  obtain ⟨w, hw⟩ : ∃ w, w = { u with uid := u.uid + 1, flight := u.flight ++ [y] } := ⟨_, rfl⟩
  have hwa : answers w (moduleOf x.pa) = true := by rw [hw]; exact ha
  have hwk : w.tr.keyCmd = none := by rw [hw]; exact hk
  refine ⟨w, by rw [hw], by rw [hw], ?_⟩
  rw [writePacket_eq hx, if_neg hput, ← hy, ← hw, hyp, arrive_packetStore h8 ht hwa hwk, wroteWord]

theorem write_does {pas : List Nat} {x : Xl} (hj : JournalOff s) (hf : s.flight = []) (hpay : payOwed s q 5 = none)
    (hw : Memory.wf s.mem = true) (hx : xlBytes s ⟨0, cqAsid (getCq s q), true⟩ (long p 1) 8 .write = .ok (pas, x))
    (hm : moduleOf x.pa = s.module) (ha : answers s s.module = true) (ht : targetOf (offsetOf x.pa) = .hbm) (hp : Parses s q 5 f p) :
    Does (.write q) s fun t => PacketDone s t q f p.length ∧ pas.map (memGet t.mem) = wBytes (wd (long p 3)) ∧
      (pf p 0 0 0 = 1 → isFull t x.pa = true) := by
  obtain ⟨h8, hwin⟩ := write_aligned hp
  obtain ⟨hpas, hpa⟩ := xlBytes_word hwin h8 hx
  obtain ⟨a0, b0, -, hoff⟩ := taken_off hj q 5 p
  have hbehind := taken_behind hp
  have hasid := cqAsid_taken hp
  obtain ⟨-, -, -, hstill, -⟩ := id hp
  obtain ⟨u, hu⟩ : ∃ u, u = taken s q 5 p := ⟨_, rfl⟩
  rw [← hu] at hoff hbehind hasid
  have hxu : xlBytes u ⟨0, cqAsid (getCq u q), true⟩ (long p 1) 8 .write = .ok (span x.pa 8, x) := by
    rw [hasid, hoff, xlBytes_queued, hx, hpas]
  have huf : u.flight = [] := by rw [hoff]; exact hf
  have huw : Memory.wf u.mem = true := by rw [hoff]; exact hw
  have hua : answers u (moduleOf x.pa) = true := by rw [hoff, answers_queued, hm]; exact ha
  have huk : u.tr.keyCmd = none := by
    rw [hoff]
    rw [standStill, Bool.or_eq_false_iff] at hstill
    exact Option.isSome_eq_false_iff.mp hstill.2 |> Option.isNone_iff_eq_none.mp
  have hbytes : ∀ w : State, Memory.wf w.mem = true → pas.map (memGet (wroteWord w x (wd (long p 3))).mem) = wBytes (wd (long p 3)) :=
    fun w hw => by rw [hpas]; exact putBytes_word hw ..
  by_cases hput : pf p 0 0 0 = 1
  · have hk := writePacket_put hxu hput huf
    obtain ⟨a, m, e, hd⟩ := lastingPacket_paid (u := setFull (wroteWord u x (wd (long p 3))) x.pa true) (uid := none)
      (k := fun s p => let r := writePacket s q p; (r.1, r.2, [])) hp hpay (by dsimp only; rw [← hu, hk]) (fun _ h => by cases h)
      (hbehind.of_tr (congrArg _ (wroteWord_kept u x (wd (long p 3))).2))
    obtain ⟨hmem, hfull⟩ := setFull_sent (wroteWord u x (wd (long p 3))) x.pa a m
    refine ⟨_, e, hd, ?_, fun _ => hfull⟩
    rw [hmem]
    exact hbytes u huw
  · obtain ⟨w, hwm, hwt, hk⟩ := writePacket_store hxu hput hpa ht hua huk
    have hww : Memory.wf w.mem = true := by rw [hwm]; exact huw
    obtain ⟨a, m, e, hd⟩ := lastingPacket_paid (u := dropAcc (wroteWord w x (wd (long p 3))) u.uid) (uid := some u.uid)
      (k := fun s p => let r := writePacket s q p; (r.1, r.2, [])) hp hpay (by dsimp only; rw [← hu, hk]) (fun n h => by
        cases h
        rw [List.any_eq_false]
        intro y hy he
        exact absurd (beq_iff_eq.mp he) (by simpa using (List.mem_filter.mp hy).2))
      (hbehind.of_tr (congrArg _ ((wroteWord_kept w x (wd (long p 3))).2.trans hwt)))
    refine ⟨_, e, hd, ?_, fun h => absurd h hput⟩
    rw [sent_mem, mem_dropAcc]
    exact hbytes w hww

end

/-- Settles O51: each packet by its lemma, on the machine that has consumed it (`taken`). -/
theorem packets : Obligations.Packets := by
  unfold Obligations.Packets
  intro s q f p
  refine ⟨nop_does, close_alone, close_group, ?_, wake_does, ?_, cut_alone, cut_group, stage_does, switch_does, ?_, indirect_does, fun hj =>
    ⟨wait_does hj, wait_blocks, ?_, ?_, launch_does hj, ?_⟩⟩
  · exact fun pas x hj hf hpay hw hx hm ha ht hp => write_does hj hf hpay hw hx hm ha ht hp
  · exact fun st v h16 h31 hoff hv h1 h2 h3 hp => regwrite_does h16 h31 hoff hv h1 h2 h3 hp
  · exact fun o ho hq hpaid => owed_does ho hq hpaid
  · intro hp hb
    obtain ⟨hst, -, hpend, -⟩ := id hp
    have hex : ∀ k, exec (.launch q) s = .next (packet s q 2 launchReady k) → Does (.launch q) s fun t =>
        BlockedAt s t q ⟨2, f, packetAt (getCq s q), p, false⟩ := fun k e => by
      obtain ⟨t, ht, hblock⟩ := launch_blocks hb hp k
      exact ⟨t, e.trans (congrArg _ ht), hblock⟩
    have hnone : ((getCq s q).pend.filter fun p => p.begun && decide ((getCq s q).st = .waiting)) = none := by rw [hpend]; rfl
    refine hex (fun s f w p =>
      if (startLaunch s { packetLaunch s q f p with whr := w }).2 then
        launchGo (startLaunch s { packetLaunch s q f p with whr := w }).1 q f w p
      else packetDone (startLaunch s { packetLaunch s q f p with whr := w }).1 q f w) ?_
    change Host.Outcome.next _ = _
    rw [hnone]
    rfl
  · exact fun hp hb => graph_blocks hb hp
  · exact fun n ns hg hb hp => graph_does hj hg hb hp

end Sys2Proof.Machine
end

section
namespace Sys2Proof.Machine

/-! Entries placed in the open batch (R46, R47, R50): the harts, the releases on their way and, but for what their way to READY
changes, the transactions stay as they are. -/

/-- A transaction but for what changes of it on its way from the open batch to READY (R46, R55). -/
def Txn.placed (t : Txn) : Txn := { t with st := .submitted, pooled := false, num := none, voidOf := none }

/-- What the way of entries through the open batch keeps: the slots, the hart that executes, canonical memory, the releases, and
the transactions as `Txn.placed` shows them. -/
structure BatchKept (s t : State) : Prop where
  slots : t.slots = s.slots
  cur   : t.cur = s.cur
  wf    : Memory.wf s.mem = true → Memory.wf t.mem = true
  relq  : t.ks.relq = s.ks.relq
  txns  : t.ks.txns.map Txn.placed = s.ks.txns.map Txn.placed

theorem BatchKept.refl (s : State) : BatchKept s s := ⟨rfl, rfl, id, rfl, rfl⟩

theorem BatchKept.trans {s t u : State} (h : BatchKept s t) (k : BatchKept t u) : BatchKept s u :=
  ⟨k.slots.trans h.slots, k.cur.trans h.cur, k.wf ∘ h.wf, k.relq.trans h.relq, k.txns.trans h.txns⟩

/-- An operation of Keystone alone that keeps its lasting part keeps this much if it keeps the transactions so. -/
theorem BatchKept.of_offKs {s t : State} (h : offKs t = offKs s) (k : t.ks.kept = s.ks.kept)
    (x : t.ks.txns.map Txn.placed = s.ks.txns.map Txn.placed) : BatchKept s t :=
  ⟨slots_of_offKs h, (congrArg State.cur h :), fun w => by rwa [mem_of_offKs h], (congrArg Keystone.relq k :), x⟩

/-- Transactions that agree but for their readiness agree as placed. -/
theorem placed_of_waiting {s t : State} (h : t.ks.txns.map Txn.waiting = s.ks.txns.map Txn.waiting) :
    t.ks.txns.map Txn.placed = s.ks.txns.map Txn.placed := by
  have e : ∀ l : List Txn, l.map Txn.placed = (l.map Txn.waiting).map Txn.placed := fun l => by rw [List.map_map]; rfl
  rw [e t.ks.txns, h, ← e]

theorem placed_modTxn (s : State) (u : Nat) {f : Txn → Txn} (hf : ∀ t, (f t).placed = t.placed) :
    (modTxn s u f).ks.txns.map Txn.placed = s.ks.txns.map Txn.placed := by
  simp only [modTxn, modKs, List.map_map]
  refine List.map_congr_left fun t _ => ?_
  simp only [Function.comp]
  split
  · exact hf t
  · rfl

theorem batchKept_modTxn (s : State) (u : Nat) {f : Txn → Txn} (hf : ∀ t, (f t).placed = t.placed) : BatchKept s (modTxn s u f) :=
  .of_offKs (offKs_modTxn ..) (kept_modTxn ..) (placed_modTxn s u hf)

theorem batchKept_modKs (s : State) {f : Keystone → Keystone} (hr : (f s.ks).relq = s.ks.relq) (ht : (f s.ks).txns = s.ks.txns) :
    BatchKept s (modKs s f) := ⟨rfl, rfl, id, hr, congrArg (List.map Txn.placed) ht⟩

theorem put64_wf {s : State} (w : Memory.wf s.mem = true) (pa : Nat) (v : Word) (psn : Bool) :
    Memory.wf (put64 s pa v psn).mem = true := by
  obtain ⟨m, hm, e⟩ := putBytes_mem w 0 ((span pa 8).zip (wBytes v)) psn
  rw [put64, e]
  exact memSetAll_wf _ hm

/-- A journal entry keeps memory in its canonical form (R405). -/
theorem jlog_wf {s : State} (w : Memory.wf s.mem = true) (kind queue status whr : Nat) (d0 d1 : Word) :
    Memory.wf (jlog s kind queue status whr d0 d1).mem = true := by
  have entry : ∀ (u : State) (b : Bool) (pa : Nat) (x0 x1 x2 x3 : Word), Memory.wf u.mem = true →
      Memory.wf (if b then put64 (put64 (put64 (put64 u pa x0 false) (pa + 8) x1 false) (pa + 16) x2 false) (pa + 24) x3 false
        else u).mem = true := fun u b pa x0 x1 x2 x3 hu => by
    cases b
    · exact hu
    · exact put64_wf (put64_wf (put64_wf (put64_wf hu ..) ..) ..) ..
  have counted : ∀ (p : Prop) [Decidable p], Memory.wf (if p then bumpTr s 0x18 else s).mem = true := fun p _ => by
    split <;> exact w
  simp only [jlog]
  split
  · exact w
  · simp only [jwrite]
    split
    · exact w
    · exact entry _ _ _ _ _ _ _ (counted _)

theorem batchKept_jlog (s : State) (kind queue status whr : Nat) (d0 d1 : Word) : BatchKept s (jlog s kind queue status whr d0 d1) :=
  ⟨jlog_slots .., (congrArg State.cur (setting_jlog s kind queue status whr d0 d1) :), fun w => jlog_wf w .., by rw [jlog_ks],
    by rw [jlog_ks]⟩

theorem batchKept_numberOne (s : State) (e : BatchEnt) (n : Nat) : BatchKept s (numberOne s e n) := by
  have numbered : ∀ u t : Nat, BatchKept s (modLaunch (modTxn s u fun t => { t with num := some n, st := .numbered, voidOf := none }) t
      fun l => { l with last := max l.last n }) := fun u t => by
    refine .trans ?_ (batchKept_modKs _ rfl rfl)
    exact batchKept_modTxn s u fun _ => rfl
  unfold numberOne
  split
  · split
    · exact .refl s
    · dsimp only
      split
      · exact (numbered _ _).trans (batchKept_jlog ..)
      · exact numbered _ _
  · exact .refl s

theorem batchKept_numberBatch (s : State) (b : List BatchEnt) (batch pos : Nat) : BatchKept s (numberBatch s b batch pos).1 :=
  foldl_keeps (P := BatchKept s) _ _ _ (.refl s) fun u x _ hu => by obtain ⟨e, i⟩ := x; exact hu.trans (batchKept_numberOne ..)

/-! The feed changes of the transactions only their way to READY (R50, R55). -/

theorem txns_pushChan (s : State) (ab : Nat) (e : ChanEnt) : (pushChan s ab e).ks.txns = s.ks.txns := rfl

theorem txns_pushAll (s : State) (e : ChanEnt) : (pushAll s e).ks.txns = s.ks.txns :=
  foldl_proj (π := fun s : State => s.ks.txns) (fun _ _ => txns_pushChan ..) _ _

theorem txns_feedMarker (s : State) (mine : Bool) (e : ManifestEntry) (n : Nat) : (feedMarker s mine e n).ks.txns = s.ks.txns := by
  unfold feedMarker
  split
  · split
    · exact txns_pushAll ..
    · rfl
  · rfl

theorem txns_feedReqs (s : State) (e : ManifestEntry) (n : Nat) : (feedReqs s e n).ks.txns = s.ks.txns :=
  foldl_proj (π := fun s : State => s.ks.txns) (fun _ _ => by split <;> rfl) _ _

theorem placed_feedTxn (s : State) (n : Nat) : (feedTxn s n).ks.txns.map Txn.placed = s.ks.txns.map Txn.placed := by
  unfold feedTxn
  split
  · split
    · exact (placed_of_waiting (waiting_maybeReady ..)).trans (placed_modTxn _ _ fun _ => rfl)
    · rfl
  · rfl

theorem placed_feedOne (s : State) (mine : Bool) (e : ManifestEntry) (n : Nat) :
    (feedOne s mine e n).ks.txns.map Txn.placed = s.ks.txns.map Txn.placed := by
  rw [feedOne_eq, placed_feedTxn, txns_feedReqs, txns_feedMarker]

theorem placed_feed (s : State) (pos batch : Nat) (mine : Bool) (es : List ManifestEntry) :
    (feed s pos batch mine es).ks.txns.map Txn.placed = s.ks.txns.map Txn.placed := by
  rw [feed, placed_of_waiting (waiting_poolAll _), txns_pushAll]
  exact foldl_proj (π := fun s : State => s.ks.txns.map Txn.placed) (fun u x => by obtain ⟨e, i⟩ := x; exact placed_feedOne ..) _ _

theorem batchKept_feed (s : State) (pos batch : Nat) (mine : Bool) (es : List ManifestEntry) : BatchKept s (feed s pos batch mine es) :=
  .of_offKs (offKs_feed ..) (kept_feed ..) (placed_feed ..)

theorem batchKept_closeBatch (s : State) : BatchKept s (closeBatch s) := by
  rw [closeBatch]
  split
  · exact .refl s
  · split
    · exact batchKept_modKs s rfl rfl
    · have opened : BatchKept s (modKs s fun k => { k with openB := [], closeDue := false }) := batchKept_modKs s rfl rfl
      dsimp only
      split
      · exact opened.trans (batchKept_modKs _ rfl rfl)
      · refine .trans ?_ (batchKept_feed ..)
        refine .trans ?_ (batchKept_numberBatch ..)
        exact opened.trans (batchKept_modKs _ rfl rfl)

theorem batchKept_closeBatch_or (s : State) (p : Prop) [Decidable p] : BatchKept s (if p then closeBatch s else s) := by
  split
  · exact batchKept_closeBatch s
  · exact .refl s

theorem batchKept_entered (s : State) (es : List BatchEnt) : BatchKept s (entered s es) := by
  rw [entered]
  exact batchKept_modKs s rfl rfl

/-- Entries placed in the open batch (R47). -/
theorem batchKept_placeEnts (s : State) (es : List BatchEnt) : BatchKept s (placeEnts s es) := by
  obtain ⟨p, inst, e⟩ := placeEnts_eq s es
  rw [e]
  exact ((batchKept_closeBatch_or s _).trans (batchKept_entered _ es)).trans (batchKept_closeBatch_or _ p)

/-- Entries that leave the open batch short of full close none (R47). -/
theorem placeEnts_room {s : State} {es : List BatchEnt} (h : s.ks.openB.length + es.length < 1024) : placeEnts s es = entered s es := by
  have hb : ¬ 1024 < s.ks.openB.length + es.length := by omega
  have he : ¬ 1024 ≤ (entered s es).ks.openB.length := by rw [(entered_ks s es).1, List.length_append]; omega
  rw [placeEnts, if_neg hb]
  exact if_neg he

/-- Voided transactions submitted again (R22, R62). -/
theorem batchKept_placeVoids (n : Nat) (s : State) : BatchKept s (placeVoids n s) := by
  induction n generalizing s with
  | zero => exact .refl s
  | succ n ih =>
    rw [placeVoids]
    split
    · exact .refl s
    · split
      · exact .refl s
      · refine .trans ?_ (ih _)
        refine .trans ?_ (batchKept_placeEnts ..)
        exact batchKept_modTxn s _ fun _ => rfl

/-- No voided transaction takes a place in a full batch. -/
theorem placeVoids_full {s : State} (h : 1024 ≤ s.ks.openB.length) (n : Nat) : placeVoids n s = s := by
  cases n with
  | zero => rfl
  | succ n => rw [placeVoids, if_pos h]

theorem placeVoids_none {s : State} (h : ∀ x ∈ s.ks.txns, x.st ≠ .void) (n : Nat) : placeVoids n s = s := by
  have hf : s.ks.txns.find? (·.st = .void) = none := List.find?_eq_none.mpr fun x hx => by simpa using h x hx
  cases n with
  | zero => rfl
  | succ n => rw [placeVoids, hf]; split <;> rfl

/-- The acceptance of a submission is no part of a hart (R44). -/
theorem submit_kept (s : State) (u : Submitter) (al : Bool) (desc : Nat → Option (List Word)) (limit : Nat) :
    (submit s u al desc limit).1.slots = s.slots ∧ (submit s u al desc limit).1.cur = s.cur ∧
      (Memory.wf s.mem = true → Memory.wf (submit s u al desc limit).1.mem = true) := by
  rw [submit]
  split
  · exact ⟨rfl, rfl, id⟩
  · obtain ⟨n, f, es, e, -⟩ := acceptSub_eq s (((desc 0).getD []).getD 0 0) ‹_›
    have hk := batchKept_placeEnts (modKs { s with uid := n } f) es
    rw [e]
    exact ⟨hk.slots, hk.cur, hk.wf⟩

end Sys2Proof.Machine
end

section
namespace Sys2Proof.Machine

/-! A read that a unit makes for the executing hart (R81, R198, R213): it changes old copies, a FIFO's place and what the hart keeps
of a port's bytes, so whatever is translated or read afterwards is as before. -/

/-- What such a read keeps. -/
structure ReadKept (s t : State) : Prop where
  rest   : ∃ a b c, t = { s with cores := a, clusters := b, slots := c }
  units  : ∀ c, (getCluster t c).tlb = (getCluster s c).tlb ∧ (getCluster t c).csbmode = (getCluster s c).csbmode
  self   : ∃ l, getSlot t s.cur = { getSlot s s.cur with kept := l }
  others : ∀ k, k ≠ s.cur → getSlot t k = getSlot s k

theorem ReadKept.refl (s : State) : ReadKept s s := ⟨⟨_, _, _, rfl⟩, fun _ => ⟨rfl, rfl⟩, ⟨_, rfl⟩, fun _ _ => rfl⟩

section
variable {s t : State} (h : ReadKept s t)
include h

theorem ReadKept.cur_eq : t.cur = s.cur := by obtain ⟨_, _, _, e⟩ := h.rest; rw [e]
theorem ReadKept.mem_eq : t.mem = s.mem := by obtain ⟨_, _, _, e⟩ := h.rest; rw [e]
theorem ReadKept.poison_eq : t.poison = s.poison := by obtain ⟨_, _, _, e⟩ := h.rest; rw [e]
theorem ReadKept.ks_eq : t.ks = s.ks := by obtain ⟨_, _, _, e⟩ := h.rest; rw [e]
theorem ReadKept.tr_eq : t.tr = s.tr := by obtain ⟨_, _, _, e⟩ := h.rest; rw [e]
theorem ReadKept.module_eq : t.module = s.module := by obtain ⟨_, _, _, e⟩ := h.rest; rw [e]
theorem ReadKept.sched_eq : t.sched = s.sched := by obtain ⟨_, _, _, e⟩ := h.rest; rw [e]

theorem ReadKept.trans {u : State} (k : ReadKept t u) : ReadKept s u := by
  have hc := h.cur_eq
  obtain ⟨l, hl⟩ := h.self
  obtain ⟨m, hm⟩ := k.self
  rw [hc] at hm
  obtain ⟨a, b, c, e⟩ := h.rest
  obtain ⟨a', b', c', e'⟩ := k.rest
  refine ⟨⟨a', b', c', by rw [e', e]⟩, fun n => ?_, ⟨m, by rw [hm, hl]⟩, fun n e => ?_⟩
  · exact ⟨(k.units n).1.trans (h.units n).1, (k.units n).2.trans (h.units n).2⟩
  · rw [k.others n (by rwa [hc]), h.others n e]

/-! What is read and translated. -/

theorem ReadKept.answers_eq : answers t = answers s := by obtain ⟨_, _, _, e⟩ := h.rest; rw [e]; rfl

theorem ReadKept.rdByte_eq : rdByte t = rdByte s := by
  have hk : keyMat t = keyMat s := by obtain ⟨_, _, _, e⟩ := h.rest; rw [e]; rfl
  have hg : t.keytag = s.keytag := by obtain ⟨_, _, _, e⟩ := h.rest; rw [e]
  funext key pa
  rw [rdByte, rdByte, hk, hg, h.mem_eq]

theorem ReadKept.rdBytes_eq (key : Nat) (pas : List Nat) : rdBytes t key pas = rdBytes s key pas := by rw [rdBytes, rdBytes, h.rdByte_eq]

theorem ReadKept.tableWord_eq : tableWord t = tableWord s := by
  funext pa
  rw [tableWord, tableWord, h.answers_eq, rd64, rd64, h.rdByte_eq]

theorem ReadKept.trReg_eq : trReg t = trReg s := by
  funext off
  rw [trReg, trReg, h.tr_eq]

theorem ReadKept.walk_eq : walk t = walk s := by
  funext asid va
  rw [walk, walk, h.tableWord_eq, h.trReg_eq]

theorem ReadKept.tlbFind_eq : tlbFind t = tlbFind s := by
  funext cl asid va
  rw [tlbFind, tlbFind, h.sched_eq, (h.units cl).1]

theorem ReadKept.xlWindow_eq : xlWindow t = xlWindow s := by obtain ⟨_, _, _, e⟩ := h.rest; rw [e]; rfl

theorem ReadKept.xlate_eq : xlate t = xlate s := by
  funext w va k
  rw [xlate, xlate, h.walk_eq, h.trReg_eq, h.tlbFind_eq, h.xlWindow_eq]

theorem ReadKept.xlBytes_eq : xlBytes t = xlBytes s := by
  funext w va n k
  rw [xlBytes, xlBytes, h.xlate_eq]

theorem ReadKept.stores_eq : stores t = stores s := by
  have hm : bankMode t = bankMode s := by
    funext cl b
    rw [bankMode, bankMode, (h.units cl).2]
  have hb : bankModes t = bankModes s := by
    funext pas
    rw [bankModes, bankModes, hm, h.module_eq]
  funext pas
  rw [stores, stores, h.answers_eq, hb, h.module_eq]

theorem ReadKept.peekWords_eq : peekWords t = peekWords s := by
  funext core asid va n
  rw [peekWords, peekWords, peek, peek, h.xlBytes_eq, h.stores_eq]
  simp only [h.rdBytes_eq]

theorem ReadKept.strideAt_eq : strideAt t = strideAt s := by
  funext core asid entry
  rw [strideAt, strideAt, h.peekWords_eq]

theorem ReadKept.pagesX_eq (w : Who) (k : AccKind) (fuel va n : Nat) : pagesX t w k fuel va n = pagesX s w k fuel va n := by
  induction fuel generalizing va n with
  | zero => rfl
  | succ fuel ih => rw [pagesX, pagesX, h.xlate_eq]; simp only [ih]

theorem ReadKept.regX_eq (u : Submitter) : regX t u = regX s u := by
  funext e
  simp only [regX, rangeSegs, h.pagesX_eq]

theorem ReadKept.judge_eq : judge t = judge s := by
  have hg : groupMods t = groupMods s := by rw [groupMods, groupMods, h.ks_eq, h.module_eq]
  funext arrs back sealed hdr
  unfold judge
  rw [hg]

theorem ReadKept.who_eq : who t s.cur = who s s.cur := by
  obtain ⟨l, e⟩ := h.self
  rw [who, who, privOf, privOf, modeOf, modeOf, e]

theorem ReadKept.uncovered_eq (held : List TileReq) (mode fuel va n : Nat) :
    uncovered t s.cur held mode fuel va n = uncovered s s.cur held mode fuel va n := by
  induction fuel generalizing va n with
  | zero => rfl
  | succ fuel ih => rw [uncovered, uncovered, h.xlate_eq, h.who_eq]; simp only [ih]

theorem ReadKept.firstUncovered_eq (held : List TileReq) (es : List (Word × Word)) :
    firstUncovered t s.cur held es = firstUncovered s s.cur held es := by
  simp only [firstUncovered, h.uncovered_eq]

theorem ReadKept.heldReqs_eq (x : Txn) : heldReqs t x = heldReqs s x := by
  rw [heldReqs, heldReqs]
  simp only [gangTxns, h.ks_eq]

/-! The executing hart. -/

theorem ReadKept.readReg_eq (n : Nat) : readReg t s.cur n = readReg s s.cur n := by
  obtain ⟨l, e⟩ := h.self
  rw [readReg, readReg, rd64, rd64, h.rdByte_eq, regPa, regPa, scratchPa, scratchPa, h.module_eq, e]

theorem ReadKept.clean {rs : List Nat} (hc : Clean s rs) : Clean t rs := fun r hr => by
  obtain ⟨l, e⟩ := h.self
  have hp := hc r hr
  rw [opPsn, latched] at hp ⊢
  rw [regPsn, isPsn, regPa, scratchPa] at hp ⊢
  rw [h.cur_eq, e, h.poison_eq, h.module_eq]
  exact hp

theorem ReadKept.ordinary (o : Ordinary s) : Ordinary t := by
  obtain ⟨p, w⟩ := o
  obtain ⟨l, e⟩ := h.self
  refine ⟨?_, by rwa [h.mem_eq]⟩
  rw [Placed, h.cur_eq, e]
  exact p

end

/-! The read keeps it. -/

theorem readKept_modCluster (s : State) (cl : Nat) {f : Cluster → Cluster} (ht : ∀ k, (f k).tlb = k.tlb)
    (hm : ∀ k, (f k).csbmode = k.csbmode) : ReadKept s (modCluster s cl f) := by
  refine ⟨⟨_, _, _, rfl⟩, fun c => ?_, ⟨_, rfl⟩, fun _ _ => rfl⟩
  by_cases e : c = cl
  · subst e; rw [getCluster_modCluster_self]; exact ⟨ht _, hm _⟩
  · rw [getCluster_modCluster_ne _ _ e]; exact ⟨rfl, rfl⟩

theorem readKept_modCore (s : State) (core : Nat) (f : Core → Core) : ReadKept s (modCore s core f) :=
  ⟨⟨_, _, _, rfl⟩, fun _ => ⟨rfl, rfl⟩, ⟨_, rfl⟩, fun _ _ => rfl⟩

theorem readKept_dropCopies (s : State) (core : Nat) (pas : List Nat) : ReadKept s (dropCopies s core pas) := by
  rw [dropCopies]
  refine .trans ?_ (readKept_modCluster _ _ ?_ ?_)
  · exact readKept_modCore ..
  · exact fun _ => rfl
  · exact fun _ => rfl

theorem readKept_fifoStep (s : State) (cl b : Nat) (pas : List Nat) (write : Bool) : ReadKept s (fifoStep s cl b pas write) := by
  simp only [fifoStep]
  split
  · exact readKept_modCluster _ _ (fun _ => rfl) fun _ => rfl
  · exact .refl s

theorem readKept_portRead (qs : List (List Nat)) (s : State) (cl b : Nat) (bs : List Byte) (p : Bool) :
    ReadKept s (portRead s cl b qs bs p).2.2 := by
  induction qs generalizing s bs p with
  | nil => exact .refl s
  | cons q qs ih => exact (readKept_fifoStep s cl b q false).trans (ih ..)

theorem readKept_readRuns (r : List (Option (Nat × Nat) × List (Nat × Nat))) (s : State) (bs : List Byte) (p : Bool) :
    ReadKept s (readRuns r s bs p).2.2 := by
  induction r generalizing s bs p with
  | nil => exact .refl s
  | cons e r ih =>
    obtain ⟨_ | ⟨cl, b⟩, l⟩ := e
    · exact ih ..
    · exact (readKept_portRead ..).trans (ih ..)

theorem readKept_keep (s : State) (f : Slot → Slot) (hf : ∀ x, ∃ l, f x = { x with kept := l }) : ReadKept s (modSlot s s.cur f) := by
  refine ⟨⟨_, _, _, rfl⟩, fun _ => ⟨rfl, rfl⟩, ?_, fun k e => getSlot_modSlot_ne _ _ e⟩
  rw [getSlot_modSlot_self]
  exact hf _

theorem readKept_afterUnit (s : State) (va n : Nat) (bs : List Byte) (psn : Bool) : ReadKept s (afterUnit s va n bs psn) := by
  rw [afterUnit]
  split
  · exact .refl s
  · next l _ =>
    dsimp only
    split
    · exact .refl s
    · obtain ⟨u, hu⟩ : ∃ u, u = dropCopies s (coreOf s.cur) ((regionCells l va n).map (·.1)) := ⟨_, rfl⟩
      have hk : ReadKept s u := hu ▸ readKept_dropCopies ..
      have hr := readKept_readRuns (portRuns u (regionCells l va n)) u [] false
      rw [← hu]
      split
      · exact hk
      · have hs := readKept_keep (readRuns (portRuns u (regionCells l va n)) u [] false).2.2
          (fun x => { x with kept := x.kept ++ [(va, bs, psn)] }) fun x => ⟨_, rfl⟩
        rw [hr.cur_eq] at hs
        exact hk.trans (hr.trans hs)

theorem readKept_afterRead (s : State) (va n : Nat) : ReadKept s (afterRead s va n) := by
  unfold afterRead
  split
  · exact readKept_afterUnit ..
  · exact .refl s

/-- The array of TXCHK is read by such reads (R340). -/
theorem readKept_readEntries (n : Nat) (s : State) (va : Nat) : ReadKept s (readEntries s va n).1 := by
  induction n generalizing s va with
  | zero => exact .refl s
  | succ n ih =>
    rw [readEntries]
    split
    · exact .refl s
    · exact .refl s
    · next bs p _ =>
      have hk := (readKept_afterUnit s va 16 bs p).trans (ih (afterUnit s va 16 bs p) (va + 16))
      dsimp only
      split
      · next e => rw [e] at hk; exact hk
      · next e => rw [e] at hk; exact hk

end Sys2Proof.Machine
end

section
namespace Sys2Proof.Machine

/-! What the instructions of a task share (R333): the binding, and their retirement. -/

theorem needTxn_none {s : State} {k : Txn → State} (h : boundTxn s s.cur = none) : needTxn s k = raise s (trap .accessFault 4 0) := by
  rw [needTxn, h]

theorem needTxn_bound {s : State} {t : Txn} {k : Txn → State} (h : Bound s t) : needTxn s k = k t := by
  rw [needTxn, show boundTxn s s.cur = some t from h]

/-- The bound transaction is the one of its number. -/
theorem txnBy_of_bound {s : State} {h : Nat} {t : Txn} (hb : boundTxn s h = some t) : txnBy s t.uid = some t := by
  obtain ⟨u, -, hu⟩ := Option.bind_eq_some_iff.mp hb
  rw [txnBy_uid hu, hu]

/-- Without a transaction every instruction that needs one is an ACCESS_FAULT (R333). -/
theorem unbound_faults {s : State} (hi : MayIssue s .none 0) (hb : boundTxn s s.cur = none) (sw : Bool) (a b c : Fin 32) :
    ∀ i ∈ [Instr.txsub sw a b, .txchk sw b c, .txend sw, .done sw a], exec i s = .next (raise s (trap .accessFault 4 0)) := by
  simp only [List.mem_cons, List.not_mem_nil, or_false, forall_eq_or_imp, forall_eq]
  refine ⟨?_, ?_, ?_, ?_⟩
  · change execTxsub sw a b s = _
    rw [execTxsub, issue_of_may hi, needTxn_none hb]
  · change execTxchk sw b c s = _
    rw [execTxchk, issue_of_may hi, needTxn_none hb]
  · change execTxend sw s = _
    rw [execTxend, issue_of_may hi, needTxn_none hb]
  · change execDone sw a s = _
    rw [execDone, issue_of_may hi, needTxn_none hb]

/-- A check that is not owed, or has passed, is not late (R60). -/
theorem not_late {t : Txn} (h : Passed t) : (t.checked && !t.passed) = false := by
  cases hc : t.checked
  · rfl
  · rw [h hc]; rfl

theorem pc_retire (u : State) (sw : Bool) : (getSlot (retire u sw) u.cur).pc = (getSlot u u.cur).pc + 4 := by
  rw [retire, retireH, getSlot_modSlot_self]

/-- Retirement changes no storage and no other hart. -/
theorem Quiet.retired {s u : State} (h : Quiet s u) (hc : u.cur = s.cur) (sw : Bool) : Quiet s (retire u sw) := by
  obtain ⟨hm, hp, hw, ho⟩ := h
  rw [retire, retireH, hc]
  refine ⟨hm, hp, ?_, fun k e => ?_⟩
  · rw [getSlot_modSlot_self]; exact hw
  · rw [getSlot_modSlot_ne _ _ e, ho k e]

/-- An operation of Keystone alone changes no storage and no hart. -/
theorem quiet_of_offKs {s u : State} (h : offKs u = offKs s) : Quiet s u := by
  have hs := slots_of_offKs h
  refine ⟨mem_of_offKs h, (congrArg State.poison h :), ?_, fun k _ => ?_⟩ <;> rw [getSlot, getSlot, hs]

/-- A unit accepts the instruction of a hart whose slot changed in its scouting and outstanding results alone. -/
theorem accepted_retire {s u : State} {mode : Nat} (hi : MayIssue s .none mode) (hc : u.cur = s.cur) {b : Bool} {l : List Outst}
    (hx : getSlot u s.cur = { getSlot s s.cur with scout := b, outs := l }) : Accepted s (retire u true) := by
  have hb : bit (getSlot s s.cur).hsw 40 = false := pfxOf_of_may hi
  rw [Accepted, retire, retireH, hc, getSlot_modSlot_self, hx]
  simp only [hb, Bool.false_eq_true, if_false, if_true, pcOf, implies_true, and_self]

/-! Slots and cores after a frame is uninstalled (R226). -/

theorem getSlot_writeWs_ne (s : State) {h k : Nat} (n : Nat) (v : Word) (e : k ≠ h) : getSlot (writeWs s h n v) k = getSlot s k := by
  rw [writeWs, writeReg]
  split
  · rfl
  · rw [getSlot_dropOuts_ne _ _ e, put64, getSlot_putBytes]

/-- A write of bytes changes no accumulator of status words (R34). -/
theorem accs_putBytes (s : State) (key : Nat) (cells : List (Nat × Byte)) (psn : Bool) (c : Nat) :
    (getCore (putBytes s key cells psn) c).accs = (getCore s c).accs := by
  obtain ⟨u, e, hu⟩ := putBytes_offMem s key cells psn
  have hc : u.cores = s.cores := (congrArg State.cores hu :)
  rw [e, (congrArg Core.accs ((unitsKept_markStale u _).1 c) :), getCore, getCore, hc]

theorem accs_writeWs (s : State) (h n c : Nat) (v : Word) : (getCore (writeWs s h n v) c).accs = (getCore s c).accs := by
  rw [writeWs, writeReg]
  split
  · rfl
  · rw [getCore_dropOuts, put64, accs_putBytes]

/-- Giving a slot back unbinds it (R27, R344). -/
theorem toLoop_unbinds (s : State) (h : Nat) :
    ∃ g : Slot → Slot, toLoop s h = modSlot (unmark (uninstall s h) h) h g ∧ ∀ x, (g x).bound = none := by
  obtain ⟨f, hf⟩ : ∃ f, f = toLoop := ⟨_, rfl⟩
  obtain ⟨u, hu⟩ : ∃ u, u = unmark (uninstall s h) h := ⟨_, rfl⟩
  rw [← hf, ← hu]
  delta toLoop at hf
  rw [hf]
  beta_reduce
  rw [← hu]
  dsimp only
  split
  · exact ⟨_, rfl, fun _ => rfl⟩
  · exact ⟨_, rfl, fun _ => rfl⟩

/-- It leaves the other harts, the accumulators, and Keystone but for the harts that markers are to cut. -/
theorem toLoop_kept (s : State) (h : Nat) : (getSlot (toLoop s h) h).bound = none ∧
    (∀ k, k ≠ h → getSlot (toLoop s h) k = getSlot s k) ∧ (∀ c, (getCore (toLoop s h) c).accs = (getCore s c).accs) ∧
    ∃ l, (toLoop s h).ks = { s.ks with cutSt := l } := by
  obtain ⟨g, e, hg⟩ := toLoop_unbinds s h
  rw [e]
  refine ⟨?_, fun k hk => ?_, fun c => ?_, s.ks.cutSt.map fun c => { c with harts := c.harts.filter (· ≠ h) }, ?_⟩
  · rw [getSlot_modSlot_self, hg]
  · rw [getSlot_modSlot_ne _ _ hk, unmark, getSlot_modKs, uninstall, getSlot_writeWs_ne _ _ _ hk]
  · rw [getCore_modSlot, unmark, getCore_modKs, uninstall, accs_writeWs]
  · rw [modSlot_ks, unmark, modKs_ks, uninstall, writeWs_ks]

/-- What a mark changes is the state of the hart's slot alone. -/
theorem markPark_kept (s : State) (h : Nat) (sw : Bool) : (getSlot (markPark s h sw) h).bound = (getSlot s h).bound ∧
    (∀ k, k ≠ h → getSlot (markPark s h sw) k = getSlot s k) ∧ (markPark s h sw).cores = s.cores ∧ (markPark s h sw).ks = s.ks := by
  unfold markPark
  split
  · exact ⟨by rw [getSlot_modSlot_self], fun k hk => getSlot_modSlot_ne _ _ hk, rfl, rfl⟩
  · exact ⟨rfl, fun _ _ => rfl, rfl, rfl⟩

end Sys2Proof.Machine
end

section
namespace Sys2Proof.Machine

/-! TXEND and DONE (R57, R342, R344). -/

section
variable {s : State} {t : Txn} (hi : MayIssue s .none 0) (hb : Bound s t)
include hi hb

/-- TXEND that has completed goes on at once. -/
theorem exec_txend_again (sw : Bool) (he : t.ended = true) : exec (.txend sw) s = .next (retire s sw) := by
  change execTxend sw s = _
  rw [execTxend, issue_of_may hi, needTxn_bound hb, if_pos he]

/-- TXEND before an owed check has passed is late (R60). -/
theorem exec_txend_late (sw : Bool) (he : t.ended = false) (hc : t.checked = true) (hp : t.passed = false) :
    exec (.txend sw) s = .next (raise s (trap .txCheckLate 0 0)) := by
  change execTxend sw s = _
  rw [execTxend, issue_of_may hi, needTxn_bound hb, he, hc, hp]
  rfl

theorem exec_txend (sw : Bool) (he : t.ended = false) (hp : Passed t) (hq : taskPending s s.cur = false) :
    exec (.txend sw) s = .next (retire (releaseTxn s t.uid) true) := by
  change execTxend sw s = _
  rw [execTxend, issue_of_may hi, needTxn_bound hb, he, not_late hp, hq]
  rfl

theorem exec_done (hf : Fresh s) (sw : Bool) (a : Fin 32) (he : t.ended = true ∨ (Passed t ∧ Drained s)) (hc : Clean s [a.val])
    (hq : taskPending s s.cur = false) : exec (.done sw a) s = .next (markPark (endTask s s.cur (rg s a) 0) s.cur sw) := by
  have hlate : (!t.ended && t.checked && !t.passed) = false := by
    rcases he with he | ⟨hp, -⟩
    · rw [he]; rfl
    · rw [Bool.and_assoc, not_late hp, Bool.and_false]
  have hgo : (taskPending s s.cur || (!t.ended && !(getSlot s s.cur).outs.isEmpty)) = false := by
    rcases he with he | ⟨-, hd⟩
    · rw [hq, he]; rfl
    · rw [hq, show (getSlot s s.cur).outs = [] from hd, List.isEmpty_nil, Bool.not_true, Bool.and_false]; rfl
  change execDone sw a s = _
  rw [execDone, issue_of_may hi, needTxn_bound hb, operands_of_fresh hf]
  simp only [hlate, consume_of_clean hc, hgo, Bool.false_eq_true, if_false]
  rfl

end

/-- A change of a transaction that keeps numbers and which have ended keeps that those of a number have. -/
theorem ended_map {l : List Txn} {u : Nat} (hl : ∀ y ∈ l, y.uid = u → y.ended = true) {f : Txn → Txn}
    (hf : ∀ y, (f y).uid = y.uid ∧ (f y).ended = y.ended) : ∀ x ∈ l.map f, x.uid = u → x.ended = true := fun x hx e => by
  obtain ⟨y, hy, rfl⟩ := List.mem_map.mp hx
  rw [(hf y).1] at e
  rw [(hf y).2, hl y hy e]

/-- A change of the transaction of a number holds of it afterwards. -/
theorem modTxn_all {s : State} {u : Nat} {f : Txn → Txn} {P : Txn → Prop} (hf : ∀ y, P (f y)) :
    ∀ x ∈ (modTxn s u f).ks.txns, x.uid = u → P x := fun x hx e => by
  obtain ⟨y, -, rfl⟩ := List.mem_map.mp hx
  split at e
  · next hy => rw [if_pos hy]; exact hf y
  · next hy => exact absurd e hy

/-- The release of a transaction in no gang (R57). -/
theorem releaseTxn_alone {s : State} {u : Nat} {t : Txn} (ht : txnBy s u = some t) (hg : t.gang = none) :
    releaseTxn s u = modTxn (sendReleases (modTxn s u fun t => { t with ended := true, st := .ending }) (t.num.getD 0) t.held) u
      fun t => { t with held := [] } := by
  rw [releaseTxn, ht]
  simp only [hg]

theorem releaseTxn_ended {s : State} {u : Nat} {t : Txn} (ht : txnBy s u = some t) :
    ∀ x ∈ (releaseTxn s u).ks.txns, x.uid = u → x.ended = true := by
  have marked : ∀ x ∈ (modTxn s u fun t => { t with ended := true, st := .ending }).ks.txns, x.uid = u → x.ended = true :=
    modTxn_all fun _ => rfl
  rw [releaseTxn, ht]
  dsimp only
  split
  · exact ended_map marked fun y => by split <;> exact ⟨rfl, rfl⟩
  · split
    · exact ended_map marked fun y => by split <;> exact ⟨rfl, rfl⟩
    · exact marked

/-- The release leaves the slot. -/
theorem getSlot_releaseTxn (s : State) (u h : Nat) : getSlot (releaseTxn s u) h = getSlot s h := by
  rw [getSlot, getSlot, slots_of_offKs (offKs_releaseTxn s u)]

/-- TXEND releases the locks (R57, R342). -/
theorem txend_does {s : State} {t : Txn} (hi : MayIssue s .none 0) (hb : Bound s t) (sw : Bool) (he : t.ended = false) (hp : Passed t)
    (hq : taskPending s s.cur = false) : Does (.txend sw) s fun u => Quiet s u ∧ Accepted s u ∧
      (∀ x ∈ u.ks.txns, x.uid = t.uid → x.ended = true) ∧
      (t.gang = none → u.ks.relq = s.ks.relq ++ t.held.map (fun r => (t.num.getD 0, r.tile)) ∧
        ∀ x ∈ u.ks.txns, x.uid = t.uid → x.held = []) := by
  have ht := txnBy_of_bound hb
  have hc : (releaseTxn s t.uid).cur = s.cur := (congrArg State.cur (offKs_releaseTxn s t.uid) :)
  refine ⟨_, exec_txend hi hb sw he hp hq, (quiet_of_offKs (offKs_releaseTxn ..)).retired hc true,
    accepted_retire hi hc (getSlot_releaseTxn ..), releaseTxn_ended ht, fun hg => ?_⟩
  change (releaseTxn s t.uid).ks.relq = _ ∧ ∀ x ∈ (releaseTxn s t.uid).ks.txns, _
  rw [releaseTxn_alone ht hg]
  exact ⟨rfl, modTxn_all fun _ => rfl⟩

theorem txend_again_does {s : State} {t : Txn} (hi : MayIssue s .none 0) (hb : Bound s t) (sw : Bool) (he : t.ended = true) :
    Does (.txend sw) s fun u => Quiet s u ∧ (getSlot u s.cur).pc = pcOf s + 4 ∧ u.ks = s.ks :=
  ⟨_, exec_txend_again hi hb sw he, (quiet_of_offKs rfl).retired rfl sw, pc_retire s sw, rfl⟩

/-- What the end of a task leaves: the slot is unbound and the status word is in its launch's accumulator (R34, R344). -/
theorem endTask_kept {s : State} {h : Nat} {t : Txn} (hb : boundTxn s h = some t) (op : Word) :
    (getSlot (endTask s h op 0) h).bound = none ∧ (∀ k, k ≠ h → getSlot (endTask s h op 0) k = getSlot s k) ∧
      tget 0 (getCore (endTask s h op 0) (coreOf h)).accs t.tag = combine (tget 0 (getCore s (coreOf h)).accs t.tag)
        ((if bit (getSlot s h).hsw 7 then stPoisoned else 0) ||| wd (fld op 57 56 * 2 ^ 56 + 2 ^ 32 + fld op 31 0)) := by
  obtain ⟨r, hr⟩ : ∃ r, r = if t.ended then s else releaseTxn s t.uid := ⟨_, rfl⟩
  have hoff : offKs r = offKs s := by
    rw [hr]; split
    · rfl
    · exact offKs_releaseTxn ..
  have hslot : ∀ k, getSlot r k = getSlot s k := fun k => by rw [getSlot, getSlot, slots_of_offKs hoff]
  obtain ⟨w, hw⟩ : ∃ w, w = (if bit (getSlot s h).hsw 7 then stPoisoned else 0) ||| wd (fld op 57 56 * 2 ^ 56 + 2 ^ 32 + fld op 31 0) :=
    ⟨_, rfl⟩
  have he : endTask s h op 0 = toLoop (dropTxn (addAcc r (coreOf h) t.tag w) t.uid) h := by
    rw [endTask, hb]
    simp only [← hr, hslot, one_mul]
    rw [show (0 : Word) ||| (if bit (getSlot s h).hsw 7 then stPoisoned else 0) = _ from BitVec.zero_or, ← hw]
  have hd := offKs_dropTxn (addAcc r (coreOf h) t.tag w) t.uid
  obtain ⟨h1, h2, h3, -⟩ := toLoop_kept (dropTxn (addAcc r (coreOf h) t.tag w) t.uid) h
  rw [he, ← hw]
  refine ⟨h1, fun k hk => ?_, ?_⟩
  · rw [h2 k hk, getSlot, slots_of_offKs hd]
    exact hslot k
  · rw [h3, getCore, cores_of_offKs hd]
    change tget 0 (getCore (addAcc r (coreOf h) t.tag w) (coreOf h)).accs t.tag = _
    rw [addAcc, getCore_modCore_self, tmod, tget_tput_self, getCore, getCore, cores_of_offKs hoff]

/-- DONE ends the task (R344). -/
theorem done_does {s : State} {t : Txn} (hi : MayIssue s .none 0) (hb : Bound s t) (hf : Fresh s) (sw : Bool) (a : Fin 32)
    (he : t.ended = true ∨ (Passed t ∧ Drained s)) (hc : Clean s [a.val]) (hq : taskPending s s.cur = false) :
    Does (.done sw a) s fun u => (getSlot u s.cur).bound = none ∧
      tget 0 (getCore u (coreOf s.cur)).accs t.tag = combine (tget 0 (getCore s (coreOf s.cur)).accs t.tag)
        ((if bit (getSlot s s.cur).hsw 7 then stPoisoned else 0) ||| wd (fld (rg s a) 57 56 * 2 ^ 56 + 2 ^ 32 + fld (rg s a) 31 0)) ∧
      ∀ k, k ≠ s.cur → getSlot u k = getSlot s k := by
  obtain ⟨h1, h2, h3⟩ := endTask_kept hb (rg s a)
  obtain ⟨m1, m2, m3, -⟩ := markPark_kept (endTask s s.cur (rg s a) 0) s.cur sw
  refine ⟨_, exec_done hi hb hf sw a he hc hq, m1.trans h1, ?_, fun k hk => (m2 k hk).trans (h2 k hk)⟩
  rw [← h3, getCore, m3]
  rfl

end Sys2Proof.Machine
end

section
namespace Sys2Proof.Machine

/-! TXSUB and TXSCOUT (R333 to R338). -/

/-- Leaving scouting changes no operand's poison. -/
theorem clean_leaveScout {s : State} {rs : List Nat} (h : Clean s rs) : Clean (leaveScout s s.cur) rs := fun r hr => by
  have hp := h r hr
  rw [opPsn, latched, regPsn, regPa] at hp ⊢
  rw [leaveScout, modSlot_cur, getSlot_modSlot_self]
  exact hp

/-- Nor what the hart's releases wait for. -/
theorem writesPending_leaveScout (s : State) (h : Nat) : writesPending (leaveScout s h) h = writesPending s h := by
  rw [writesPending, writesPending, leaveScout, getSlot_modSlot_self]
  rfl

theorem privOf_leaveScout (s : State) (h : Nat) : privOf (leaveScout s h) h = privOf s h := by
  rw [privOf, privOf, modeOf, modeOf, leaveScout, getSlot_modSlot_self]

/-- The submission of a TXSUB, once the hart has left scouting, and its status word (R335, R336). -/
def txSubmission (s : State) (t : Txn) (b : Fin 32) : State × Word :=
  let u : Submitter := ⟨some (coreOf s.cur), t.asid, privOf s s.cur, t.tag⟩
  submit (leaveScout s s.cur) u (decide ((rg s b).toNat % 64 = 0)) (descAt (leaveScout s s.cur) u (rg s b).toNat) 256

/-- The slot after a register write, whatever the word: its results alone may change. -/
theorem getSlot_writeReg_outs {s : State} {h : Nat} (p : Placed s h) {n : Nat} (hn : n < 64) (v : Word) (psn : Bool) :
    ∃ l, getSlot (writeReg s h n v psn) h = { getSlot s h with outs := l } := by
  by_cases h0 : n = 0
  · subst h0; exact ⟨_, rfl⟩
  · exact ⟨_, getSlot_writeReg_self p h0 hn v psn⟩

section
variable {s : State} {t : Txn} {b : Fin 32} (hi : MayIssue s .none 0) (hb : Bound s t) (hf : Fresh s) (hp : Passed t)
  (hc : Clean s [b.val]) (hw : writesPending s s.cur = false) (hk : s.tr.keyCmd = none)
include hi hb hf hp hc hw hk

theorem exec_txsub (sw : Bool) (a : Fin 32) : exec (.txsub sw a b) s =
    .next (retire (writeReg (txSubmission s t b).1 s.cur a.val (txSubmission s t b).2 false) true) := by
  have hk' : (leaveScout s s.cur).tr.keyCmd.isSome = false := by
    change s.tr.keyCmd.isSome = false
    rw [hk]; rfl
  change execTxsub sw a b s = _
  rw [execTxsub, issue_of_may hi, needTxn_bound hb, operands_of_fresh hf]
  simp only [not_late hp, consume_of_clean (clean_leaveScout hc), writesPending_leaveScout, privOf_leaveScout, hw, hk',
    Bool.false_eq_true, if_false]
  rfl

/-- TXSUB leaves scouting, submits and gives the status word (R335, R336). -/
theorem txsub_does (sw : Bool) (a : Fin 32) (ho : Ordinary s) : Does (.txsub sw a b) s fun u => Accepted s u ∧
    (getSlot u s.cur).scout = false ∧ u.ks = (txSubmission s t b).1.ks ∧
    readReg u s.cur a.val = if a.val = 0 then 0 else (txSubmission s t b).2 := by
  have hexec := exec_txsub hi hb hf hp hc hw hk sw a
  have ha : a.val < 64 := by omega
  obtain ⟨hslots, hcur, hwf⟩ : (txSubmission s t b).1.slots = (leaveScout s s.cur).slots ∧ (txSubmission s t b).1.cur = s.cur ∧
      (Memory.wf s.mem = true → Memory.wf (txSubmission s t b).1.mem = true) := submit_kept ..
  obtain ⟨r, hr⟩ : ∃ r, r = txSubmission s t b := ⟨_, rfl⟩
  rw [← hr] at hslots hcur hwf hexec ⊢
  have hslot : getSlot r.1 s.cur = { getSlot s s.cur with scout := false } := by
    rw [getSlot, hslots]
    exact getSlot_modSlot_self ..
  have hplaced : Placed r.1 s.cur := by
    rw [Placed, hslot]
    exact ho.1
  obtain ⟨l, hl⟩ := getSlot_writeReg_outs hplaced ha r.2 false
  rw [hslot] at hl
  have hc' : (writeReg r.1 s.cur a.val r.2 false).cur = s.cur := (writeReg_cur hplaced ha ..).trans hcur
  refine ⟨_, hexec, accepted_retire hi hc' hl, ?_, ?_, ?_⟩
  · rw [retire, retireH, hc', getSlot_modSlot_self, hl]
  · rw [retire, retireH, modSlot_ks]
    exact (congrArg State.ks (writeReg_units hplaced ha r.2 false) :)
  · rw [retire, hc', readReg_retireH]
    exact readReg_writeReg_self hplaced (hwf ho.2) ha r.2 false

end

/-- A word that is served is the instruction's. -/
theorem withWord_ok {s : State} {va : Nat} {bs : List Byte} {p : Bool} (h : readUnit s va 8 = .ok bs p) (ops : List Word) (at1 : Nat)
    (k : State → Word → Bool → State) : withWord s ops va at1 k = k (afterRead s va 8) (ofBytes bs) p := by
  rw [withWord, afterRead, h]

theorem fld_lt (w : Word) (hi lo : Nat) : fld w hi lo < 2 ^ (hi - lo + 1) := by
  rw [fld, bits]
  exact Nat.mod_lt _ (Nat.two_pow_pos _)

theorem wd_emod (i : Int) : wd (i % 2 ^ 64).toNat = BitVec.ofInt 64 i := by
  apply BitVec.eq_of_toNat_eq
  rw [wd, BitVec.toNat_ofNat, BitVec.toNat_ofInt]
  push_cast
  omega

/-- The scout entry that the header names by a signed offset (R338, R379). -/
theorem scoutEntry_eq (e : Word) {n : Nat} (hn : n < 2 ^ 32) :
    wd (((e.toNat : Int) + sint 32 n) % 2 ^ 64).toNat = e + (BitVec.ofNat 32 n).signExtend 64 := by
  have hs : sint 32 n = (BitVec.ofNat 32 n).toInt := by
    rw [BitVec.toInt_eq_toNat_cond, BitVec.toNat_ofNat, Nat.mod_eq_of_lt hn, sint]
    split <;> split <;> omega
  rw [wd_emod, hs, BitVec.ofInt_add, BitVec.ofInt_natCast, BitVec.ofNat_toNat, BitVec.setWidth_eq]
  rfl

theorem readReg_modSlot (s : State) (h k n : Nat) {f : Slot → Slot} (hf : ∀ x, (f x).wp = x.wp) :
    readReg (modSlot s h f) k n = readReg s k n := by
  have hp : regPa (modSlot s h f) k n = regPa s k n := by
    rw [regPa, regPa]
    by_cases e : k = h
    · subst e; rw [getSlot_modSlot_self, hf]; rfl
    · rw [getSlot_modSlot_ne _ _ e]; rfl
  rw [readReg, readReg, hp, rd64_modSlot]

theorem placed_of_outs {s t : State} {h : Nat} (p : Placed s h) (e : ∃ l, getSlot t h = { getSlot s h with outs := l }) : Placed t h := by
  obtain ⟨l, e⟩ := e
  rw [Placed, e]
  exact p

section
variable {s : State} {b : Fin 32} {e w : List Byte} {target : Word} (hi : MayIssue s .none 0) (hf : Fresh s)
  (h64 : (rg s b).toNat % 64 = 0) (he : readUnit s ((rg s b).toNat + 8) 8 = .ok e false)
  (hw : readUnit (afterRead s ((rg s b).toNat + 8) 8) ((ofBytes e).toNat + 8) 8 = .ok w false) (hoff : fld (ofBytes w) 63 32 ≠ 0)
  (hc : Clean s [b.val]) (ht : target = ofBytes e + (BitVec.ofNat 32 (fld (ofBytes w) 63 32)).signExtend 64) (h0 : target ≠ 0)
  (h4 : target.toNat % 4 = 0)
include hi hf h64 he hw hoff hc ht h0 h4

theorem exec_txscout (sw : Bool) {u : State} (hu : u = afterRead (afterRead s ((rg s b).toNat + 8) 8) ((ofBytes e).toNat + 8) 8) :
    exec (.txscout sw b) s = .next (retireTo (modSlot (writeReg (writeReg u s.cur 1 ((getSlot u s.cur).pc + 4) false) s.cur 3 (rg s b) false)
      s.cur fun x => { x with scout := true, sret := (getSlot u s.cur).pc + 4 }) sw target) := by
  have hread : ReadKept s u := hu ▸ (readKept_afterRead ..).trans (readKept_afterRead ..)
  have hentry := scoutEntry_eq (ofBytes e) (fld_lt (ofBytes w) 63 32)
  rw [← ht] at hentry
  have hbad : (decide (target = 0) || decide (target.toNat % 4 ≠ 0)) = false := by
    rw [decide_eq_false h0, h4]; rfl
  change execTxscout sw b s = _
  rw [execTxscout, issue_of_may hi, operands_of_fresh hf]
  simp only [List.map_cons, List.map_nil, List.getD_cons_zero]
  rw [if_neg (by rw [← rg, h64]; exact fun h => h rfl), withWord_ok (show readUnit s ((readReg s s.cur b.val).toNat + 8) 8 = _ from he),
    withWord_ok (show readUnit (afterRead s ((readReg s s.cur b.val).toNat + 8) 8) _ 8 = _ from hw)]
  simp only [hoff, if_false, hentry, hbad, Bool.false_eq_true]
  rw [show afterRead (afterRead s ((readReg s s.cur b.val).toNat + 8) 8) ((ofBytes e).toNat + 8) 8 = u from hu.symm,
    consume_of_clean (hread.clean hc)]
  rfl

/-- TXSCOUT enters the scout entry that the kernel header names (R338). -/
theorem txscout_does (sw : Bool) (ho : Ordinary s) : Does (.txscout sw b) s fun u =>
    (getSlot u s.cur).pc = target ∧ (getSlot u s.cur).scout = true ∧
      (getSlot u s.cur).sret = pcOf s + 4 ∧ readReg u s.cur 1 = pcOf s + 4 ∧ readReg u s.cur 3 = rg s b ∧
      ∀ n, n < 64 → n ≠ 1 → n ≠ 3 → readReg u s.cur n = readReg s s.cur n := by
  obtain ⟨u, hu⟩ : ∃ u, u = afterRead (afterRead s ((rg s b).toNat + 8) 8) ((ofBytes e).toNat + 8) 8 := ⟨_, rfl⟩
  have hread : ReadKept s u := hu ▸ (readKept_afterRead ..).trans (readKept_afterRead ..)
  have hexec := exec_txscout hi hf h64 he hw hoff hc ht h0 h4 sw hu
  obtain ⟨p, m⟩ := hread.ordinary ho
  rw [hread.cur_eq] at p
  have hpc : (getSlot u s.cur).pc + 4 = pcOf s + 4 := by
    obtain ⟨l, hl⟩ := hread.self
    rw [hl]; rfl
  rw [hpc] at hexec
  obtain ⟨v, hv⟩ : ∃ v, v = writeReg u s.cur 1 (pcOf s + 4) false := ⟨_, rfl⟩
  have pv : Placed v s.cur := hv ▸ placed_of_outs p (getSlot_writeReg_outs p (by decide) ..)
  have mv : Memory.wf v.mem = true := hv ▸ writeReg_wf p (by decide) _ _ m
  have hcur : (writeReg v s.cur 3 (rg s b) false).cur = s.cur := by
    rw [writeReg_cur pv (by decide), hv, writeReg_cur p (by decide), hread.cur_eq]
  have hregs : ∀ n, readReg (retireTo (modSlot (writeReg v s.cur 3 (rg s b) false) s.cur fun x =>
      { x with scout := true, sret := pcOf s + 4 }) sw target) s.cur n = readReg (writeReg v s.cur 3 (rg s b) false) s.cur n := fun n => by
    rw [retireTo, readReg_retireH]
    exact readReg_modSlot _ _ _ _ fun _ => rfl
  rw [← hv] at hexec
  refine ⟨_, hexec, ?_, ?_, ?_, ?_, ?_, fun n hn h1 h3 => ?_⟩
  · rw [retireTo, retireH, modSlot_cur, hcur, getSlot_modSlot_self]
  · rw [retireTo, retireH, modSlot_cur, hcur, getSlot_modSlot_self, getSlot_modSlot_self]
  · rw [retireTo, retireH, modSlot_cur, hcur, getSlot_modSlot_self, getSlot_modSlot_self]
  · rw [hregs, readReg_writeReg_ne pv (by decide) (by decide) (by decide), hv, readReg_writeReg_self p m (by decide), if_neg (by decide)]
  · rw [hregs, readReg_writeReg_self pv mv (by decide), if_neg (by decide)]
  · rw [hregs, readReg_writeReg_ne pv hn (by decide) h3, hv, readReg_writeReg_ne p hn (by decide) h1, hread.readReg_eq]

end

end Sys2Proof.Machine
end

section
namespace Sys2Proof.Machine

/-! INBOX (R26, R343). -/

/-- Words written from `n` on change of the slot its results alone. -/
theorem getSlot_writeRegs (s : State) (h n : Nat) (vs : List Word) : ∃ l, getSlot (writeRegs s h n vs) h = { getSlot s h with outs := l } := by
  induction vs generalizing s n with
  | nil => exact ⟨_, rfl⟩
  | cons v vs ih =>
    obtain ⟨l, e⟩ := getSlot_writeWs s h n v
    obtain ⟨m, e'⟩ := ih (writeReg s h n v false) (n + 1)
    rw [writeWs] at e
    exact ⟨m, by rw [writeRegs, e', e]⟩

/-- Words written from `n` on are read there, and the others as before. -/
theorem readReg_writeRegs {s : State} {h : Nat} (p : Placed s h) (w : Memory.wf s.mem = true) {vs : List Word} {n m : Nat} (hn : 0 < n)
    (hl : n + vs.length ≤ 64) (hm : m < 64) :
    readReg (writeRegs s h n vs) h m = if n ≤ m ∧ m < n + vs.length then vs.getD (m - n) 0 else readReg s h m := by
  induction vs generalizing s n with
  | nil => rw [writeRegs, if_neg (by rw [List.length_nil]; omega)]
  | cons v vs ih =>
    rw [List.length_cons] at hl ⊢
    have hn' : n < 64 := by omega
    rw [writeRegs, ih (placed_of_outs p (getSlot_writeReg_outs p hn' v false)) (writeReg_wf p hn' v false w) n.succ_pos (by omega)]
    obtain hlt | rfl | hgt := Nat.lt_trichotomy m n
    · rw [if_neg (by omega), if_neg (by omega), readReg_writeReg_ne p hm hn' (by omega)]
    · rw [if_neg (by omega), if_pos (by omega), readReg_writeReg_self p w hn', if_neg (by omega), Nat.sub_self, List.getD_cons_zero]
    · rw [show m - n = (m - (n + 1)) + 1 by omega, List.getD_cons_succ, readReg_writeReg_ne p hm hn' (by omega)]
      congr 1
      exact propext ⟨fun h => by omega, fun h => by omega⟩

/-- An acquire at group scope changes of the hart when it was made, and no register (R203). -/
theorem acquire_group_kept (s : State) (h : Nat) : getSlot (acquire s h .group) h = { getSlot s h with acqAt := some s.cycle } ∧
    ∀ n, readReg (acquire s h .group) h n = readReg s h n := by
  refine ⟨getSlot_modSlot_self .., fun n => ?_⟩
  rw [acquire]
  refine (readReg_modSlot _ _ _ _ ?_).trans rfl
  exact fun _ => rfl

/-- A slot to which a task record is given (R27, R343). -/
def Slot.given (e : InboxEnt) (x : Slot) : Slot :=
  { x with
    bound := some e.txn, asid := fld (e.words.getD 3 0) 18 9, loop := some (x.wp, x.pc + 4, x.ktvec), ktvec := 0
    entryFault := e.bad.map fun v => (e.words.getD 4 0, v) }

/-- The machine once a record has left the inbox for its hart, before its transaction runs. -/
def recordGiven (s : State) (h d : Nat) (e : InboxEnt) : State :=
  modSlot (writeRegs (modCore s (coreOf h) fun x => { x with inbox := x.inbox.filter (·.ent ≠ e.ent), served := h % 4 }) h d e.words) h
    (Slot.given e)

/-- What else the taking of a record does for the hart is an acquire. -/
theorem takeRecord_or (s : State) (h d : Nat) (e : InboxEnt) : ∃ u, takeRecord s h d e = acquire u h .group ∧
    getSlot u h = getSlot (recordGiven s h d e) h ∧ ∀ n, readReg u h n = readReg (recordGiven s h d e) h n := by
  obtain ⟨v, hv⟩ : ∃ v, v = recordGiven s h d e := ⟨_, rfl⟩
  obtain ⟨x, hx⟩ : ∃ x, x = modTxn v e.txn fun t => { t with st := .running, started := v.cycle } := ⟨_, rfl⟩
  have hxs : getSlot x h = getSlot v h := by rw [hx]; rfl
  have hxr : ∀ n, readReg x h n = readReg v h n := fun n => by rw [hx]; rfl
  refine ⟨if bit (e.words.getD 3 0) 51 then addAcc x (coreOf h) (fld (e.words.getD 3 0) 63 60) stFallback else x, ?_, ?_, fun n => ?_⟩
  · rw [hx, hv]; rfl
  · rw [← hv]; split <;> exact hxs
  · rw [← hv]; split <;> exact hxr n

/-- The slot and the registers once a record has been taken (R26, R343). -/
theorem takeRecord_kept {s : State} {h d : Nat} (p : Placed s h) (w : Memory.wf s.mem = true) {e : InboxEnt} (hd : 0 < d)
    (hl : d + e.words.length ≤ 64) :
    (getSlot (takeRecord s h d e) h).bound = some e.txn ∧ (getSlot (takeRecord s h d e) h).pc = (getSlot s h).pc ∧
      (getSlot (takeRecord s h d e) h).asid = fld (e.words.getD 3 0) 18 9 ∧
      ∀ k, k < e.words.length → readReg (takeRecord s h d e) h (d + k) = e.words.getD k 0 := by
  obtain ⟨c, hcore⟩ : ∃ c, c = modCore s (coreOf h) fun x => { x with inbox := x.inbox.filter (·.ent ≠ e.ent), served := h % 4 } := ⟨_, rfl⟩
  have pc : Placed c h := hcore ▸ p
  have mc : Memory.wf c.mem = true := hcore ▸ w
  have hgiven : recordGiven s h d e = modSlot (writeRegs c h d e.words) h (Slot.given e) := by rw [hcore]; rfl
  have hslot : ∃ l, getSlot (writeRegs c h d e.words) h = { getSlot s h with outs := l } := by
    have hsame : getSlot c h = getSlot s h := by rw [hcore]; rfl
    exact hsame ▸ getSlot_writeRegs ..
  obtain ⟨l, hslot⟩ := hslot
  obtain ⟨u, htake, hus, hur⟩ := takeRecord_or s h d e
  obtain ⟨hacq, hacqr⟩ := acquire_group_kept u h
  rw [htake, hacq, hus, hgiven, getSlot_modSlot_self, hslot]
  refine ⟨rfl, rfl, rfl, fun k hk => ?_⟩
  rw [hacqr, hur, hgiven, readReg_modSlot _ _ _ _ fun _ => by rfl, readReg_writeRegs pc mc hd hl (by omega), if_pos (by omega),
    Nat.add_sub_cancel_left]

/-- INBOX of a hart without a transaction: it takes the record that is there for it, unless another slot waits, or waits (R26). -/
def inboxServed (s : State) (sw : Bool) (d : Nat) : State :=
  match (if (inboxTurn s (coreOf s.cur)).isNone then recordFor s s.cur else none) with
  | some e => retire (takeRecord s s.cur d e) sw
  | none => waitFor s .inbox [wd d, wb sw] none

section
variable {s : State} (hi : MayIssue s .none 0) (hm : modeOf s s.cur ≠ 0) {a : Fin 32} (h1 : 1 ≤ a.val) (h24 : a.val ≤ 24)
include hi hm h1 h24

/-- INBOX in a mode and with a register that it allows (R343). -/
theorem exec_inbox (sw : Bool) : exec (.inbox sw a) s =
    .next (if (boundTxn s s.cur).isSome then raise s (trap .accessFault 4 0) else inboxServed s sw a.val) := by
  have hi1 : MayIssue s .none 1 := ⟨Nat.one_le_iff_ne_zero.mpr hm, hi.2⟩
  have ha : (decide (a = 0) || decide (24 < a.val)) = false := by
    rw [Bool.or_eq_false_iff, decide_eq_false_iff_not, decide_eq_false_iff_not]
    exact ⟨fun e => by rw [e] at h1; exact absurd h1 (by decide), by omega⟩
  change execInbox sw a s = _
  rw [execInbox, issue_of_may hi1]
  simp only [ha, Bool.false_eq_true, if_false]
  rfl

/-- With a transaction it is an ACCESS_FAULT. -/
theorem inbox_bound (sw : Bool) (hb : boundTxn s s.cur ≠ none) : exec (.inbox sw a) s = .next (raise s (trap .accessFault 4 0)) := by
  rw [exec_inbox hi hm h1 h24, if_pos (Option.isSome_iff_ne_none.mpr hb)]

/-- It takes the record that is there for it. -/
theorem inbox_takes (sw : Bool) (hb : boundTxn s s.cur = none) {e : InboxEnt} (ht : inboxTurn s (coreOf s.cur) = none)
    (hr : recordFor s s.cur = some e) (hw : e.words.length = 8) (ho : Ordinary s) :
    Does (.inbox sw a) s fun u => (getSlot u s.cur).bound = some e.txn ∧ (getSlot u s.cur).pc = pcOf s + 4 ∧
      (getSlot u s.cur).asid = fld (e.words.getD 3 0) 18 9 ∧ ∀ k, k < 8 → readReg u s.cur (a.val + k) = e.words.getD k 0 := by
  have hexec : exec (.inbox sw a) s = .next (retire (takeRecord s s.cur a.val e) sw) := by
    rw [exec_inbox hi hm h1 h24, hb, inboxServed, ht, hr]; rfl
  have hcur : (takeRecord s s.cur a.val e).cur = s.cur := (congrArg State.cur (setting_takeRecord s s.cur a.val e) :)
  obtain ⟨k1, k2, k3, k4⟩ := takeRecord_kept (d := a.val) ho.1 ho.2 (e := e) h1 (by omega)
  refine ⟨_, hexec, ?_, ?_, ?_, fun k hk => ?_⟩
  · rw [retire, retireH, hcur, getSlot_modSlot_self, k1]
  · rw [retire, retireH, hcur, getSlot_modSlot_self, k2]; rfl
  · rw [retire, retireH, hcur, getSlot_modSlot_self, k3]
  · rw [retire, readReg_retireH, k4 k (by omega)]

/-- It waits when none is there, or while another slot waits for one. -/
theorem inbox_waits (sw : Bool) (hb : boundTxn s s.cur = none) (hr : recordFor s s.cur = none ∨ inboxTurn s (coreOf s.cur) ≠ none) :
    Does (.inbox sw a) s fun u => Quiet s u ∧ (getSlot u s.cur).st = .waiting .inbox ∧ (getSlot u s.cur).pc = pcOf s := by
  have hnone : (if (inboxTurn s (coreOf s.cur)).isNone then recordFor s s.cur else none) = none := by
    rcases hr with hr | hr
    · rw [hr, ite_self]
    · rw [if_neg fun h => hr (Option.isNone_iff_eq_none.mp h)]
  have hexec : exec (.inbox sw a) s = .next (waitFor s .inbox [wd a.val, wb sw] none) := by
    rw [exec_inbox hi hm h1 h24, hb, inboxServed, hnone]; rfl
  refine ⟨_, hexec, ⟨rfl, rfl, ?_, fun k e => ?_⟩, ?_, ?_⟩
  · rw [waitFor, getSlot_modSlot_self]
  · exact getSlot_modSlot_ne _ _ e
  · rw [waitFor, getSlot_modSlot_self]
  · rw [waitFor, getSlot_modSlot_self]; rfl

end

end Sys2Proof.Machine
end

section
namespace Sys2Proof.Machine

/-! The void (R22, R62, R64, R341). -/

/-- The recomputed footprint of a void as Keystone translates it (R340; log 87). -/
def voidRegions (s : State) (t : Txn) (es : List (Word × Word)) : List RegX :=
  es.map (regX s ⟨some (coreOf s.cur), t.asid, true, t.tag⟩)

/-- May the transaction restart with its recomputed footprint (R62)? -/
def voidFits (s : State) (t : Txn) (es : List (Word × Word)) : Bool :=
  decide (t.restart < 4) &&
    (judge s [voidRegions s t es] (some t.back) t.sealed (strideAt s (some (coreOf s.cur)) t.asid t.entry.toNat)).isNone

/-- The transaction once it is voided (R62, R64). -/
def Txn.voided (t : Txn) (f : List RegX) (ok : Bool) : Txn :=
  { t with
    num := none, st := .void, core := none, held := [], pushBuf := [], pushPsn := [], passed := false, wroteW := false
    ended := false, restart := t.restart + 1, voidOf := some (t.num.getD 0), onBack := !ok
    foot := if ok then footReqs f else t.back
    push := if ok then footPush f else t.pushBack }

/-- The machine with the transaction voided, before it is submitted again. -/
def voidNoted (s : State) (t : Txn) (es : List (Word × Word)) : State :=
  modKs (addAcc (sendReleases s (t.num.getD 0) t.held) (coreOf s.cur) t.tag (if bit (getSlot s s.cur).hsw 7 then stPoisoned else 0))
    fun k => { k with
      voids := k.voids ++ [t.num.getD 0]
      txns := k.txns.filter (·.uid ≠ t.uid) ++ [t.voided (voidRegions s t es) (voidFits s t es)] }

theorem voidTxn_eq (s : State) (t : Txn) (es : List (Word × Word)) :
    voidTxn s t es = toLoop (placeVoids ((voidNoted s t es).ks.txns.length + 1) (voidNoted s t es)) s.cur := rfl

section
variable (s : State) (t : Txn) (es : List (Word × Word))

theorem voidNoted_ks : (voidNoted s t es).ks = { s.ks with
    relq := s.ks.relq ++ t.held.map fun r => (t.num.getD 0, r.tile)
    voids := s.ks.voids ++ [t.num.getD 0]
    txns := s.ks.txns.filter (·.uid ≠ t.uid) ++ [t.voided (voidRegions s t es) (voidFits s t es)] } := rfl

/-- The voided transaction is the only one of its number. -/
theorem voidNoted_txn {x : Txn} (hx : x ∈ (voidNoted s t es).ks.txns) (hu : x.uid = t.uid) :
    x = t.voided (voidRegions s t es) (voidFits s t es) := by
  rw [voidNoted_ks] at hx
  rcases List.mem_append.mp hx with hx | hx
  · exact absurd hu (by simpa using (List.mem_filter.mp hx).2)
  · exact List.mem_singleton.mp hx

theorem voided_mem : t.voided (voidRegions s t es) (voidFits s t es) ∈ (voidNoted s t es).ks.txns :=
  List.mem_append_right _ (List.mem_singleton_self _)

/-- What a void leaves of the harts, and of the transaction whatever becomes of its new submission. -/
theorem voidTxn_kept : (getSlot (voidTxn s t es) s.cur).bound = none ∧ (∀ k, k ≠ s.cur → getSlot (voidTxn s t es) k = getSlot s k) ∧
    (voidTxn s t es).ks.relq = s.ks.relq ++ t.held.map (fun r => (t.num.getD 0, r.tile)) ∧
    ∀ x ∈ (voidTxn s t es).ks.txns, x.uid = t.uid → x.placed = (t.voided (voidRegions s t es) (voidFits s t es)).placed := by
  obtain ⟨n, hn⟩ : ∃ n, n = (voidNoted s t es).ks.txns.length + 1 := ⟨_, rfl⟩
  have hb := batchKept_placeVoids n (voidNoted s t es)
  obtain ⟨h1, h2, -, l, hks⟩ := toLoop_kept (placeVoids n (voidNoted s t es)) s.cur
  rw [voidTxn_eq, ← hn]
  refine ⟨h1, fun k hk => ?_, ?_, fun x hx hu => ?_⟩
  · rw [h2 k hk, getSlot, hb.slots]; rfl
  · rw [hks]; exact hb.relq
  · rw [hks] at hx
    have hmem : x.placed ∈ (voidNoted s t es).ks.txns.map Txn.placed := hb.txns ▸ List.mem_map_of_mem hx
    obtain ⟨y, hy, e⟩ := List.mem_map.mp hmem
    have hyu : y.uid = t.uid := Eq.trans (congrArg Txn.uid e :) hu
    rw [← e, voidNoted_txn s t es hy hyu]

/-- A voided transaction that finds the open batch full waits as VOID (R62). -/
theorem voidTxn_full (h : 1024 ≤ s.ks.openB.length) :
    t.voided (voidRegions s t es) (voidFits s t es) ∈ (voidTxn s t es).ks.txns := by
  obtain ⟨-, -, -, l, hks⟩ := toLoop_kept (voidNoted s t es) s.cur
  rw [voidTxn_eq, placeVoids_full (show 1024 ≤ (voidNoted s t es).ks.openB.length from h), hks]
  exact voided_mem s t es

/-- The machine with the voided transaction in the open batch again. -/
def voidEntered : State := entered (modTxn (voidNoted s t es) t.uid fun x => { x with st := .submitted }) [.txn t.uid]

/-- With room in the open batch and no other voided transaction, it is SUBMITTED again at once (R62). -/
theorem placeVoids_voidNoted (h : s.ks.openB.length < 1023) (ho : ∀ x ∈ s.ks.txns, x.uid ≠ t.uid → x.st ≠ .void) (n : Nat) :
    placeVoids (n + 1) (voidNoted s t es) = voidEntered s t es := by
  have others : ∀ x ∈ s.ks.txns.filter (·.uid ≠ t.uid), x.st ≠ .void := fun x hx => by
    obtain ⟨hx, hu⟩ := List.mem_filter.mp hx
    exact ho x hx (by simpa using hu)
  have hfind : (voidNoted s t es).ks.txns.find? (·.st = .void) = some (t.voided (voidRegions s t es) (voidFits s t es)) := by
    rw [voidNoted_ks, List.find?_append, List.find?_eq_none.mpr fun x hx => by simpa using others x hx]
    rfl
  have hroom : ¬ 1024 ≤ (voidNoted s t es).ks.openB.length := fun hfull => by
    have : 1024 ≤ s.ks.openB.length := hfull
    omega
  have hplace : placeEnts (modTxn (voidNoted s t es) t.uid fun x => { x with st := .submitted }) [.txn t.uid] = voidEntered s t es :=
    placeEnts_room (show s.ks.openB.length + 1 < 1024 by omega)
  rw [placeVoids, if_neg hroom, hfind]
  refine (congrArg (placeVoids n) hplace).trans (placeVoids_none (fun x hx => ?_) n)
  obtain ⟨y, hy, rfl⟩ := List.mem_map.mp hx
  split
  · exact nofun
  · next hu =>
    rcases List.mem_append.mp hy with hy | hy
    · exact others y hy
    · exact absurd (congrArg Txn.uid (List.mem_singleton.mp hy)) hu

theorem voidTxn_room (h : s.ks.openB.length < 1023) (ho : ∀ x ∈ s.ks.txns, x.uid ≠ t.uid → x.st ≠ .void) :
    { t.voided (voidRegions s t es) (voidFits s t es) with st := .submitted } ∈ (voidTxn s t es).ks.txns ∧
      (voidTxn s t es).ks.openB = s.ks.openB ++ [.txn t.uid] ∧ (voidTxn s t es).ks.voids = s.ks.voids ++ [t.num.getD 0] := by
  obtain ⟨-, -, -, l, hks⟩ := toLoop_kept (voidEntered s t es) s.cur
  rw [voidTxn_eq, placeVoids_voidNoted s t es h ho, hks]
  exact ⟨List.mem_map.mpr ⟨_, voided_mem s t es, if_pos rfl⟩, rfl, rfl⟩

end

/-! TXCHK (R340, R341). -/

/-- What TXCHK does once its array is read and its operands are clean: it passes, it traps, or it voids the transaction. -/
def footprintJudged (s : State) (sw : Bool) (t : Txn) (es : List (Word × Word)) : State :=
  match firstUncovered s s.cur (heldReqs s t) es with
  | none => retire (modTxn s t.uid fun t => { t with passed := true, wroteW := false }) sw
  | some a =>
    if t.onBack || !t.checked || t.gang.isSome then raise s (trap .txFootprint 0 (wd a)) else markPark (voidTxn s t es) s.cur sw

section
variable {s u : State} {t : Txn} {b c : Fin 32} {es : List (Word × Word)}

theorem exec_txchk (hi : MayIssue s .none 0) (hb : Bound s t) (hf : Fresh s) (sw : Bool) (hl : (t.passed && t.wroteW) = false)
    (h0 : 0 < (rg s c).toNat) (h32 : (rg s c).toNat ≤ 32) (h16 : (rg s b).toNat % 16 = 0)
    (hr : readEntries s (rg s b).toNat (rg s c).toNat = (u, .ok (es, none)))
    (hg : ∀ e ∈ es, entryRes e = false ∧ 0 < fld e.2 31 0 ∧ fld e.2 31 0 ≤ 0x10000000) (hc : Clean s [b.val, c.val]) :
    exec (.txchk sw b c) s = .next (footprintJudged u sw t es) := by
  have hread : ReadKept s u := by
    have := readKept_readEntries (rg s c).toNat s (rg s b).toNat
    rwa [hr] at this
  have hcount : (decide (rg s c = 0) || decide (32 < (rg s c).toNat)) = false := by
    rw [Bool.or_eq_false_iff, decide_eq_false_iff_not, decide_eq_false_iff_not]
    exact ⟨fun e => by rw [e] at h0; exact absurd h0 (by decide), by omega⟩
  have hgood : (es.zip (span 0 es.length)).find? (fun q => entryRes q.1 || decide (fld q.1.2 31 0 = 0) || decide (0x10000000 < fld q.1.2 31 0))
      = none := List.find?_eq_none.mpr fun q hq => by
    obtain ⟨g1, g2, g3⟩ := hg q.1 (List.of_mem_zip hq).1
    rw [g1, decide_eq_false (by omega), decide_eq_false (by omega)]
    exact Bool.false_ne_true
  change execTxchk sw b c s = _
  rw [execTxchk, issue_of_may hi, needTxn_bound hb, operands_of_fresh hf]
  unfold rg at h16 hr hcount
  simp only [List.map_cons, List.map_nil, List.getD_cons_zero, List.getD_cons_succ, hl, hcount, h16, hr, hgood,
    consume_of_clean (hread.clean hc), Bool.false_eq_true, if_false, ne_eq, not_true_eq_false]
  rw [footprintJudged, hread.cur_eq]
  rfl

/-- A covered footprint passes (R340). -/
theorem footprintJudged_passes (hk : ReadKept s u) (sw : Bool) (h : firstUncovered s s.cur (heldReqs s t) es = none) :
    Quiet s (footprintJudged u sw t es) ∧ (getSlot (footprintJudged u sw t es) s.cur).pc = pcOf s + 4 ∧
      ∀ x ∈ (footprintJudged u sw t es).ks.txns, x.uid = t.uid → x.passed = true ∧ x.wroteW = false := by
  obtain ⟨l, hl⟩ := hk.self
  have hq : Quiet s u := ⟨hk.mem_eq, hk.poison_eq, by rw [hl], hk.others⟩
  have he : footprintJudged u sw t es = retire (modTxn u t.uid fun t => { t with passed := true, wroteW := false }) sw := by
    rw [footprintJudged, hk.cur_eq, hk.heldReqs_eq, hk.firstUncovered_eq, h]
  have hpc := pc_retire (modTxn u t.uid fun t => { t with passed := true, wroteW := false }) sw
  rw [he]
  refine ⟨Quiet.retired (s := s) hq hk.cur_eq sw, ?_, modTxn_all fun _ => ⟨rfl, rfl⟩⟩
  rw [show (modTxn u t.uid fun t => { t with passed := true, wroteW := false }).cur = s.cur from hk.cur_eq] at hpc
  rw [hpc]
  change (getSlot u s.cur).pc + 4 = _
  rw [hl]; rfl

/-- An uncovered one with no check owed, on the fallback, or of a gang traps (R341). -/
theorem footprintJudged_traps (hk : ReadKept s u) (sw : Bool) {y : Nat} (h : firstUncovered s s.cur (heldReqs s t) es = some y)
    (ht : t.onBack = true ∨ t.checked = false ∨ t.gang.isSome = true) :
    footprintJudged u sw t es = raise u (trap .txFootprint 0 (wd y)) := by
  have hcond : (t.onBack || !t.checked || t.gang.isSome) = true := by
    rcases ht with e | e | e <;> simp [e]
  rw [footprintJudged, hk.cur_eq, hk.heldReqs_eq, hk.firstUncovered_eq, h]
  exact if_pos hcond

/-- One of a transaction whose check is owed voids it (R341). -/
theorem footprintJudged_voids (hk : ReadKept s u) (sw : Bool) {y : Nat} (h : firstUncovered s s.cur (heldReqs s t) es = some y)
    (hb : t.onBack = false) (hc : t.checked = true) (hg : t.gang = none) :
    footprintJudged u sw t es = markPark (voidTxn u t es) s.cur sw := by
  have hcond : ¬ (t.onBack || !t.checked || t.gang.isSome) = true := by
    rw [hb, hc, hg]; exact Bool.false_ne_true
  rw [footprintJudged, hk.cur_eq, hk.heldReqs_eq, hk.firstUncovered_eq, h]
  exact if_neg hcond

theorem ReadKept.voidRegions_eq (hk : ReadKept s u) : voidRegions u t es = voidRegions s t es := by
  rw [voidRegions, voidRegions, hk.cur_eq, hk.regX_eq]

theorem ReadKept.voidFits_eq (hk : ReadKept s u) : voidFits u t es = voidFits s t es := by
  rw [voidFits, voidFits, hk.voidRegions_eq, hk.judge_eq, hk.strideAt_eq, hk.cur_eq]

/-- The void of a TXCHK: the slot is unbound, the locks go back, and the transaction is submitted again with what it recomputed, or
with its fallback (R22, R62, R64). -/
theorem void_does (hk : ReadKept s u) (sw : Bool) {v : State} (hv : v = markPark (voidTxn u t es) s.cur sw) :
    (getSlot v s.cur).bound = none ∧ (∀ k, k ≠ s.cur → getSlot v k = getSlot s k) ∧
    v.ks.relq = s.ks.relq ++ t.held.map (fun e => (t.num.getD 0, e.tile)) ∧
    (∀ x ∈ v.ks.txns, x.uid = t.uid → x.held = [] ∧ x.passed = false ∧ x.restart = t.restart + 1 ∧
      x.onBack = !voidFits s t es ∧ x.foot = if voidFits s t es then footReqs (voidRegions s t es) else t.back) ∧
    (1024 ≤ s.ks.openB.length → ∃ x ∈ v.ks.txns, x.uid = t.uid ∧ x.st = .void ∧ x.num = none ∧ x.voidOf = some (t.num.getD 0)) ∧
    (s.ks.openB.length < 1023 → (∀ x ∈ s.ks.txns, x.uid ≠ t.uid → x.st ≠ .void) →
      (∃ x ∈ v.ks.txns, x.uid = t.uid ∧ x.st = .submitted ∧ x.num = none ∧ x.voidOf = some (t.num.getD 0)) ∧
      v.ks.openB = s.ks.openB ++ [.txn t.uid] ∧ v.ks.voids = s.ks.voids ++ [t.num.getD 0]) := by
  obtain ⟨h1, h2, h3, h4⟩ := voidTxn_kept u t es
  obtain ⟨m1, m2, -, m4⟩ := markPark_kept (voidTxn u t es) s.cur sw
  have full := voidTxn_full u t es
  have room := voidTxn_room u t es
  rw [hk.cur_eq] at h1 h2
  rw [hk.voidRegions_eq, hk.voidFits_eq] at h4 full room
  rw [hk.ks_eq] at h3 full room
  rw [hv, m4]
  refine ⟨m1.trans h1, fun k e => ?_, h3, fun x hx e => ?_, fun h => ⟨_, full h, rfl, rfl, rfl, rfl⟩, fun h ho => ?_⟩
  · rw [m2 k e, h2 k e, hk.others k e]
  · have hp := h4 x hx e
    exact ⟨(congrArg Txn.held hp :), (congrArg Txn.passed hp :), (congrArg Txn.restart hp :), (congrArg Txn.onBack hp :),
      (congrArg Txn.foot hp :)⟩
  · obtain ⟨r1, r2, r3⟩ := room h ho
    exact ⟨⟨_, r1, rfl, rfl, rfl, rfl⟩, r2, r3⟩

end

end Sys2Proof.Machine
end

section
namespace Sys2Proof.Machine

/-- Settles O43: each instruction of a task by its lemma above. -/
theorem taskInstructions : Obligations.TaskInstructions := by
  unfold Obligations.TaskInstructions
  intro s sw a b c hi hf
  refine ⟨fun hb => unbound_faults hi hb sw a b c, fun t hb => ⟨?_, ?_, ?_, ?_, ?_, ?_⟩, ?_, fun hm h1 h24 => ⟨?_, ?_, ?_⟩⟩
  · exact fun hp hc hw hk ho => txsub_does hi hb hf hp hc hw hk sw a ho
  · intro es hl h0 h32 h16 r hr hg hc
    have hread : ReadKept s r.1 := readKept_readEntries ..
    have hexec := exec_txchk hi hb hf sw hl h0 h32 h16 (show r = (r.1, .ok (es, none)) by rw [← hr]) hg hc
    refine ⟨fun h => ⟨_, hexec, footprintJudged_passes hread sw h⟩, fun y h => ⟨fun ht => ?_, fun hback hch hgang => ?_⟩⟩
    · rw [hexec, footprintJudged_traps hread sw h ht]
    · exact ⟨_, hexec, void_does hread sw (footprintJudged_voids hread sw h hback hch hgang)⟩
  · exact fun he => txend_again_does hi hb sw he
  · exact fun he hp hq => txend_does hi hb sw he hp hq
  · exact fun he hc hp => exec_txend_late hi hb sw he hc hp
  · exact fun he hc hq => done_does hi hb hf sw a he hc hq
  · exact fun e w h64 he hw hoff hc ho h0 h4 => txscout_does hi hf h64 he hw hoff hc rfl h0 h4 sw ho
  · exact inbox_bound hi hm h1 h24 sw
  · exact fun hb e ht hr hw ho => inbox_takes hi hm h1 h24 sw hb ht hr hw ho
  · exact fun hb hr => inbox_waits hi hm h1 h24 sw hb hr

end Sys2Proof.Machine
end

section
namespace Sys2Proof.Machine
/-! The canonical form of memory (O60). Memory is written by `memSetAll` and filtered when a bank is cleared, and both keep the
form. `Canon` therefore goes through every function of the model that gives a state; one lemma for each says so, in the
model's order, and cites those of the functions that it calls. -/

/-- Memory in its canonical form. -/
def Canon (s : State) : Prop := Memory.wf s.mem = true

theorem canon_foldl {α : Type} {f : State → α → State} {l : List α} {s : State} (w : Canon s)
    (h : ∀ u a, Canon u → Canon (f u a)) : Canon (l.foldl f s) :=
  foldl_keeps (P := Canon) f l s w fun u a _ hu => h u a hu

theorem canon_foldl_fst {α β : Type} {f : State × β → α → State × β} {l : List α} {p : State × β} (w : Canon p.1)
    (h : ∀ u a, Canon u.1 → Canon (f u a).1) : Canon (l.foldl f p).1 :=
  foldl_keeps (P := fun u : State × β => Canon u.1) f l p w fun u a _ hu => h u a hu

/-! ### Functions of `State` -/

theorem canon_reset : Canon State.reset := rfl

/-! ### Functions of `Mem` -/

theorem canon_modSlot {s : State} {h : Nat} {f : Slot → Slot} (w : Canon s) : Canon (modSlot s h f) := w

theorem canon_modCore {s : State} {c : Nat} {f : Core → Core} (w : Canon s) : Canon (modCore s c f) := w

theorem canon_modCluster {s : State} {c : Nat} {f : Cluster → Cluster} (w : Canon s) : Canon (modCluster s c f) := w

theorem canon_modKs {s : State} {f : Keystone → Keystone} (w : Canon s) : Canon (modKs s f) := w

theorem canon_modTr {s : State} {f : Trestle → Trestle} (w : Canon s) : Canon (modTr s f) := w

theorem canon_bumpCl {s : State} {cl off n : Nat} (w : Canon s) : Canon (bumpCl s cl off n) := w

theorem canon_bumpKs {s : State} {off : Nat} (w : Canon s) : Canon (bumpKs s off) := w

theorem canon_bumpTr {s : State} {off : Nat} (w : Canon s) : Canon (bumpTr s off) := w

theorem canon_retag {s : State} {key pa : Nat} (w : Canon s) : Canon (retag s key pa) := retag_wf w ..

theorem canon_wash {s : State} {pa : Nat} (w : Canon s) : Canon (wash s pa) := by
  unfold wash
  grind [Canon]

theorem canon_setFlag {s : State} {tile : Nat} {zero : Bool} (w : Canon s) : Canon (setFlag s tile zero) := w

theorem canon_touchFlag {s : State} {tile : Nat} (w : Canon s) : Canon (touchFlag s tile) := w

theorem canon_setFull {s : State} {pa : Nat} {full : Bool} (w : Canon s) : Canon (setFull s pa full) := w

theorem canon_modTab {s : State} {core ctx v : Nat} {f : Table → Table} (w : Canon s) :
    Canon (modTab s core ctx v f) := w

theorem canon_markOne {s : State} {core ctx v : Nat} {c : StaleCause} {o : Nat} (w : Canon s) :
    Canon (markOne s core ctx v c o) := by
  unfold markOne
  grind [Canon, canon_bumpCl, canon_modTab, canon_modCluster]

theorem canon_markStale {s : State} {pas : List Nat} (w : Canon s) :
    Canon (markStale s pas) := by rw [Canon, markStale_mem]; exact w

theorem canon_putBytes {s : State} {key : Nat} {cells : List (Nat × Byte)} {psn : Bool} (w : Canon s) :
    Canon (putBytes s key cells psn) := by
  obtain ⟨m, hm, e⟩ := putBytes_mem w key cells psn
  rw [Canon, e]
  exact memSetAll_wf cells hm

theorem canon_put64 {s : State} {pa : Nat} {v : Word} {psn : Bool} (w : Canon s) : Canon (put64 s pa v psn) := by
  unfold put64
  grind [Canon, canon_putBytes]

theorem canon_markBad {s : State} {pa : Nat} {bad : Bool} (w : Canon s) : Canon (markBad s pa bad) := by
  unfold markBad
  grind [Canon]

theorem canon_softError {s : State} {e : MemErr} (w : Canon s) : Canon (softError s e) := by
  unfold softError
  grind [Canon, canon_bumpTr, canon_modCore, canon_modCluster, canon_markBad]

theorem canon_dropOuts {s : State} {h : Nat} {pas : List Nat} (w : Canon s) : Canon (dropOuts s h pas) := by
  unfold dropOuts
  grind [Canon, canon_modSlot]

theorem canon_writeReg {s : State} {h n : Nat} {v : Word} {psn : Bool} (w : Canon s) :
    Canon (writeReg s h n v psn) := by
  unfold writeReg
  grind [Canon, canon_dropOuts, canon_put64]

theorem canon_writeWs {s : State} {h n : Nat} {v : Word} (w : Canon s) : Canon (writeWs s h n v) := by
  unfold writeWs
  grind [Canon, canon_writeReg]

theorem canon_writeRegs {s : State} {h n : Nat} {l : List Word} (w : Canon s) : Canon (writeRegs s h n l) := by
  induction l generalizing s n with
  | nil => exact w
  | cons v vs ih => exact ih (canon_writeReg w)

theorem canon_modHsw {s : State} {h : Nat} {f : Word → Word} (w : Canon s) : Canon (modHsw s h f) := w

theorem canon_setPoisoned {s : State} {h : Nat} (w : Canon s) : Canon (setPoisoned s h) := w

/-! ### Functions of `Task` -/

theorem canon_setTrReg {s : State} {off : Nat} {v : Word} (w : Canon s) : Canon (setTrReg s off v) := w

theorem canon_jwrite {s : State} {l : JLine} (w : Canon s) : Canon (jwrite s l) := by
  unfold jwrite
  grind [Canon, canon_bumpTr, canon_put64, canon_modTr]

theorem canon_jlog {s : State} {kind queue status whr : Nat} {d0 d1 : Word} (w : Canon s) :
    Canon (jlog s kind queue status whr d0 d1) := by
  unfold jlog
  grind [Canon, canon_modTr, canon_jwrite]

theorem canon_addAcc {s : State} {core tag : Nat} {w : Word} (hs : Canon s) : Canon (addAcc s core tag w) := hs

theorem canon_modTxn {s : State} {uid : Nat} {f : Txn → Txn} (w : Canon s) : Canon (modTxn s uid f) := w

theorem canon_modLaunch {s : State} {tag : Nat} {f : Launch → Launch} (w : Canon s) : Canon (modLaunch s tag f) := w

theorem canon_modGang {s : State} {id : Nat} {f : Gang → Gang} (w : Canon s) : Canon (modGang s id f) := w

theorem canon_sendReleases {s : State} {num : Nat} {ts : List TileReq} (w : Canon s) :
    Canon (sendReleases s num ts) := w

theorem canon_releaseTxn {s : State} {uid : Nat} (w : Canon s) : Canon (releaseTxn s uid) := by
  unfold releaseTxn
  grind [Canon, canon_modTxn, canon_sendReleases, canon_modKs]

theorem canon_dropTxn {s : State} {uid : Nat} (w : Canon s) : Canon (dropTxn s uid) := by
  unfold dropTxn
  grind [Canon, canon_modLaunch, canon_modTxn, canon_modKs]

theorem canon_cutNote {s : State} {unit input : Nat} {msg : CutMsg} (w : Canon s) :
    Canon (cutNote s unit input msg) := w

theorem canon_modPools {s : State} {f : List JEnt → List JEnt} (w : Canon s) : Canon (modPools s f) := w

theorem canon_dropRefused {s : State} {h uid num : Nat} (w : Canon s) : Canon (dropRefused s h uid num) := by
  unfold dropRefused
  grind [Canon, canon_jlog, canon_modPools, canon_foldl, canon_foldl_fst]

theorem canon_uninstall {s : State} {h : Nat} (w : Canon s) : Canon (uninstall s h) := by
  unfold uninstall
  grind [Canon, canon_writeWs]

theorem canon_unmark {s : State} {h : Nat} (w : Canon s) : Canon (unmark s h) := w

theorem canon_toLoop {s : State} {h : Nat} (w : Canon s) : Canon (toLoop s h) := by
  obtain ⟨g, e⟩ := toLoop_eq s h
  rw [e]
  exact canon_modSlot (canon_unmark (canon_uninstall w))

theorem canon_endTask {s : State} {h : Nat} {operand extra : Word} (w : Canon s) :
    Canon (endTask s h operand extra) := by
  unfold endTask
  grind [Canon, canon_toLoop, canon_releaseTxn, canon_addAcc, canon_dropTxn]

theorem canon_addBit {s : State} {h : Nat} {b : Word} (w : Canon s) : Canon (addBit s h b) := by
  unfold addBit
  grind [Canon, canon_addAcc]

theorem canon_endUnhandled {s : State} {h : Nat} {t : Trap} {pc : Word} (w : Canon s) :
    Canon (endUnhandled s h t pc) := by
  unfold endUnhandled
  grind [Canon, canon_jlog, canon_modSlot, canon_endTask, canon_dropRefused]

theorem canon_enterHandler {s : State} {h : Nat} {t : Trap} {pc : Word} (w : Canon s) :
    Canon (enterHandler s h t pc) := by
  unfold enterHandler
  grind [Canon, canon_writeWs, canon_modSlot]

theorem canon_enterTrap {s : State} {h : Nat} {t : Trap} {pc : Word} (w : Canon s) : Canon (enterTrap s h t pc) := by
  unfold enterTrap
  grind [Canon, canon_addBit, canon_endUnhandled, canon_enterHandler]

theorem canon_takeTrap {s : State} {h : Nat} {t : Trap} {pc : Word} (w : Canon s) : Canon (takeTrap s h t pc) := by
  unfold takeTrap
  grind [Canon, canon_enterTrap, canon_modSlot]

theorem canon_raise {s : State} {t : Trap} (w : Canon s) : Canon (raise s t) := by
  unfold raise
  grind [Canon, canon_takeTrap]

/-! ### Functions of `Ops` -/

theorem canon_freeWord {s : State} (w : Canon s) : Canon (freeWord s).2 := w

theorem canon_parkFor {s : State} {n : Need} {ops : List Word} (w : Canon s) : Canon (parkFor s n ops) := w

theorem canon_issue {i : Instr} {g : Gov} {mode : Nat} {s : State} {k : State → State} (w : Canon s)
    (hk : ∀ u, Canon u → Canon (k u)) : Canon (issue i g mode s k) := by
  unfold issue
  grind [Canon, canon_raise, canon_parkFor]

theorem canon_retireH {s : State} {h : Nat} {sw : Bool} {pc : Word} (w : Canon s) : Canon (retireH s h sw pc) := w

theorem canon_retire {s : State} {sw : Bool} (w : Canon s) : Canon (retire s sw) := w

theorem canon_retireTo {s : State} {sw : Bool} {pc : Word} (w : Canon s) : Canon (retireTo s sw pc) := w

theorem canon_waitFor {s : State} {w : Wait} {ops : List Word} {limit : Option Nat} (hs : Canon s) :
    Canon (waitFor s w ops limit) := hs

theorem canon_consumeBy {s : State} {p : Nat → Bool} {rs : List Nat} {k : State → Bool → State} (w : Canon s)
    (hk : ∀ u x, Canon u → Canon (k u x)) : Canon (consumeBy s p rs k) := by
  unfold consumeBy
  grind [Canon, canon_raise, canon_setPoisoned]

theorem canon_consume {s : State} {rs : List Nat} {k : State → Bool → State} (w : Canon s)
    (hk : ∀ u x, Canon u → Canon (k u x)) : Canon (consume s rs k) := by
  unfold consume
  grind [Canon, canon_consumeBy]

theorem canon_addResult {s : State} {h n : Nat} {v : Word} {psn : Bool} (w : Canon s) :
    Canon (addResult s h n v psn) := by
  unfold addResult
  grind [Canon, canon_modSlot, canon_dropOuts]

theorem canon_tlbFill {s : State} {w : Who} {va : Nat} (hs : Canon s) : Canon (tlbFill s w va) := by
  unfold tlbFill
  grind [Canon, canon_modCluster]

theorem canon_tlbFills {s : State} {w : Who} {va : Nat} {x : Xl} (hs : Canon s) : Canon (tlbFills s w va x) := by
  unfold tlbFills
  grind [Canon, canon_tlbFill]

theorem canon_noteWrite {s : State} {h : Nat} {pas : List Nat} (w : Canon s) : Canon (noteWrite s h pas) := by
  unfold noteWrite
  grind [Canon, canon_modTxn]

theorem canon_dropLate {s : State} {h : Nat} (w : Canon s) : Canon (dropLate s h) := by
  unfold dropLate
  grind [Canon, canon_modCore]

theorem canon_addLate {s : State} {core frame : Nat} {t : Trap} {grp : Option Nat} (w : Canon s) :
    Canon (addLate s core frame t grp) := w

theorem canon_acquire {s : State} {h : Nat} {sc : Scope} (w : Canon s) : Canon (acquire s h sc) := by
  unfold acquire
  grind [Canon, canon_modCore, canon_modSlot]

theorem canon_takeRecord {s : State} {h d : Nat} {e : InboxEnt} (w : Canon s) : Canon (takeRecord s h d e) := by
  unfold takeRecord
  grind [Canon, canon_modCore, canon_writeRegs, canon_modSlot, canon_modTxn, canon_addAcc, canon_acquire]

theorem canon_giveRecords {n : Nat} {s : State} {n1 : Nat} (w : Canon s) : Canon (giveRecords n s n1) := by
  induction n generalizing s with
  | zero => exact w
  | succ n ih =>
    unfold giveRecords
    grind [Canon, canon_takeRecord, canon_retireH, canon_modSlot, canon_foldl, canon_foldl_fst]

theorem canon_settleH {s : State} {h : Nat} (w : Canon s) : Canon (settleH s h) := by
  unfold settleH
  grind [Canon, canon_enterTrap, canon_modSlot]

theorem canon_settle {s : State} (w : Canon s) : Canon (settle s) := by
  unfold settle
  grind [Canon, canon_settleH, canon_giveRecords, canon_foldl, canon_foldl_fst]

theorem canon_setPending {s : State} {h i : Nat} (w : Canon s) : Canon (setPending s h i) := w

theorem canon_withdraw {s : State} {h : Nat} (w : Canon s) : Canon (withdraw s h) := by
  unfold withdraw
  grind [Canon, canon_modKs, canon_modCluster, canon_modGang, canon_modCore, canon_modSlot]

/-! ### Functions of `Regs` -/

theorem canon_modFifo {s : State} {cl b : Nat} {f : Fifo → Fifo} (w : Canon s) : Canon (modFifo s cl b f) := w

theorem canon_remodeStale {s : State} {cl b : Nat} (w : Canon s) : Canon (remodeStale s cl b) := by
  unfold remodeStale
  grind [Canon, canon_markOne, canon_foldl, canon_foldl_fst]

theorem canon_takeLine {s : State} {h d line : Nat} (w : Canon s) : Canon (takeLine s h d line) := by
  unfold takeLine
  grind [Canon, canon_writeReg, canon_acquire, canon_modCluster]

theorem canon_serveLine {s : State} {cl line : Nat} (w : Canon s) : Canon (serveLine s cl line) := by
  unfold serveLine
  grind [Canon, canon_retireH, canon_modSlot, canon_takeLine, canon_foldl, canon_foldl_fst]

theorem canon_finishJob {s : State} {cl : Nat} {j : Job} (w : Canon s) : Canon (finishJob s cl j) := by
  unfold finishJob
  grind [Canon, canon_modCluster, canon_serveLine, canon_bumpCl]

theorem canon_endFifoWaits {s : State} {cl b : Nat} (w : Canon s) : Canon (endFifoWaits s cl b) := by
  unfold endFifoWaits
  grind [Canon, canon_takeTrap, canon_withdraw, canon_finishJob, canon_foldl, canon_foldl_fst]

theorem canon_csbWrite {s : State} {cl : Nat} {v : Word} (w : Canon s) : Canon (csbWrite s cl v) := by
  unfold csbWrite
  grind [Canon, canon_bumpCl, canon_endFifoWaits, canon_remodeStale, canon_modCluster, canon_foldl, canon_foldl_fst]

theorem canon_wlrecWrite {s : State} {cl l : Nat} {w : Who} {v : Word} (hs : Canon s) :
    Canon (wlrecWrite s cl l w v) := by
  unfold wlrecWrite
  grind [Canon, canon_modCluster]

theorem canon_clWrite {s : State} {cl off : Nat} {w : Who} {v : Word} (hs : Canon s) :
    Canon (clWrite s cl off w v) := by
  unfold clWrite
  grind [Canon, canon_csbWrite, canon_modFifo, canon_modCluster, canon_wlrecWrite]

theorem canon_qrecWrite {s : State} {q : Nat} {v : Word} (w : Canon s) : Canon (qrecWrite s q v) := by
  simp only [qrecWrite]
  split
  · exact canon_bumpKs (canon_modKs w)
  · split
    · exact canon_bumpKs (canon_modKs w)
    · exact canon_modKs w

theorem canon_sgthrWrite {s : State} {st : Nat} {v : Word} (w : Canon s) : Canon (sgthrWrite s st v) := by
  unfold sgthrWrite
  grind [Canon, canon_bumpKs, canon_modKs]

theorem canon_pushpoolWrite {s : State} {v : Word} (w : Canon s) : Canon (pushpoolWrite s v) := by
  unfold pushpoolWrite
  grind [Canon, canon_bumpKs, canon_modKs]

theorem canon_ksWrite {s : State} {off : Nat} {v : Word} (w : Canon s) : Canon (ksWrite s off v) := by
  unfold ksWrite
  grind [Canon, canon_bumpKs, canon_sgthrWrite, canon_pushpoolWrite, canon_qrecWrite, canon_modKs]

/-! ### Functions of `Access` -/

theorem canon_fillFrom {s : State} {core key : Nat} {pas : List Nat} (w : Canon s) :
    Canon (fillFrom s core key pas) := by
  unfold fillFrom
  grind [Canon, canon_modCluster, canon_modCore, canon_foldl, canon_foldl_fst]

theorem canon_cacheRead {s t : State} {h key : Nat} {pas : List Nat} {bs : List Byte} {ps : List Bool} (w : Canon s)
    (e : cacheRead s h key pas = some (bs, ps, t)) : Canon t := by
  unfold cacheRead at e
  grind [Canon, canon_modCore, canon_modCluster, canon_foldl]

theorem canon_storeCopies {s : State} {core key : Nat} {cells : List (Nat × Byte)} {psn : Bool} (w : Canon s) :
    Canon (storeCopies s core key cells psn) := w

theorem canon_dropLine {s : State} {core pa : Nat} (w : Canon s) : Canon (dropLine s core pa) := w

theorem canon_dropCopies {s : State} {core : Nat} {pas : List Nat} (w : Canon s) : Canon (dropCopies s core pas) := w

theorem canon_fifoStep {s : State} {cl b : Nat} {pas : List Nat} {write : Bool} (w : Canon s) :
    Canon (fifoStep s cl b pas write) := by
  unfold fifoStep
  grind [Canon, canon_modFifo]

theorem canon_fenceAcquire {s : State} {h : Nat} {sc : Scope} (w : Canon s) : Canon (fenceAcquire s h sc) := by
  unfold fenceAcquire
  grind [Canon, canon_acquire]

theorem canon_Access_put {s : State} {a : Access} {data : List Byte} {psn : Bool} (w : Canon s) :
    Canon (Access.put s a data psn) := by
  unfold Access.put
  grind [Canon, canon_putBytes]

theorem canon_effect {s : State} {a : Access} (w : Canon s) : Canon (effect s a).1 := by
  unfold effect
  grind [Canon, canon_fifoStep, canon_putBytes, canon_Access_put, canon_setFull]

theorem canon_perform {s : State} {a : Access} (w : Canon s) : Canon (perform s a).1 := by
  unfold perform
  grind [Canon, canon_effect]

theorem canon_cleanCopies {s : State} {a : Access} (w : Canon s) : Canon (cleanCopies s a) := by
  unfold cleanCopies
  grind [Canon, canon_modCluster, canon_modCore]

theorem canon_copiesAfter {s : State} {a : Access} (w : Canon s) : Canon (copiesAfter s a) := by
  unfold copiesAfter
  grind [Canon, canon_fillFrom, canon_storeCopies, canon_cleanCopies, canon_wash, canon_dropCopies]

theorem canon_send {s : State} {a : Access} (w : Canon s) : Canon (send s a).1 := w

theorem canon_setAcc {s : State} {uid : Nat} {st : AccSt} (w : Canon s) : Canon (setAcc s uid st) := w

theorem canon_dropAcc {s : State} {uid : Nat} (w : Canon s) : Canon (dropAcc s uid) := w

theorem canon_takeEntries {s : State} {h : Nat} {isSend : Bool} {addr n : Nat} (w : Canon s) :
    Canon (takeEntries s h isSend addr n).1 := w

theorem canon_takeEntry {s : State} {h : Nat} {isSend : Bool} {addr : Nat} (w : Canon s) :
    Canon (takeEntry s h isSend addr).1 := w

theorem canon_completeWait {s : State} {h : Nat} {sw : Bool} (w : Canon s) : Canon (completeWait s h sw) := w

theorem canon_notePsn {s : State} {h : Nat} {psn : Bool} (w : Canon s) : Canon (notePsn s h psn) := by
  unfold notePsn
  grind [Canon, canon_setPoisoned]

theorem canon_dropGroup {s : State} {h : Nat} (w : Canon s) : Canon (dropGroup s h) := by
  unfold dropGroup
  grind [Canon, canon_modCore]

theorem canon_multiWord {s : State} {h n : Nat} {sw : Bool} (w : Canon s) : Canon (multiWord s h n sw) := by
  unfold multiWord
  grind [Canon, canon_completeWait, canon_modHsw, canon_dropGroup, canon_modSlot]

theorem canon_accAcquire {s : State} {a : Access} (w : Canon s) : Canon (accAcquire s a) := by
  unfold accAcquire
  grind [Canon, canon_acquire]

theorem canon_bringWord {s : State} {a : Access} {d : Nat} {val : List Byte} {psn : Bool} (w : Canon s) :
    Canon (bringWord s a d val psn) := by
  unfold bringWord
  grind [Canon, canon_notePsn, canon_dropAcc, canon_writeReg]

theorem canon_dropOlder {s : State} {h : Nat} {pas : List Nat} {uid : Nat} (w : Canon s) :
    Canon (dropOlder s h pas uid) := by
  unfold dropOlder
  grind [Canon, canon_modSlot]

theorem canon_deliver {s : State} {a : Access} {val : List Byte} {psn : Bool} (w : Canon s) :
    Canon (deliver s a val psn) := by
  unfold deliver
  grind [Canon, canon_dropOlder, canon_completeWait, canon_accAcquire, canon_bringWord, canon_multiWord, canon_setAcc,
    canon_modSlot, canon_dropAcc]

theorem canon_lateFault {s : State} {core : Nat} {a : Access} (w : Canon s) : Canon (lateFault s core a) := w

theorem canon_refuse {s : State} {a : Access} {why : RefuseReason} (w : Canon s) : Canon (refuse s a why) := by
  unfold refuse
  grind [Canon, canon_lateFault, canon_dropAcc, canon_completeWait, canon_multiWord, canon_setAcc]

theorem canon_poisonWait {s : State} {a : Access} (w : Canon s) : Canon (poisonWait s a) := by
  unfold poisonWait
  grind [Canon, canon_takeTrap, canon_withdraw, canon_dropAcc]

theorem canon_retryScan {n : Nat} {s : State} {n1 : Nat} (w : Canon s) : Canon (retryScan n s n1) := by
  induction n generalizing s with
  | zero => exact w
  | succ n ih =>
    unfold retryScan
    grind [Canon, canon_perform, canon_deliver, canon_copiesAfter, canon_poisonWait, canon_foldl, canon_foldl_fst]

theorem canon_enterRetry {s : State} {a : Access} (w : Canon s) : Canon (enterRetry s a) := by
  unfold enterRetry
  grind [Canon, canon_bumpTr, canon_setAcc]

theorem canon_arrive {s : State} {a : Access} (w : Canon s) : Canon (arrive s a) := by
  unfold arrive
  grind [Canon, canon_perform, canon_deliver, canon_copiesAfter, canon_retryScan, canon_refuse, canon_poisonWait,
    canon_enterRetry]

theorem canon_expect {s : State} {h d uid : Nat} {psn : Bool} {ext : Option (Nat × Bool)} (w : Canon s) :
    Canon (expect s h d uid psn ext) := by
  unfold expect
  grind [Canon, canon_modSlot, canon_dropOuts]

theorem canon_sendWait {s : State} {a : Access} {ops : List Word} (w : Canon s) : Canon (sendWait s a ops) := w

theorem canon_fifoGo {s : State} {x : Xl} {a : Access} {ops : List Word} {done : State → List Byte → Bool → State}
    (w : Canon s) (hdone : ∀ u x y, Canon u → Canon (done u x y)) : Canon (fifoGo s x a ops done) := by
  unfold fifoGo
  grind [Canon, canon_send, canon_waitFor, canon_perform, canon_raise, canon_enterRetry]

theorem canon_plainLoad {s : State} {va n d : Nat} {signed : Bool} {rs : List Nat} {sw : Bool} (w : Canon s) :
    Canon (plainLoad s va n d signed rs sw) := by
  simp only [plainLoad]
  split
  · exact canon_raise w
  · split
    · exact canon_parkFor w
    · exact canon_raise w
    · refine canon_consume w fun u p hu => ?_
      grind [canon_raise, canon_tlbFills, canon_retire, canon_addResult, canon_fifoGo, canon_notePsn, canon_cacheRead,
        canon_send, canon_expect]

theorem canon_storeNow {s : State} {va : Nat} {pas : List Nat} {x : Xl} {data : List Byte} {psn : Bool} {op : AccOp}
    (w : Canon s) : Canon (storeNow s va pas x data psn op) := by
  unfold storeNow
  grind [Canon, canon_noteWrite, canon_dropOuts, canon_putBytes, canon_send, canon_takeEntry]

theorem canon_plainStore {s : State} {va n : Nat} {v : Word} {rs : List Nat} {ops : List Word} {sw : Bool}
    (w : Canon s) : Canon (plainStore s va n v rs ops sw) := by
  unfold plainStore
  grind [Canon, canon_raise, canon_parkFor, canon_consume, canon_tlbFills, canon_retire, canon_clWrite, canon_fifoGo,
    canon_noteWrite, canon_storeNow]

theorem canon_syncAccess {s : State} {va n d : Nat} {m : SyncMode} {data : Option Word} {rs : List Nat}
    {ops : List Word} {sw : Bool} (w : Canon s) : Canon (syncAccess s va n d m data rs ops sw) := by
  rw [syncAccess]
  dsimp only
  split
  · exact canon_raise w
  refine canon_consume w fun u p hu => ?_
  split
  · exact canon_raise hu
  split
  · exact canon_parkFor hu
  have ht : ∀ {va c pa}, Canon (dropLine (tlbFill u (who u s.cur) va) c pa) := canon_dropLine (canon_tlbFill hu)
  cases m <;> cases data <;> dsimp only
  case put.some =>
    split
    · exact canon_parkFor ht
    · exact canon_retire (canon_send (canon_takeEntry (canon_noteWrite ht)))
  case put.none => exact canon_retire (canon_expect (canon_send ht))
  case probe.none | probe.some => exact canon_retire (canon_modSlot (canon_dropOuts (canon_send ht)))
  all_goals
    refine canon_sendWait ?_
    split
    · exact canon_noteWrite ht
    · exact ht

theorem canon_returnResult {s : State} {h i : Nat} (w : Canon s) : Canon (returnResult s h i) := by
  unfold returnResult
  grind [Canon, canon_dropAcc, canon_putBytes, canon_settleH, canon_modSlot, canon_notePsn]

/-! ### Functions of `Flags` -/

theorem canon_control {s : State} {rs : List (Fin 32)} {v : Word} {k : State → State} (w : Canon s)
    (hk : ∀ u, Canon u → Canon (k u)) : Canon (control s rs v k) := by
  unfold control
  grind [Canon, canon_raise, canon_setPoisoned]

theorem canon_branch {i : Instr} {sw : Bool} {a b : Fin 32} {off : BitVec 15} {taken : Word → Word → Bool} {s : State}
    (w : Canon s) : Canon (branch i sw a b off taken s) := by
  unfold branch
  grind [Canon, canon_issue, canon_control, canon_retireTo, canon_retire]

/-! ### Functions of `Operands` -/

theorem canon_scalar {i : Instr} {sw : Bool} {d : Fin 32} {rs : List (Fin 32)} {v : Word} {s : State}
    (w : Canon s) : Canon (scalar i sw d rs v s) := by
  unfold scalar
  grind [Canon, canon_issue, canon_consume, canon_retire, canon_writeReg]

theorem canon_scalarLate {i : Instr} {sw : Bool} {d : Fin 32} {rs : List (Fin 32)} {v : Word} {s : State}
    (w : Canon s) : Canon (scalarLate i sw d rs v s) := by
  unfold scalarLate
  grind [Canon, canon_issue, canon_consume, canon_retire, canon_addResult]

theorem canon_scalarImm {i : Instr} {sw : Bool} {d a : Fin 32} {imm : BitVec 15} {f : Word → Word → Word} {s : State}
    (w : Canon s) : Canon (scalarImm i sw d a imm f s) := by
  unfold scalarImm
  grind [Canon, canon_issue, canon_consume, canon_retire, canon_writeReg]

/-! ### Functions of `Link` -/

theorem canon_modFab {s : State} {f : Fabric → Fabric} (w : Canon s) : Canon (modFab s f) := w

theorem canon_modLink {s : State} {d : Nat} {f : Link → Link} (w : Canon s) : Canon (modLink s d f) := w

theorem canon_modStrand {s : State} {d st : Nat} {f : Strand → Strand} (w : Canon s) : Canon (modStrand s d st f) := w

theorem canon_sendFlits {s : State} {d st : Nat} {l : List (Nat × Nat)} (w : Canon s) : Canon (sendFlits s d st l) := w

theorem canon_sendControl {s : State} {d st kind val : Nat} (w : Canon s) : Canon (sendControl s d st kind val) := w

theorem canon_freePayloads {s : State} {n : Nat} (w : Canon s) : Canon (freePayloads s n).2 := w

theorem canon_sendPacket {s : State} {m n : Nat} (w : Canon s) : Canon (sendPacket s m n) := by
  unfold sendPacket
  grind [Canon, canon_freePayloads, canon_sendFlits]

theorem canon_packetOut {s : State} {a : Access} (w : Canon s) : Canon (packetOut s a) := by
  unfold packetOut
  grind [Canon, canon_sendPacket]

theorem canon_charge {s : State} {d st w : Nat} (hs : Canon s) : Canon (charge s d st w) := by
  unfold charge
  grind [Canon, canon_sendControl, canon_modStrand]

theorem canon_acknowledge {s : State} {d st : Nat} (w : Canon s) : Canon (acknowledge s d st) := by
  unfold acknowledge
  grind [Canon, canon_modStrand, canon_sendControl]

theorem canon_takeFlit {s : State} {d st : Nat} {f : BitVec 256} (w : Canon s) : Canon (takeFlit s d st f) := by
  unfold takeFlit
  grind [Canon, canon_modStrand, canon_charge, canon_acknowledge, canon_foldl, canon_foldl_fst]

theorem canon_failFlit {s : State} {d st : Nat} {f : BitVec 256} (w : Canon s) : Canon (failFlit s d st f) := by
  unfold failFlit
  grind [Canon, canon_modStrand, canon_sendControl, canon_bumpTr]

theorem canon_drainWindow {n : Nat} {s : State} {n1 n2 : Nat} (w : Canon s) : Canon (drainWindow n s n1 n2) := by
  induction n generalizing s with
  | zero => exact w
  | succ n ih =>
    unfold drainWindow
    grind [Canon, canon_takeFlit, canon_modStrand, canon_foldl, canon_foldl_fst]

theorem canon_umpelFlit {s : State} {d st : Nat} {f : BitVec 256} (w : Canon s) : Canon (umpelFlit s d st f) := by
  unfold umpelFlit
  grind [Canon, canon_acknowledge, canon_bumpTr, canon_modStrand, canon_drainWindow]

theorem canon_sendOn {s : State} {d st : Nat} (w : Canon s) : Canon (sendOn s d st) := w

theorem canon_ackTo {s : State} {d st upto : Nat} (w : Canon s) : Canon (ackTo s d st upto) := w

theorem canon_countReplay {s : State} {d n : Nat} (w : Canon s) : Canon (countReplay s d n) := w

theorem canon_remapFibre {s : State} {d fib : Nat} (w : Canon s) : Canon (remapFibre s d fib) := by
  unfold remapFibre
  grind [Canon, canon_modFab, canon_setTrReg, canon_modStrand, canon_foldl, canon_foldl_fst]

/-! ### Functions of `Message` -/

theorem canon_putMsg {s : State} {core frame n : Nat} {v : Word} {nan : Bool} {sender : Option Nat} {psn : Bool}
    (w : Canon s) : Canon (putMsg s core frame n v nan sender psn) := canon_put64 (canon_put64 w)

theorem canon_arriveMsg {s : State} {core frame n : Nat} {v : Word} {nan : Bool} {sender : Option Nat} {psn : Bool}
    (w : Canon s) {t} (e : arriveMsg s core frame n v nan sender psn = some t) : Canon t := by
  unfold arriveMsg at e
  split at e
  · exact Option.some.inj e ▸ canon_putMsg w
  · split at e
    · exact Option.some.inj e ▸ w
    · cases e

theorem canon_refillSlot {s : State} {core frame n : Nat} (w : Canon s) : Canon (refillSlot s core frame n) := by
  unfold refillSlot
  grind [Canon, canon_putMsg, canon_modCore]

theorem canon_clearReply {s : State} {core frame n : Nat} (w : Canon s) :
    Canon (clearReply s core frame n) := canon_put64 w

theorem canon_framePoisoned {s : State} {core frame : Nat} (w : Canon s) : Canon (framePoisoned s core frame) := by
  unfold framePoisoned
  grind [Canon, canon_setPoisoned, canon_put64]

theorem canon_modEntry {s : State} {pool : Nat} {a : Access} {f : JEnt → JEnt} (w : Canon s) :
    Canon (modEntry s pool a f) := w

theorem canon_freeEntry {s : State} {pool : Nat} {a : Access} (w : Canon s) : Canon (freeEntry s pool a) := w

theorem canon_postAnswered {s : State} {a : Access} (w : Canon s) : Canon (postAnswered s a) := by
  unfold postAnswered
  grind [Canon, canon_settleH, canon_modSlot]

theorem canon_cancelVec {s : State} {a : Access} (w : Canon s) : Canon (cancelVec s a) := by
  unfold cancelVec
  grind [Canon, canon_modPools, canon_modSlot]

theorem canon_modQueue {s : State} {q : Nat} {f : DQueue → DQueue} (w : Canon s) : Canon (modQueue s q f) := w

theorem canon_pushItem {s : State} {q p : Nat} {v : Word} {psn : Bool} (w : Canon s) :
    Canon (pushItem s q p v psn) := by
  unfold pushItem
  grind [Canon, canon_modQueue, canon_putBytes]

theorem canon_popItem {s : State} {q p r : Nat} (w : Canon s) : Canon (popItem s q p r) := by
  unfold popItem
  grind [Canon, canon_modQueue, canon_acquire, canon_writeReg, canon_notePsn]

theorem canon_serveQueue {n : Nat} {s : State} {n1 : Nat} (w : Canon s) : Canon (serveQueue n s n1) := by
  induction n generalizing s with
  | zero => exact w
  | succ n ih =>
    unfold serveQueue
    grind [Canon, canon_modQueue, canon_takeTrap, canon_completeWait, canon_popItem, canon_pushItem, canon_foldl,
      canon_foldl_fst]

theorem canon_serve {s : State} {q : Nat} (w : Canon s) : Canon (serve s q) := by
  unfold serve
  grind [Canon, canon_serveQueue]

theorem canon_ksStore {s : State} {off : Nat} {v : Word} (w : Canon s) : Canon (ksStore s off v) := by
  unfold ksStore
  grind [Canon, canon_ksWrite, canon_serve]

theorem canon_needTxn {s : State} {k : Txn → State} (w : Canon s) (hk : ∀ b1, Canon (k b1)) : Canon (needTxn s k) := by
  unfold needTxn
  grind [Canon, canon_raise]

theorem canon_releaseMember {s : State} {g : Gang} {m : Nat} (w : Canon s) : Canon (releaseMember s g m) := by
  unfold releaseMember
  grind [Canon, canon_completeWait, canon_acquire]

theorem canon_boundTrap {s : State} {h : Nat} (w : Canon s) {t} (e : boundTrap s h = some t) : Canon t.2 := by
  simp only [boundTrap] at e
  split at e
  · exact Option.some.inj e ▸ canon_bumpKs w
  · exact Option.some.inj e ▸ canon_bumpKs w
  · exact Option.some.inj e ▸ w
  · exact Option.some.inj e ▸ w
  · obtain ⟨g, -, rfl⟩ := Option.map_eq_some_iff.1 e; exact w
  · obtain ⟨g, -, rfl⟩ := Option.map_eq_some_iff.1 e; exact w
  · cases e

/-! ### Functions of `Engine` -/

theorem canon_putKeyed {s : State} {cells : List ((Nat × Nat) × Byte)} {psn : Bool} (w : Canon s) :
    Canon (putKeyed s cells psn) := by
  unfold putKeyed
  grind [Canon, canon_putBytes, canon_foldl, canon_foldl_fst]

theorem canon_recPoison {s : State} {va : Word} {psn : Bool} {k : State → State} (w : Canon s)
    (hk : ∀ u, Canon u → Canon (k u)) : Canon (recPoison s va psn k) := by
  unfold recPoison
  grind [Canon, canon_raise, canon_setPoisoned]

theorem canon_noteRegion {s : State} {h : Nat} {l : List (Nat × Xl)} {va n : Nat} (w : Canon s) :
    Canon (noteRegion s h l va n) := by
  unfold noteRegion
  grind [Canon, canon_noteWrite]

theorem canon_portRead {s : State} {cl b : Nat} {l : List (List Nat)} {l1 : List Byte} {q : Bool}
    (w : Canon s) : Canon (portRead s cl b l l1 q).2.2 := by
  induction l generalizing s l1 q with
  | nil => exact w
  | cons a l ih =>
    unfold portRead
    grind [Canon, canon_fifoStep, canon_foldl, canon_foldl_fst]

theorem canon_portWrite {s : State} {cl b : Nat} {psn : Bool} {l : List (List Nat)} {l1 : List Byte}
    (w : Canon s) : Canon (portWrite s cl b psn l l1) := by
  induction l generalizing s l1 with
  | nil => exact w
  | cons a l ih =>
    unfold portWrite
    grind [Canon, canon_fifoStep, canon_putBytes, canon_foldl, canon_foldl_fst]

theorem canon_readRuns {l : List (Option (Nat × Nat) × List (Nat × Nat))} {s : State} {l1 : List Byte} {q : Bool}
    (w : Canon s) : Canon (readRuns l s l1 q).2.2 := by
  induction l generalizing s l1 q with
  | nil => exact w
  | cons a l ih =>
    unfold readRuns
    grind [Canon, canon_portRead, canon_foldl, canon_foldl_fst]

theorem canon_writeRuns {psn : Bool} {l : List (Option (Nat × Nat) × List (Nat × Nat))} {s : State} {l1 : List Byte}
    (w : Canon s) : Canon (writeRuns psn l s l1) := by
  induction l generalizing s l1 with
  | nil => exact w
  | cons a l ih =>
    unfold writeRuns
    grind [Canon, canon_putKeyed, canon_portWrite, canon_foldl, canon_foldl_fst]

theorem canon_afterUnit {s : State} {va n : Nat} {bs : List Byte} {psn : Bool} (w : Canon s) :
    Canon (afterUnit s va n bs psn) := by
  unfold afterUnit
  grind [Canon, canon_dropCopies, canon_modSlot, canon_readRuns]

theorem canon_withRecord {s : State} {ops : List Word} {va : Word} {k : State → List Word → Bool → State}
    (w : Canon s) (hk : ∀ u x y, Canon u → Canon (k u x y)) : Canon (withRecord s ops va k) := by
  unfold withRecord
  grind [Canon, canon_raise, canon_parkFor, canon_afterUnit, canon_readRuns]

theorem canon_engRead {s : State} {j : Job} {va n : Nat} (w : Canon s) : Canon (engRead s j va n).2 := by
  unfold engRead
  grind [Canon, canon_readRuns]

theorem canon_mirror {s : State} {j : Job} {va : Nat} {cells : List (Nat × Nat)} {bs : List Byte} {psn : Bool}
    (w : Canon s) : Canon (mirror s j va cells bs psn) := by
  unfold mirror
  grind [Canon, canon_putBytes, canon_foldl, canon_foldl_fst]

theorem canon_engWrite {s : State} {j : Job} {va : Nat} {bs : List Byte} {psn : Bool} (w : Canon s) :
    Canon (engWrite s j va bs psn).2 := by
  unfold engWrite
  grind [Canon, canon_mirror, canon_writeRuns, canon_dropCopies, canon_foldl, canon_foldl_fst]

theorem canon_beginTiles {s : State} {j : Job} {va n : Nat} (w : Canon s) : Canon (beginTiles s j va n) := w

theorem canon_endTiles {s : State} {j : Job} {va n : Nat} {bs : List Byte} (w : Canon s) :
    Canon (endTiles s j va n bs) := by
  unfold endTiles
  grind [Canon, canon_setFlag, canon_foldl, canon_foldl_fst]

theorem canon_seeTiles {s : State} {cells : List (Nat × Nat)} {bs : List Byte} (w : Canon s) :
    Canon (seeTiles s cells bs) := by
  unfold seeTiles
  grind [Canon, canon_setFlag, canon_foldl, canon_foldl_fst]

theorem canon_standAt {s : State} {j : Job} {cl b : Nat} {w : Bool} (hs : Canon s) : Canon (standAt s j cl b w).1 := by
  unfold standAt
  grind [Canon]

theorem canon_elemDone {s : State} {cl : Nat} {j : Job} (w : Canon s) : Canon (elemDone s cl j).1 := w

theorem canon_elemErr {s : State} {cl : Nat} {j : Job} (w : Canon s) : Canon (elemErr s cl j).1 := w

theorem canon_elemRead {s : State} {cl : Nat} {j : Job} {src : Nat} (w : Canon s) : Canon (elemRead s cl j src).1 := by
  unfold elemRead
  grind [Canon, canon_beginTiles, canon_endTiles, canon_touchFlag, canon_bumpCl, canon_engRead, canon_elemErr,
    canon_standAt]

theorem canon_addStep {s : State} {cl : Nat} {j : Job} {dst : Nat} (w : Canon s) : Canon (addStep s cl j dst).1 := by
  unfold addStep
  grind [Canon, canon_elemErr, canon_engRead, canon_engWrite, canon_elemDone, canon_standAt]

theorem canon_elemWrite {s : State} {cl : Nat} {j : Job} {dst : Nat} (w : Canon s) :
    Canon (elemWrite s cl j dst).1 := by
  unfold elemWrite
  grind [Canon, canon_elemErr, canon_standAt, canon_addStep, canon_engWrite, canon_elemDone]

theorem canon_elemStep {s : State} {cl : Nat} {j : Job} (w : Canon s) : Canon (elemStep s cl j).1 := by
  unfold elemStep
  grind [Canon, canon_engRead, canon_elemErr, canon_standAt, canon_elemRead, canon_elemWrite]

theorem canon_copyRead {s : State} {cl : Nat} {j : Job} (w : Canon s) : Canon (copyRead s cl j).1 := by
  unfold copyRead
  grind [Canon, canon_bumpCl, canon_standAt, canon_engRead]

theorem canon_copyWrite {s : State} {cl : Nat} {j : Job} (w : Canon s) : Canon (copyWrite s cl j).1 := by
  unfold copyWrite
  grind [Canon, canon_engWrite, canon_bumpCl, canon_standAt]

theorem canon_copyEnd {s : State} {cl : Nat} {j : Job} (w : Canon s) : Canon (copyEnd s cl j).1 := w

theorem canon_copyStep {s : State} {cl : Nat} {j : Job} (w : Canon s) : Canon (copyStep s cl j).1 := by
  unfold copyStep
  grind [Canon, canon_copyRead, canon_copyWrite, canon_copyEnd]

theorem canon_walkStep {s : State} {cl : Nat} {j : Job} (w : Canon s) : Canon (walkStep s cl j).1 := by
  unfold walkStep
  grind [Canon, canon_engRead, canon_standAt, canon_elemStep]

theorem canon_jobStep {s : State} {cl : Nat} {j : Job} (w : Canon s) : Canon (jobStep s cl j).1 := by
  unfold jobStep
  grind [Canon, canon_walkStep, canon_copyStep, canon_elemStep]

theorem canon_stopJob {s : State} {cl : Nat} {j : Job} (w : Canon s) : Canon (stopJob s cl j) := by
  unfold stopJob
  grind [Canon, canon_finishJob]

theorem canon_stopShare {s : State} {cl : Nat} {j : Job} {h : Nat} (w : Canon s) : Canon (stopShare s cl j h) := by
  unfold stopShare
  grind [Canon, canon_stopJob, canon_modCluster]

theorem canon_runJob {s : State} {cl : Nat} {j : Job} (w : Canon s) : Canon (runJob s cl j) := by
  unfold runJob
  grind [Canon, canon_jobStep, canon_modCluster, canon_stopShare, canon_foldl, canon_foldl_fst]

theorem canon_acceptJob {s : State} {j : Job} (w : Canon s) : Canon (acceptJob s j) := w

theorem canon_mergeJob {s : State} {k j : Job} (w : Canon s) : Canon (mergeJob s k j) := w

theorem canon_engine {i : Instr} {a : Fin 32} {okOps : List Nat} {s : State} (w : Canon s) :
    Canon (engine i a okOps s) := by
  refine canon_issue w fun u hu => canon_withRecord hu fun t d p ht => ?_
  dsimp only
  split
  · exact canon_raise ht
  split
  · exact canon_raise ht
  split
  · exact canon_raise ht
  split
  · exact canon_raise ht
  split
  · exact canon_raise ht
  split
  · exact canon_raise ht
  split
  · exact canon_raise ht
  refine canon_consume ht fun t _ ht => canon_recPoison ht fun t ht => ?_
  grind [canon_noteRegion, canon_retire, canon_mergeJob, canon_acceptJob, canon_parkFor]

theorem canon_idemGo {i : Instr} {point : Bool} {s : State} (w : Canon s) : Canon (idemGo i point s) := by
  unfold idemGo
  grind [Canon, canon_issue, canon_parkFor, canon_retire, canon_modSlot]

theorem canon_modList {s : State} {cl l : Nat} {f : WorkList → WorkList} (w : Canon s) : Canon (modList s cl l f) := w

theorem canon_setKey {s : State} {w : WorkList} {key : Nat} {v : Bool} (hs : Canon s) : Canon (setKey s w key v) := by
  unfold setKey
  grind [Canon, canon_putBytes]

theorem canon_appendItem {s : State} {cl l : Nat} {v : Word} {psn : Bool} (w : Canon s) :
    Canon (appendItem s cl l v psn) := by
  unfold appendItem
  grind [Canon, canon_bumpCl, canon_putBytes, canon_modList]

theorem canon_takeItems {s : State} {cl l h d n : Nat} (w : Canon s) : Canon (takeItems s cl l h d n) := by
  unfold takeItems
  grind [Canon, canon_modList, canon_setKey, canon_notePsn, canon_writeReg, canon_acquire, canon_foldl, canon_foldl_fst]

theorem canon_serveList {n : Nat} {s : State} {n1 n2 : Nat} (w : Canon s) : Canon (serveList n s n1 n2) := by
  induction n generalizing s with
  | zero => exact w
  | succ n ih =>
    unfold serveList
    grind [Canon, canon_modList, canon_takeTrap, canon_completeWait, canon_takeItems, canon_foldl, canon_foldl_fst]

theorem canon_listGo {s : State} {list : Fin 4} {own : WorkList → Option Trap} {k : WorkList → State} (w : Canon s)
    (hk : ∀ b1, Canon (k b1)) : Canon (listGo s list own k) := by
  unfold listGo
  grind [Canon, canon_raise, canon_parkFor]

/-! ### Functions of `Array` -/

theorem canon_modArr {s : State} {cl : Nat} {f : Arr → Arr} (w : Canon s) : Canon (modArr s cl f) := w

theorem canon_modAct {s : State} {core : Nat} {f : ArrCtx → ArrCtx} (w : Canon s) : Canon (modAct s core f) := w

theorem canon_beginPeriod {s : State} {cl k : Nat} (w : Canon s) : Canon (beginPeriod s cl k) := w

theorem canon_endPeriod {s : State} {cl : Nat} (w : Canon s) : Canon (endPeriod s cl) := by
  unfold endPeriod
  grind [Canon, canon_modArr, canon_modAct, canon_beginPeriod]

theorem canon_countCmd {s : State} {cl : Nat} {inPeriod : Bool} (w : Canon s) : Canon (countCmd s cl inPeriod) := by
  unfold countCmd
  grind [Canon, canon_modArr, canon_bumpCl, canon_endPeriod]

theorem canon_request {s : State} {core : Nat} (w : Canon s) : Canon (request s core) := by
  unfold request
  grind [Canon, canon_modAct, canon_modArr]

theorem canon_releaseLease {s : State} {core : Nat} (w : Canon s) : Canon (releaseLease s core) := w

theorem canon_endLease {s : State} {h : Nat} (w : Canon s) : Canon (endLease s h) := by
  unfold endLease
  grind [Canon, canon_completeWait, canon_takeTrap, canon_setPoisoned]

theorem canon_grantLease {s : State} {cl core : Nat} (w : Canon s) : Canon (grantLease s cl core) := by
  unfold grantLease
  grind [Canon, canon_modAct, canon_beginPeriod, canon_modArr, canon_endLease, canon_foldl, canon_foldl_fst]

theorem canon_failLease {s : State} {cl core h : Nat} {t : Trap} (w : Canon s) : Canon (failLease s cl core h t) := by
  unfold failLease
  grind [Canon, canon_releaseLease, canon_modAct, canon_beginPeriod, canon_takeTrap]

theorem canon_discardTables {s : State} {core : Nat} (w : Canon s) : Canon (discardTables s core) := w

theorem canon_unleaseGo {i : Instr} {disc : Bool} {s : State} (w : Canon s) : Canon (unleaseGo i disc s) := by
  unfold unleaseGo
  grind [Canon, canon_issue, canon_retire, canon_discardTables, canon_parkFor, canon_raise, canon_releaseLease]

theorem canon_earlierDone {s : State} {tbs : List Nat} {acc : Option Nat} {period : Bool} {ops : List Word}
    {k : State → State} (w : Canon s) (hk : ∀ u, Canon u → Canon (k u)) :
    Canon (earlierDone s tbs acc period ops k) := by
  unfold earlierDone
  grind [Canon, canon_parkFor]

theorem canon_arrayGo {s : State} {ops : List Word} {acc : Option Nat} {k : State → State} (w : Canon s)
    (hk : ∀ u, Canon u → Canon (k u)) : Canon (arrayGo s ops acc k) := by
  unfold arrayGo
  grind [Canon, canon_raise, canon_parkFor, canon_modSlot, canon_modArr, canon_request, canon_waitFor]

theorem canon_acceptCmd {s : State} {pages : List Nat} {op : ArrOp} (w : Canon s) : Canon (acceptCmd s pages op) := by
  unfold acceptCmd
  grind [Canon, canon_retire, canon_countCmd, canon_modArr]

theorem canon_dropCmd {s : State} {cl : Nat} {c : ArrCmd} (w : Canon s) : Canon (dropCmd s cl c) := w

theorem canon_modAcc {s : State} {cl acc : Nat} {f : Acc → Acc} (w : Canon s) : Canon (modAcc s cl acc f) := w

theorem canon_acswapGo {i : Instr} {acc : Fin 4} {zero : Bool} {s : State} (w : Canon s) :
    Canon (acswapGo i acc zero s) := by
  unfold acswapGo
  grind [Canon, canon_issue, canon_arrayGo, canon_raise, canon_acceptCmd]

theorem canon_withNest {s : State} {ops : List Word} {va : Word} {ok : Nest → Bool} {k : State → Nest → Bool → State}
    (w : Canon s) (hk : ∀ u x y, Canon u → Canon (k u x y)) : Canon (withNest s ops va ok k) := by
  unfold withNest
  grind [Canon, canon_withRecord, canon_raise]

theorem canon_unplace {s : State} {core ctx v : Nat} {f : Table → Table} (w : Canon s) :
    Canon (unplace s core ctx v f) := w

theorem canon_evict {s : State} {core ctx v : Nat} (w : Canon s) : Canon (evict s core ctx v) := by
  unfold evict
  grind [Canon, canon_bumpCl, canon_unplace, canon_dropCopies, canon_putKeyed, canon_markOne]

theorem canon_place {s : State} {core ctx v : Nat} {need : List Nat} (w : Canon s) {t}
    (e : place s core ctx v need = some t) : Canon t := by
  unfold place at e
  grind [Canon, canon_modTab, canon_modArr, canon_evict]

theorem canon_refill {s : State} {core ctx v : Nat} {need : List Nat} (w : Canon s) {t}
    (e : refill s core ctx v need = .ok (some t)) : Canon t := by
  simp only [refill] at e
  split at e
  · cases e
  · obtain ⟨u, hu, rfl⟩ := Option.map_eq_some_iff.1 (Except.ok.inj e)
    exact canon_bumpCl (canon_modTab (canon_place w hu))

theorem canon_residents {core ctx : Nat} {need l : List Nat} {s : State} (w : Canon s) {t}
    (e : residents core ctx need l s = .ok (some t)) : Canon t := by
  induction l generalizing s with
  | nil => exact Option.some.inj (Except.ok.inj e) ▸ w
  | cons v vs ih =>
    simp only [residents] at e
    grind [canon_refill, canon_place]

theorem canon_acrdGo {acc b : Nat} {working : Bool} {dt : ElemType} {f : Fmt} {ops : List Word} {s : State}
    (w : Canon s) :
    Canon (acrdGo acc b working dt f ops s) := by
  unfold acrdGo
  dsimp only
  split
  · exact canon_raise w
  refine canon_earlierDone w fun u hu => canon_withNest hu fun t n p ht => ?_
  split
  · exact canon_raise ht
  split
  · exact canon_raise ht
  split
  · exact canon_parkFor ht
  split
  · exact canon_parkFor ht
  split
  · exact canon_raise ht
  refine canon_consume ht fun t _ ht => canon_recPoison ht fun t ht => ?_
  generalize (if working = true then _ else _ : Bank) = bank
  split
  · exact canon_raise (canon_freeWord ht)
  · exact canon_retire (canon_countCmd (canon_dropCopies (canon_putKeyed
      (canon_foldl (canon_noteWrite (canon_notePsn ht)) fun u a hu => canon_markStale hu))))

/-! ### Functions of `Atomic` -/

theorem canon_announce {s : State} {acc : Option Access} {sc : Scope} (w : Canon s) : Canon (announce s acc sc) := w

theorem canon_scGo {s : State} {va : Nat} {d : Option Nat} {pas : List Nat} {x : Xl} {a : Access} {sc : Scope}
    {p : Bool} {ops : List Word} (w : Canon s) : Canon (scGo s va d pas x a sc p ops) := by
  unfold scGo
  grind [Canon, canon_parkFor, canon_dropLine, canon_tlbFill, canon_noteWrite, canon_announce, canon_dropOuts,
    canon_retire, canon_expect, canon_modSlot]

theorem canon_atomGo {s : State} {va d : Nat} {pas : List Nat} {x : Xl} {a : Access} {p sw : Bool}
    (w : Canon s) : Canon (atomGo s va d pas x a p sw) := by
  unfold atomGo
  grind [Canon, canon_dropLine, canon_tlbFill, canon_noteWrite, canon_dropOuts, canon_perform, canon_accAcquire,
    canon_retire, canon_addResult, canon_notePsn, canon_parkFor, canon_send, canon_expect]

theorem canon_atomic {i : Instr} {op : AtomOp} {sw : Bool} {a b c : Fin 32} {r : Role} {s : State}
    (w : Canon s) : Canon (atomic i op sw a b c r s) := by
  refine canon_issue w fun u hu => ?_
  dsimp only
  split
  · exact canon_parkFor hu
  · split
    · exact canon_raise hu
    · refine canon_consume hu fun t p ht => ?_
      grind [canon_parkFor, canon_raise, canon_consume, canon_scGo, canon_atomGo]

theorem canon_scAccess {i : Instr} {a b : Fin 32} {sc : Scope} {store : Bool} {s : State} (w : Canon s) :
    Canon (scAccess i a b sc store s) := by
  unfold scAccess
  grind [Canon, canon_issue, canon_parkFor, canon_raise, canon_consume, canon_scGo]

/-! ### Functions of `Coherence` -/

theorem canon_performFence {s : State} {o : ScOp} {uid : Nat} (w : Canon s) : Canon (performFence s o uid) := by
  unfold performFence
  grind [Canon, canon_modSlot, canon_fenceAcquire]

theorem canon_performSc {s : State} {o : ScOp} (w : Canon s) : Canon (performSc s o) := by
  unfold performSc
  grind [Canon, canon_arrive, canon_performFence]

theorem canon_closeSc {s : State} {o : ScOp} (w : Canon s) : Canon (closeSc s o) := by
  unfold closeSc
  grind [Canon, canon_modKs, canon_performSc]

theorem filter_wf {m : List Host.Cell} (p : Host.Cell → Bool) (w : Memory.wf m = true) :
    Memory.wf (m.filter p) = true := by
  have key : ∀ lo, memWfFrom lo m = true → memWfFrom lo (m.filter p) = true := by
    induction m with
    | nil => exact fun _ h => h
    | cons e m ih =>
      intro lo h
      obtain ⟨k, b⟩ := e
      have hm : memWfFrom (some k) m = true := by simp only [memWfFrom, Bool.and_eq_true] at h; exact h.2
      rw [List.filter_cons]
      split
      · simp only [memWfFrom, Bool.and_eq_true] at h ⊢
        exact ⟨h.1, ih (memWfFrom_none hm) _ hm⟩
      · refine ih (memWfFrom_none hm) _ ?_
        cases lo with
        | none => exact memWfFrom_none hm
        | some a =>
          simp only [memWfFrom, Bool.and_eq_true, decide_eq_true_eq] at h
          exact memWfFrom_mono (Nat.le_of_lt h.1.1) hm
  exact key none w

theorem canon_zeroBank {s : State} {cl b : Nat} (w : Canon s) : Canon (zeroBank s cl b) := filter_wf _ w

/-! ### Functions of `Control` -/

theorem canon_endScout {s : State} {t : Word} (w : Canon s) : Canon (endScout s t) := by
  unfold endScout
  grind [Canon, canon_modSlot]

theorem canon_jtbGo {s : State} {d a : Fin 32} {x v pc : Word} {bad : Bool} (w : Canon s) :
    Canon (jtbGo s d a x v pc bad) := by
  unfold jtbGo
  grind [Canon, canon_raise, canon_setPoisoned, canon_consume, canon_retireTo, canon_addResult]

theorem canon_jtbEntry {s : State} {d a : Fin 32} {x i hdr : Word} {bad : Bool} (w : Canon s) :
    Canon (jtbEntry s d a x i hdr bad) := by
  unfold jtbEntry
  grind [Canon, canon_raise, canon_jtbGo, canon_parkFor, canon_cacheRead]

/-! ### Functions of `Keystone` -/

theorem canon_regrant {s : State} {tile : Nat} (w : Canon s) : Canon (regrant s tile) := by
  unfold regrant
  grind [Canon, canon_modKs]

theorem canon_abutNote {s : State} {ab input : Nat} {msg : CutMsg} (w : Canon s) : Canon (abutNote s ab input msg) := by
  unfold abutNote
  grind [Canon, canon_cutNote]

theorem canon_unlock {s : State} {num tile : Nat} (w : Canon s) : Canon (unlock s num tile) := by
  unfold unlock
  grind [Canon, canon_regrant, canon_modKs]

theorem canon_noteHeads {s : State} (w : Canon s) : Canon (noteHeads s) := w

theorem canon_enqueue {s : State} {stage uid : Nat} (w : Canon s) : Canon (enqueue s stage uid) := w

theorem canon_maybeReady {s : State} {uid : Nat} (w : Canon s) : Canon (maybeReady s uid) := by
  unfold maybeReady
  grind [Canon, canon_modTxn, canon_enqueue]

theorem canon_poolTry {n : Nat} {s : State} (w : Canon s) : Canon (poolTry n s) := by
  induction n generalizing s with
  | zero => exact w
  | succ n ih =>
    rw [poolTry]
    split
    · exact w
    · dsimp only
      split
      · exact w
      · exact ih (canon_maybeReady (canon_modKs (canon_modTxn w)))

theorem canon_poolAll {s : State} (w : Canon s) : Canon (poolAll s) := by
  unfold poolAll
  grind [Canon, canon_poolTry]

theorem canon_grantTo {s : State} {t : Txn} {tile : Nat} (w : Canon s) : Canon (grantTo s t tile) := by
  unfold grantTo
  grind [Canon, canon_modTxn, canon_maybeReady]

theorem canon_numberOne {s : State} {e : BatchEnt} {n : Nat} (w : Canon s) : Canon (numberOne s e n) := by
  unfold numberOne
  grind [Canon, canon_modTxn, canon_modLaunch, canon_jlog]

theorem canon_numberBatch {s : State} {b : List BatchEnt} {batch pos : Nat} (w : Canon s) :
    Canon (numberBatch s b batch pos).1 := by
  unfold numberBatch
  grind [Canon, canon_numberOne, canon_foldl, canon_foldl_fst]

theorem canon_pushChan {s : State} {ab : Nat} {e : ChanEnt} (w : Canon s) : Canon (pushChan s ab e) := w

theorem canon_pushAll {s : State} {e : ChanEnt} (w : Canon s) : Canon (pushAll s e) := by
  unfold pushAll
  grind [Canon, canon_pushChan, canon_foldl, canon_foldl_fst]

theorem canon_cutNumber {s : State} {n : Nat} (w : Canon s) : Canon (cutNumber s n) := w

theorem canon_feedOne {s : State} {mine : Bool} {e : ManifestEntry} {n : Nat} (w : Canon s) :
    Canon (feedOne s mine e n) := by
  unfold feedOne
  grind [Canon, canon_pushAll, canon_cutNumber, canon_pushChan, canon_maybeReady, canon_modTxn, canon_foldl,
    canon_foldl_fst]

theorem canon_feed {s : State} {pos batch : Nat} {mine : Bool} {es : List ManifestEntry} (w : Canon s) :
    Canon (feed s pos batch mine es) := by
  unfold feed
  grind [Canon, canon_feedOne, canon_poolAll, canon_pushAll, canon_foldl, canon_foldl_fst]

theorem canon_closeBatch {s : State} (w : Canon s) : Canon (closeBatch s) := by
  unfold closeBatch
  grind [Canon, canon_modKs, canon_numberBatch, canon_feed]

theorem canon_placeEnts {s : State} {es : List BatchEnt} (w : Canon s) : Canon (placeEnts s es) := by
  unfold placeEnts
  grind [Canon, canon_closeBatch, canon_modKs]

theorem canon_placeVoids {n : Nat} {s : State} (w : Canon s) : Canon (placeVoids n s) := by
  induction n generalizing s with
  | zero => exact w
  | succ n ih =>
    unfold placeVoids
    grind [Canon, canon_placeEnts, canon_modTxn, canon_foldl, canon_foldl_fst]

theorem canon_closeAgain {s : State} (w : Canon s) : Canon (closeAgain s) := by
  unfold closeAgain
  grind [Canon, canon_closeBatch, canon_placeVoids]

theorem canon_acceptSub {s : State} {w0 : Word} {l : List Txn} (w : Canon s) : Canon (acceptSub s w0 l) := by
  unfold acceptSub
  grind [Canon, canon_modKs, canon_placeEnts]

theorem canon_submit {s : State} {u : Submitter} {aligned : Bool} {desc : Nat → Option (List Word)} {limit : Nat}
    (w : Canon s) : Canon (submit s u aligned desc limit).1 := by
  unfold submit
  grind [Canon, canon_cutNote, canon_acceptSub]

theorem canon_copyPush {s : State} {cl off stride : Nat} {d : List (Byte × Bool)} (w : Canon s) :
    Canon (copyPush s cl off stride d).1 := by
  have marked : ∀ u : State, Canon u → ∀ l, Canon { u with poison := l } := fun _ hu _ => hu
  obtain ⟨f, hf⟩ : ∃ f, f = copyPush := ⟨_, rfl⟩
  rw [← hf]
  delta copyPush at hf
  rw [hf]
  beta_reduce
  split
  · exact w
  · exact marked _ (canon_putBytes w) _

theorem canon_freePool {s : State} {t : Txn} (w : Canon s) : Canon (freePool s t) := by
  unfold freePool
  grind [Canon, canon_modKs, canon_modTxn]

theorem canon_sendTo {s : State} {uid c : Nat} (w : Canon s) : Canon (sendTo s uid c) := by
  unfold sendTo
  grind [Canon, canon_jlog, canon_freePool, canon_addAcc, canon_dropTxn, canon_releaseTxn, canon_copyPush,
    canon_modTxn, canon_cutNote, canon_modCore]

theorem canon_dequeue {s : State} {stage uid : Nat} (w : Canon s) : Canon (dequeue s stage uid) := w

/-! ### Functions of `System` -/

theorem canon_prefixDone {s : State} {f : Word → Word} (w : Canon s) : Canon (prefixDone s f) := w

theorem canon_returnTo {s : State} {h wp : Nat} {sw : Bool} (w : Canon s) : Canon (returnTo s h wp sw) := w

theorem canon_writeC {s : State} {h : Nat} {r : CReg} {v : Word} (w : Canon s) : Canon (writeC s h r v) := by
  unfold writeC
  grind [Canon, canon_modHsw, canon_modSlot, canon_modCore, canon_ksStore]

theorem canon_tlbDrop {s : State} {asid va : Option Nat} (w : Canon s) : Canon (tlbDrop s asid va) := w

theorem canon_invalidate {s : State} {asid va : Option Nat} (w : Canon s) : Canon (invalidate s asid va) := w

theorem canon_tlbMaint {s : State} {n : Nat} {ops : List Word} {asid va : Option Nat} (w : Canon s) :
    Canon (tlbMaint s n ops asid va) := by
  unfold tlbMaint
  grind [Canon, canon_retire, canon_parkFor, canon_invalidate]

/-! ### Functions of `Transaction` -/

theorem canon_leaveScout {s : State} {h : Nat} (w : Canon s) : Canon (leaveScout s h) := w

theorem canon_withWord {s : State} {ops : List Word} {va at1 : Nat} {k : State → Word → Bool → State} (w : Canon s)
    (hk : ∀ u x y, Canon u → Canon (k u x y)) : Canon (withWord s ops va at1 k) := by
  unfold withWord
  grind [Canon, canon_parkFor, canon_raise, canon_afterUnit, canon_readRuns]

theorem canon_wordPoison {s : State} {va : Nat} {psn : Bool} {k : State → State} (w : Canon s)
    (hk : ∀ u, Canon u → Canon (k u)) : Canon (wordPoison s va psn k) := by
  unfold wordPoison
  grind [Canon, canon_raise, canon_setPoisoned]

theorem canon_readEntries {s : State} {va n : Nat} (w : Canon s) : Canon (readEntries s va n).1 := by
  induction n generalizing s va with
  | zero => exact w
  | succ n ih =>
    unfold readEntries
    grind [Canon, canon_afterUnit, canon_readRuns, canon_foldl, canon_foldl_fst]

theorem canon_voidTxn {s : State} {t : Txn} {es : List (Word × Word)} (w : Canon s) : Canon (voidTxn s t es) := by
  rw [voidTxn_eq]
  exact canon_toLoop (canon_placeVoids (canon_modKs (canon_addAcc (canon_sendReleases w))))

theorem canon_markPark {s : State} {h : Nat} {sw : Bool} (w : Canon s) : Canon (markPark s h sw) := by
  unfold markPark
  grind [Canon, canon_modSlot]

/-! ### Functions of `Stages` -/

theorem canon_saveArray {s : State} {c : Nat} (w : Canon s) : Canon (saveArray s c) := by
  unfold saveArray
  grind [Canon, canon_modCluster, canon_modKs, canon_modCore]

theorem canon_markMoves {s : State} {cs : List Nat} {st : Nat} (w : Canon s) : Canon (markMoves s cs st) := by
  unfold markMoves
  grind [Canon, canon_modCore, canon_foldl, canon_foldl_fst]

theorem canon_returnRecords {s : State} {c : Nat} (w : Canon s) : Canon (returnRecords s c) := by
  unfold returnRecords
  grind [Canon, canon_modCore, canon_noteHeads, canon_modGang, canon_modTxn, canon_modKs, canon_foldl, canon_foldl_fst]

theorem canon_switchCores {s : State} {flo fhi tlo thi n : Nat} (w : Canon s) :
    Canon (switchCores s flo fhi tlo thi n) := by
  unfold switchCores
  grind [Canon, canon_modKs, canon_saveArray, canon_returnRecords, canon_modCore, canon_foldl, canon_foldl_fst]

theorem canon_setRerun {s : State} {cl : Nat} {ls : List Nat} (w : Canon s) : Canon (setRerun s cl ls) := w

theorem canon_abandonJobs {s : State} {h : Nat} (w : Canon s) : Canon (abandonJobs s h) := by
  unfold abandonJobs
  grind [Canon, canon_modCluster, canon_bumpCl, canon_serveLine, canon_setRerun, canon_modSlot, canon_foldl,
    canon_foldl_fst]

theorem canon_stopJobs {s : State} {h : Nat} (w : Canon s) : Canon (stopJobs s h) := by
  unfold stopJobs
  grind [Canon, canon_stopShare, canon_foldl, canon_foldl_fst]

theorem canon_cutHart {s : State} {h : Nat} (w : Canon s) : Canon (cutHart s h) := by
  unfold cutHart
  grind [Canon, canon_withdraw, canon_writeWs, canon_uninstall, canon_saveArray, canon_modSlot, canon_abandonJobs,
    canon_stopJobs]

theorem canon_tryCut {s : State} {h : Nat} (w : Canon s) : Canon (tryCut s h) := by
  unfold tryCut
  grind [Canon, canon_cutHart, canon_stopJobs]

theorem canon_tryPoke {s : State} {asid va : Nat} {ws : List Word} (w : Canon s) {t}
    (e : tryPoke s asid va ws = some t) : Canon t := by
  unfold tryPoke at e
  grind [Canon, canon_putBytes]

theorem canon_pokeWords {s : State} {asid va : Nat} {ws : List Word} (w : Canon s) :
    Canon (pokeWords s asid va ws) := by
  unfold pokeWords
  cases e : tryPoke s asid va ws with
  | none => exact w
  | some t => exact canon_tryPoke w e

theorem canon_resumeArray {s : State} {c : Nat} {v : Saved} (w : Canon s) {t}
    (e : resumeArray s c v = some t) : Canon t := by
  unfold resumeArray at e
  grind [Canon, canon_modCore]

theorem canon_retagFrame {s : State} {old new frame : Nat} (w : Canon s) : Canon (retagFrame s old new frame) := w

theorem canon_copyScratch {s : State} {c0 c lo n : Nat} (w : Canon s) : Canon (copyScratch s c0 c lo n) := by
  unfold copyScratch
  grind [Canon, canon_putBytes]

theorem canon_moveFrame {s : State} {c0 c wp gran tag : Nat} (w : Canon s) : Canon (moveFrame s c0 c wp gran tag) := by
  obtain ⟨f, hf⟩ : ∃ f, f = moveFrame := ⟨_, rfl⟩
  rw [← hf]
  delta moveFrame at hf
  rw [hf]
  beta_reduce
  split
  · exact w
  · dsimp only
    generalize rd64 s (scratchPa s c0 (wp + 8 * 62)) = w
    refine canon_modCore (canon_modCore ?_)
    split
    · exact canon_copyScratch (canon_copyScratch ‹_›)
    · exact canon_copyScratch ‹_›

theorem canon_endSaved {s : State} {v : Saved} {wp : Nat} {pc hsw : Word} (w : Canon s) :
    Canon (endSaved s v wp pc hsw) := by
  unfold endSaved
  grind [Canon, canon_modKs, canon_jlog, canon_dropRefused, canon_releaseTxn, canon_addAcc, canon_dropTxn]

theorem canon_install {s : State} {v : Saved} {h : Nat} (w : Canon s) : Canon (install s v h) := by
  unfold install
  grind [Canon, canon_endSaved, canon_resumeArray, canon_moveFrame, canon_retagFrame, canon_modSlot, canon_setRerun,
    canon_modKs, canon_addAcc, canon_modTxn]

theorem canon_placeMember {s : State} {u c : Nat} (w : Canon s) : Canon (placeMember s u c) := by
  unfold placeMember
  grind [Canon, canon_sendTo, canon_install, canon_modTxn]

theorem canon_returnGangs {s : State} (w : Canon s) : Canon (returnGangs s) := by
  unfold returnGangs
  grind [Canon, canon_modCore, canon_modGang, canon_modTxn, canon_foldl, canon_foldl_fst]

/-! ### Functions of `Trestle` -/

theorem canon_cpSend {s : State} {m : CpMsg} (w : Canon s) : Canon (cpSend s m) := w

theorem canon_wakeHart {s : State} {h : Nat} {v : Word} (w : Canon s) : Canon (wakeHart s h v) := w

theorem canon_cfgErr {s : State} (w : Canon s) : Canon (cfgErr s) := w

theorem canon_cpRefuse {s : State} (w : Canon s) : Canon (cpRefuse s) := w

theorem canon_modCq {s : State} {q : Nat} {f : CmdQueue → CmdQueue} (w : Canon s) : Canon (modCq s q f) := w

theorem canon_boundary {s : State} {q : Nat} (w : Canon s) : Canon (boundary s q) := w

theorem canon_makeRunnable {s : State} {q : Nat} (w : Canon s) : Canon (makeRunnable s q) := w

theorem canon_unmapQueue {s : State} {q : Nat} (w : Canon s) : Canon (unmapQueue s q) := by
  unfold unmapQueue
  grind [Canon, canon_boundary, canon_modCq, canon_makeRunnable]

theorem canon_mapOldest {s : State} {t : Nat} (w : Canon s) : Canon (mapOldest s t) := by
  unfold mapOldest
  grind [Canon, canon_modCq, canon_modTr]

theorem canon_mapQueues {n : Nat} {s : State} (w : Canon s) : Canon (mapQueues n s) := by
  induction n generalizing s with
  | zero => exact w
  | succ n ih =>
    unfold mapQueues
    grind [Canon, canon_mapOldest, canon_unmapQueue, canon_foldl, canon_foldl_fst]

theorem canon_remap {s : State} (w : Canon s) : Canon (remap s) := by
  unfold remap
  grind [Canon, canon_mapQueues]

theorem canon_setLatch {s : State} {q : Nat} (w : Canon s) : Canon (setLatch s q) := by
  unfold setLatch
  grind [Canon, canon_modCq, canon_remap, canon_makeRunnable]

theorem canon_queueFault {s : State} {q code : Nat} (w : Canon s) : Canon (queueFault s q code) := by
  unfold queueFault
  grind [Canon, canon_modCq, canon_remap, canon_jlog, canon_boundary]

theorem canon_popBufs {n : Nat} {s : State} {n1 : Nat} (w : Canon s) : Canon (popBufs n s n1) := by
  induction n generalizing s with
  | zero => exact w
  | succ n ih =>
    unfold popBufs
    grind [Canon, canon_modCq, canon_cpSend, canon_foldl, canon_foldl_fst]

theorem canon_packetDone {s : State} {q flags whr : Nat} (w : Canon s) : Canon (packetDone s q flags whr) := by
  unfold packetDone
  grind [Canon, canon_cpSend, canon_popBufs, canon_modCq, canon_remap, canon_boundary]

theorem canon_beginParse {s : State} {q : Nat} (w : Canon s) : Canon (beginParse s q) := w

theorem canon_takePacket {s : State} {q typ whr : Nat} {p : List (BitVec 32)} (w : Canon s) :
    Canon (takePacket s q typ whr p) := by
  unfold takePacket
  grind [Canon, canon_modCq, canon_jlog]

theorem canon_block {s : State} {q typ f w : Nat} {p : List (BitVec 32)} {begun : Bool} (hs : Canon s) :
    Canon (block s q typ f w p begun) := hs

theorem canon_tryPacket {s : State} {q typ f w : Nat} {p : List (BitVec 32)}
    {ready : State → CmdQueue → List (BitVec 32) → Ready} {k : State → Nat → Nat → List (BitVec 32) → State}
    (hs : Canon s) (hk : ∀ u x y z, Canon u → Canon (k u x y z)) : Canon (tryPacket s q typ f w p ready k) := by
  unfold tryPacket
  grind [Canon, canon_takePacket, canon_block, canon_queueFault]

theorem canon_packet {s : State} {q typ : Nat} {ready : State → CmdQueue → List (BitVec 32) → Ready}
    {k : State → Nat → Nat → List (BitVec 32) → State} (w : Canon s) (hk : ∀ u x y z, Canon u → Canon (k u x y z)) :
    Canon (packet s q typ ready k) := by
  have b : Canon (beginParse s q) := canon_beginParse w
  have fault : ∀ {u code}, Canon u → Canon (queueFault u q code) := canon_queueFault
  simp only [packet]
  split
  · exact w
  split
  · split
    · exact canon_tryPacket w hk
    · exact w
  split
  · exact w
  split
  · exact fault b
  split
  · exact fault b
  split
  · exact w
  split
  · exact fault b
  split
  · split
    · exact canon_modCq b
    · exact fault b
  split
  · exact fault b
  split
  · exact fault b
  split
  · exact b
  · exact canon_tryPacket b hk

theorem canon_simplePacket {s : State} {q typ : Nat} {k : State → List (BitVec 32) → State} (w : Canon s)
    (hk : ∀ u x, Canon u → Canon (k u x)) {t} (e : simplePacket s q typ k = .next t) : Canon t := by
  unfold simplePacket at e
  grind [Canon, canon_packet, canon_packetDone]

theorem canon_payOwed {s : State} {q typ : Nat} (w : Canon s) {t} (e : payOwed s q typ = some t) : Canon t := by
  unfold payOwed at e
  grind [Canon, canon_modTr]

theorem canon_lastingPacket {s : State} {q typ : Nat} {k : State → List (BitVec 32) → State × Option Nat × List Nat}
    (w : Canon s) (hk : ∀ u x, Canon u → Canon (k u x).1) {t} (e : lastingPacket s q typ k = .next t) : Canon t := by
  unfold lastingPacket at e
  grind [Canon, canon_payOwed, canon_packet, canon_packetDone, canon_modTr]

/-- A WRITE whose address does not translate changes nothing. The function has a name here, lest the kernel evaluate it. -/
theorem writePacket_error {s : State} {q : Nat} {p : List (BitVec 32)} {t : Trap}
    (hx : xlBytes s ⟨0, cqAsid (getCq s q), true⟩ (long p 1) 8 .write = .error t) : writePacket s q p = (s, none) := by
  obtain ⟨f, hf⟩ : ∃ f, f = writePacket := ⟨_, rfl⟩
  rw [← hf]
  delta writePacket at hf
  rw [hf]
  beta_reduce
  rw [hx]

theorem canon_writePacket {s : State} {q : Nat} {p : List (BitVec 32)} (w : Canon s) : Canon (writePacket s q p).1 := by
  cases hx : xlBytes s ⟨0, cqAsid (getCq s q), true⟩ (long p 1) 8 .write with
  | error t =>
    rw [writePacket_error hx]
    exact w
  | ok r =>
    have sent : ∀ {u : State} (n l), Canon u → Canon { u with uid := n, flight := l } := fun _ _ hu => hu
    have either : ∀ {c : Prop} [Decidable c] {a b : State} {x y : Option Nat}, Canon a → Canon b →
        Canon (if c then (a, x) else (b, y)).1 := by
      intro c _ a b x y ha hb
      split
      · exact ha
      · exact hb
    rw [writePacket_eq hx]
    exact either (canon_retryScan (canon_setFull (canon_putBytes w))) (canon_arrive (sent _ _ w))

theorem canon_submitAll {n : Nat} {s : State} {n1 : Nat} (w : Canon s) : Canon (submitAll n s n1) := by
  induction n generalizing s with
  | zero => exact w
  | succ n ih =>
    unfold submitAll
    grind [Canon, canon_modLaunch, canon_submit, canon_jlog, canon_foldl, canon_foldl_fst]

theorem canon_startLaunch {s : State} {l : Launch} (w : Canon s) : Canon (startLaunch s l).1 := by
  unfold startLaunch
  grind [Canon, canon_jlog, canon_submitAll, canon_modKs]

theorem canon_launchGo {s : State} {q f w : Nat} {p : List (BitVec 32)} (hs : Canon s) :
    Canon (launchGo s q f w p) := by
  unfold launchGo
  grind [Canon, canon_block, canon_packetDone]

theorem canon_completeLaunch {s : State} {l : Launch} {w : Word} (hs : Canon s) : Canon (completeLaunch s l w) := by
  unfold completeLaunch
  grind [Canon, canon_pokeWords, canon_jlog, canon_cpSend, canon_modKs]

theorem canon_setGstat {s : State} {slot st : Nat} (w : Canon s) : Canon (setGstat s slot st) := by
  unfold setGstat
  grind [Canon, canon_modTr]

theorem canon_graphIdle {s : State} (w : Canon s) : Canon (graphIdle s) := w

theorem canon_graphWrite {s : State} {v : Word} (w : Canon s) : Canon (graphWrite s v) := by
  unfold graphWrite
  grind [Canon, canon_jlog, canon_setGstat, canon_cfgErr, canon_modTr, canon_graphIdle, canon_startLaunch]

theorem canon_served {s : State} {k : State → State} (w : Canon s) (hk : ∀ u, Canon u → Canon (k u)) {t}
    (e : served s k = .next t) : Canon t := by
  unfold served at e
  grind [Canon]

theorem canon_clearTr {s : State} {off : Nat} (w : Canon s) : Canon (clearTr s off) := by
  unfold clearTr
  grind [Canon, canon_setTrReg]

theorem canon_qwptr {s : State} {q : Nat} {v : Word} (w : Canon s) : Canon (qwptr s q v) := by
  unfold qwptr
  grind [Canon, canon_cfgErr, canon_setLatch, canon_modCq]

theorem canon_qcfg {s : State} {q : Nat} {v : Word} (w : Canon s) : Canon (qcfg s q v) := by
  unfold qcfg
  grind [Canon, canon_cfgErr, canon_remap, canon_modCq]

theorem canon_qfault {s : State} {q : Nat} {skip : Bool} (w : Canon s) : Canon (qfault s q skip) := by
  unfold qfault
  grind [Canon, canon_modCq, canon_remap, canon_makeRunnable, canon_popBufs]

theorem canon_cqWrite {s : State} {q off : Nat} {v : Word} (w : Canon s) : Canon (cqWrite s q off v) := by
  unfold cqWrite
  grind [Canon, canon_cfgErr, canon_modCq, canon_qcfg, canon_qwptr, canon_setLatch, canon_qfault]

theorem canon_monWrite {s : State} {cp : Bool} {v : Word} (w : Canon s) : Canon (monWrite s cp v) := by
  unfold monWrite
  grind [Canon, canon_cpRefuse, canon_cfgErr, canon_modSlot, canon_setPending]

theorem canon_wakeWrite {s : State} {v : Word} (w : Canon s) : Canon (wakeWrite s v) := by
  unfold wakeWrite
  grind [Canon, canon_cfgErr, canon_wakeHart]

theorem canon_tlbinv {s : State} {cp : Bool} {asid va : Option Nat} (w : Canon s) : Canon (tlbinv s cp asid va) := by
  unfold tlbinv
  grind [Canon, canon_cpRefuse, canon_invalidate, canon_modTr]

theorem canon_keyCommand {s : State} {cp load : Bool} {slot : Nat} (w : Canon s) :
    Canon (keyCommand s cp load slot) := by
  unfold keyCommand
  grind [Canon, canon_cpRefuse, canon_cfgErr, canon_modTr]

theorem canon_enterImage {s : State} (w : Canon s) : Canon (enterImage s) := by
  unfold enterImage
  grind [Canon, canon_putBytes, canon_modTr]

theorem canon_endTrial {s : State} {ok : Bool} {entry : State → State} (w : Canon s)
    (hentry : ∀ u, Canon u → Canon (entry u)) : Canon (endTrial s ok entry) := by
  unfold endTrial
  grind [Canon, canon_modTr, canon_enterImage, canon_jwrite, canon_completeLaunch, canon_remap, canon_foldl,
    canon_foldl_fst]

theorem canon_fwhbWrite {s : State} {cp ok : Bool} (w : Canon s) : Canon (fwhbWrite s cp ok) := by
  unfold fwhbWrite
  grind [Canon, canon_cpRefuse, canon_endTrial, canon_jlog]

theorem canon_trWrite {s : State} {cp : Bool} {off : Nat} {v : Word} (w : Canon s) : Canon (trWrite s cp off v) := by
  unfold trWrite
  grind [Canon, canon_clearTr, canon_cqWrite, canon_cpRefuse, canon_setTrReg, canon_cfgErr, canon_graphWrite,
    canon_monWrite, canon_wakeWrite, canon_tlbinv, canon_keyCommand, canon_fwhbWrite]

theorem canon_regWrite {s : State} {cp : Bool} {sp : RegSpace} {off : Nat} {v : Word} (w : Canon s) :
    Canon (regWrite s cp sp off v) := by
  unfold regWrite
  grind [Canon, canon_clWrite, canon_ksStore, canon_trWrite]

/-! ### Functions of `Fabric` -/

theorem canon_modGroup {s : State} {f : Group → Group} (w : Canon s) : Canon (modGroup s f) := w

theorem canon_holdBatch {s : State} (w : Canon s) : Canon (holdBatch s).2 := by
  unfold holdBatch
  grind [Canon, canon_modKs]

theorem canon_countThrottle {s : State} (w : Canon s) : Canon (countThrottle s) := by
  unfold countThrottle
  grind [Canon, canon_modFab, canon_modTr]

theorem canon_setDuty {s : State} {f : Fabric → Fabric} (w : Canon s) : Canon (setDuty s f) := by
  unfold setDuty
  grind [Canon, canon_modFab, canon_countThrottle]

/-! ### Functions of `Vector` -/

theorem canon_wordNow {s t : State} {x : Xl} {v : VWord} {bs : List Byte} {ps : List Bool} (w : Canon s)
    (e : wordNow s x v = some (bs, ps, t)) : Canon t := by
  unfold wordNow at e
  grind [canon_cacheRead]

theorem canon_wordGet {s : State} {x : Xl} {grp : Nat} {w : VWord} (hs : Canon s) : Canon (wordGet s x grp w).2 := by
  unfold wordGet
  split
  next e => exact canon_wordNow hs e
  next => exact canon_send hs

theorem canon_vecRead {x : Xl} {grp : Nat} {l : List VWord} {s : State} (w : Canon s) :
    Canon (vecRead x grp l s).2 := by
  induction l generalizing s with
  | nil => exact w
  | cons a l ih =>
    unfold vecRead
    grind [Canon, canon_wordGet, canon_foldl, canon_foldl_fst]

theorem canon_vecOwn {s : State} {uid : Nat} {cells : List VCell} {r : VRes} (w : Canon s) :
    Canon (vecOwn s uid cells r) := by
  unfold vecOwn
  grind [Canon, canon_modSlot, canon_dropOuts]

theorem canon_vecWord {cache : Bool} {dest : AccDest} {uid : Nat} {all : List VCell} {r : VRes}
    {s : State × List (Nat × List Nat)} {g : List VCell} (hs : Canon (s).1) :
    Canon (vecWord cache dest uid all r s g).1 := hs

theorem canon_vecPost {cache : Bool} {uid : Nat} {all : List VCell} {r : VRes} {s : State × List (Nat × List Nat)}
    {cells : List VCell} (hs : Canon (s).1) : Canon (vecPost cache uid all r s cells).1 := by
  unfold vecPost
  grind [Canon, canon_takeEntries, canon_vecWord, canon_foldl, canon_foldl_fst]

theorem canon_vecFar {s : State} {own cache : Bool} {uid : Nat} {cells : List VCell} {r : VRes} (w : Canon s) :
    Canon (vecFar s own cache uid cells r).1 := by
  unfold vecFar
  grind [Canon, canon_dropOuts, canon_vecWord, canon_vecPost, canon_foldl, canon_foldl_fst]

theorem canon_repFlush {s : State} {pas : List Nat} (w : Canon s) : Canon (repFlush s pas) := by
  unfold repFlush
  grind [Canon, canon_putBytes, canon_notePsn, canon_modSlot, canon_foldl, canon_foldl_fst]

theorem canon_vecRetire {s : State} {sw : Bool} (w : Canon s) : Canon (vecRetire s sw) := by
  unfold vecRetire
  grind [Canon, canon_modSlot, canon_retire, canon_modHsw]

theorem canon_vecStep {s : State} {ops : List VOp} (w : Canon s) : Canon (vecStep s ops) := by
  unfold vecStep
  grind [Canon, canon_writeReg, canon_foldl, canon_foldl_fst]

theorem canon_vecReads {grp : Nat} {l : List (VOp × Nat × List Nat × Xl)} {s : State} (w : Canon s) :
    Canon (vecReads grp l s).2 := by
  induction l generalizing s with
  | nil => exact w
  | cons a l ih =>
    unfold vecReads
    grind [Canon, canon_vecRead, canon_foldl, canon_foldl_fst]

theorem canon_vecGo {i : Instr} {s : State} {sw : Bool} {d : VOp} {dva : ℕ} {dp : List ℕ × Xl}
    {srcs : List (VOp × ℕ × List ℕ × Xl)} {f : VFun} (w : Canon s) : Canon (vecGo i s sw d dva dp srcs f) := by
  have made : ∀ {t : State} (n), Canon t → Canon { t with uid := n } := fun _ ht => ht
  rw [vecGo]
  dsimp only
  generalize hu : repFlush s (srcs.flatMap fun x => x.2.2.1) = u
  replace hu : Canon u := hu ▸ canon_repFlush w
  split
  · exact canon_parkFor hu
  split
  · exact canon_parkFor hu
  split
  · exact canon_raise hu
  split
  · exact canon_raise (canon_setPoisoned hu)
  split
  · exact canon_parkFor hu
  split
  · exact canon_raise hu
  have hq : ∀ {p pas}, Canon
    (noteWrite (notePsn (vecReads u.uid srcs { u with uid := u.uid + 1 }).2 s.cur p) s.cur pas) :=
    canon_noteWrite (canon_notePsn (canon_vecReads (made _ hu)))
  refine canon_vecRetire (canon_vecStep ?_)
  grind [canon_vecOwn, canon_vecFar, canon_modSlot]

theorem canon_vecExec {i : Instr} {s : State} {sw : Bool} {d : VOp} {srcs : List VOp} {f : VFun} (w : Canon s) :
    Canon (vecExec i s sw d srcs f) := by
  unfold vecExec
  grind [Canon, canon_repFlush, canon_parkFor, canon_raise, canon_vecGo]

theorem canon_vec {i : Instr} {sw : Bool} {v : VShape} {s : State} (w : Canon s) : Canon (vec i sw v s) := by
  unfold vec
  grind [Canon, canon_issue, canon_raise, canon_vecExec]

theorem canon_vecMake {s : State} {h : Nat} {p : VPend} {r : List Byte × List Bool} (w : Canon s) :
    Canon (vecMake s h p r) := by
  unfold vecMake
  grind [Canon, canon_modSlot, canon_notePsn]

/-! ### Functions of `Fetch` -/

theorem canon_cachedFetch {s : State} {core key : Nat} {pas : List Nat} (w : Canon s) :
    Canon (cachedFetch s core key pas).2 := by
  unfold cachedFetch
  grind [Canon, canon_modCore, canon_modCluster]

theorem canon_fetchWord {s : State} {h : Nat} (w : Canon s) {t} (e : fetchWord s h = .ok t) : Canon t.2 := by
  unfold fetchWord at e
  grind [Canon, canon_tlbFill, canon_cachedFetch]

theorem canon_nextInstr {s : State} {h : Nat} (w : Canon s) : Canon (nextInstr s h).2 := by
  unfold nextInstr
  split
  · exact w
  next e => split <;> exact canon_fetchWord w e

theorem canon_giveIssue {s : State} {h : Nat} (w : Canon s) : Canon (giveIssue s h) := by
  unfold giveIssue
  grind [Canon, canon_modCore, canon_modSlot]

theorem canon_hartStep {s : State} {h : Nat} (w : Canon s) : Canon (hartStep s h).2 := by
  unfold hartStep
  grind [Canon, canon_nextInstr]

theorem canon_tick {s : State} (w : Canon s) : Canon (tick s) := by
  unfold tick
  grind [Canon, canon_softError]

theorem canon_takeInterrupt {s : State} {h : Nat} (w : Canon s) : Canon (takeInterrupt s h) := by
  unfold takeInterrupt
  grind [Canon, canon_withdraw, canon_modHsw, canon_takeTrap]

/-! ### Functions of `Firmware` -/

theorem canon_bootSlot {s : State} {n : Nat} (w : Canon s) : Canon (bootSlot s n) := by
  unfold bootSlot
  grind [Canon, canon_remap, canon_enterImage, canon_modTr]

theorem canon_writeRecord {s : State} {version : Nat} (w : Canon s) : Canon (writeRecord s version) := by
  unfold writeRecord
  grind [Canon, canon_putBytes]

theorem canon_quiesce {s : State} (w : Canon s) : Canon (quiesce s) := w

theorem canon_spdm {s : State} {code : Nat} {msg : List Byte} {ok : SpdmSt → Bool} {ans : SpdmAnswer}
    {f : Trestle → Trestle} (w : Canon s) : Canon (spdm s code msg ok ans f) := by
  unfold spdm
  grind [Canon, canon_modTr, canon_cpSend]

theorem canon_spdmQuery {s : State} {code : Nat} {msg : List Byte} {ans : SpdmAnswer} (w : Canon s) :
    Canon (spdmQuery s code msg ans) := by
  unfold spdmQuery
  grind [Canon, canon_spdm]

theorem canon_flashWrite {s : State} {o : Nat} {bs : List Byte} (w : Canon s) : Canon (flashWrite s o bs) := by
  unfold flashWrite
  grind [Canon, canon_modTr]

/-! ### Functions of `Mask` -/

theorem canon_modMask {s : State} {cl c : Nat} {f : MaskCtx → MaskCtx} (w : Canon s) : Canon (modMask s cl c f) := w

theorem canon_maskGo {i : Instr} {ops : List Nat} {s : State} {k : State → List Word → State} (w : Canon s)
    (hk : ∀ u x, Canon u → Canon (k u x)) : Canon (maskGo i ops s k) := by
  unfold maskGo
  grind [Canon, canon_issue, canon_parkFor]

theorem canon_withBytes {s : State} {ops : List Word} {va n al : Nat} {k : State → List Byte → Bool → State}
    (w : Canon s) (hk : ∀ u x y, Canon u → Canon (k u x y)) : Canon (withBytes s ops va n al k) := by
  unfold withBytes
  grind [Canon, canon_raise, canon_parkFor, canon_afterUnit, canon_readRuns]

theorem canon_eatPoison {s : State} {rs : List (Nat × Nat × Bool)} {k : State → State} (w : Canon s)
    (hk : ∀ u, Canon u → Canon (k u)) : Canon (eatPoison s rs k) := by
  unfold eatPoison
  grind [Canon, canon_raise, canon_setPoisoned]

theorem canon_whenRoom {s : State} {l : List (Nat × Xl)} {va n : Nat} {ops : List Word} {k : State → State}
    (w : Canon s) (hk : ∀ u, Canon u → Canon (k u)) : Canon (whenRoom s l va n ops k) := by
  unfold whenRoom
  grind [Canon, canon_parkFor]

theorem canon_writeOut {s : State} {l : List (Nat × Xl)} {va : Nat} {bs : List Byte} {psn : Bool}
    (w : Canon s) : Canon (writeOut s l va bs psn).1 := by
  unfold writeOut
  grind [Canon, canon_dropCopies, canon_writeRuns]

theorem canon_reportAt {s : State} {h sub : Nat} {bad : Option Nat} (w : Canon s) : Canon (reportAt s h sub bad) := by
  unfold reportAt
  grind [Canon, canon_addLate]

theorem canon_reportRefused {s : State} {h : Nat} {bad : Option Nat} (w : Canon s) : Canon (reportRefused s h bad) := by
  unfold reportRefused
  grind [Canon, canon_reportAt]

theorem canon_kvFill {s : State} {a : Access} {v : Nat} {psn : Bool} (w : Canon s) : Canon (kvFill s a v psn).1 := by
  unfold kvFill
  grind [Canon, canon_noteWrite, canon_dropCopies, canon_retryScan, canon_setFull, canon_putBytes]

theorem canon_kvMove {l : List (Nat × Xl)} {n : Nat} {s : State} {n1 n2 n3 : Nat} {v : Option (Nat × Nat)}
    (w : Canon s) {t} (e : kvMove l n s n1 n2 n3 v = some t) : Canon t.1 := by
  induction n generalizing s n1 n2 n3 v with
  | zero => exact Option.some.inj e ▸ w
  | succ n ih =>
    unfold kvMove at e
    grind [canon_readRuns, canon_writeOut]

theorem canon_kvEntry {planes : List (Nat × List (Nat × Xl))} {len esz i n : Nat} {s : State}
    {bad : Option (Nat × Nat)} (w : Canon s) {t} (e : kvEntry planes len esz i n s bad = some t) : Canon t.1 := by
  refine foldl_keeps (P := fun q : Option (State × Option (Nat × Nat)) => ∀ t, q = some t → Canon t.1) _ planes _
    (fun t e => Option.some.inj e ▸ w) (fun q p _ hq t e => ?_) t e
  obtain ⟨u, hu, e⟩ := Option.bind_eq_some_iff.1 e
  exact canon_kvMove (hq u hu) e

theorem canon_kvEntries {planes : List (Nat × List (Nat × Xl))} {len esz : Nat} {l : List Bool} {n n1 : Nat}
    {s : State} {v : Option (Nat × Nat)} (w : Canon s) {t}
    (e : kvEntries planes len esz l n n1 s v = some t) : Canon t.1 := by
  induction l generalizing s n n1 v with
  | nil => exact Option.some.inj e ▸ w
  | cons a l ih =>
    unfold kvEntries at e
    split at e
    · exact ih w e
    · split at e
      · exact ih w e
      · split at e
        · cases e
        next h => exact ih (canon_kvEntry w h) e

/-! ### Functions of `Memory` -/

theorem canon_indexedLoad {i : Instr} {sw : Bool} {d a b : Fin 32} {m : SyncMode} {n : Nat} {signed : Bool}
    {s : State} (w : Canon s) : Canon (indexedLoad i sw d a b m n signed s) := by
  unfold indexedLoad
  grind [Canon, canon_issue, canon_plainLoad, canon_syncAccess]

theorem canon_indexedStore {i : Instr} {sw : Bool} {d a b : Fin 32} {m : SyncMode} {n : Nat} {s : State}
    (w : Canon s) : Canon (indexedStore i sw d a b m n s) := by
  unfold indexedStore
  grind [Canon, canon_issue, canon_plainStore, canon_syncAccess]

theorem canon_clearMres {s : State} (w : Canon s) : Canon (clearMres s) := by
  unfold clearMres
  grind [Canon, canon_modHsw, canon_dropGroup]

theorem canon_saveMres {s : State} {left : Nat} (w : Canon s) : Canon (saveMres s left) := w

theorem canon_ldmWord {s : State} {g r : Nat} {w : Nat × List Nat × Xl} {rp : Bool} (hs : Canon s) :
    Canon (ldmWord s g r w rp) := by
  simp only [ldmWord]
  split
  · exact canon_addResult hs
  · split
    next e =>
      split at e
      · exact canon_addResult (canon_notePsn (canon_cacheRead hs e))
      · cases e
    next => exact canon_expect (canon_send hs)

theorem canon_ldmGo {s : State} {d : Nat} {ws : List (Nat × List Nat × Xl)} {rp sw : Bool} (w : Canon s) :
    Canon (ldmGo s d ws rp sw) := by
  unfold ldmGo
  grind [Canon, canon_setPoisoned, canon_addResult, canon_retire, canon_clearMres, canon_ldmWord, canon_writeReg,
    canon_foldl, canon_foldl_fst]

theorem canon_multiNext {s : State} {w : Nat × List Nat × Xl} {left d : Nat} {op : AccOp} {m : SyncMode}
    {psn sw : Bool} {base : Word} (hs : Canon s) : Canon (multiNext s w left d op m psn sw base) := by
  unfold multiNext
  grind [Canon, canon_saveMres, canon_fifoGo, canon_deliver, canon_modSlot, canon_parkFor, canon_sendWait,
    canon_dropLine]

theorem canon_stmGo {n : Nat} {s : State} {n1 : Nat} {l : List (Nat × List Nat × Xl)} {l1 : List (Word × Bool)}
    {q : Bool} {v : Word} {q1 : Bool} (w : Canon s) : Canon (stmGo n s n1 l l1 q v q1) := by
  induction n generalizing s n1 l l1 with
  | zero => exact canon_retire (canon_clearMres w)
  | succ n ih =>
    unfold stmGo
    grind [Canon, canon_retire, canon_clearMres, canon_parkFor, canon_saveMres, canon_clWrite, canon_storeNow,
      canon_foldl, canon_foldl_fst]

/-! ### Functions of `Riscv` -/

theorem canon_modThread {s : State} {k : Nat} {f : Thread → Thread} (w : Canon s) : Canon (modThread s k f) := w

theorem canon_setRx {s : State} {k r : Nat} {v : Word} (w : Canon s) : Canon (setRx s k r v) := by
  unfold setRx
  grind [Canon, canon_modThread]

theorem canon_setCsr {s : State} {k c : Nat} {v : Word} (w : Canon s) : Canon (setCsr s k c v) := w

theorem canon_rvStore {s : State} {k : Nat} {va : Word} {n v : Nat} (w : Canon s) {t}
    (e : rvStore s k va n v = .ok t) : Canon t := by
  unfold rvStore at e
  grind [Canon, canon_regWrite, canon_putBytes]

theorem canon_csrWrite {s : State} {k c : Nat} {v : Word} (w : Canon s) : Canon (csrWrite s k c v) := by
  unfold csrWrite
  grind [Canon, canon_setCsr]

theorem canon_rvCsr {s : State} {k w : Nat} (hs : Canon s) {t} (e : rvCsr s k w = some t) : Canon t := by
  unfold rvCsr at e
  grind [Canon, canon_csrWrite, canon_setRx]

theorem canon_rvTrap {s : State} {k : Nat} {tr : RvTrap} (w : Canon s) : Canon (rvTrap s k tr) := w

theorem canon_rvMret {s : State} {k : Nat} (w : Canon s) : Canon (rvMret s k) := w

theorem canon_goTo {s : State} {k : Nat} {pc : Word} (w : Canon s) : Canon (goTo s k pc) := w

theorem canon_rvAtomic {s : State} {k w : Nat} {next : Word} {ill : RvTrap} (hs : Canon s) {t}
    (e : rvAtomic s k w next ill = .ok t) : Canon t := by
  unfold rvAtomic at e
  grind [Canon, canon_putBytes, canon_goTo, canon_setRx]

theorem canon_rvSystem {s : State} {k w : Nat} {next : Word} {ill : RvTrap} (hs : Canon s) {t}
    (e : rvSystem s k w next ill = .ok t) : Canon t := by
  unfold rvSystem at e
  grind [Canon, canon_rvCsr, canon_goTo, canon_rvMret]

theorem canon_rvExec {s : State} {k w : Nat} {next : Word} {ill : RvTrap} (hs : Canon s) {t}
    (e : rvExec s k w next ill = .ok t) : Canon t := by
  unfold rvExec at e
  grind [Canon, canon_goTo, canon_setRx, canon_rvStore, canon_rvAtomic, canon_rvSystem]

theorem canon_rvStep {s : State} {k : Nat} (w : Canon s) {t} (e : rvStep s k = .ok t) : Canon t := by
  unfold rvStep at e
  grind [Canon, canon_rvExec]

/-! ### Functions of `Schedule` -/

theorem canon_inTurn {s : State} {k : Nat} (w : Canon s) : Canon (inTurn s k) := by
  unfold inTurn
  grind [Canon]

/-! ### The instructions and the events -/

theorem next_canon {x t : State} (e : (Host.Outcome.next x : Out) = .next t) (h : Canon x) : Canon t :=
  Host.Outcome.next.inj e ▸ h

theorem canon_execLinkTraining {dir : Nat} {umpel : Bool} {s : State} (w : Canon s) {t}
    (e : execLinkTraining dir umpel s = .next t) : Canon t := by
  unfold execLinkTraining at e
  grind [Canon, canon_modLink]

theorem canon_execFlitReceive {dir st : Nat} {flit : BitVec 256} {s : State} (w : Canon s) {t}
    (e : execFlitReceive dir st flit s = .next t) : Canon t := by
  unfold execFlitReceive at e
  grind [Canon, canon_umpelFlit, canon_takeFlit, canon_failFlit]

theorem canon_execReplayRequest {dir st good : Nat} {s : State} (w : Canon s) {t}
    (e : execReplayRequest dir st good s = .next t) : Canon t := by
  unfold execReplayRequest at e
  grind [Canon, canon_ackTo, canon_sendOn, canon_countReplay]

theorem canon_execFlitAcknowledge {dir st upto : Nat} {s : State} (w : Canon s) {t}
    (e : execFlitAcknowledge dir st upto s = .next t) : Canon t := by
  unfold execFlitAcknowledge at e
  grind [Canon, canon_sendOn, canon_ackTo]

theorem canon_execBitmapAcknowledge {dir st : Nat} {map : BitVec 64} {s : State} (w : Canon s) {t}
    (e : execBitmapAcknowledge dir st map s = .next t) : Canon t := by
  unfold execBitmapAcknowledge at e
  grind [Canon, canon_modStrand, canon_sendOn, canon_countReplay]

theorem canon_execRetrainComplete {dir st wl : Nat} {s : State} (w : Canon s) {t}
    (e : execRetrainComplete dir st wl s = .next t) : Canon t := by
  unfold execRetrainComplete at e
  grind [Canon, canon_bumpTr, canon_modStrand, canon_sendControl, canon_remapFibre, canon_setTrReg]

theorem canon_execSend {sw : Bool} {a b : Fin 32} {s : State} (w : Canon s) {t}
    (e : execSend sw a b s = .next t) : Canon t := by
  unfold execSend at e
  grind [Canon, canon_issue, canon_raise, canon_consume, canon_parkFor, canon_takeEntry, canon_retire, canon_send]

theorem canon_execRecv {sw : Bool} {a : Fin 32} {slot : Fin 16} {s t : State} (w : Canon s)
    (e : execRecv sw a slot s = .next t) : Canon t := by
  refine next_canon e (canon_issue w fun u hu => ?_)
  extract_lets h x
  split
  · exact canon_waitFor hu
  split
  · exact canon_raise hu
  · exact canon_consume hu fun v p hv =>
        canon_retire (canon_acquire (canon_refillSlot (canon_put64 (canon_writeReg hv))))

theorem canon_execMessageArrival {i : Nat} {s : State} (w : Canon s) {t}
    (e : execMessageArrival i s = .next t) : Canon t := by
  unfold execMessageArrival at e
  grind [Canon, canon_packetOut, canon_setAcc, canon_arriveMsg, canon_bumpKs]

theorem canon_execMessageResend {i : Nat} {s : State} (w : Canon s) {t}
    (e : execMessageResend i s = .next t) : Canon t := by
  unfold execMessageResend at e
  grind [Canon, canon_setAcc]

theorem canon_slotReply {d : AccDest} {r : Option (List Byte × Bool)} {s : State}
    {f : Nat → Nat → Bool → List Byte → Bool → State} (w : Canon s) (hf : ∀ c n b l q, Canon (f c n b l q)) :
    Canon (match d, r with
      | .slot frame n nan, some (val, psn) => f frame n nan val psn
      | _, _ => s) := by
  split
  · exact hf ..
  · exact w

theorem canon_replied {o : Option State} {u : State} {a core frame n : Nat} {st : AccSt}
    (ho : ∀ t, o = some t → Canon t) (hu : Canon u) :
    Canon (match (generalizing := false) o with
      | some s => clearReply (dropAcc s a) core frame n
      | none => bumpKs (setAcc u a st) 0x1120) := by
  split
  · exact canon_clearReply (canon_dropAcc (ho _ rfl))
  · exact canon_bumpKs (canon_setAcc hu)

theorem canon_execRemoteLoadReply {i : Nat} {s t : State} (w : Canon s)
    (e : execRemoteLoadReply i s = .next t) : Canon t := by
  refine next_canon e ?_
  split
  · exact w
  next a _ =>
  generalize replyNow s a = r
  generalize a.dest = d
  refine canon_slotReply w fun frame n nan val psn => ?_
  extract_lets c
  have hu : Canon (if psn = true then framePoisoned s c frame else s) := by
    split
    · exact canon_framePoisoned w
    · exact w
  generalize (if psn = true then framePoisoned s c frame else s) = u at hu
  have ho : ∀ {t c f n v b o q}, arriveMsg u c f n v b o q = some t → Canon t := fun ht => canon_arriveMsg hu ht
  revert ho
  generalize arriveMsg u = g
  intro ho
  exact canon_replied (fun _ ht => ho ht) w

theorem canon_execRemoteLoadRefusal {i : Nat} {s : State} (w : Canon s) {t}
    (e : execRemoteLoadRefusal i s = .next t) : Canon t := by
  unfold execRemoteLoadRefusal at e
  grind [Canon, canon_lateFault, canon_clearReply, canon_dropAcc]

theorem canon_execPostedStoreAck {i : Nat} {s : State} (w : Canon s) {t}
    (e : execPostedStoreAck i s = .next t) : Canon t := by
  unfold execPostedStoreAck at e
  grind [Canon, canon_dropAcc, canon_freeEntry, canon_modEntry, canon_postAnswered]

theorem canon_execPostedStoreRefusal {i : Nat} {s : State} (w : Canon s) {t}
    (e : execPostedStoreRefusal i s = .next t) : Canon t := by
  unfold execPostedStoreRefusal at e
  grind [Canon, canon_postAnswered, canon_modEntry, canon_dropAcc]

theorem canon_execLoadRefusal {i : Nat} {s : State} (w : Canon s) {t}
    (e : execLoadRefusal i s = .next t) : Canon t := by
  unfold execLoadRefusal at e
  grind [Canon, canon_lateFault, canon_dropAcc, canon_settleH, canon_modSlot, canon_cancelVec]

theorem canon_execRemoteAccessArrival {i : Nat} {s : State} (w : Canon s) {t}
    (e : execRemoteAccessArrival i s = .next t) : Canon t := by
  unfold execRemoteAccessArrival at e
  grind [Canon, canon_arrive, canon_packetOut]

theorem canon_execSyncAccessArrival {i : Nat} {s : State} (w : Canon s) {t}
    (e : execSyncAccessArrival i s = .next t) : Canon t := by
  unfold execSyncAccessArrival at e
  grind [Canon, canon_arrive, canon_packetOut]

theorem canon_execAccessResend {i : Nat} {s : State} (w : Canon s) {t}
    (e : execAccessResend i s = .next t) : Canon t := by
  unfold execAccessResend at e
  grind [Canon, canon_setAcc]

theorem canon_execQpush {sw : Bool} {a b l : Fin 32} {s : State} (w : Canon s) {t}
    (e : execQpush sw a b l s = .next t) : Canon t := by
  unfold execQpush at e
  grind [Canon, canon_issue, canon_raise, canon_consume, canon_parkFor, canon_serve, canon_retire, canon_pushItem,
    canon_modQueue, canon_waitFor]

theorem canon_execQpop {sw : Bool} {a b l : Fin 32} {s : State} (w : Canon s) {t}
    (e : execQpop sw a b l s = .next t) : Canon t := by
  unfold execQpop at e
  grind [Canon, canon_issue, canon_raise, canon_consume, canon_parkFor, canon_serve, canon_retire, canon_popItem,
    canon_modQueue, canon_waitFor]

theorem canon_execBarw {sw : Bool} {kind : BarKind} {l : Fin 32} {s : State} (w : Canon s) {t}
    (e : execBarw sw kind l s = .next t) : Canon t := by
  unfold execBarw at e
  grind [Canon, canon_issue, canon_needTxn, canon_parkFor, canon_retire, canon_acquire, canon_modGang, canon_waitFor]

theorem canon_execBarrierRelease {gang : Nat} {kind : BarKind} {dom : Nat} {s : State} (w : Canon s) {t}
    (e : execBarrierRelease gang kind dom s = .next t) : Canon t := by
  unfold execBarrierRelease at e
  grind [Canon, canon_modGang, canon_releaseMember, canon_foldl]

theorem canon_execVote {sw : Bool} {a b : Fin 32} {op : VoteOp} {l : Fin 32} {s : State} (w : Canon s) {t}
    (e : execVote sw a b op l s = .next t) : Canon t := by
  unfold execVote at e
  grind [Canon, canon_issue, canon_needTxn, canon_consume, canon_parkFor, canon_retire, canon_acquire, canon_writeReg,
    canon_modGang, canon_waitFor]

theorem canon_execVoteResult {gang : Nat} {s : State} (w : Canon s) {t}
    (e : execVoteResult gang s = .next t) : Canon t := by
  unfold execVoteResult at e
  grind [Canon, canon_modGang, canon_releaseMember, canon_writeReg, canon_foldl]

theorem canon_execWaitBoundExpiry {h : Nat} {s t : State} (w : Canon s)
    (e : execWaitBoundExpiry h s = .next t) : Canon t := by
  refine next_canon e ?_
  extract_lets met
  split
  · exact w
  split
  · exact w
  next hb => exact canon_takeTrap (canon_withdraw (canon_boundTrap w hb :))

theorem canon_execLeaseTimeout {h : Nat} {s : State} (w : Canon s) {t}
    (e : execLeaseTimeout h s = .next t) : Canon t := by
  unfold execLeaseTimeout at e
  grind [Canon, canon_takeTrap, canon_modSlot, canon_withdraw]

theorem canon_execDeadlockProbe {h : Nat} {s : State} (w : Canon s) {t}
    (e : execDeadlockProbe h s = .next t) : Canon t := by
  unfold execDeadlockProbe at e
  grind [Canon, canon_modSlot, canon_bumpKs, canon_modKs]

theorem canon_execProbeReceive {i : Nat} {s : State} (w : Canon s) {t}
    (e : execProbeReceive i s = .next t) : Canon t := by
  unfold execProbeReceive at e
  grind [Canon, canon_modKs, canon_bumpKs]

theorem canon_execVictimNotice {i : Nat} {s : State} (w : Canon s) {t}
    (e : execVictimNotice i s = .next t) : Canon t := by
  unfold execVictimNotice at e
  grind [Canon, canon_modKs, canon_takeTrap, canon_withdraw, canon_bumpKs]

theorem canon_execFifoAccessResume {cl b : Nat} {s : State} (w : Canon s) {t}
    (e : execFifoAccessResume cl b s = .next t) : Canon t := by
  unfold execFifoAccessResume at e
  grind [Canon, canon_perform, canon_deliver, canon_copiesAfter, canon_refuse, canon_poisonWait, canon_runJob,
    canon_foldl]

theorem canon_execJobStart {cl i : Nat} {s : State} (w : Canon s) {t}
    (e : execJobStart cl i s = .next t) : Canon t := by
  unfold execJobStart at e
  grind [Canon, canon_runJob]

theorem canon_execJobFinish {cl i : Nat} {s : State} (w : Canon s) {t}
    (e : execJobFinish cl i s = .next t) : Canon t := by
  unfold execJobFinish at e
  grind [Canon, canon_finishJob]

theorem canon_execEvwait {sw : Bool} {a line l : Fin 32} {s : State} (w : Canon s) {t}
    (e : execEvwait sw a line l s = .next t) : Canon t := by
  unfold execEvwait at e
  grind [Canon, canon_issue, canon_waitFor, canon_retire, canon_takeLine]

theorem canon_execWlpush {sw : Bool} {list : Fin 4} {b : Fin 32} {s : State} (w : Canon s) {t}
    (e : execWlpush sw list b s = .next t) : Canon t := by
  unfold execWlpush at e
  grind [Canon, canon_issue, canon_listGo, canon_consume, canon_parkFor, canon_appendItem, canon_retire,
    canon_serveList]

theorem canon_execWlins {sw : Bool} {list : Fin 4} {a b : Fin 32} {s : State} (w : Canon s) {t}
    (e : execWlins sw list a b s = .next t) : Canon t := by
  unfold execWlins at e
  grind [Canon, canon_issue, canon_listGo, canon_consume, canon_parkFor, canon_retire, canon_bumpCl, canon_writeReg,
    canon_setKey, canon_serveList, canon_appendItem]

theorem canon_execWlpopb {sw : Bool} {list : Fin 4} {a : Fin 32} {nm1 : Fin 16} {l : Fin 32} {s : State} (w : Canon s)
    {t} (e : execWlpopb sw list a nm1 l s = .next t) : Canon t := by
  unfold execWlpopb at e
  grind [Canon, canon_issue, canon_raise, canon_parkFor, canon_retire, canon_takeItems, canon_modList, canon_waitFor]

theorem canon_execLease {sw : Bool} {a b c : Fin 32} {s : State} (w : Canon s) {t}
    (e : execLease sw a b c s = .next t) : Canon t := by
  unfold execLease at e
  grind [Canon, canon_issue, canon_raise, canon_consume, canon_retire, canon_modAct, canon_request, canon_waitFor,
    canon_modSlot]

theorem canon_execLeaseGrant {cl : Nat} {s t : State} (w : Canon s) (e : execLeaseGrant cl s = .next t) : Canon t := by
  have at' : ∀ h, Canon { s with cur := h } := fun _ => w
  refine next_canon e ?_
  split
  · exact w
  split
  · exact w
  dsimp only
  split
  · exact canon_grantLease w
  split
  · exact w
  split
  · exact w
  · exact canon_failLease w
  split
  · exact canon_failLease w
  have hu : ∀ h va bs p, Canon (afterUnit { s with cur := h } va 64 bs p) := fun _ _ _ _ => canon_afterUnit (at' _)
  split
  · exact canon_failLease (hu ..)
  split
  · exact canon_failLease (hu ..)
  · exact canon_grantLease (canon_modAct (canon_notePsn (hu ..)))

theorem canon_execLeasePeriodExpiry {cl : Nat} {s : State} (w : Canon s) {t}
    (e : execLeasePeriodExpiry cl s = .next t) : Canon t := by
  unfold execLeasePeriodExpiry at e
  grind [Canon, canon_endPeriod]

theorem canon_execLeaseIdleExpiry {cl : Nat} {s : State} (w : Canon s) {t}
    (e : execLeaseIdleExpiry cl s = .next t) : Canon t := by
  unfold execLeaseIdleExpiry at e
  grind [Canon, canon_endPeriod]

theorem canon_execAccumulatorExchange {cl i : Nat} {s : State} (w : Canon s) {t}
    (e : execAccumulatorExchange cl i s = .next t) : Canon t := by
  unfold execAccumulatorExchange at e
  grind [Canon, canon_dropCmd, canon_modAcc]

theorem canon_execTbspill {sw : Bool} {tb : Fin 8} {s : State} (w : Canon s) {t}
    (e : execTbspill sw tb s = .next t) : Canon t := by
  unfold execTbspill at e
  grind [Canon, canon_issue, canon_arrayGo, canon_earlierDone, canon_raise, canon_retire, canon_countCmd, canon_evict]

theorem canon_execTbfill {sw : Bool} {tb : Fin 8} {s t : State} (w : Canon s)
    (e : execTbfill sw tb s = .next t) : Canon t := by
  refine next_canon e (canon_issue w fun u hu => canon_arrayGo hu fun u hu => canon_earlierDone hu fun u hu => ?_)
  dsimp only
  split
  · exact canon_raise hu
  · exact canon_raise hu
  · split
    · exact canon_raise hu
    · exact canon_parkFor hu
    next hr => exact canon_retire (canon_countCmd (canon_refill hu hr))
  · refine canon_retire (canon_countCmd ?_)
    cases hp : place u (coreOf u.cur) (getCore u (coreOf u.cur)).actx tb.val [tb.val] with
    | none => exact hu
    | some v => exact canon_place hu hp
  · exact canon_retire (canon_countCmd hu)

theorem canon_execTbuild {sw : Bool} {tb : Fin 8} {b c : Fin 32} {kind : TblKind} {st : SrcType} {mc : Bool}
    {s t : State} (w : Canon s)
    (e : execTbuild sw tb b c kind st mc s = .next t) : Canon t := by
  refine next_canon e (canon_issue w fun u hu => ?_)
  dsimp only
  split
  · exact canon_raise hu
  split
  · exact canon_raise hu
  refine canon_arrayGo hu fun u hu => canon_withNest hu fun u n p hu => ?_
  split
  · exact canon_parkFor hu
  split
  · exact canon_raise hu
  · exact canon_raise hu
  split
  · exact canon_raise hu
  split
  · exact canon_raise hu
  refine canon_consume hu fun u _ hu => canon_recPoison hu fun u hu => canon_earlierDone hu fun u hu => ?_
  split
  · exact canon_parkFor hu
  next hp => exact canon_acceptCmd (canon_modTab (canon_place hu hp))

theorem canon_execTbuildRcv {sw : Bool} {tb : Fin 8} {s : State} (w : Canon s) {t}
    (e : execTbuildRcv sw tb s = .next t) : Canon t := by
  unfold execTbuildRcv at e
  grind [Canon, canon_issue, canon_arrayGo, canon_earlierDone, canon_unplace, canon_retire, canon_countCmd]

theorem canon_execTableBuildComplete {cl i : Nat} {s : State} (w : Canon s) {t}
    (e : execTableBuildComplete cl i s = .next t) : Canon t := by
  unfold execTableBuildComplete at e
  grind [Canon, canon_modTab, canon_modArr, canon_dropCmd]

theorem canon_execMulticastCopyArrival {cl i : Nat} {s : State} (w : Canon s) {t}
    (e : execMulticastCopyArrival cl i s = .next t) : Canon t := by
  unfold execMulticastCopyArrival at e
  grind [Canon, canon_modArr, canon_bumpCl, canon_place, canon_modTab]

theorem canon_execStaleNotice {cl i : Nat} {s : State} (w : Canon s) {t}
    (e : execStaleNotice cl i s = .next t) : Canon t := by
  unfold execStaleNotice at e
  grind [Canon, canon_modArr, canon_markOne]

theorem canon_execMmt {sw : Bool} {acc : Fin 4} {b c : Fin 32} {form : Form} {signed last : Bool} {tb : Fin 8}
    {s t : State} (w : Canon s)
    (e : execMmt sw acc b c form signed last tb s = .next t) : Canon t := by
  refine next_canon e (canon_issue w fun u hu => ?_)
  dsimp only
  split
  · exact canon_raise hu
  refine canon_arrayGo hu fun u hu => canon_withNest hu fun u n p hu => ?_
  split
  · exact canon_modSlot (canon_parkFor hu)
  split
  · exact canon_raise hu
  refine canon_earlierDone hu fun v hv => ?_
  split
  · exact canon_modSlot (canon_parkFor hu)
  · exact canon_raise hv
  split
  · exact canon_raise hv
  · exact canon_parkFor hv
  next x hr =>
  have hx : Canon x := canon_residents hv hr
  have slots : ∀ l, Canon { x with slots := l } := fun _ => hx
  split
  · exact canon_raise hv
  · exact canon_parkFor hv
  split
  · exact canon_raise hv
  split
  · exact canon_raise hv
  · exact canon_parkFor hv
  split
  · exact canon_raise hv
  refine canon_consume hv fun _ _ hu => canon_recPoison hv fun y _ => canon_acceptCmd (canon_modAcc ?_)
  split
  · exact canon_setPoisoned (slots _)
  · exact slots _

theorem canon_execMmtComplete {cl i : Nat} {s : State} (w : Canon s) {t}
    (e : execMmtComplete cl i s = .next t) : Canon t := by
  unfold execMmtComplete at e
  grind [Canon, canon_modAcc, canon_bumpCl, canon_dropCmd]

theorem canon_execMmd {sw : Bool} {acc : Fin 4} {b c : Fin 32} {ta tb : MmdType} {s t : State} (w : Canon s)
    (e : execMmd sw acc b c ta tb s = .next t) : Canon t := by
  refine next_canon e (canon_issue w fun u hu => ?_)
  dsimp only
  split
  · exact canon_raise hu
  refine canon_arrayGo hu fun u hu => canon_withNest hu fun u n p hu => canon_withNest hu fun u n p hu => ?_
  split
  · exact canon_raise hu
  split
  · exact canon_raise hu
  split
  · exact canon_raise hu
  · exact canon_raise hu
  split
  · exact canon_parkFor hu
  split
  · exact canon_raise hu
  · exact canon_consume hu fun u _ hu => canon_recPoison hu fun u hu => canon_recPoison hu fun u hu => canon_acceptCmd hu

theorem canon_execMmdComplete {cl i : Nat} {s : State} (w : Canon s) {t}
    (e : execMmdComplete cl i s = .next t) : Canon t := by
  unfold execMmdComplete at e
  grind [Canon, canon_seeTiles, canon_modAcc, canon_bumpCl, canon_dropCmd]

theorem canon_execAcrd {sw : Bool} {acc : Fin 4} {b : Fin 32} {s : State} (w : Canon s) {t}
    (e : execAcrd sw acc b s = .next t) : Canon t := by
  unfold execAcrd at e
  grind [Canon, canon_issue, canon_raise, canon_acrdGo]

theorem canon_execAcrdWorking {sw : Bool} {acc : Fin 4} {b : Fin 32} {s : State} (w : Canon s) {t}
    (e : execAcrdWorking sw acc b s = .next t) : Canon t := by
  unfold execAcrdWorking at e
  grind [Canon, canon_issue, canon_raise, canon_arrayGo, canon_acrdGo]

theorem canon_execFence {sw : Bool} {o : Order} {sc : Scope} {s : State} (w : Canon s) {t}
    (e : execFence sw o sc s = .next t) : Canon t := by
  unfold execFence at e
  grind [Canon, canon_issue, canon_parkFor, canon_announce, canon_retire, canon_modSlot, canon_fenceAcquire]

theorem canon_execScWindowClose {s : State} (w : Canon s) {t} (e : execScWindowClose s = .next t) : Canon t := by
  unfold execScWindowClose at e
  grind [Canon, canon_closeSc, canon_modKs, canon_foldl]

theorem canon_execGroupScFrame {module core slot pa : Nat} {store : Option Word} {s : State} (w : Canon s) {t}
    (e : execGroupScFrame module core slot pa store s = .next t) : Canon t := by
  unfold execGroupScFrame at e
  grind [Canon, canon_modKs]

theorem canon_execDataCacheLineExpiry {core i : Nat} {s : State} (w : Canon s) {t}
    (e : execDataCacheLineExpiry core i s = .next t) : Canon t := by
  unfold execDataCacheLineExpiry at e
  grind [Canon, canon_modCore]

theorem canon_execClusterCacheLineExpiry {cl i : Nat} {s : State} (w : Canon s) {t}
    (e : execClusterCacheLineExpiry cl i s = .next t) : Canon t := by
  unfold execClusterCacheLineExpiry at e
  grind [Canon, canon_modCluster]

theorem canon_execBankModeChangeDone {cl b : Nat} {s : State} (w : Canon s) {t}
    (e : execBankModeChangeDone cl b s = .next t) : Canon t := by
  unfold execBankModeChangeDone at e
  grind [Canon, canon_zeroBank, canon_modFifo, canon_modCluster]

theorem canon_execJal {sw : Bool} {off : BitVec 25} {s : State} (w : Canon s) {t}
    (e : execJal sw off s = .next t) : Canon t := by
  unfold execJal at e
  grind [Canon, canon_issue, canon_retireTo, canon_writeReg]

theorem canon_execJalr {sw : Bool} {d a : Fin 32} {s : State} (w : Canon s) {t}
    (e : execJalr sw d a s = .next t) : Canon t := by
  unfold execJalr at e
  grind [Canon, canon_issue, canon_raise, canon_control, canon_retireTo, canon_writeReg, canon_endScout]

theorem canon_execJtb {sw : Bool} {d a b : Fin 32} {s : State} (w : Canon s) {t}
    (e : execJtb sw d a b s = .next t) : Canon t := by
  unfold execJtb at e
  grind [Canon, canon_issue, canon_raise, canon_parkFor, canon_jtbEntry, canon_cacheRead]

theorem canon_execLockRequest {ab : Nat} {s : State} (w : Canon s) {t}
    (e : execLockRequest ab s = .next t) : Canon t := by
  unfold execLockRequest at e
  grind [Canon, canon_modKs, canon_abutNote, canon_regrant]

theorem canon_execLockRelease {i : Nat} {s : State} (w : Canon s) {t}
    (e : execLockRelease i s = .next t) : Canon t := by
  unfold execLockRelease at e
  grind [Canon, canon_modKs, canon_abutNote, canon_unlock]

theorem canon_execGrantArrival {i : Nat} {s : State} (w : Canon s) {t}
    (e : execGrantArrival i s = .next t) : Canon t := by
  unfold execGrantArrival at e
  grind [Canon, canon_modKs, canon_cutNote, canon_grantTo, canon_foldl]

theorem canon_execBatchCloseTimer {s : State} (w : Canon s) {t} (e : execBatchCloseTimer s = .next t) : Canon t := by
  unfold execBatchCloseTimer at e
  grind [Canon, canon_closeBatch]

theorem canon_execPushpoolResize {s : State} (w : Canon s) {t} (e : execPushpoolResize s = .next t) : Canon t := by
  unfold execPushpoolResize at e
  grind [Canon, canon_poolAll, canon_modKs]

theorem canon_execDispatch {stage : Nat} {s : State} (w : Canon s) {t}
    (e : execDispatch stage s = .next t) : Canon t := by
  unfold execDispatch at e
  grind [Canon, canon_poolAll, canon_dequeue, canon_sendTo]

theorem canon_execGangDispatch {stage : Nat} {s : State} (w : Canon s) {t}
    (e : execGangDispatch stage s = .next t) : Canon t := by
  unfold execGangDispatch at e
  grind [Canon, canon_modGang, canon_dequeue, canon_poolAll, canon_sendTo, canon_foldl]

theorem canon_execGangReservation {stage : Nat} {s : State} (w : Canon s) {t}
    (e : execGangReservation stage s = .next t) : Canon t := by
  unfold execGangReservation at e
  grind [Canon, canon_modGang]

theorem canon_execFmt {st dt : Option ElemType} {nm : NmSel} {ftz sat : Bool} {s : State} (w : Canon s) {t}
    (e : execFmt st dt nm ftz sat s = .next t) : Canon t := by
  unfold execFmt at e
  grind [Canon, canon_issue, canon_prefixDone]

theorem canon_execRep {count : BitVec 16} {s : State} (w : Canon s) {t} (e : execRep count s = .next t) : Canon t := by
  unfold execRep at e
  grind [Canon, canon_issue, canon_modSlot, canon_prefixDone]

theorem canon_execLix {hi : BitVec 22} {s : State} (w : Canon s) {t} (e : execLix hi s = .next t) : Canon t := by
  unfold execLix at e
  grind [Canon, canon_issue, canon_prefixDone]

theorem canon_execRett {sw : Bool} {a : Fin 32} {s t : State} (w : Canon s)
    (e : execRett sw a s = .next t) : Canon t := by
  refine next_canon e (canon_issue w fun u hu => ?_)
  extract_lets h x ops v
  split
  · exact canon_parkFor hu
  split
  · exact canon_raise hu
  split
  · exact canon_raise hu
  refine canon_consume hu fun v _ hv => canon_returnTo ?_
  split
  · exact hv
  · exact canon_uninstall hv

theorem canon_execWpsw {sw : Bool} {a : Fin 32} {s : State} (w : Canon s) {t}
    (e : execWpsw sw a s = .next t) : Canon t := by
  unfold execWpsw at e
  grind [Canon, canon_issue, canon_parkFor, canon_raise, canon_consume, canon_retire, canon_modSlot, canon_uninstall]

theorem canon_execTrap {sw : Bool} {code : Fin 256} {a : Fin 32} {s : State} (w : Canon s) {t}
    (e : execTrap sw code a s = .next t) : Canon t := by
  unfold execTrap at e
  grind [Canon, canon_issue, canon_consume, canon_takeTrap]

theorem canon_execCtlr {sw : Bool} {a : Fin 32} {n : Fin 1024} {s : State} (w : Canon s) {t}
    (e : execCtlr sw a n s = .next t) : Canon t := by
  unfold execCtlr at e
  grind [Canon, canon_issue, canon_raise, canon_retire, canon_addResult, canon_writeReg]

theorem canon_execCtlw {sw : Bool} {a : Fin 32} {n : Fin 1024} {s : State} (w : Canon s) {t}
    (e : execCtlw sw a n s = .next t) : Canon t := by
  unfold execCtlw at e
  grind [Canon, canon_issue, canon_raise, canon_consume, canon_retire, canon_writeC]

theorem canon_execIdle {sw : Bool} {s : State} (w : Canon s) {t} (e : execIdle sw s = .next t) : Canon t := by
  unfold execIdle at e
  grind [Canon, canon_issue, canon_retire, canon_waitFor]

theorem canon_execTlball {sw : Bool} {s : State} (w : Canon s) {t} (e : execTlball sw s = .next t) : Canon t := by
  unfold execTlball at e
  grind [Canon, canon_issue, canon_tlbMaint]

theorem canon_execTlbasid {sw : Bool} {a : Fin 32} {s : State} (w : Canon s) {t}
    (e : execTlbasid sw a s = .next t) : Canon t := by
  unfold execTlbasid at e
  grind [Canon, canon_issue, canon_raise, canon_consume, canon_tlbMaint]

theorem canon_execTlbpage {sw : Bool} {a b : Fin 32} {s : State} (w : Canon s) {t}
    (e : execTlbpage sw a b s = .next t) : Canon t := by
  unfold execTlbpage at e
  grind [Canon, canon_issue, canon_raise, canon_consume, canon_parkFor, canon_retire, canon_tlbMaint]

theorem canon_execIcinv {sw : Bool} {s : State} (w : Canon s) {t} (e : execIcinv sw s = .next t) : Canon t := by
  unfold execIcinv at e
  grind [Canon, canon_issue, canon_parkFor, canon_retire, canon_modCore]

theorem canon_execDcinv {sw : Bool} {s : State} (w : Canon s) {t} (e : execDcinv sw s = .next t) : Canon t := by
  unfold execDcinv at e
  grind [Canon, canon_issue, canon_retire, canon_modCore]

theorem canon_execTxsub {sw : Bool} {a b : Fin 32} {s : State} (w : Canon s) {t}
    (e : execTxsub sw a b s = .next t) : Canon t := by
  unfold execTxsub at e
  grind [Canon, canon_issue, canon_needTxn, canon_leaveScout, canon_raise, canon_consume, canon_parkFor, canon_submit,
    canon_retire, canon_writeReg]

theorem canon_execTxscout {sw : Bool} {b : Fin 32} {s : State} (w : Canon s) {t}
    (e : execTxscout sw b s = .next t) : Canon t := by
  unfold execTxscout at e
  grind [Canon, canon_issue, canon_raise, canon_withWord, canon_consume, canon_wordPoison, canon_writeReg,
    canon_retireTo, canon_modSlot]

theorem canon_execTxchk {sw : Bool} {b c : Fin 32} {s t : State} (w : Canon s)
    (e : execTxchk sw b c s = .next t) : Canon t := by
  refine next_canon e (canon_issue w fun u hu => canon_needTxn hu fun x => ?_)
  dsimp only
  split
  · exact canon_raise hu
  split
  · exact canon_raise hu
  split
  · exact canon_raise hu
  have hv : Canon
    (readEntries u ((operands u [b.val, c.val]).getD 0 0).toNat ((operands u [b.val, c.val]).getD 1 0).toNat).1 :=
    canon_readEntries hu
  split
  next v n hr => exact canon_parkFor (by rw [hr] at hv; exact hv)
  next v n hr => exact canon_raise (by rw [hr] at hv; exact hv)
  next v es p hr =>
  replace hv : Canon v := by rw [hr] at hv; exact hv
  split
  · exact canon_raise hv
  refine canon_consume hv fun v _ hv => canon_wordPoison hv fun v hv => ?_
  split
  · exact canon_retire (canon_modTxn hv)
  split
  · exact canon_raise hv
  · exact canon_markPark (canon_voidTxn hv)

theorem canon_execTxend {sw : Bool} {s : State} (w : Canon s) {t} (e : execTxend sw s = .next t) : Canon t := by
  unfold execTxend at e
  grind [Canon, canon_issue, canon_needTxn, canon_retire, canon_raise, canon_parkFor, canon_releaseTxn]

theorem canon_execInbox {sw : Bool} {a : Fin 32} {s : State} (w : Canon s) {t}
    (e : execInbox sw a s = .next t) : Canon t := by
  unfold execInbox at e
  grind [Canon, canon_issue, canon_raise, canon_retire, canon_takeRecord, canon_waitFor]

theorem canon_execDone {sw : Bool} {a : Fin 32} {s : State} (w : Canon s) {t}
    (e : execDone sw a s = .next t) : Canon t := by
  unfold execDone at e
  grind [Canon, canon_issue, canon_needTxn, canon_raise, canon_consume, canon_parkFor, canon_markPark, canon_endTask]

theorem canon_execStageGovernorEvaluation {s : State} (w : Canon s) {t}
    (e : execStageGovernorEvaluation s = .next t) : Canon t := by
  unfold execStageGovernorEvaluation at e
  grind [Canon, canon_modKs, canon_bumpKs, canon_modCore, canon_foldl]

theorem canon_execStageMove {core : Nat} {s : State} (w : Canon s) {t}
    (e : execStageMove core s = .next t) : Canon t := by
  unfold execStageMove at e
  grind [Canon, canon_modKs, canon_saveArray, canon_modCore]

theorem canon_execHartCut {h : Nat} {s : State} (w : Canon s) {t} (e : execHartCut h s = .next t) : Canon t := by
  unfold execHartCut at e
  grind [Canon, canon_tryCut]

theorem canon_execSealedBudgetExpiry {h : Nat} {s : State} (w : Canon s) {t}
    (e : execSealedBudgetExpiry h s = .next t) : Canon t := by
  unfold execSealedBudgetExpiry at e
  grind [Canon, canon_tryCut, canon_bumpKs]

theorem canon_execSaveRecordWrite {h : Nat} {s t : State} (w : Canon s)
    (e : execSaveRecordWrite h s = .next t) : Canon t := by
  refine next_canon e ?_
  extract_lets x mine b free l u
  have hf : ∀ {u}, Canon u → Canon (free u) := fun hu => canon_saveArray (canon_modSlot hu)
  have hu : Canon u := canon_writeWs (canon_uninstall w)
  split
  · exact w
  split
  · split
    · exact w
    · exact hf hu
  split
  · exact w
  extract_lets r v
  refine hf (canon_unmark (canon_modKs ?_))
  cases hr : r with
  | none =>
    rw [Option.getD_none]
    exact hu
  | some y =>
    refine canon_tryPoke ?_ hr
    exact hu

theorem canon_execHartResume {i core slot : Nat} {s : State} (w : Canon s) {t}
    (e : execHartResume i core slot s = .next t) : Canon t := by
  unfold execHartResume at e
  grind [Canon, canon_install]

theorem canon_execGangResume {gang deck x y : Nat} {s : State} (w : Canon s) {t}
    (e : execGangResume gang deck x y s = .next t) : Canon t := by
  unfold execGangResume at e
  grind [Canon, canon_modGang, canon_placeMember, canon_resumeArray, canon_foldl]

theorem canon_execResidentLoopStart {h : Nat} {pc : Word} {wp : Nat} {hsw : Word} {s : State} (w : Canon s) {t}
    (e : execResidentLoopStart h pc wp hsw s = .next t) : Canon t := by
  unfold execResidentLoopStart at e
  grind [Canon, canon_modSlot]

theorem canon_execMarkerArrival {unit input : Nat} {s : State} (w : Canon s) {t}
    (e : execMarkerArrival unit input s = .next t) : Canon t := by
  unfold execMarkerArrival at e
  grind [Canon, canon_modKs, canon_returnGangs]

theorem canon_execDoneTreeReport {tag core : Nat} {s : State} (w : Canon s) {t}
    (e : execDoneTreeReport tag core s = .next t) : Canon t := by
  unfold execDoneTreeReport at e
  grind [Canon, canon_modLaunch, canon_modCore, canon_modKs]

theorem canon_execNop {q : Nat} {s : State} (w : Canon s) {t} (e : execNop q s = .next t) : Canon t := by
  unfold execNop at e
  grind [Canon, canon_simplePacket]

theorem canon_execClose {q : Nat} {s : State} (w : Canon s) {t} (e : execClose q s = .next t) : Canon t := by
  unfold execClose at e
  grind [Canon, canon_simplePacket, canon_closeBatch]

theorem canon_lastingPair {s t : State} {q typ : Nat} {f : State → Nat → List (BitVec 32) → State × Option Nat}
    (w : Canon s)
    (hf : ∀ u p, Canon u → Canon (f u q p).1)
    (e : lastingPacket s q typ (fun s p => let r := f s q p; (r.1, r.2, [])) = .next t) : Canon t :=
  canon_lastingPacket w (fun u p hu => hf u p hu) e

theorem canon_execWrite {q : Nat} {s t : State} (w : Canon s) (e : execWrite q s = .next t) : Canon t :=
  canon_lastingPair (f := writePacket) w (fun _ _ hu => canon_writePacket hu) e

theorem canon_execWake {q : Nat} {s : State} (w : Canon s) {t} (e : execWake q s = .next t) : Canon t := by
  unfold execWake at e
  grind [Canon, canon_simplePacket, canon_wakeHart]

theorem canon_execIndirect {q : Nat} {s : State} (w : Canon s) {t} (e : execIndirect q s = .next t) : Canon t := by
  unfold execIndirect at e
  grind [Canon, canon_packet, canon_modCq]

theorem canon_execStage {q : Nat} {s : State} (w : Canon s) {t} (e : execStage q s = .next t) : Canon t := by
  unfold execStage at e
  grind [Canon, canon_lastingPacket, canon_markMoves]

theorem canon_execSwitch {q : Nat} {s : State} (w : Canon s) {t} (e : execSwitch q s = .next t) : Canon t := by
  unfold execSwitch at e
  grind [Canon, canon_lastingPacket, canon_switchCores]

theorem canon_execCut {q : Nat} {s : State} (w : Canon s) {t} (e : execCut q s = .next t) : Canon t := by
  unfold execCut at e
  grind [Canon, canon_simplePacket, canon_closeBatch, canon_placeEnts]

theorem canon_execWait {q : Nat} {s : State} (w : Canon s) {t} (e : execWait q s = .next t) : Canon t := by
  unfold execWait at e
  grind [Canon, canon_packet, canon_packetDone]

theorem canon_execWaitConditionRead {q : Nat} {s : State} (w : Canon s) {t}
    (e : execWaitConditionRead q s = .next t) : Canon t := by
  unfold execWaitConditionRead at e
  grind [Canon, canon_execWait]

theorem canon_execWaitSliceExpiry {q : Nat} {s : State} (w : Canon s) {t}
    (e : execWaitSliceExpiry q s = .next t) : Canon t := by
  unfold execWaitSliceExpiry at e
  grind [Canon, canon_mapOldest, canon_bumpTr, canon_unmapQueue]

theorem canon_execWaitDeadlock {s : State} (w : Canon s) {t} (e : execWaitDeadlock s = .next t) : Canon t := by
  unfold execWaitDeadlock at e
  grind [Canon, canon_bumpTr, canon_jlog, canon_modTr, canon_cpSend]

theorem canon_launched {r : State × Bool} {q f n p} (h : Canon r.1) :
    Canon (if r.2 then launchGo r.1 q f n p else packetDone r.1 q f n) := by
    split
    · exact canon_launchGo h
    · exact canon_packetDone h

theorem canon_execLaunch {q : Nat} {s t : State} (w : Canon s) (e : execLaunch q s = .next t) : Canon t := by
  refine next_canon e ?_
  split
  · split
    · exact w
    · exact canon_launchGo (canon_submitAll w)
  · exact canon_packet w fun u f n p hu => canon_launched (canon_startLaunch hu)

theorem canon_execLaunchCompletion {tag : Nat} {s : State} (w : Canon s) {t}
    (e : execLaunchCompletion tag s = .next t) : Canon t := by
  unfold execLaunchCompletion at e
  grind [Canon, canon_completeLaunch]

theorem canon_execGraph {q : Nat} {s : State} (w : Canon s) {t} (e : execGraph q s = .next t) : Canon t := by
  unfold execGraph at e
  grind [Canon, canon_packet, canon_packetDone, canon_modTr]

theorem canon_execLaunchEndMarker {tag : Nat} {s : State} (w : Canon s) {t}
    (e : execLaunchEndMarker tag s = .next t) : Canon t := by
  unfold execLaunchEndMarker at e
  grind [Canon, canon_graphIdle, canon_submitAll, canon_modLaunch]

theorem canon_execRegwrite {q : Nat} {s : State} (w : Canon s) {t} (e : execRegwrite q s = .next t) : Canon t := by
  unfold execRegwrite at e
  grind [Canon, canon_simplePacket, canon_regWrite]

theorem canon_execCounterClear {sp : RegSpace} {off : Nat} {s : State} (w : Canon s) {t}
    (e : execCounterClear sp off s = .next t) : Canon t := by
  unfold execCounterClear at e
  grind [Canon, canon_served, canon_modCluster, canon_modKs, canon_clearTr]

theorem canon_execQwptrWrite {q : Nat} {v : Word} {s : State} (w : Canon s) {t}
    (e : execQwptrWrite q v s = .next t) : Canon t := by
  unfold execQwptrWrite at e
  grind [Canon, canon_served, canon_qwptr]

theorem canon_execQwakeWrite {q : Nat} {s : State} (w : Canon s) {t} (e : execQwakeWrite q s = .next t) : Canon t := by
  unfold execQwakeWrite at e
  grind [Canon, canon_served, canon_setLatch]

theorem canon_execKeySlotInstalled {s : State} (w : Canon s) {t} (e : execKeySlotInstalled s = .next t) : Canon t := by
  unfold execKeySlotInstalled at e
  grind [Canon, canon_modTr, canon_retryScan, canon_foldl]

theorem canon_execCsbmodeWrite {cl : Nat} {v : Word} {s : State} (w : Canon s) {t}
    (e : execCsbmodeWrite cl v s = .next t) : Canon t := by
  unfold execCsbmodeWrite at e
  grind [Canon, canon_served, canon_csbWrite]

theorem canon_execFifocntWrite {cl b : Nat} {s : State} (w : Canon s) {t}
    (e : execFifocntWrite cl b s = .next t) : Canon t := by
  unfold execFifocntWrite at e
  grind [Canon, canon_served, canon_modFifo]

theorem canon_execEvlineWrite {cl e : Nat} {s : State} (w : Canon s) {t}
    (e : execEvlineWrite cl e s = .next t) : Canon t := by
  unfold execEvlineWrite at e
  grind [Canon, canon_served, canon_clWrite]

theorem canon_execWlrecWrite {cl l : Nat} {v : Word} {s : State} (w : Canon s) {t}
    (e : execWlrecWrite cl l v s = .next t) : Canon t := by
  unfold execWlrecWrite at e
  grind [Canon, canon_served, canon_wlrecWrite]

theorem canon_execQrecWrite {q : Nat} {v : Word} {s : State} (w : Canon s) {t}
    (e : execQrecWrite q v s = .next t) : Canon t := by
  unfold execQrecWrite at e
  grind [Canon, canon_served, canon_serve, canon_qrecWrite]

theorem canon_execSgthrWrite {st : Nat} {v : Word} {s : State} (w : Canon s) {t}
    (e : execSgthrWrite st v s = .next t) : Canon t := by
  unfold execSgthrWrite at e
  grind [Canon, canon_served, canon_sgthrWrite]

theorem canon_execControlPortWrite {pa : Nat} {data : List Byte} {s : State} (w : Canon s) {t}
    (e : execControlPortWrite pa data s = .next t) : Canon t := by
  unfold execControlPortWrite at e
  grind [Canon, canon_regWrite, canon_cpRefuse, canon_jlog, canon_putBytes]

theorem canon_execControlPortRead {pa : Nat} {s : State} (w : Canon s) {t}
    (e : execControlPortRead pa s = .next t) : Canon t := by
  unfold execControlPortRead at e
  grind [Canon, canon_modTr, canon_cpSend]

theorem canon_execFwhbTimeout {s : State} (w : Canon s) {t} (e : execFwhbTimeout s = .next t) : Canon t := by
  unfold execFwhbTimeout at e
  grind [Canon, canon_endTrial, canon_jlog]

theorem canon_execTokenHold {s : State} (w : Canon s) {t} (e : execTokenHold s = .next t) : Canon t := by
  unfold execTokenHold at e
  grind [Canon, canon_holdBatch, canon_numberBatch, canon_closeAgain, canon_cutNote, canon_feed, canon_modKs,
    canon_modGroup]

theorem canon_execManifestReceive {pos batch : Nat} {es : List ManifestEntry} {s : State} (w : Canon s) {t}
    (e : execManifestReceive pos batch es s = .next t) : Canon t := by
  unfold execManifestReceive at e
  grind [Canon, canon_modGroup, canon_cutNote, canon_feed]

theorem canon_execTokenLoss {pos : Nat} {s : State} (w : Canon s) {t}
    (e : execTokenLoss pos s = .next t) : Canon t := by
  unfold execTokenLoss at e
  grind [Canon, canon_bumpTr, canon_modGroup]

theorem canon_execGroupFormation {pos n trot b0 : Nat} {mods : List Nat} {s : State} (w : Canon s) {t}
    (e : execGroupFormation pos n trot b0 mods s = .next t) : Canon t := by
  unfold execGroupFormation at e
  grind [Canon, canon_closeBatch, canon_modKs]

theorem canon_execGroupReform {pos : Nat} {s : State} (w : Canon s) {t}
    (e : execGroupReform pos s = .next t) : Canon t := by
  unfold execGroupReform at e
  grind [Canon, canon_modGroup, canon_regrant, canon_feed, canon_foldl]

theorem canon_execRoutingTableFailedMark {module dir : Nat} {s : State} (w : Canon s) {t}
    (e : execRoutingTableFailedMark module dir s = .next t) : Canon t := by
  unfold execRoutingTableFailedMark at e
  grind [Canon, canon_modFab]

theorem canon_execPowerCapCheck {watts temp inlet flow : Nat} {s : State} (w : Canon s) {t}
    (e : execPowerCapCheck watts temp inlet flow s = .next t) : Canon t := by
  unfold execPowerCapCheck at e
  grind [Canon, canon_setDuty]

theorem canon_execThermalThrottle {temp : Nat} {s : State} (w : Canon s) {t}
    (e : execThermalThrottle temp s = .next t) : Canon t := by
  unfold execThermalThrottle at e
  grind [Canon, canon_setDuty]

theorem canon_execThermalTrip {temp : Nat} {s : State} (w : Canon s) {t}
    (e : execThermalTrip temp s = .next t) : Canon t := by
  unfold execThermalTrip at e
  grind [Canon, canon_cpSend, canon_jlog, canon_modFab]

theorem canon_execThermalResume {temp : Nat} {s : State} (w : Canon s) {t}
    (e : execThermalResume temp s = .next t) : Canon t := by
  unfold execThermalResume at e
  grind [Canon, canon_modFab]

theorem canon_execResultReturn {h i : Nat} {s : State} (w : Canon s) {t}
    (e : execResultReturn h i s = .next t) : Canon t := by
  unfold execResultReturn at e
  grind [Canon, canon_returnResult, canon_vecMake]

theorem canon_execForcedPark {core : Nat} {s : State} (w : Canon s) {t}
    (e : execForcedPark core s = .next t) : Canon t := by
  unfold execForcedPark at e
  grind [Canon, canon_modSlot, canon_bumpCl]

theorem canon_execInterruptEntry {h : Nat} {s : State} (w : Canon s) {t}
    (e : execInterruptEntry h s = .next t) : Canon t := by
  unfold execInterruptEntry at e
  grind [Canon, canon_modSlot, canon_takeInterrupt]

theorem canon_execCancelAnswer {h : Nat} {s : State} (w : Canon s) {t}
    (e : execCancelAnswer h s = .next t) : Canon t := by
  unfold execCancelAnswer at e
  grind [Canon, canon_takeInterrupt]

theorem canon_execAsyncTrapEntry {h : Nat} {s : State} (w : Canon s) {t}
    (e : execAsyncTrapEntry h s = .next t) : Canon t := by
  unfold execAsyncTrapEntry at e
  grind [Canon, canon_modPools, canon_dropLate, canon_takeTrap]

theorem canon_execTimerInterrupt {h : Nat} {s : State} (w : Canon s) {t}
    (e : execTimerInterrupt h s = .next t) : Canon t := by
  unfold execTimerInterrupt at e
  grind [Canon, canon_modSlot, canon_setPending]

theorem canon_execUnassignedEncoding {w : IWord} {s : State} (hs : Canon s) {t}
    (e : execUnassignedEncoding w s = .next t) : Canon t := by
  unfold execUnassignedEncoding at e
  grind [Canon, canon_raise]

theorem canon_execFetchFault {s : State} (w : Canon s) {t} (e : execFetchFault s = .next t) : Canon t := by
  unfold execFetchFault at e
  grind [Canon, canon_fetchWord, canon_raise]

theorem canon_execSecureBoot {s : State} (w : Canon s) {t} (e : execSecureBoot s = .next t) : Canon t := by
  unfold execSecureBoot at e
  grind [Canon, canon_bootSlot, canon_modTr]

theorem canon_execReset {s t : State} (e : execReset s = .next t) : Canon t := by
  unfold execReset at e
  grind [Canon, canon_reset]

theorem canon_execFirmwareUpdate {s : State} (w : Canon s) {t} (e : execFirmwareUpdate s = .next t) : Canon t := by
  unfold execFirmwareUpdate at e
  grind [Canon, canon_enterImage, canon_modTr, canon_quiesce, canon_writeRecord]

theorem canon_execSvnfloorRaise {v : Nat} {s : State} (w : Canon s) {t}
    (e : execSvnfloorRaise v s = .next t) : Canon t := by
  unfold execSvnfloorRaise at e
  grind [Canon, canon_modTr]

theorem canon_execSecuredMessage {key : Bool} {n : Nat} {data : List Byte} {s : State} (w : Canon s) {t}
    (e : execSecuredMessage key n data s = .next t) : Canon t := by
  unfold execSecuredMessage at e
  grind [Canon, canon_modTr, canon_flashWrite]

theorem canon_execMskld {sw : Bool} {ctx : Fin 4} {b : Fin 32} {s t : State} (w : Canon s)
    (e : execMskld sw ctx b s = .next t) : Canon t := by
  refine next_canon e (canon_maskGo w fun u ops hu => canon_withBytes hu fun u rb rp hu => ?_)
  dsimp only
  split
  · exact canon_raise hu
  refine canon_withBytes hu fun u sb sp hu => ?_
  split
  · exact canon_raise hu
  refine canon_withBytes hu fun u tb tp hu => ?_
  split
  · exact canon_raise hu
  exact canon_consume hu fun u _ hu => canon_eatPoison hu fun u hu => canon_retire (canon_modMask hu)

theorem canon_execMskcls {sw : Bool} {ctx : Fin 4} {a b : Fin 32} {s : State} (w : Canon s) {t}
    (e : execMskcls sw ctx a b s = .next t) : Canon t := by
  unfold execMskcls at e
  grind [Canon, canon_maskGo, canon_withBytes, canon_raise, canon_consume, canon_eatPoison, canon_whenRoom,
    canon_writeOut, canon_noteRegion, canon_modMask, canon_retire, canon_reportRefused, canon_writeReg]

theorem canon_execMskel {sw : Bool} {ctx : Fin 4} {a b c : Fin 32} {s : State} (w : Canon s) {t}
    (e : execMskel sw ctx a b c s = .next t) : Canon t := by
  unfold execMskel at e
  grind [Canon, canon_maskGo, canon_raise, canon_consume, canon_whenRoom, canon_writeOut, canon_noteRegion,
    canon_retire, canon_reportRefused]

theorem canon_execMskcnt {sw : Bool} {ctx : Fin 4} {a : Fin 32} {clr : Bool} {s : State} (w : Canon s) {t}
    (e : execMskcnt sw ctx a clr s = .next t) : Canon t := by
  unfold execMskcnt at e
  grind [Canon, canon_issue, canon_addResult, canon_retire, canon_modMask]

theorem canon_execKvcommit {sw : Bool} {a b : Fin 32} {s t : State} (w : Canon s)
    (e : execKvcommit sw a b s = .next t) : Canon t := by
  refine next_canon e (canon_maskGo w fun u ops hu => canon_withBytes hu fun u rb rp hu => ?_)
  dsimp only
  split
  · exact canon_raise hu
  split
  · exact canon_raise hu
  split
  · exact canon_raise hu
  exact canon_consume hu fun u _ hu => canon_eatPoison hu fun u hu =>
    canon_waitFor (canon_send (canon_dropLine (canon_tlbFill hu)))

/-- What a take that KVCOMMIT waits for leaves when it is performed. -/
theorem canon_takeDone {d : AccDest} {st : AccSt} {s : State} {f : List Byte → Bool → State} (w : Canon s)
    (hf : ∀ v q, Canon (f v q)) :
    Canon (match d, st with
      | .kvTake, .done val psn => f val psn
      | _, _ => s) := by
  split
  · exact hf ..
  · exact w

theorem canon_execKvcommitTakePerformed {cl i : Nat} {s t : State} (w : Canon s)
    (e : execKvcommitTakePerformed cl i s = .next t) : Canon t := by
  refine next_canon e ?_
  split
  · exact w
  next a _ =>
  refine canon_takeDone w fun val psn => ?_
  split
  · exact w
  extract_lets h u ws p len pc filled back kb vb
  have at' : ∀ h, Canon { s with cur := h } := fun _ => w
  have hu : Canon u := canon_notePsn (canon_dropAcc (at' _))
  have hb : ∀ t, Canon (back t) := fun t => canon_takeTrap (canon_reportRefused (canon_kvFill hu))
  split
  · exact hu
  split
  · exact hb _
  extract_lets place accept
  generalize place kb = x
  generalize (if vb = 0 then .ok [] else place vb : Except Trap (List (Nat × Xl))) = y
  cases x with
  | error t => exact hb t
  | ok kl =>
    cases y with
    | error t => exact hb t
    | ok vl =>
      dsimp only
      split
      · exact w
      next he =>
        exact canon_completeWait (canon_reportAt (canon_writeReg (canon_kvFill
          (canon_kvEntries (canon_noteRegion (canon_noteRegion hu)) he))))

theorem canon_execLd {sw : Bool} {d a : Fin 32} {imm : BitVec 15} {s : State} (w : Canon s) {t}
    (e : execLd sw d a imm s = .next t) : Canon t := by
  unfold execLd at e
  grind [Canon, canon_issue, canon_plainLoad]

theorem canon_execSt {sw : Bool} {base data : Fin 32} {imm : BitVec 15} {s : State} (w : Canon s) {t}
    (e : execSt sw base data imm s = .next t) : Canon t := by
  unfold execSt at e
  grind [Canon, canon_issue, canon_plainStore]

theorem canon_execLxdRemote {sw : Bool} {slot : Fin 16} {a b : Fin 32} {m : SyncMode} {s t : State} (w : Canon s)
    (e : execLxdRemote sw slot a b m s = .next t) : Canon t := by
  refine next_canon e (canon_issue w fun u hu => ?_)
  extract_lets h ops va w62 chk op
  clear_value chk
  split
  · exact canon_raise hu
  split
  · exact canon_parkFor hu
  split
  · exact canon_raise hu
  refine canon_consume hu fun v p hv => ?_
  extract_lets stored filled marked sent st
  split
  · exact canon_raise hv
  split
  · exact canon_parkFor hv
  refine canon_retire (canon_send ?_)
  have hm : Canon marked := canon_put64 (canon_tlbFills hv)
  dsimp only [sent]
  split
  · exact hm
  · exact canon_dropLine hm

theorem canon_execLdm {sw : Bool} {a b c : Fin 32} {m : SyncMode} {s t : State} (w : Canon s)
    (e : execLdm sw a b c m s = .next t) : Canon t := by
  refine next_canon e (canon_issue w fun u hu => ?_)
  extract_lets n base
  split
  · exact canon_raise hu
  split
  · exact canon_parkFor hu
  split
  · exact canon_raise hu
  split
  · exact canon_raise hu
  refine canon_consume hu fun v p hv => ?_
  extract_lets bad x fifo
  have hx : Canon x := canon_tlbFill (canon_tlbFill hv)
  split
  · split
    · exact canon_raise hx
    · exact canon_ldmGo hx
  · split
    · exact canon_retire (canon_clearMres hx)
    · exact canon_multiNext hx

theorem canon_execStm {sw : Bool} {a b c : Fin 32} {m : SyncMode} {s t : State} (w : Canon s)
    (e : execStm sw a b c m s = .next t) : Canon t := by
  refine next_canon e (canon_issue w fun u hu => ?_)
  extract_lets n base
  split
  · exact canon_raise hu
  split
  · exact canon_parkFor hu
  split
  · exact canon_raise hu
  split
  · exact canon_raise hu
  extract_lets fifo rs s0
  split
  · exact canon_retire (canon_clearMres hu)
  have h0 : Canon s0 := by
    dsimp only [s0]
    split
    · exact hu
    · exact canon_saveMres hu
  have hs : ∀ psn : Nat → Bool, Canon (if (pteOf u u.cur && rs.any psn) = true then s0 else u) := by
    intro psn
    split
    · exact h0
    · exact hu
  refine canon_consumeBy (hs _) fun v p hv => ?_
  extract_lets x ap
  have hx : Canon x := canon_tlbFill (canon_tlbFill hv)
  split
  · exact canon_stmGo hx
  · split
    · exact canon_retire (canon_clearMres hx)
    · exact canon_multiNext (canon_noteWrite hx)

theorem canon_execTrestleInstruction {n : Nat} {s t : State} (w : Canon s)
    (e : execTrestleInstruction n s = .next t) : Canon t := by
  refine next_canon e ?_
  split
  · exact w
  extract_lets u v
  refine canon_modTr ?_
  have hu : Canon u := w
  dsimp only [v]
  split
  · exact canon_rvTrap hu
  next hv => exact canon_rvStep hu hv

theorem canon_execLapc {sw : Bool} {d : Fin 32} {imm : BitVec 15} {s : State} (w : Canon s) {t}
    (e : execLapc sw d imm s = .next t) : Canon t := by
  unfold execLapc at e
  grind [Canon, canon_issue, canon_retire, canon_writeReg]

theorem canon_exec {i : Instr} {s t : State} (w : Canon s) (e : exec i s = .next t) : Canon t := by
  cases i with
  | add | sub | and | or | xor | andn | addsat | subsat | sll | srl | sra | rol | ror | clz | ctz | popc | brev
  | bswap => exact next_canon e (canon_scalar w)
  | mul | mulh | mulhn | div | divn | rem | remn => exact next_canon e (canon_scalarLate w)
  | slt | sltn | seq | min | max | minn | maxn => exact next_canon e (canon_scalar w)
  | addi | andi | ori | xori | slti | sltin => exact next_canon e (canon_scalarImm w)
  | lapc => exact canon_execLapc w e
  | slli | srli | srai | rori => exact next_canon e (canon_scalar w)
  | beq | bne | blt | bge | bltn | bgen => exact next_canon e (canon_branch w)
  | jal => exact canon_execJal w e
  | jalr => exact canon_execJalr w e
  | jtb => exact canon_execJtb w e
  | ld => exact canon_execLd w e
  | st => exact canon_execSt w e
  | lxb | lxbn | lxh | lxhn | lxw | lxwn | lxd => exact next_canon e (canon_indexedLoad w)
  | lxdRemote => exact canon_execLxdRemote w e
  | sxb | sxh | sxw | sxd => exact next_canon e (canon_indexedStore w)
  | ldm => exact canon_execLdm w e
  | stm => exact canon_execStm w e
  | aswap | aadd | aand | aor | axor | amin | amax | aminn | amaxn | acas => exact next_canon e (canon_atomic w)
  | fence => exact canon_execFence w e
  | ldsc | stsc => exact next_canon e (canon_scAccess w)
  | vadd | vsub | vmul | vdiv | vmin | vmax | vabs | vneg | vsqrt | vfma | vfms | vfnma | vfnms | vand | vor | vxor
  | vandn | vnot | vshl | vshr | vshra | vceq | vcne | vclt | vcle | vsel | vcvt | vpack6 | vunpk6 | vperm | vbcast
  | vrot | vzip | vunzip | vrsum | vrmax | vrmin | vrdot | vmov | vzero => exact next_canon e (canon_vec w)
  | lease => exact canon_execLease w e
  | unlease | unleaseDiscard => exact next_canon e (canon_unleaseGo w)
  | acswap | acswapZero => exact next_canon e (canon_acswapGo w)
  | tbspill => exact canon_execTbspill w e
  | tbfill => exact canon_execTbfill w e
  | tbuild => exact canon_execTbuild w e
  | tbuildRcv => exact canon_execTbuildRcv w e
  | mmt => exact canon_execMmt w e
  | mmd => exact canon_execMmd w e
  | acrd => exact canon_execAcrd w e
  | acrdWorking => exact canon_execAcrdWorking w e
  | mskld => exact canon_execMskld w e
  | mskcls => exact canon_execMskcls w e
  | mskel => exact canon_execMskel w e
  | mskcnt => exact canon_execMskcnt w e
  | kvcommit => exact canon_execKvcommit w e
  | copy | gather | scatter | scadd => exact next_canon e (canon_engine w)
  | idem | idemClose => exact next_canon e (canon_idemGo w)
  | evwait => exact canon_execEvwait w e
  | wlpush => exact canon_execWlpush w e
  | wlins => exact canon_execWlins w e
  | wlpopb => exact canon_execWlpopb w e
  | txsub => exact canon_execTxsub w e
  | txscout => exact canon_execTxscout w e
  | txchk => exact canon_execTxchk w e
  | txend => exact canon_execTxend w e
  | inbox => exact canon_execInbox w e
  | done => exact canon_execDone w e
  | send => exact canon_execSend w e
  | recv => exact canon_execRecv w e
  | qpush => exact canon_execQpush w e
  | qpop => exact canon_execQpop w e
  | barw => exact canon_execBarw w e
  | vote => exact canon_execVote w e
  | rett => exact canon_execRett w e
  | ctlr => exact canon_execCtlr w e
  | ctlw => exact canon_execCtlw w e
  | wpsw => exact canon_execWpsw w e
  | idle => exact canon_execIdle w e
  | tlball => exact canon_execTlball w e
  | tlbasid => exact canon_execTlbasid w e
  | tlbpage => exact canon_execTlbpage w e
  | icinv => exact canon_execIcinv w e
  | dcinv => exact canon_execDcinv w e
  | trap => exact canon_execTrap w e
  | fmt => exact canon_execFmt w e
  | rep => exact canon_execRep w e
  | lix => exact canon_execLix w e
  | resultReturn => exact canon_execResultReturn w e
  | forcedPark => exact canon_execForcedPark w e
  | interruptEntry => exact canon_execInterruptEntry w e
  | asyncTrapEntry => exact canon_execAsyncTrapEntry w e
  | cancelAnswer => exact canon_execCancelAnswer w e
  | timerInterrupt => exact canon_execTimerInterrupt w e
  | unassignedEncoding => exact canon_execUnassignedEncoding w e
  | messageArrival => exact canon_execMessageArrival w e
  | messageResend => exact canon_execMessageResend w e
  | remoteLoadReply => exact canon_execRemoteLoadReply w e
  | remoteLoadRefusal => exact canon_execRemoteLoadRefusal w e
  | postedStoreAck => exact canon_execPostedStoreAck w e
  | postedStoreRefusal => exact canon_execPostedStoreRefusal w e
  | loadRefusal => exact canon_execLoadRefusal w e
  | remoteAccessArrival => exact canon_execRemoteAccessArrival w e
  | syncAccessArrival => exact canon_execSyncAccessArrival w e
  | accessResend => exact canon_execAccessResend w e
  | bankModeChangeDone => exact canon_execBankModeChangeDone w e
  | fifoAccessResume => exact canon_execFifoAccessResume w e
  | deadlockProbe => exact canon_execDeadlockProbe w e
  | probeReceive => exact canon_execProbeReceive w e
  | victimNotice => exact canon_execVictimNotice w e
  | waitBoundExpiry => exact canon_execWaitBoundExpiry w e
  | leaseTimeout => exact canon_execLeaseTimeout w e
  | barrierRelease => exact canon_execBarrierRelease w e
  | voteResult => exact canon_execVoteResult w e
  | lockRequest => exact canon_execLockRequest w e
  | lockRelease => exact canon_execLockRelease w e
  | grantArrival => exact canon_execGrantArrival w e
  | dispatch => exact canon_execDispatch w e
  | gangDispatch => exact canon_execGangDispatch w e
  | gangReservation => exact canon_execGangReservation w e
  | stageMove => exact canon_execStageMove w e
  | hartCut => exact canon_execHartCut w e
  | saveRecordWrite => exact canon_execSaveRecordWrite w e
  | sealedBudgetExpiry => exact canon_execSealedBudgetExpiry w e
  | hartResume => exact canon_execHartResume w e
  | gangResume => exact canon_execGangResume w e
  | markerArrival => exact canon_execMarkerArrival w e
  | doneTreeReport => exact canon_execDoneTreeReport w e
  | launchEndMarker => exact canon_execLaunchEndMarker w e
  | launchCompletion => exact canon_execLaunchCompletion w e
  | leaseGrant => exact canon_execLeaseGrant w e
  | leasePeriodExpiry => exact canon_execLeasePeriodExpiry w e
  | leaseIdleExpiry => exact canon_execLeaseIdleExpiry w e
  | tableBuildComplete => exact canon_execTableBuildComplete w e
  | mmtComplete => exact canon_execMmtComplete w e
  | mmdComplete => exact canon_execMmdComplete w e
  | accumulatorExchange => exact canon_execAccumulatorExchange w e
  | multicastCopyArrival => exact canon_execMulticastCopyArrival w e
  | staleNotice => exact canon_execStaleNotice w e
  | kvcommitTakePerformed => exact canon_execKvcommitTakePerformed w e
  | jobStart => exact canon_execJobStart w e
  | jobFinish => exact canon_execJobFinish w e
  | nop => exact canon_execNop w e
  | launch => exact canon_execLaunch w e
  | close => exact canon_execClose w e
  | wait => exact canon_execWait w e
  | write => exact canon_execWrite w e
  | indirect => exact canon_execIndirect w e
  | wake => exact canon_execWake w e
  | regwrite => exact canon_execRegwrite w e
  | cut => exact canon_execCut w e
  | stage => exact canon_execStage w e
  | switch => exact canon_execSwitch w e
  | graph => exact canon_execGraph w e
  | waitConditionRead => exact canon_execWaitConditionRead w e
  | waitSliceExpiry => exact canon_execWaitSliceExpiry w e
  | trestleInstruction => exact canon_execTrestleInstruction w e
  | fetchFault => exact canon_execFetchFault w e
  | scWindowClose => exact canon_execScWindowClose w e
  | batchCloseTimer => exact canon_execBatchCloseTimer w e
  | tokenHold => exact canon_execTokenHold w e
  | manifestReceive => exact canon_execManifestReceive w e
  | groupScFrame => exact canon_execGroupScFrame w e
  | tokenLoss => exact canon_execTokenLoss w e
  | groupFormation => exact canon_execGroupFormation w e
  | groupReform => exact canon_execGroupReform w e
  | stageGovernorEvaluation => exact canon_execStageGovernorEvaluation w e
  | pushpoolResize => exact canon_execPushpoolResize w e
  | dataCacheLineExpiry => exact canon_execDataCacheLineExpiry w e
  | clusterCacheLineExpiry => exact canon_execClusterCacheLineExpiry w e
  | controlPortWrite => exact canon_execControlPortWrite w e
  | controlPortRead => exact canon_execControlPortRead w e
  | waitDeadlock => exact canon_execWaitDeadlock w e
  | graphTrigger => exact canon_served w (fun _ hu => canon_graphWrite hu) e
  | qwptrWrite => exact canon_execQwptrWrite w e
  | qwakeWrite => exact canon_execQwakeWrite w e
  | qfaultResume | qfaultSkip => exact canon_served w (fun _ hu => canon_qfault hu) e
  | monsend => exact canon_served w (fun _ hu => canon_monWrite hu) e
  | wakesend => exact canon_served w (fun _ hu => canon_wakeWrite hu) e
  | tlbinvAll | tlbinvAsid | tlbinvPage => exact canon_served w (fun _ hu => canon_tlbinv hu) e
  | keycmdLoad | keycmdClear => exact canon_served w (fun _ hu => canon_keyCommand hu) e
  | keySlotInstalled => exact canon_execKeySlotInstalled w e
  | fwhbOk | fwhbRefuse => exact canon_served w (fun _ hu => canon_fwhbWrite hu) e
  | fwhbTimeout => exact canon_execFwhbTimeout w e
  | csbmodeWrite => exact canon_execCsbmodeWrite w e
  | fifocntWrite => exact canon_execFifocntWrite w e
  | evlineWrite => exact canon_execEvlineWrite w e
  | wlrecWrite => exact canon_execWlrecWrite w e
  | qrecWrite => exact canon_execQrecWrite w e
  | sgthrWrite => exact canon_execSgthrWrite w e
  | pushpoolWrite => exact canon_served w (fun _ hu => canon_pushpoolWrite hu) e
  | counterClear => exact canon_execCounterClear w e
  | registerWrite => exact canon_served w (fun _ hu => canon_regWrite hu) e
  | firmwareUpdate => exact canon_execFirmwareUpdate w e
  | svnfloorRaise => exact canon_execSvnfloorRaise w e
  | reset => exact canon_execReset e
  | secureBoot => exact canon_execSecureBoot w e
  | getVersion | getCapabilities | negotiateAlgorithms => exact next_canon e (canon_spdm w)
  | getDigests | getCertificate | challenge | getMeasurements => exact next_canon e (canon_spdmQuery w)
  | keyExchange | finish => exact next_canon e (canon_spdm w)
  | securedMessage => exact canon_execSecuredMessage w e
  | linkTraining => exact canon_execLinkTraining w e
  | flitReceive => exact canon_execFlitReceive w e
  | replayRequest => exact canon_execReplayRequest w e
  | flitAcknowledge => exact canon_execFlitAcknowledge w e
  | bitmapAcknowledge => exact canon_execBitmapAcknowledge w e
  | retrainComplete => exact canon_execRetrainComplete w e
  | routingTableFailedMark => exact canon_execRoutingTableFailedMark w e
  | powerCapCheck => exact canon_execPowerCapCheck w e
  | thermalThrottle => exact canon_execThermalThrottle w e
  | thermalTrip => exact canon_execThermalTrip w e
  | thermalResume => exact canon_execThermalResume w e
  | residentLoopStart => exact canon_execResidentLoopStart w e

/-! ### The step -/

theorem canon_countStall {s : State} {i : Instr} (w : Canon s) : Canon (countStall s i) := by
  rw [countStall]
  split
  · exact w
  extract_lets n
  split
  · exact w
  · exact canon_bumpCl w

theorem canon_eventStep {s : State} {e : Option Instr} (w : Canon s) : Canon (eventStep e s).2 := by
  cases e with
  | none => exact w
  | some i => exact canon_inTurn w

theorem canon_coreStep {s : State} {core : Nat} (w : Canon s) : Canon (coreStep s core).2 := by
  rw [coreStep]
  split
  · exact w
  · exact canon_countStall (canon_hartStep (canon_giveIssue (canon_inTurn w)))

theorem canon_pick {s : State} (w : Canon s) : Canon (pick s).2 := by
  have sched : ∀ {u : State} (x : Sched), Canon u → Canon { u with sched := x } := fun _ hu => hu
  have hs : Canon (settle s) := canon_settle w
  rw [pick]
  split
  · exact canon_eventStep (sched _ w)
  generalize settle s = u at hs
  dsimp only
  split
  · exact canon_eventStep (sched _ hs)
  · exact canon_coreStep (sched _ hs)
  generalize (if u.cycle % 2 = 1 then autoEvent u else none) = e
  split
  · exact canon_eventStep hs
  split
  · exact canon_coreStep hs
  · exact canon_eventStep hs

theorem canon_step {s t : State} (w : Canon s) (e : step s = .next t) : Canon t := by
  have hp : Canon (pick s).2 := canon_pick w
  generalize hpick : pick s = p at hp
  rcases p with ⟨_ | i, u⟩
  · simp only [step, hpick] at e
    exact next_canon e (canon_tick hp)
  · simp only [step, hpick] at e
    cases hi : exec i u with
    | next v =>
      rw [hi] at e
      exact next_canon e (canon_tick (canon_exec hp hi))
    | fault f => rw [hi] at e; cases e
    | refused r => rw [hi] at e; cases e

/-- Settles O60: `Canon` goes through the choice of what runs, the instruction or event, and the passing of time. -/
theorem memoryStaysCanonical : Obligations.MemoryStaysCanonical :=
  fun _ _ w e => canon_step w e

end Sys2Proof.Machine
end

section
namespace Sys2Proof.Machine
/-! What reset leaves (O56). -/

/-- Settles O56: each table of the reset state is empty, so what it holds is its default. -/
theorem resetState : Obligations.ResetState := by
  unfold Obligations.ResetState
  extract_lets s
  refine ⟨fun a => ⟨rfl, rfl, rfl⟩, rfl, rfl, rfl, fun h => ⟨rfl, rfl, rfl, rfl, rfl, rfl, rfl⟩, fun c => ⟨rfl, rfl, rfl, rfl, rfl, rfl⟩,
    fun c n => ⟨rfl, rfl, rfl, rfl, rfl⟩, rfl, rfl, rfl, fun st hst => ?_, rfl, rfl, rfl, rfl, fun asid va => ?_⟩
  · refine if_pos ?_
    simp only [Bool.and_eq_true, decide_eq_true_eq]
    omega
  · have off : bit (trReg State.reset 0x100) 0 = false := by decide
    simp [s, walk, off]

end Sys2Proof.Machine
end

section
namespace Sys2Proof.Machine
/-! Ages of cache lines and changes of bank mode (O48): the bits of a replaced field and of a cleared bank. -/

/-- A word's number split at a bit field: what is below, the field, what is above. -/
theorem split_field (n lo k : Nat) : n = 2 ^ lo * (2 ^ k * (n / 2 ^ lo / 2 ^ k) + bits n lo k) + n % 2 ^ lo := by
  rw [bits, Nat.div_add_mod, Nat.div_add_mod]

theorem toNat_setFld {w : Word} {hi lo : Nat} (h : lo ≤ hi) (hh : hi < 64) (v : Nat) :
    (setFld w hi lo v).toNat = 2 ^ lo * (2 ^ (hi - lo + 1) * (w.toNat / 2 ^ lo / 2 ^ (hi - lo + 1)) + v % 2 ^ (hi - lo + 1)) +
      w.toNat % 2 ^ lo := by
  have hs := split_field w.toNat lo (hi - lo + 1)
  have hlow : w.toNat % 2 ^ lo < 2 ^ lo := Nat.mod_lt _ (by positivity)
  have hv : v % 2 ^ (hi - lo + 1) < 2 ^ (hi - lo + 1) := Nat.mod_lt _ (by positivity)
  have hp : 2 ^ lo * 2 ^ (hi - lo + 1) = 2 ^ (hi + 1) := by rw [← pow_add]; congr 1; omega
  have hq : 2 ^ (hi + 1) * 2 ^ (63 - hi) = 2 ^ 64 := by rw [← pow_add]; congr 1; omega
  have hA : w.toNat / 2 ^ lo / 2 ^ (hi - lo + 1) < 2 ^ (63 - hi) := by
    rw [Nat.div_div_eq_div_mul, hp]
    exact Nat.div_lt_of_lt_mul (hq ▸ w.isLt)
  rw [setFld, BitVec.toNat_ofNat, fld]
  generalize w.toNat / 2 ^ lo / 2 ^ (hi - lo + 1) = A at *
  generalize w.toNat % 2 ^ lo = L at *
  generalize bits w.toNat lo (hi - lo + 1) = f at *
  generalize v % 2 ^ (hi - lo + 1) = v' at *
  generalize 2 ^ (hi - lo + 1) = N at *
  generalize 2 ^ lo = P at *
  have e : w.toNat - f * P + v' * P = P * (N * A + v') + L := by
    rw [hs]
    have : P * (N * A + f) = P * (N * A) + f * P := by ring
    have : P * (N * A + v') = P * (N * A) + v' * P := by ring
    omega
  rw [e, Nat.mod_eq_of_lt]
  calc P * (N * A + v') + L < P * (N * A + v' + 1) := by rw [Nat.mul_succ]; omega
    _ ≤ P * (N * (A + 1)) := Nat.mul_le_mul_left _ (by rw [Nat.mul_succ]; omega)
    _ = 2 ^ (hi + 1) * (A + 1) := by rw [← hp]; ring
    _ ≤ 2 ^ (hi + 1) * 2 ^ (63 - hi) := Nat.mul_le_mul_left _ hA
    _ = 2 ^ 64 := hq

theorem getLsbD_setFld {w : Word} {hi lo : Nat} (h : lo ≤ hi) (hh : hi < 64) (v k : Nat) :
    (setFld w hi lo v).getLsbD k = if lo ≤ k ∧ k ≤ hi then v.testBit (k - lo) else w.getLsbD k := by
  have hlow : w.toNat % 2 ^ lo < 2 ^ lo := Nat.mod_lt _ (by positivity)
  have hv : v % 2 ^ (hi - lo + 1) < 2 ^ (hi - lo + 1) := Nat.mod_lt _ (by positivity)
  have htop : k - lo - (hi - lo + 1) + (hi - lo + 1) + lo = k ∨ k < lo + (hi - lo + 1) := by omega
  rw [← BitVec.testBit_toNat, toNat_setFld h hh, Nat.testBit_two_pow_mul_add _ hlow, Nat.testBit_two_pow_mul_add _ hv,
    ← BitVec.testBit_toNat]
  split
  · rw [if_neg (by omega), Nat.testBit_mod_two_pow]
    simp [*]
  · split
    · rw [if_pos (by omega), Nat.testBit_mod_two_pow]
      simp [*]
    · rw [if_neg (by omega), Nat.testBit_div_two_pow, Nat.testBit_div_two_pow]
      congr 1; omega

theorem testBit_fld (w : Word) (hi lo i : Nat) : (fld w hi lo).testBit i = (decide (i < hi - lo + 1) && w.getLsbD (lo + i)) := by
  rw [fld, bits, Nat.testBit_mod_two_pow, Nat.testBit_div_two_pow, ← BitVec.testBit_toNat, Nat.add_comm i]

/-- A set bit taken off a number. -/
theorem testBit_sub_two_pow {n b : Nat} (h : n.testBit b = true) (k : Nat) :
    (n - 2 ^ b).testBit k = (decide (k ≠ b) && n.testBit k) := by
  have hlow : n % 2 ^ b < 2 ^ b := Nat.mod_lt _ (by positivity)
  have hodd : n / 2 ^ b % 2 = 1 := by simpa [Nat.testBit_eq_decide_div_mod_eq] using h
  have hn : n = 2 ^ b * (2 * (n / 2 ^ b / 2) + 1) + n % 2 ^ b := by
    rw [← hodd, Nat.div_add_mod, Nat.div_add_mod]
  have hs : n - 2 ^ b = 2 ^ b * (2 * (n / 2 ^ b / 2)) + n % 2 ^ b := by
    rw [Nat.mul_succ] at hn
    omega
  rw [hs, Nat.testBit_two_pow_mul_add _ hlow, Nat.testBit_mod_two_pow]
  by_cases hk : k < b
  · simp [hk, Nat.ne_of_lt hk]
  · obtain ⟨j, rfl⟩ := Nat.exists_eq_add_of_le (Nat.le_of_not_lt hk)
    rw [if_neg hk, Nat.add_sub_cancel_left]
    cases j with
    | zero => simp
    | succ j =>
      rw [Nat.testBit_succ, Nat.mul_div_cancel_left _ Nat.two_pos, Nat.div_div_eq_div_mul, ← Nat.pow_succ,
        Nat.testBit_div_two_pow]
      simp [show j + (b + 1) = b + (j + 1) by omega]

/-- What a clearing of cells leaves of a listed memory. -/
theorem memGet_filter {m : List Host.Cell} (p : Nat → Bool) (a : Nat) :
    memGet (m.filter fun c => p c.1) a = if p a then memGet m a else 0 := by
  induction m with
  | nil => simp [memGet, unlisted]
  | cons c m ih =>
    obtain ⟨k, b⟩ := c
    rw [List.filter_cons]
    by_cases hk : k = a
    · subst hk
      cases hp : p k <;> simp [memGet, hp, ih]
    · cases p k <;> simp [memGet, hk, ih]

theorem memGet_zeroBank (s : State) (cl b a : Nat) :
    memGet (zeroBank s cl b).mem a =
      if sramPa s cl (b * 0x40000) ≤ a ∧ a < sramPa s cl (b * 0x40000) + 0x40000 then 0 else memGet s.mem a := by
  refine (memGet_filter (fun k => !(sramPa s cl (b * 0x40000) ≤ k && k < sramPa s cl (b * 0x40000) + 0x40000)) a).trans ?_
  by_cases h : sramPa s cl (b * 0x40000) ≤ a ∧ a < sramPa s cl (b * 0x40000) + 0x40000
  · rw [if_pos h, if_neg (by simpa using h)]
  · rw [if_neg h, if_pos (by simp only [Bool.not_eq_true', Bool.and_eq_false_iff, decide_eq_false_iff_not]; omega)]

theorem bankMode_congr {s t : State} {c k : Nat}
    (h : ∀ i, i < 2 → (getCluster t c).csbmode.getLsbD (4 * k + i) = (getCluster s c).csbmode.getLsbD (4 * k + i)) :
    bankMode t c k = bankMode s c k := by
  refine Nat.eq_of_testBit_eq fun i => ?_
  rw [bankMode, bankMode, testBit_fld, testBit_fld, show 4 * k + 1 - 4 * k + 1 = 2 by omega]
  by_cases hi : i < 2
  · rw [h i hi]
  · simp [hi]

theorem exec_dataCacheLineExpiry {s : State} {c i : Nat} {l : Line} (hl : (getCore s c).dcache[i]? = some l)
    (ha : l.filled + 4096 ≤ s.cycle) : exec (.dataCacheLineExpiry c i) s =
      .next (modCore s c fun c => { c with dcache := c.dcache.eraseIdx i }) := by
  change execDataCacheLineExpiry c i s = _
  rw [execDataCacheLineExpiry, hl]
  exact congrArg _ (if_pos ha)

theorem exec_clusterCacheLineExpiry {s : State} {c i : Nat} {l : Line} (hl : (getCluster s c).ccache[i]? = some l)
    (ha : l.filled + 65536 ≤ s.cycle) : exec (.clusterCacheLineExpiry c i) s =
      .next (modCluster s c fun c => { c with ccache := c.ccache.eraseIdx i }) := by
  change execClusterCacheLineExpiry c i s = _
  rw [execClusterCacheLineExpiry, hl]
  exact congrArg _ (if_pos ha)

/-- The end of a bank's mode change: its field of the modes is the one asked for, its pending bit is clear, and its storage is
cleared if it was or becomes a cache. -/
theorem bankModeChangeDone_does {s : State} {cl b : Nat} (hb : b < 16) (hp : bankPend s cl b = true) :
    Does (.bankModeChangeDone cl b) s fun t =>
      let f := fld (getCluster s cl).csbnext (4 * b + 3) (4 * b)
      (getCluster t cl).csbmode = setFld (getCluster s cl).csbmode (4 * b + 3) (4 * b) f ∧
      (getCluster t cl).csbpend = (getCluster s cl).csbpend - 2 ^ b ∧
      t.mem = if bankMode s cl b = 1 ∨ f % 4 = 1 then (zeroBank s cl b).mem else s.mem := by
  have hc : (decide (16 ≤ b) || !bankPend s cl b) ≠ true := by simp [hp, hb]
  refine ⟨_, congrArg Host.Outcome.next (if_neg hc), ?_⟩
  extract_lets f old u v x
  have hcl : getCluster u cl = getCluster s cl := by
    dsimp only [u]
    split
    · rfl
    · rfl
  have hm : u.mem = if bankMode s cl b = 1 ∨ f % 4 = 1 then (zeroBank s cl b).mem else s.mem := by
    by_cases h : bankMode s cl b = 1 ∨ f % 4 = 1
    · simp [u, old, h]
    · simp [u, old, h]
  beta_reduce
  rw [← hm, ← hcl]
  simp [x, v, modFifo]

/-- Settles O48: a line by the equation of its expiry, a bank by what the end of its change leaves, bit by bit. -/
theorem cacheAndBankEvents : Obligations.CacheAndBankEvents := by
  unfold Obligations.CacheAndBankEvents
  intro s c i b l
  refine ⟨fun hl ha => ⟨_, exec_dataCacheLineExpiry hl ha, getCore_modCore_self .., rfl, rfl⟩,
    fun hl ha => ⟨_, exec_clusterCacheLineExpiry hl ha, getCluster_modCluster_self .., rfl, rfl⟩, fun hb hp => ?_⟩
  obtain ⟨t, he, hmode, hpend, hmem⟩ := bankModeChangeDone_does hb hp
  refine ⟨t, he, ?_⟩
  extract_lets f
  refine ⟨?_, ?_, fun k hk hkb => ⟨bankMode_congr fun j hj => ?_, ?_⟩, fun a => ?_⟩
  · refine Nat.eq_of_testBit_eq fun j => ?_
    rw [bankMode, testBit_fld, hmode, getLsbD_setFld (by omega) (by omega), show 4 = 2 ^ 2 from rfl, Nat.testBit_mod_two_pow]
    by_cases hj : j < 2
    · rw [if_pos (by omega), Nat.add_sub_cancel_left]
      simp [hj, f]
    · simp [hj]
  · rw [bankPend, hpend, testBit_sub_two_pow hp]
    simp
  · rw [hmode, getLsbD_setFld (by omega) (by omega), if_neg (by omega)]
  · rw [bankPend, hpend, testBit_sub_two_pow hp]
    simp [hkb, bankPend]
  · rw [hmem]
    split
    next h =>
      rw [memGet_zeroBank]
      simp only [f, h, true_and]
    next h => rw [if_neg fun h' => h h'.1]

end Sys2Proof.Machine
end

section
namespace Sys2Proof.Machine
/-! The registers of bank modes, through traps, returned waits and finished jobs (R83): what `csbWrite` passes through before it
writes CSBNEXT. -/

/-- A cluster's registers of bank modes: in force, changing, and asked for. -/
def Cluster.bankRegs (c : Cluster) : Word × Nat × Word := (c.csbmode, c.csbpend, c.csbnext)

/-- The registers of bank modes of every cluster are those of the table `m`. -/
def BanksOf (m t : Tbl Cluster) : Prop := ∀ c, (tget {} t c).bankRegs = (tget {} m c).bankRegs

/-- The state's registers of bank modes are those of the table `m`. -/
def BanksAre (m : Tbl Cluster) (s : State) : Prop := BanksOf m s.clusters

theorem banksAre_modCluster {m : Tbl Cluster} {s : State} {c : Nat} {f : Cluster → Cluster} (w : BanksAre m s)
    (hf : ∀ k, (f k).bankRegs = k.bankRegs) : BanksAre m (modCluster s c f) := by
  intro k
  by_cases h : k = c
  · subst h
    exact (congrArg Cluster.bankRegs (getCluster_modCluster_self s k f)).trans ((hf _).trans (w k))
  · exact (congrArg Cluster.bankRegs (getCluster_modCluster_ne s f h)).trans (w k)

theorem banksAre_modSlot {m : Tbl Cluster} {s : State} {h : Nat} {f : Slot → Slot} (w : BanksAre m s) :
    BanksAre m (modSlot s h f) := w

theorem banksAre_modCore {m : Tbl Cluster} {s : State} {c : Nat} {f : Core → Core} (w : BanksAre m s) :
    BanksAre m (modCore s c f) := w

theorem banksAre_modKs {m : Tbl Cluster} {s : State} {f : Keystone → Keystone} (w : BanksAre m s) :
    BanksAre m (modKs s f) := w

theorem banksAre_modTr {m : Tbl Cluster} {s : State} {f : Trestle → Trestle} (w : BanksAre m s) :
    BanksAre m (modTr s f) := w

theorem banksAre_foldl {m : Tbl Cluster} {α : Type} {f : State → α → State} {l : List α} {s : State} (w : BanksAre m s)
    (h : ∀ u a, BanksAre m u → BanksAre m (f u a)) : BanksAre m (l.foldl f s) :=
  foldl_keeps (P := BanksAre m) f l s w fun u a _ hu => h u a hu

theorem banksAre_bumpCl {m : Tbl Cluster} {s : State} {cl off n : Nat} (w : BanksAre m s) :
    BanksAre m (bumpCl s cl off n) := by
  unfold bumpCl
  grind [BanksAre, Cluster.bankRegs, banksAre_modCluster]

theorem banksAre_bumpTr {m : Tbl Cluster} {s : State} {off : Nat} (w : BanksAre m s) : BanksAre m (bumpTr s off) := w

theorem banksAre_retag {m : Tbl Cluster} {s : State} {key pa : Nat} (w : BanksAre m s) :
    BanksAre m (retag s key pa) := by
  unfold retag
  grind [BanksAre, Cluster.bankRegs, banksAre_foldl]

theorem banksAre_modTab {m : Tbl Cluster} {s : State} {core ctx v : Nat} {f : Table → Table} (w :
    BanksAre m s) : BanksAre m (modTab s core ctx v f) := w

theorem banksAre_markOne {m : Tbl Cluster} {s : State} {core ctx v : Nat} {c : StaleCause} {o : Nat} (w :
    BanksAre m s) : BanksAre m (markOne s core ctx v c o) := by
  unfold markOne
  grind [BanksAre, Cluster.bankRegs, banksAre_bumpCl, banksAre_modTab, banksAre_modCluster]

theorem banksAre_markStale {m : Tbl Cluster} {s : State} {pas : List Nat} (w : BanksAre m s) :
    BanksAre m (markStale s pas) := by
  unfold markStale
  grind [BanksAre, Cluster.bankRegs, banksAre_markOne, banksAre_foldl]

theorem banksAre_putBytes {m : Tbl Cluster} {s : State} {key : Nat} {cells : List (Nat × Byte)} {psn : Bool}
    (w : BanksAre m s) : BanksAre m (putBytes s key cells psn) := by
  obtain ⟨u, e, hu⟩ := putBytes_offMem s key cells psn
  rw [e]
  have hc : (offMem u).clusters = (offMem s).clusters := congrArg State.clusters hu
  exact banksAre_markStale (show BanksOf m (offMem u).clusters from hc ▸ w)

theorem banksAre_put64 {m : Tbl Cluster} {s : State} {pa : Nat} {v : Word} {psn : Bool} (w :
    BanksAre m s) : BanksAre m (put64 s pa v psn) := by
  unfold put64
  grind [BanksAre, Cluster.bankRegs, banksAre_putBytes]

theorem banksAre_dropOuts {m : Tbl Cluster} {s : State} {h : Nat} {pas : List Nat} (w : BanksAre m s) :
    BanksAre m (dropOuts s h pas) := by
  unfold dropOuts
  grind [BanksAre, Cluster.bankRegs, banksAre_modSlot]

theorem banksAre_writeReg {m : Tbl Cluster} {s : State} {h n : Nat} {v : Word} {psn : Bool} (w :
    BanksAre m s) : BanksAre m (writeReg s h n v psn) := by
  unfold writeReg
  grind [BanksAre, Cluster.bankRegs, banksAre_dropOuts, banksAre_put64]

theorem banksAre_writeWs {m : Tbl Cluster} {s : State} {h n : Nat} {v : Word} (w : BanksAre m s) :
    BanksAre m (writeWs s h n v) := by
  unfold writeWs
  grind [BanksAre, Cluster.bankRegs, banksAre_writeReg]

theorem banksAre_jwrite {m : Tbl Cluster} {s : State} {l : JLine} (w : BanksAre m s) : BanksAre m (jwrite s l) := by
  unfold jwrite
  grind [BanksAre, Cluster.bankRegs, banksAre_bumpTr, banksAre_put64, banksAre_modTr]

theorem banksAre_jlog {m : Tbl Cluster} {s : State} {kind queue status whr : Nat} {d0 d1 : Word} (w :
    BanksAre m s) : BanksAre m (jlog s kind queue status whr d0 d1) := by
  unfold jlog
  grind [BanksAre, Cluster.bankRegs, banksAre_modTr, banksAre_jwrite]

theorem banksAre_addAcc {m : Tbl Cluster} {s : State} {core tag : Nat} {w : Word} (hs : BanksAre m s) :
    BanksAre m (addAcc s core tag w) := hs

theorem banksAre_modTxn {m : Tbl Cluster} {s : State} {uid : Nat} {f : Txn → Txn} (w : BanksAre m s) :
    BanksAre m (modTxn s uid f) := w

theorem banksAre_modLaunch {m : Tbl Cluster} {s : State} {tag : Nat} {f : Launch → Launch} (w :
    BanksAre m s) : BanksAre m (modLaunch s tag f) := w

theorem banksAre_modGang {m : Tbl Cluster} {s : State} {id : Nat} {f : Gang → Gang} (w : BanksAre m s) :
    BanksAre m (modGang s id f) := w

theorem banksAre_sendReleases {m : Tbl Cluster} {s : State} {num : Nat} {ts : List TileReq} (w :
    BanksAre m s) : BanksAre m (sendReleases s num ts) := w

theorem banksAre_releaseTxn {m : Tbl Cluster} {s : State} {uid : Nat} (w : BanksAre m s) :
    BanksAre m (releaseTxn s uid) := by
  unfold releaseTxn
  grind [BanksAre, Cluster.bankRegs, banksAre_modTxn, banksAre_sendReleases, banksAre_modKs]

theorem banksAre_dropTxn {m : Tbl Cluster} {s : State} {uid : Nat} (w : BanksAre m s) : BanksAre m (dropTxn s uid) := by
  unfold dropTxn
  grind [BanksAre, Cluster.bankRegs, banksAre_modLaunch, banksAre_modTxn, banksAre_modKs]

theorem banksAre_modPools {m : Tbl Cluster} {s : State} {f : List JEnt → List JEnt} (w : BanksAre m s) :
    BanksAre m (modPools s f) := w

theorem banksAre_dropRefused {m : Tbl Cluster} {s : State} {h uid num : Nat} (w : BanksAre m s) :
    BanksAre m (dropRefused s h uid num) := by
  unfold dropRefused
  grind [BanksAre, Cluster.bankRegs, banksAre_jlog, banksAre_modPools, banksAre_foldl]

theorem banksAre_uninstall {m : Tbl Cluster} {s : State} {h : Nat} (w : BanksAre m s) : BanksAre m (uninstall s h) := by
  unfold uninstall
  grind [BanksAre, Cluster.bankRegs, banksAre_writeWs]

theorem banksAre_unmark {m : Tbl Cluster} {s : State} {h : Nat} (w : BanksAre m s) : BanksAre m (unmark s h) := w

theorem banksAre_toLoop {m : Tbl Cluster} {s : State} {h : Nat} (w : BanksAre m s) : BanksAre m (toLoop s h) := by
  obtain ⟨g, e⟩ := toLoop_eq s h
  rw [e]
  exact banksAre_modSlot (banksAre_unmark (banksAre_uninstall w))

theorem banksAre_endTask {m : Tbl Cluster} {s : State} {h : Nat} {operand extra : Word} (w :
    BanksAre m s) : BanksAre m (endTask s h operand extra) := by
  unfold endTask
  grind [BanksAre, Cluster.bankRegs, banksAre_toLoop, banksAre_releaseTxn, banksAre_addAcc, banksAre_dropTxn]

theorem banksAre_addBit {m : Tbl Cluster} {s : State} {h : Nat} {b : Word} (w : BanksAre m s) :
    BanksAre m (addBit s h b) := by
  unfold addBit
  grind [BanksAre, Cluster.bankRegs, banksAre_addAcc]

theorem banksAre_endUnhandled {m : Tbl Cluster} {s : State} {h : Nat} {t : Trap} {pc : Word} (w :
    BanksAre m s) : BanksAre m (endUnhandled s h t pc) := by
  unfold endUnhandled
  grind [BanksAre, Cluster.bankRegs, banksAre_jlog, banksAre_modSlot, banksAre_endTask, banksAre_dropRefused]

theorem banksAre_enterHandler {m : Tbl Cluster} {s : State} {h : Nat} {t : Trap} {pc : Word} (w :
    BanksAre m s) : BanksAre m (enterHandler s h t pc) := by
  unfold enterHandler
  grind [BanksAre, Cluster.bankRegs, banksAre_writeWs, banksAre_modSlot]

theorem banksAre_enterTrap {m : Tbl Cluster} {s : State} {h : Nat} {t : Trap} {pc : Word} (w :
    BanksAre m s) : BanksAre m (enterTrap s h t pc) := by
  unfold enterTrap
  grind [BanksAre, Cluster.bankRegs, banksAre_addBit, banksAre_endUnhandled, banksAre_enterHandler]

theorem banksAre_takeTrap {m : Tbl Cluster} {s : State} {h : Nat} {t : Trap} {pc : Word} (w :
    BanksAre m s) : BanksAre m (takeTrap s h t pc) := by
  unfold takeTrap
  grind [BanksAre, Cluster.bankRegs, banksAre_enterTrap, banksAre_modSlot]

theorem banksAre_retireH {m : Tbl Cluster} {s : State} {h : Nat} {sw : Bool} {pc : Word} (w :
    BanksAre m s) : BanksAre m (retireH s h sw pc) := w

theorem banksAre_acquire {m : Tbl Cluster} {s : State} {h : Nat} {sc : Scope} (w : BanksAre m s) :
    BanksAre m (acquire s h sc) := by
  unfold acquire
  grind [BanksAre, Cluster.bankRegs, banksAre_modCore, banksAre_modSlot]

theorem banksAre_withdraw {m : Tbl Cluster} {s : State} {h : Nat} (w : BanksAre m s) : BanksAre m (withdraw s h) := by
  unfold withdraw
  grind [BanksAre, Cluster.bankRegs, banksAre_modKs, banksAre_modCluster, banksAre_modGang, banksAre_modCore,
    banksAre_modSlot]

theorem banksAre_remodeStale {m : Tbl Cluster} {s : State} {cl b : Nat} (w : BanksAre m s) :
    BanksAre m (remodeStale s cl b) := by
  unfold remodeStale
  grind [BanksAre, Cluster.bankRegs, banksAre_markOne, banksAre_foldl]

theorem banksAre_takeLine {m : Tbl Cluster} {s : State} {h d line : Nat} (w : BanksAre m s) :
    BanksAre m (takeLine s h d line) := by
  unfold takeLine
  grind [BanksAre, Cluster.bankRegs, banksAre_writeReg, banksAre_acquire, banksAre_modCluster]

theorem banksAre_serveLine {m : Tbl Cluster} {s : State} {cl line : Nat} (w : BanksAre m s) :
    BanksAre m (serveLine s cl line) := by
  unfold serveLine
  grind [BanksAre, Cluster.bankRegs, banksAre_retireH, banksAre_modSlot, banksAre_takeLine, banksAre_foldl]

theorem banksAre_finishJob {m : Tbl Cluster} {s : State} {cl : Nat} {j : Job} (w : BanksAre m s) :
    BanksAre m (finishJob s cl j) := by
  have reads : ∀ {u : State} (l), BanksAre m u → BanksAre m { u with tileReads := l } := fun _ hu => hu
  exact banksAre_serveLine (banksAre_bumpCl (reads _ (banksAre_modCluster w fun _ => rfl)))

theorem banksAre_endFifoWaits {m : Tbl Cluster} {s : State} {cl b : Nat} (w : BanksAre m s) :
    BanksAre m (endFifoWaits s cl b) := by
  unfold endFifoWaits
  grind [BanksAre, Cluster.bankRegs, banksAre_takeTrap, banksAre_withdraw, banksAre_finishJob, banksAre_foldl]

end Sys2Proof.Machine
end

section
namespace Sys2Proof.Machine
/-! The register writes that act, and the Control Port (R394, R395, R415). -/

section
variable {s : State}

theorem served_next (hf : s.tr.fw ≠ .recovery) (x : State) : (Host.Outcome.next (if s.tr.fw = .recovery then s else x) : Out) = .next x :=
  congrArg Host.Outcome.next (if_neg hf)

/-- In recovery no register is reached (R419). -/
theorem recovery_serves_nothing (v : Word) (n m : Nat) (sp : RegSpace) (cp : Bool) (hf : s.tr.fw = .recovery) :
    ∀ i ∈ [Instr.monsend cp v, .wakesend v, .tlbinvAll cp, .tlbinvAsid cp n, .tlbinvPage cp n m, .keycmdLoad cp n,
      .keycmdClear cp n, .fwhbOk cp, .fwhbRefuse cp, .csbmodeWrite n v, .fifocntWrite n m, .evlineWrite n m, .wlrecWrite n m v,
      .qrecWrite n v, .sgthrWrite n v, .pushpoolWrite v, .counterClear sp n, .registerWrite cp sp n v, .qwptrWrite n v,
      .qwakeWrite n, .qfaultResume n, .qfaultSkip n, .graphTrigger v, .controlPortWrite n [], .controlPortRead n],
      exec i s = .next s := by
  have halt : ∀ x : State, (Host.Outcome.next (if s.tr.fw = .recovery then s else x) : Out) = .next s := fun x =>
    congrArg Host.Outcome.next (if_pos hf)
  intro i hi
  simp only [List.mem_cons, List.not_mem_nil, or_false] at hi
  rcases hi with rfl | rfl | rfl | rfl | rfl | rfl | rfl | rfl | rfl | rfl | rfl | rfl | rfl | rfl | rfl | rfl | rfl | rfl | rfl |
    rfl | rfl | rfl | rfl | rfl | rfl
  all_goals exact halt _

theorem fld_high_zero {v : Word} {lo : Nat} (h : v.toNat < 2 ^ lo) : fld v 63 lo = 0 := by
  rw [fld, bits, Nat.div_eq_of_lt h, Nat.zero_mod]

theorem exec_monsend (hf : s.tr.fw ≠ .recovery) {v : Word} (hv : v.toNat < 8192) : exec (.monsend false v) s =
    .next (modSlot (setPending s v.toNat 10) v.toNat fun x => { x with monword := trReg s 0x80 }) :=
  (served_next hf _).trans (congrArg Host.Outcome.next ((if_neg Bool.false_ne_true).trans
    (if_neg (by simp [fld_high_zero (lo := 13) hv]))))

theorem exec_wakesend (hf : s.tr.fw ≠ .recovery) {v : Word} (hv : v.toNat < 8192) : exec (.wakesend v) s =
    .next (modSlot (setPending s v.toNat 8) v.toNat fun x => { x with wakeval := trReg s 0x90 }) :=
  (served_next hf _).trans (congrArg Host.Outcome.next (if_neg (by simp [fld_high_zero (lo := 13) hv])))

theorem getSlot_pending_self (h i : Nat) (f : Slot → Slot) :
    getSlot (modSlot (setPending s h i) h f) h = f { getSlot s h with hsw := setBit (getSlot s h).hsw i true } := by
  simp [setPending, modHsw]

theorem getSlot_pending_ne {h k : Nat} (i : Nat) (f : Slot → Slot) (hk : k ≠ h) :
    getSlot (modSlot (setPending s h i) h f) k = getSlot s k := by
  rw [getSlot_modSlot_ne _ _ hk]
  exact getSlot_modSlot_ne _ _ hk

theorem monsend_does (hf : s.tr.fw ≠ .recovery) {v : Word} (hv : v.toNat < 8192) : Does (.monsend false v) s fun t =>
    getSlot t v.toNat = { getSlot s v.toNat with hsw := setBit (getSlot s v.toNat).hsw 10 true, monword := trReg s 0x80 } ∧
    t.mem = s.mem ∧ ∀ k, k ≠ v.toNat → getSlot t k = getSlot s k :=
  ⟨_, exec_monsend hf hv, getSlot_pending_self .., rfl, fun _ hk => getSlot_pending_ne _ _ hk⟩

theorem wakesend_does (hf : s.tr.fw ≠ .recovery) {v : Word} (hv : v.toNat < 8192) : Does (.wakesend v) s fun t =>
    getSlot t v.toNat = { getSlot s v.toNat with hsw := setBit (getSlot s v.toNat).hsw 8 true, wakeval := trReg s 0x90 } ∧
    t.mem = s.mem ∧ ∀ k, k ≠ v.toNat → getSlot t k = getSlot s k :=
  ⟨_, exec_wakesend hf hv, getSlot_pending_self .., rfl, fun _ hk => getSlot_pending_ne _ _ hk⟩

/-! Trestle's registers that the Control Port may not write. -/

theorem exec_tlbinv_refused (hf : s.tr.fw ≠ .recovery) (a va : Nat) :
    exec (.tlbinvAll true) s = .next (bumpTr s 0x38) ∧ exec (.tlbinvAsid true a) s = .next (bumpTr s 0x38) ∧
    exec (.tlbinvPage true a va) s = .next (bumpTr s 0x38) :=
  ⟨served_next hf _, served_next hf _, served_next hf _⟩

/-! Translations. -/

theorem exec_tlbinvAll (hf : s.tr.fw ≠ .recovery) : exec (.tlbinvAll false) s = .next (tlbinv s false none none) := served_next hf _

theorem exec_tlbinvAsid (hf : s.tr.fw ≠ .recovery) {a : Nat} (ha : a < 1024) :
    exec (.tlbinvAsid false a) s = .next (tlbinv s false (some a) none) := by
  have h : exec (.tlbinvAsid false a) s = .next (tlbinv s false (some (a % 1024)) none) := served_next hf _
  rw [Nat.mod_eq_of_lt ha] at h
  exact h

theorem exec_tlbinvPage (hf : s.tr.fw ≠ .recovery) {a va : Nat} (ha : a < 1024) (hva : va < 2 ^ 56) :
    exec (.tlbinvPage false a va) s = .next (tlbinv s false (some a) (some va)) := by
  have h : exec (.tlbinvPage false a va) s = .next (tlbinv s false (some (a % 1024)) (some (va % 2 ^ 56))) := served_next hf _
  rw [Nat.mod_eq_of_lt ha, Nat.mod_eq_of_lt hva] at h
  exact h

/-- No entry that an invalidation covers is left in a TLB. -/
theorem tlbinv_left {asid va : Option Nat} {c : Nat × Cluster} (hc : c ∈ (tlbinv s false asid va).clusters) {e : TlbEnt}
    (he : e ∈ c.2.tlb) : ¬ ((∀ a, asid = some a → a = e.asid) ∧
      ∀ v, va = some v → e.vpn = v / (if e.big then 2 ^ 29 else 2 ^ 16)) := by
  obtain ⟨⟨n, k⟩, -, rfl⟩ := List.mem_map.1 (show c ∈ s.clusters.map _ from hc)
  rintro ⟨ha, hv⟩
  obtain ⟨-, hp⟩ := List.mem_filter.1 he
  cases asid <;> cases va <;> simp_all

/-! Keys. -/

theorem keyCommand_accepted {slot : Nat} (h1 : 1 ≤ slot) (h2 : slot ≤ 8191) (hn : s.tr.keyCmd = none) (load : Bool) :
    keyCommand s false load slot = modTr s fun t => { t with
      keyCmd := some (slot, if load then (span 0 8).map fun i => trReg s (0x118 + 8 * i) else List.replicate 8 0) } := by
  have hc : (decide (slot = 0) || decide (8191 < slot) || s.tr.keyCmd.isSome) = false := by
    simp [hn, Nat.ne_of_gt h1, h2]
  simp only [keyCommand, Bool.false_eq_true, if_false, hc]

theorem keycmd_does (hf : s.tr.fw ≠ .recovery) {slot : Nat} (h1 : 1 ≤ slot) (h2 : slot ≤ 8191) (hn : s.tr.keyCmd = none) :
    (Does (.keycmdLoad false slot) s fun t =>
      t.tr.keyCmd = some (slot, (span 0 8).map fun i => trReg s (0x118 + 8 * i)) ∧ t.mem = s.mem) ∧
    (Does (.keycmdClear false slot) s fun t => t.tr.keyCmd = some (slot, List.replicate 8 0) ∧ t.mem = s.mem) :=
  ⟨⟨_, (served_next hf _).trans (congrArg _ (keyCommand_accepted h1 h2 hn true)), rfl, rfl⟩,
    ⟨_, (served_next hf _).trans (congrArg _ (keyCommand_accepted h1 h2 hn false)), rfl, rfl⟩⟩

/-- A key enters its slot; nothing in flight stood waiting for it. -/
theorem keySlotInstalled_does {slot : Nat} {ks : List Word} (hk : s.tr.keyCmd = some (slot, ks))
    (hs : ∀ a ∈ s.flight, ∀ pa, a.st ≠ .retry pa) : Does .keySlotInstalled s fun t =>
      tget [] t.tr.keys slot = ks ∧ t.tr.keyCmd = none ∧ t.mem = s.mem := by
  have he : exec .keySlotInstalled s = .next (modTr s fun t => { t with keys := tput slot ks t.keys, keyCmd := none }) := by
    change execKeySlotInstalled s = _
    rw [execKeySlotInstalled, hk]
    dsimp only
    rw [List.filter_eq_nil_iff.2]
    · rfl
    · intro a ha
      have := hs a ha
      cases hst : a.st <;> simp_all
  exact ⟨_, he, tget_tput_self .., rfl, rfl⟩

/-! Event lines, FIFOs, work lists, queues and thresholds. -/

theorem fifocnt_does (hf : s.tr.fw ≠ .recovery) {cl b : Nat} (hc : cl < 128) (hb : b < 16) :
    Does (.fifocntWrite cl b) s fun t => fifoOf t cl b = ⟨0, 0, 0⟩ ∧ t.mem = s.mem ∧ t.slots = s.slots := by
  refine ⟨_, (served_next hf _).trans (congrArg _ (if_pos (by simp [hc, hb]))), ?_, rfl, rfl⟩
  simp [fifoOf, modFifo, tmod]

theorem evline_does (hf : s.tr.fw ≠ .recovery) {cl e : Nat} (hc : cl < 128) (he : e < 32) :
    Does (.evlineWrite cl e) s fun t =>
      getLine t cl e = { getLine s cl e with err := 0, bad := none } ∧ t.mem = s.mem ∧ t.slots = s.slots := by
  have hw : clWrite s cl (0x400 + 8 * e) ⟨cl * 16, 0, true⟩ 0 = modCluster s cl fun c => { c with
      lines := tmod {} e (fun l => { l with err := 0, bad := none }) c.lines } := by
    have e1 : ¬ 0x400 + 8 * e = 0 := by omega
    have e2 : (decide (0x100 ≤ 0x400 + 8 * e) && decide (0x400 + 8 * e < 0x180)) = false := by simp; omega
    have e3 : (decide (0x300 ≤ 0x400 + 8 * e) && decide (0x400 + 8 * e < 0x380)) = false := by simp; omega
    have e4 : (decide (0x400 ≤ 0x400 + 8 * e) && decide (0x400 + 8 * e < 0x500)) = true := by simp; omega
    simp only [clWrite, e1, e2, e3, e4, if_true, if_false, Bool.false_eq_true]
    rw [Nat.add_sub_cancel_left, Nat.mul_div_cancel_left _ (by decide)]
  refine ⟨_, (served_next hf _).trans (congrArg _ ((if_pos (by simp [hc, he])).trans hw)), ?_, rfl, rfl⟩
  simp [getLine, tmod]

/-- A write of a list's record leaves a list of that record without items; a misaligned one is no list. -/
theorem wlrecWrite_eq (cl l : Nat) (w : Who) (v : Word) : ∃ x : WorkList,
    wlrecWrite s cl l w v = modCluster s cl (fun c => { c with wls := tput l x c.wls }) ∧ x.record = v ∧ x.items = [] ∧
    (v.toNat % 64 ≠ 0 → x.ok = false) := by
  unfold wlrecWrite
  extract_lets put bad
  have hbad : ∃ x : WorkList, put bad = modCluster s cl (fun c => { c with wls := tput l x c.wls }) ∧ x.record = v ∧ x.items = [] ∧
      (v.toNat % 64 ≠ 0 → x.ok = false) := ⟨bad, rfl, rfl, rfl, fun _ => rfl⟩
  split
  · exact hbad
  next ha =>
  split
  · exact hbad
  extract_lets ring cap bm k okF
  split
  · split
    · exact ⟨_, rfl, rfl, rfl, fun h => absurd h ha⟩
    · exact hbad
  · exact hbad

theorem wlrec_does (hf : s.tr.fw ≠ .recovery) {cl l : Nat} (hc : cl < 128) (hl : l < 4) (v : Word) :
    Does (.wlrecWrite cl l v) s fun t => (getList t cl l).record = v ∧ (getList t cl l).items = [] ∧
      (v.toNat % 64 ≠ 0 → (getList t cl l).ok = false) ∧ t.mem = s.mem ∧ t.slots = s.slots := by
  obtain ⟨x, he, hr, hi, ho⟩ := wlrecWrite_eq (s := s) cl l ⟨cl * 16, 0, true⟩ v
  have hx : getList (modCluster s cl (fun c => { c with wls := tput l x c.wls })) cl l = x := by simp [getList]
  refine ⟨_, (served_next hf _).trans (congrArg _ ((if_pos (by simp [hc, hl])).trans he)), ?_⟩
  beta_reduce
  rw [hx]
  exact ⟨hr, hi, ho, rfl, rfl⟩

theorem ksReg_modKs_self (off : Nat) (v : Word) (f : Keystone → Keystone) (h : (f s.ks).regs = tput off v s.ks.regs) :
    ksReg (modKs s f) off = v := by
  rw [ksReg, modKs_ks, h, tget_tput_self]

theorem ksReg_modKs_ne {off k : Nat} (v : Word) (f : Keystone → Keystone) (h : (f s.ks).regs = tput off v s.ks.regs) (hk : k ≠ off) :
    ksReg (modKs s f) k = ksReg s k := by
  rw [ksReg, modKs_ks, h, tget_tput_ne _ _ _ hk, ksReg]

theorem ksReg_bumpKs_self (off : Nat) (h : ksReset off = 0) : ksReg (bumpKs s off) off = ksReg s off + 1 := by
  rw [bumpKs, ksReg_modKs_self off (tget 0 s.ks.regs off + 1) _ rfl, ksReg, h]

theorem ksReg_bumpKs_ne {off k : Nat} (hk : k ≠ off) : ksReg (bumpKs s off) k = ksReg s k :=
  ksReg_modKs_ne _ _ rfl hk

theorem trReg_setTrReg_self (off : Nat) (v : Word) : trReg (setTrReg s off v) off = v := by simp [trReg, setTrReg]

theorem trReg_bumpTr_self (off : Nat) (h : trReset off = 0) : trReg (bumpTr s off) off = trReg s off + 1 := by
  simp [trReg, bumpTr, tmod, h]

theorem trReg_bumpTr_ne {off k : Nat} (hk : k ≠ off) : trReg (bumpTr s off) k = trReg s k := by
  simp [trReg, bumpTr, tmod, tget_tput_ne _ _ _ hk]

theorem sgthr_does (hf : s.tr.fw ≠ .recovery) {st : Nat} (hst : st < 16) (v : Word) :
    Does (.sgthrWrite st v) s fun t => t.mem = s.mem ∧
      if fld v 15 0 ≤ fld v 31 16 ∧ fld v 43 32 ≤ 2048 ∧ fld v 63 44 = 0 then ksReg t (0x1000 + 8 * st) = v
      else ksReg t (0x1000 + 8 * st) = ksReg s (0x1000 + 8 * st) ∧ ksReg t 0x1128 = ksReg s 0x1128 + 1 := by
  refine ⟨sgthrWrite s st v, (served_next hf _).trans (congrArg _ (if_pos hst)), ?_⟩
  by_cases h : fld v 15 0 ≤ fld v 31 16 ∧ fld v 43 32 ≤ 2048 ∧ fld v 63 44 = 0
  · have hw : sgthrWrite s st v = modKs s fun k => { k with regs := tput (0x1000 + 8 * st) v k.regs } := by
      refine if_neg ?_
      simp only [Bool.or_eq_true, decide_eq_true_eq]
      omega
    beta_reduce
    rw [if_pos h, hw]
    exact ⟨rfl, ksReg_modKs_self _ _ _ rfl⟩
  · have hw : sgthrWrite s st v = bumpKs s 0x1128 := by
      refine if_pos ?_
      simp only [Bool.or_eq_true, decide_eq_true_eq]
      omega
    beta_reduce
    rw [if_neg h, hw]
    exact ⟨rfl, ksReg_bumpKs_ne (by omega), ksReg_bumpKs_self _ rfl⟩

theorem pushpool_does (hf : s.tr.fw ≠ .recovery) (v : Word) : Does (.pushpoolWrite v) s fun t => t.mem = s.mem ∧
    if 1 ≤ v.toNat ∧ v.toNat ≤ 32 then (if s.ks.poolUsed = 0 then ksReg t 0x1138 = v else t.ks.poolNew = some v.toNat)
    else ksReg t 0x1138 = ksReg s 0x1138 ∧ ksReg t 0x1128 = ksReg s 0x1128 + 1 := by
  refine ⟨pushpoolWrite s v, served_next hf _, ?_⟩
  beta_reduce
  rw [pushpoolWrite]
  by_cases h : 1 ≤ v.toNat ∧ v.toNat ≤ 32
  · rw [if_neg (by simp only [Bool.or_eq_true, decide_eq_true_eq]; omega), if_pos h]
    split
    · exact ⟨rfl, ksReg_modKs_self _ _ _ rfl⟩
    · exact ⟨rfl, rfl⟩
  · rw [if_pos (by simp only [Bool.or_eq_true, decide_eq_true_eq]; omega), if_neg h]
    exact ⟨rfl, ksReg_bumpKs_ne (by decide), ksReg_bumpKs_self _ rfl⟩

/-! Counters and the watchdog. -/

theorem counterClear_does (hf : s.tr.fw ≠ .recovery) (off : Nat) :
    (∀ n, n < 128 → clCounter off = true → Does (.counterClear (.cluster n) off) s fun t =>
      tget 0 (getCluster t n).cnt off = 0 ∧ t.mem = s.mem ∧ t.slots = s.slots) ∧
    (ksCounter off = true → Does (.counterClear .keystone off) s fun t => ksReg t off = 0 ∧ t.mem = s.mem ∧ t.slots = s.slots) ∧
    (trCounter off = true → Does (.counterClear .trestle off) s fun t => trReg t off = 0 ∧ t.mem = s.mem ∧ t.slots = s.slots) := by
  refine ⟨fun n hn hc => ?_, fun hc => ?_, fun hc => ?_⟩
  · refine ⟨_, (served_next hf _).trans (congrArg _ (if_pos (by simp [hn, hc]))), ?_, rfl, rfl⟩
    simp
  · exact ⟨_, (served_next hf _).trans (congrArg _ (if_pos hc)), ksReg_modKs_self _ _ _ rfl, rfl, rfl⟩
  · refine ⟨_, (served_next hf _).trans (congrArg _ (if_pos hc)), ?_⟩
    rw [clearTr]
    dsimp only
    split
    · exact ⟨trReg_setTrReg_self .., rfl, rfl⟩
    · exact ⟨trReg_setTrReg_self .., rfl, rfl⟩

theorem watchdog_does (hf : s.tr.fw ≠ .recovery) (v : Word) (cp : Bool) :
    (10000 ≤ v.toNat → v.toNat ≤ 60000000 → Does (.registerWrite cp .trestle 0x20 v) s fun t => trReg t 0x20 = v ∧ t.mem = s.mem) ∧
    (v.toNat < 10000 ∨ 60000000 < v.toNat → Does (.registerWrite cp .trestle 0x20 v) s fun t =>
      trReg t 0x20 = trReg s 0x20 ∧ trReg t 0x50 = trReg s 0x50 + 1 ∧ t.mem = s.mem) := by
  have he : exec (.registerWrite cp .trestle 0x20 v) s =
      .next (if v.toNat < 10000 || 60000000 < v.toNat then cfgErr s else setTrReg s 0x20 v) := served_next hf _
  refine ⟨fun h1 h2 => ⟨_, he, ?_⟩, fun h => ⟨_, he, ?_⟩⟩
  · rw [if_neg (by simp only [Bool.or_eq_true, decide_eq_true_eq]; omega)]
    exact ⟨trReg_setTrReg_self .., rfl⟩
  · rw [if_pos (by simpa using h)]
    exact ⟨trReg_bumpTr_ne (by decide), trReg_bumpTr_self _ rfl, rfl⟩

/-! Queue records. -/

/-- The place of a queue in Keystone's table. -/
def setQueue (s : State) (q : Nat) (d : DQueue) : State := modKs s fun k => { k with queues := tput q d k.queues }

theorem getQueue_setQueue (q : Nat) (d : DQueue) : getQueue (setQueue s q d) q = d := by simp [getQueue, setQueue]

/-- A write of a queue's record empties it; a record that is no queue's is counted. -/
theorem qrecWrite_eq (q : Nat) (v : Word) : ∃ d : DQueue, d.record = v ∧ d.head = 0 ∧ d.tail = 0 ∧
    d.pushers = (getQueue s q).pushers ∧
    ((v.toNat % 64 = 0 ∧ qrecWrite s q v = setQueue s q d) ∨ (d.ok = false ∧ qrecWrite s q v = bumpKs (setQueue s q d) 0x1128)) := by
  unfold qrecWrite
  extract_lets put old bad fail
  have hbad : fail = bumpKs (setQueue s q bad) 0x1128 := rfl
  split
  · exact ⟨bad, rfl, rfl, rfl, rfl, .inr ⟨rfl, hbad⟩⟩
  next ha =>
  split
  · exact ⟨bad, rfl, rfl, rfl, rfl, .inr ⟨rfl, hbad⟩⟩
  next pg _ =>
    refine ⟨{ bad with ok := true, ring := _, cap := _, asid := _, pages := pg }, rfl, rfl, rfl, rfl, .inl ⟨?_, rfl⟩⟩
    simp only [Bool.or_eq_true, decide_eq_true_eq, not_or] at ha
    omega

/-- A queue that is no queue, or is empty with nobody who pushes, serves nobody. -/
theorem serve_idle {q : Nat} (h : (getQueue s q).ok = true → queueLen (getQueue s q) = 0 ∧ (getQueue s q).pushers = []) : serve s q = s := by
  rw [serve]
  split
  next ho =>
    obtain ⟨hl, hp⟩ := h ho
    rw [serveQueue, hp, hl]
    split <;> simp_all
  · rfl

theorem qrec_does (hf : s.tr.fw ≠ .recovery) {q : Nat} (h16 : 16 ≤ q) (h256 : q < 256) (v : Word)
    (hp : (getQueue s q).pushers = [] ∨ v.toNat % 64 ≠ 0) : Does (.qrecWrite q v) s fun t =>
      (getQueue t q).record = v ∧ queueLen (getQueue t q) = 0 ∧
      (v.toNat % 64 ≠ 0 → (getQueue t q).ok = false ∧ ksReg t 0x1128 = ksReg s 0x1128 + 1) ∧ t.mem = s.mem ∧ t.slots = s.slots := by
  obtain ⟨d, hr, hh, ht, hpush, hd⟩ := qrecWrite_eq (s := s) q v
  have he : exec (.qrecWrite q v) s = .next (serve (qrecWrite s q v) q) :=
    (served_next hf _).trans (congrArg _ (if_pos (by simp [h16, h256])))
  have hlen : queueLen d = 0 := by simp [queueLen, hh, ht]
  refine ⟨_, he, ?_⟩
  rcases hd with ⟨ha, hw⟩ | ⟨ho, hw⟩
  · have hq : getQueue (qrecWrite s q v) q = d := hw ▸ getQueue_setQueue q d
    rw [serve_idle (by rw [hq]; exact fun _ => ⟨hlen, hpush.trans (hp.resolve_right (by omega))⟩), hq, hw]
    exact ⟨hr, hlen, fun h => absurd ha h, rfl, rfl⟩
  · have hq : getQueue (qrecWrite s q v) q = d := hw ▸ getQueue_setQueue q d
    rw [serve_idle (by rw [hq, ho]; exact nofun), hq, hw]
    exact ⟨hr, hlen, fun _ => ⟨ho, ksReg_bumpKs_self (s := setQueue s q d) _ rfl⟩, rfl, rfl⟩

/-! Bank modes. -/

theorem testBit_foldl_or (l : List Nat) (p k : Nat) :
    (l.foldl (fun p b => p ||| 2 ^ b) p).testBit k = (p.testBit k || decide (k ∈ l)) := by
  induction l generalizing p with
  | nil => simp
  | cons b l ih =>
    rw [List.foldl_cons, ih, Nat.testBit_or, Nat.testBit_two_pow, Bool.or_assoc]
    congr 1
    simp [eq_comm]

theorem csbmode_does (hf : s.tr.fw ≠ .recovery) {cl : Nat} (hc : cl < 128) {v : Word}
    (hv : ∀ b, b < 16 → fld v (4 * b + 1) (4 * b) ≠ 3) : Does (.csbmodeWrite cl v) s fun t => (getCluster t cl).csbnext = v ∧
      ∀ b, b < 16 → bankMode t cl b = bankMode s cl b ∧ (bankPend t cl b = true ↔ bankPend s cl b = true ∨
        fld v (4 * b + 3) (4 * b) ≠ fld (getCluster s cl).csbnext (4 * b + 3) (4 * b)) := by
  have hany : (span 0 16).any (fun b => fld v (4 * b + 1) (4 * b) = 3) = false := by
    simp only [List.any_eq_false, mem_span, decide_eq_true_eq]
    exact fun b hb => hv b (by omega)
  have hw : csbWrite s cl v = _ := if_neg (by rw [hany]; exact Bool.false_ne_true)
  refine ⟨_, (served_next hf _).trans (congrArg _ ((if_pos hc).trans hw)), ?_⟩
  extract_lets c ch u x
  have hu : BanksAre s.clusters u := banksAre_foldl (fun _ => rfl) fun w b hb => by
    split
    · exact banksAre_endFifoWaits hb
    · exact hb
  have hx : BanksAre s.clusters x := banksAre_foldl hu fun w b hb => banksAre_remodeStale hb
  have hregs : (getCluster x cl).bankRegs = (getCluster s cl).bankRegs := hx cl
  obtain ⟨hmode, hrest⟩ := Prod.ext_iff.1 hregs
  obtain ⟨hpend, -⟩ := Prod.ext_iff.1 hrest
  beta_reduce
  rw [getCluster_modCluster_self]
  refine ⟨rfl, fun b hb => ⟨?_, ?_⟩⟩
  · rw [bankMode, getCluster_modCluster_self]
    exact congrArg (fun w => fld w (4 * b + 1) (4 * b)) hmode
  · have hp : (getCluster x cl).csbpend.testBit b = bankPend s cl b := congrArg (fun n : Nat => n.testBit b) hpend
    rw [bankPend, getCluster_modCluster_self, testBit_foldl_or, hp]
    simp only [Bool.or_eq_true, decide_eq_true_eq, ch, csbChanged, List.mem_filter, mem_span, c]
    constructor
    · rintro (h | ⟨-, h⟩)
      · exact .inl h
      · exact .inr (Ne.symm h)
    · rintro (h | h)
      · exact .inl h
      · exact .inr ⟨by omega, Ne.symm h⟩

theorem csbmode_refuses (hf : s.tr.fw ≠ .recovery) {cl : Nat} (hc : cl < 128) {v : Word}
    (hv : ∃ b, b < 16 ∧ fld v (4 * b + 1) (4 * b) = 3) : Does (.csbmodeWrite cl v) s fun t =>
      (getCluster t cl).csbnext = (getCluster s cl).csbnext ∧ (getCluster t cl).csbpend = (getCluster s cl).csbpend := by
  obtain ⟨b, hb, h3⟩ := hv
  have hw : csbWrite s cl v = bumpCl s cl 0xFFF8 1 :=
    if_pos (List.any_eq_true.2 ⟨b, mem_span.2 ⟨b.zero_le, by omega⟩, decide_eq_true h3⟩)
  refine ⟨_, (served_next hf _).trans (congrArg _ ((if_pos hc).trans hw)), ?_⟩
  simp [bumpCl]

/-! The Control Port. -/

theorem putBytes_slots (key : Nat) (cells : List (Nat × Byte)) (psn : Bool) : (putBytes s key cells psn).slots = s.slots := by
  obtain ⟨u, e, hu⟩ := putBytes_offMem s key cells psn
  rw [e, markStale_slots]
  exact (congrArg State.slots hu :)

theorem controlPort_registers (hf : s.tr.fw ≠ .recovery) {pa off : Nat} {data : List Byte} {sp : RegSpace}
    (hr : regAt s pa = some (sp, off)) (hl : data.length = 8) (ho : off % 8 = 0) :
    exec (.controlPortWrite pa data) s = exec (.registerWrite true sp off (ofBytes data)) s := by
  have he : exec (.registerWrite true sp off (ofBytes data)) s = .next (regWrite s true sp off (ofBytes data)) := served_next hf _
  rw [he]
  change execControlPortWrite pa data s = _
  rw [execControlPortWrite, if_neg hf, hr]
  exact congrArg _ (if_pos (by simp [hl, ho]))

theorem controlPort_stores (hf : s.tr.fw ≠ .recovery) {pa : Nat} {data : List Byte} (hr : regAt s pa = none)
    (hs : (bases 65536 (span pa data.length)).any (sealedFrame s) = false) (hst : stores s (span pa data.length) = true)
    (w : Memory.wf s.mem = true) : Does (.controlPortWrite pa data) s fun t =>
      (span pa data.length).map (memGet t.mem) = data ∧ t.slots = s.slots ∧ t.tr = s.tr := by
  have he : exec (.controlPortWrite pa data) s = .next (putBytes s 0 ((span pa data.length).zip data) false) := by
    change execControlPortWrite pa data s = _
    rw [execControlPortWrite, if_neg hf, hr]
    dsimp only
    rw [hs, hst]
    rfl
  refine ⟨_, he, ?_, ?_, putBytes_tr ..⟩
  · obtain ⟨m, hm, e⟩ := putBytes_mem w 0 ((span pa data.length).zip data) false
    rw [e]
    exact map_memGet_memSetAll data hm pa
  · exact putBytes_slots ..

theorem controlPort_sealed (hf : s.tr.fw ≠ .recovery) {pa : Nat} {data : List Byte} (hr : regAt s pa = none)
    (hs : (bases 65536 (span pa data.length)).any (sealedFrame s) = true) (hj : JournalOff s) :
    Does (.controlPortWrite pa data) s fun t => t.mem = s.mem ∧ trReg t 0x38 = trReg s 0x38 + 1 := by
  have he : exec (.controlPortWrite pa data) s = .next (cpRefuse (jlog s 8 0 0 0 (wd pa) 0)) := by
    change execControlPortWrite pa data s = _
    rw [execControlPortWrite, if_neg hf, hr]
    exact congrArg Host.Outcome.next (if_pos hs)
  refine ⟨_, he, ?_⟩
  obtain ⟨b, hb⟩ := jlog_off hj 8 0 0 0 (wd pa) 0
  rw [hb, cpRefuse, trReg_bumpTr_self 0x38 rfl, trReg_queued]
  exact ⟨rfl, rfl⟩

theorem controlPort_reads (hf : s.tr.fw ≠ .recovery) {pa off : Nat} {sp : RegSpace} (hr : regAt s pa = some (sp, off)) :
    Does (.controlPortRead pa) s fun t =>
      t.tr.cpOut = s.tr.cpOut ++ [.data pa (wBytes (regRead s sp off))] ∧ t.mem = s.mem ∧ t.slots = s.slots := by
  have he : exec (.controlPortRead pa) s = .next (cpSend (if bit (trReg s 8) 8 && (trReg s 0).toNat ≤ pa &&
      pa < (trReg s 0).toNat + 32 * 2 ^ fld (trReg s 8) 4 0 then
        modTr s fun t => { t with readSeq := (rd64 s (pa / 32 * 32)).toNat } else s) (.data pa (wBytes (regRead s sp off)))) := by
    change execControlPortRead pa s = _
    rw [execControlPortRead, if_neg hf, hr]
  have sent : ∀ u : State, u.tr.cpOut = s.tr.cpOut ∧ u.mem = s.mem ∧ u.slots = s.slots → ∀ m,
      (cpSend u m).tr.cpOut = s.tr.cpOut ++ [m] ∧ (cpSend u m).mem = s.mem ∧ (cpSend u m).slots = s.slots :=
    fun u ⟨ho, hm, hs⟩ m => ⟨congrArg (· ++ [m]) ho, hm, hs⟩
  refine ⟨_, he, sent _ ?_ _⟩
  generalize (rd64 s (pa / 32 * 32)).toNat = n
  split
  · exact ⟨rfl, rfl, rfl⟩
  · exact ⟨rfl, rfl, rfl⟩

end

end Sys2Proof.Machine
end

section
namespace Sys2Proof.Machine
/-! The end of a firmware trial (R419), and the register writes together (O53). -/

/-- What Trestle knows of its firmware: its state, the active slot, whether an update is done, the standstill, and whether it
has booted. -/
def Trestle.firmware (t : Trestle) : FwSt × Nat × Bool × Bool × Bool := (t.fw, t.active, t.updated, t.quiesce, t.booted)

theorem firmware_jwrite (s : State) (l : JLine) : (jwrite s l).tr.firmware = s.tr.firmware :=
  (congrArg Trestle.firmware (jwrite_offJournal s l) :)

theorem firmware_jlog (s : State) (kind queue status whr : Nat) (d0 d1 : Word) :
    (jlog s kind queue status whr d0 d1).tr.firmware = s.tr.firmware :=
  (congrArg Trestle.firmware (jlog_offJournal s kind queue status whr d0 d1) :)

@[simp] theorem firmware_modCq (s : State) (q : Nat) (f : CmdQueue → CmdQueue) : (modCq s q f).tr.firmware = s.tr.firmware := rfl

@[simp] theorem firmware_makeRunnable (s : State) (q : Nat) : (makeRunnable s q).tr.firmware = s.tr.firmware := rfl

theorem firmware_unmapQueue (s : State) (q : Nat) : (unmapQueue s q).tr.firmware = s.tr.firmware := by
  unfold unmapQueue
  extract_lets u c v
  have hv : v.tr.firmware = s.tr.firmware := by
    rw [firmware_modCq]
    exact (firmware_modCq ..).trans (firmware_modCq ..)
  split
  · exact (firmware_makeRunnable ..).trans hv
  · exact hv

theorem firmware_mapOldest (s : State) (t : Nat) : (mapOldest s t).tr.firmware = s.tr.firmware := by
  rw [mapOldest]
  split
  · rfl
  · exact firmware_modCq ..

theorem firmware_mapQueues (n : Nat) (s : State) : (mapQueues n s).tr.firmware = s.tr.firmware := by
  induction n generalizing s with
  | zero => rfl
  | succ n ih =>
    rw [mapQueues]
    split
    · rfl
    split
    · rw [ih, firmware_mapOldest]
    split
    · rfl
    · rw [ih, firmware_mapOldest, firmware_unmapQueue]

theorem firmware_completeLaunch (s : State) (l : Launch) (w : Word) : (completeLaunch s l w).tr.firmware = s.tr.firmware := by
  unfold completeLaunch
  extract_lets u v x y
  have hu : u.tr.firmware = s.tr.firmware := by
    dsimp only [u]
    split
    · rfl
    · rw [(pokeWords_kept ..).2]
  have hv : v.tr.firmware = s.tr.firmware := (firmware_jlog ..).trans hu
  have hx : x.tr.firmware = s.tr.firmware := by
    dsimp only [x]
    split
    · split
      · exact hv
      · exact hv
    · exact hv
  exact hx

theorem firmware_enterImage (s : State) : (enterImage s).tr.firmware = s.tr.firmware := by
  unfold enterImage
  extract_lets img body u
  have hu : u.tr = s.tr := putBytes_tr ..
  rw [modTr_tr]
  exact (congrArg Trestle.firmware hu :)

theorem firmware_endTrial {s : State} {ok : Bool} {entry : State → State} (he : ∀ u, (entry u).tr.firmware = u.tr.firmware) :
    (endTrial s ok entry).tr.firmware =
      (.running, if ok then s.tr.active else 1 - s.tr.active, s.tr.updated || ok, false, s.tr.booted) := by
  unfold endTrial
  extract_lets a b c d
  have hb : b.tr.firmware = a.tr.firmware := by
    dsimp only [b]
    split
    · rfl
    · exact firmware_enterImage a
  have hc : c.tr.firmware = b.tr.firmware :=
    foldl_keeps (P := fun u : State => u.tr.firmware = b.tr.firmware) _ _ _ rfl fun u l _ hu => (firmware_jwrite u l).trans hu
  have hd : d.tr.firmware = c.tr.firmware :=
    foldl_keeps (P := fun u : State => u.tr.firmware = c.tr.firmware) _ _ _ rfl fun u l _ hu => by
      dsimp only
      split
      · exact (firmware_completeLaunch ..).trans hu
      · exact hu
  exact (firmware_mapQueues ..).trans ((he d).trans (hd.trans (hc.trans hb)))

theorem endTrial_does {s : State} {ok : Bool} {entry : State → State} (he : ∀ u, (entry u).tr.firmware = u.tr.firmware) :
    (endTrial s ok entry).tr.fw = .running ∧ (endTrial s ok entry).tr.active = (if ok then s.tr.active else 1 - s.tr.active) ∧
    (endTrial s ok entry).tr.updated = (s.tr.updated || ok) ∧ (endTrial s ok entry).tr.quiesce = false := by
  obtain ⟨hfw, h⟩ := Prod.ext_iff.1 (firmware_endTrial (s := s) (ok := ok) he)
  obtain ⟨hactive, h⟩ := Prod.ext_iff.1 h
  obtain ⟨hupdated, h⟩ := Prod.ext_iff.1 h
  obtain ⟨hquiesce, -⟩ := Prod.ext_iff.1 h
  exact ⟨hfw, hactive, hupdated, hquiesce⟩

/-- A trial that fails gives the slot back. -/
theorem endTrial_failed (s : State) (why : Nat) :
    (endTrial s false fun s => jlog s 13 0 why 0 0 0).tr.fw = .running ∧
    (endTrial s false fun s => jlog s 13 0 why 0 0 0).tr.active = 1 - s.tr.active ∧
    (endTrial s false fun s => jlog s 13 0 why 0 0 0).tr.quiesce = false := by
  obtain ⟨hfw, hactive, -, hquiesce⟩ := endTrial_does (s := s) (ok := false) fun u => firmware_jlog u 13 0 why 0 0 0
  exact ⟨hfw, hactive, hquiesce⟩

theorem fwhb_does {s : State} (hf : s.tr.fw = .trial) :
    (∀ hv, s.tr.handover = some hv →
      (acceptsRecord (activeImage s) hv = true → Does (.fwhbOk false) s fun t =>
        t.tr.fw = .running ∧ t.tr.active = s.tr.active ∧ t.tr.updated = true ∧ t.tr.quiesce = false) ∧
      (acceptsRecord (activeImage s) hv = false → exec (.fwhbOk false) s = .next s)) ∧
    (Does (.fwhbRefuse false) s fun t => t.tr.fw = .running ∧ t.tr.active = 1 - s.tr.active ∧ t.tr.quiesce = false) ∧
    (s.tr.trialAt + 90000000 ≤ s.cycle → Does .fwhbTimeout s fun t =>
      t.tr.fw = .running ∧ t.tr.active = 1 - s.tr.active ∧ t.tr.quiesce = false) := by
  have hr : s.tr.fw ≠ .recovery := by rw [hf]; decide
  have hn : ¬ s.tr.fw ≠ .trial := by simp [hf]
  refine ⟨fun hv hh => ⟨fun ha => ?_, fun ha => ?_⟩, ?_, fun ht => ?_⟩
  · have he : fwhbWrite s false true = endTrial s true fun s => jlog s 12 0 0 0 (wd (imgVer (activeImage s))) 0 := by
      simp only [fwhbWrite, hn, hh, ha, Option.map_some, Option.getD_some, if_true, if_false, Bool.not_true, Bool.and_false,
        Bool.false_eq_true]
    obtain ⟨hfw, hactive, hupdated, hquiesce⟩ :=
      endTrial_does (s := s) (ok := true) fun u => firmware_jlog u 12 0 0 0 (wd (imgVer (activeImage u))) 0
    exact ⟨_, (served_next hr _).trans (congrArg _ he), hfw, hactive, hupdated.trans (Bool.or_true _), hquiesce⟩
  · have he : fwhbWrite s false true = s := by
      simp only [fwhbWrite, hn, hh, ha, Option.map_some, Option.getD_some, if_true, if_false, Bool.not_false, Bool.and_true,
        Bool.false_eq_true]
    exact (served_next hr _).trans (congrArg _ he)
  · have he : fwhbWrite s false false = endTrial s false fun s => jlog s 13 0 1 0 0 0 := by
      simp only [fwhbWrite, hn, if_false, Bool.false_and, Bool.false_eq_true]
    exact ⟨_, (served_next hr _).trans (congrArg _ he), endTrial_failed s 1⟩
  · refine ⟨_, congrArg Host.Outcome.next (if_pos ?_), endTrial_failed s 2⟩
    rw [hf]
    exact (Bool.true_and _).trans (decide_eq_true ht)

/-- What the Control Port may not write counts as refused (R394). -/
theorem controlPort_refused {s : State} (hf : s.tr.fw ≠ .recovery) (v : Word) :
    exec (.monsend true v) s = .next (bumpTr s 0x38) ∧ exec (.tlbinvAll true) s = .next (bumpTr s 0x38) ∧
    (∀ a va, exec (.tlbinvAsid true a) s = .next (bumpTr s 0x38) ∧ exec (.tlbinvPage true a va) s = .next (bumpTr s 0x38) ∧
      exec (.keycmdLoad true a) s = .next (bumpTr s 0x38) ∧ exec (.keycmdClear true a) s = .next (bumpTr s 0x38)) ∧
    exec (.fwhbOk true) s = .next (bumpTr s 0x38) ∧ exec (.fwhbRefuse true) s = .next (bumpTr s 0x38) :=
  ⟨served_next hf _, served_next hf _, fun _ _ => ⟨served_next hf _, served_next hf _, served_next hf _, served_next hf _⟩,
    served_next hf _, served_next hf _⟩

theorem tlbinv_does {s : State} (hf : s.tr.fw ≠ .recovery) :
    (Does (.tlbinvAll false) s fun t => (∀ c ∈ t.clusters, c.2.tlb = []) ∧ t.mem = s.mem ∧ t.slots = s.slots) ∧
    ∀ a, a < 1024 → (Does (.tlbinvAsid false a) s fun t => (∀ c ∈ t.clusters, ∀ e ∈ c.2.tlb, e.asid ≠ a) ∧ t.mem = s.mem) ∧
      ∀ va, va < 2 ^ 56 → Does (.tlbinvPage false a va) s fun t => t.mem = s.mem ∧
        ∀ c ∈ t.clusters, ∀ e ∈ c.2.tlb, e.asid = a → e.vpn ≠ va / (if e.big then 2 ^ 29 else 2 ^ 16) := by
  refine ⟨⟨_, exec_tlbinvAll hf, fun c hc => List.eq_nil_iff_forall_not_mem.2 fun e he => ?_, rfl, rfl⟩, fun a ha =>
    ⟨⟨_, exec_tlbinvAsid hf ha, fun c hc e he h => ?_, rfl⟩, fun va hva =>
      ⟨_, exec_tlbinvPage hf ha hva, rfl, fun c hc e he h hv => ?_⟩⟩⟩
  · exact tlbinv_left hc he ⟨nofun, nofun⟩
  · exact tlbinv_left hc he ⟨fun _ h' => Option.some.inj h' ▸ h.symm, nofun⟩
  · exact tlbinv_left hc he ⟨fun _ h' => Option.some.inj h' ▸ h.symm, fun _ h' => Option.some.inj h' ▸ hv⟩

/-- Settles O53: each register by the lemma of its write. -/
theorem registerWrites : Obligations.RegisterWrites := by
  unfold Obligations.RegisterWrites
  refine ⟨fun s v n m sp cp hf => recovery_serves_nothing v n m sp cp hf, fun s v hf => ?_⟩
  extract_lets refused h
  obtain ⟨htlb, hasid⟩ := tlbinv_does hf
  refine ⟨fun hv => ⟨monsend_does hf hv, wakesend_does hf hv⟩, controlPort_refused hf v, htlb, hasid,
    fun slot h1 h2 hn => keycmd_does hf h1 h2 hn, fun slot ks hk hs => keySlotInstalled_does hk hs, fun ht => fwhb_does ht,
    fun cl hc => ⟨csbmode_does hf hc, csbmode_refuses hf hc, fun b hb => fifocnt_does hf hc hb, fun e he => evline_does hf hc he,
      fun l hl => wlrec_does hf hc hl v⟩,
    fun q h16 h256 hp => qrec_does hf h16 h256 v hp, fun st hst => sgthr_does hf hst v, pushpool_does hf v,
    counterClear_does hf, watchdog_does hf v, fun pa data => ⟨fun sp off => controlPort_registers hf, controlPort_stores hf,
      controlPort_sealed hf, fun sp off => controlPort_reads hf⟩⟩

end Sys2Proof.Machine
end

section
namespace Sys2Proof.Machine
/-! Where a store under key 0 leaves a byte alone: what stands in the plain stays (R75). -/

theorem isHbm_sector {a b : Nat} (h : a / 32 = b / 32) : isHbm a = isHbm b := by
  have ho : offsetOf a < 0x9000000000 ↔ offsetOf b < 0x9000000000 := by simp only [offsetOf]; omega
  rw [isHbm, isHbm, Bool.eq_iff_iff, beq_iff_eq, beq_iff_eq, targetOf_hbm, targetOf_hbm]
  exact ho

/-- The byte at `a` holds `b`, in the plain if it lies in HBM. -/
def HoldsPlain (a : Nat) (b : Byte) (s : State) : Prop :=
  memGet s.mem a = b ∧ (isHbm a = true → tget 0 s.keytag (a / 32) = 0)

theorem tget_tdel_ne {α : Type} (d : α) {j k : Nat} (t : Tbl α) (h : j ≠ k) : tget d (tdel k t) j = tget d t j := by
  induction t with
  | nil => rfl
  | cons e t ih =>
    obtain ⟨n, v⟩ := e
    rw [tdel, List.filter_cons] at *
    by_cases hn : n = j
    · subst hn
      simp [tget, h]
    · split
      · simp only [tget, hn, if_false]; exact ih
      · simp only [tget, hn, if_false]; exact ih

theorem keytag_retag {s : State} {pa a : Nat} (h : a / 32 = pa / 32 ∧ isHbm a = true ∨ tget 0 s.keytag (a / 32) = 0) :
    tget 0 (retag s 0 pa).keytag (a / 32) = 0 := by
  simp only [retag, keyMat, if_true]
  split
  · by_cases hs : a / 32 = pa / 32
    · rw [hs]; exact tget_tdel_self ..
    · exact (tget_tdel_ne _ _ hs).trans (h.resolve_left fun h => hs h.1)
  next hc =>
    rcases h with ⟨hs, hb⟩ | h
    · rw [isHbm_sector hs] at hb
      simpa [hb, ← hs] using hc
    · exact h

theorem memGet_retag {s : State} {a : Nat} (ht : isHbm a = true → tget 0 s.keytag (a / 32) = 0) (pa : Nat) :
    memGet (retag s 0 pa).mem a = memGet s.mem a := by
  by_cases hc : isHbm pa = true ∧ tget 0 s.keytag (pa / 32) ≠ 0
  · have hne : a / 32 ≠ pa / 32 := fun hs => hc.2 (hs ▸ ht ((isHbm_sector hs).trans hc.1))
    have he : (retag s 0 pa).mem = memSetAll ((span (pa / 32 * 32) 32).zip ((span (pa / 32 * 32) 32).map (rdByte s 0))) s.mem := by
      simp [retag, keyMat, hc]
    rw [he]
    refine memGet_memSetAll_ne _ _ fun e he hea => hne ?_
    obtain ⟨hlo, hhi⟩ := mem_span.1 (List.of_mem_zip he).1
    omega
  · have he : retag s 0 pa = s := if_neg (by simpa [keyMat] using hc)
    rw [he]

theorem holdsPlain_retag {s : State} {a pa : Nat} {b : Byte} (h : HoldsPlain a b s) : HoldsPlain a b (retag s 0 pa) :=
  ⟨(memGet_retag h.2 pa).trans h.1, fun hb => keytag_retag (.inr (h.2 hb))⟩

/-- A store under key 0 leaves what stands in the plain beside it. -/
theorem holdsPlain_putBytes {s : State} {a : Nat} {b : Byte} (h : HoldsPlain a b s) {cells : List (Nat × Byte)}
    (ha : ∀ e ∈ cells, e.1 ≠ a) (psn : Bool) : HoldsPlain a b (putBytes s 0 cells psn) := by
  unfold putBytes
  extract_lets pas u v
  have hu : HoldsPlain a b u := foldl_keeps (P := HoldsPlain a b) _ _ _ h fun _ _ _ hw => holdsPlain_retag hw
  obtain ⟨hm, ht⟩ := hu
  rw [HoldsPlain, markStale_mem, markStale_keytag]
  exact ⟨(memGet_memSetAll_ne _ _ ha).trans hm, ht⟩

/-- Every HBM sector that a store under key 0 reaches is in the plain. -/
theorem keytag_retags {l : List Nat} {s : State} {a : Nat} (h : a ∈ l ∨ tget 0 s.keytag (a / 32) = 0) (hb : isHbm a = true) :
    tget 0 (l.foldl (fun s a => retag s 0 a) s).keytag (a / 32) = 0 := by
  induction l generalizing s with
  | nil => exact h.resolve_left List.not_mem_nil
  | cons x l ih =>
    refine ih ?_
    rcases h with h | h
    · rcases List.mem_cons.1 h with rfl | h
      · exact .inr (keytag_retag (.inl ⟨rfl, hb⟩))
      · exact .inl h
    · exact .inr (keytag_retag (.inr h))

theorem getElem?_span {a n k : Nat} (h : k < n) : (span a n)[k]? = some (a + k) := by
  induction n generalizing a k with
  | zero => exact absurd h (Nat.not_lt_zero _)
  | succ n ih =>
    cases k with
    | zero => rfl
    | succ k => exact (ih (Nat.lt_of_succ_lt_succ h)).trans (congrArg some (by omega))

theorem holdsPlain_stored {s : State} (w : Memory.wf s.mem = true) {at0 k : Nat} {bs : List Byte} {b : Byte} (hk : bs[k]? = some b)
    (psn : Bool) : HoldsPlain (at0 + k) b (putBytes s 0 ((span at0 bs.length).zip bs) psn) := by
  have hlt : k < bs.length := (List.getElem?_eq_some_iff.1 hk).1
  refine ⟨?_, fun hb => ?_⟩
  · obtain ⟨m, hm, e⟩ := putBytes_mem w 0 ((span at0 bs.length).zip bs) psn
    have hget := congrArg (·[k]?) (map_memGet_memSetAll bs hm at0)
    simp only [List.getElem?_map, getElem?_span hlt, hk, Option.map_some, Option.some.injEq] at hget
    rw [e]
    exact hget
  · unfold putBytes
    extract_lets pas u v
    rw [markStale_keytag]
    refine keytag_retags (.inl ?_) hb
    rw [show pas = span at0 bs.length from zip_span_fst at0 bs]
    exact mem_span.2 ⟨Nat.le_add_right .., by omega⟩

end Sys2Proof.Machine
end

section
namespace Sys2Proof.Machine
/-! Update, boot and reset (R416, R418, R419). -/

theorem tget_map {α β : Type} (f : α → β) (d : α) (t : Tbl α) (k : Nat) :
    tget (f d) (t.map fun e => (e.1, f e.2)) k = f (tget d t k) := by
  induction t with
  | nil => rfl
  | cons e t ih =>
    simp only [List.map_cons, tget, ih]
    split
    · rfl
    · rfl

theorem enterImage_tr (s : State) : (enterImage s).tr = { s.tr with
    threads := (span 0 32).map fun k => (k, { pc := wd (Config.fwBase + imgEntry (activeImage s)) }), turn := 0 } := by
  unfold enterImage
  extract_lets img body u
  have hu : u.tr = s.tr := putBytes_tr ..
  rw [modTr_tr, hu]

theorem holdsPlain_enterImage {s : State} {a : Nat} {b : Byte} (h : HoldsPlain a b s)
    (ha : a < Config.fwBase ∨ Config.fwBase + (imgBody (activeImage s)).length ≤ a) : HoldsPlain a b (enterImage s) := by
  have hc : ∀ e ∈ (span Config.fwBase (imgBody (activeImage s)).length).zip (imgBody (activeImage s)), e.1 ≠ a := by
    intro e he
    have hs := mem_span.1 (List.of_mem_zip he).1
    omega
  exact (holdsPlain_putBytes h hc false :)

/-- A waiting packet that the standstill drops leaves its queue mapped (R418). -/
def stilled (c : CmdQueue) : CmdQueue := if c.st = .waiting then { c with st := .mapped, pend := none } else c

theorem getCq_quiesce (s : State) (q : Nat) : getCq (quiesce s) q = stilled (getCq s q) :=
  tget_map stilled {} s.tr.cqs q

theorem stilled_st (c : CmdQueue) : (stilled c).st ≠ .waiting := by
  rw [stilled]
  split
  · exact nofun
  · assumption

section
variable {s : State}

/-- A firmware trial as it begins, before its image is entered (R418). -/
def onTrial (s : State) (v now : Nat) : State :=
  modTr (quiesce s) fun t => { t with handover := some v, active := 1 - t.active, fw := .trial, trialAt := now }

theorem exec_firmwareUpdate (hf : s.tr.fw = .running) (hs : s.tr.spdm = .ready) (hb : submitting s = false)
    (hi : imgOk s (slotImage s (1 - s.tr.active)) = true) : exec .firmwareUpdate s =
      .next (enterImage (onTrial (writeRecord s (hover (activeImage s))) (hover (activeImage s)) s.cycle)) :=
  congrArg Host.Outcome.next (if_neg (by simp [hf, hs, hi, hb]))

theorem trial_tr {v : Nat} {u : State} (hu : u.tr = s.tr) (now : Nat) :
    let t := enterImage (onTrial u v now)
    t.tr.fw = .trial ∧ t.tr.active = 1 - s.tr.active ∧ t.tr.quiesce = true ∧ t.tr.handover = some v ∧ t.tr.trialAt = now ∧
    ∀ q, (getCq t q).st ≠ .waiting := by
  have hq : ∀ q, getCq (enterImage (onTrial u v now)) q = stilled (getCq u q) := fun q => by
    rw [getCq, enterImage_tr]
    exact getCq_quiesce u q
  refine ⟨?_, ?_, ?_, ?_, ?_, fun q => hq q ▸ stilled_st _⟩
  all_goals rw [enterImage_tr]
  case refine_2 => exact (congrArg (fun t : Trestle => 1 - t.active) hu :)
  all_goals rfl

theorem trial_record {v : Nat} (w : Memory.wf s.mem = true) {k : Nat} {b : Byte} (now : Nat)
    (hk : (Config.handoverBytes (recordContents s v))[k]? = some b)
    (ha : s.module * 2 ^ 41 + Config.handoverBase % 2 ^ 39 + k < Config.fwBase ∨
      Config.fwBase + (imgBody (slotImage s (1 - s.tr.active))).length ≤ s.module * 2 ^ 41 + Config.handoverBase % 2 ^ 39 + k) :
    memGet (enterImage (onTrial (writeRecord s v) v now)).mem (s.module * 2 ^ 41 + Config.handoverBase % 2 ^ 39 + k) = b := by
  have hw : (writeRecord s v).tr = s.tr := putBytes_tr ..
  have himg : activeImage (onTrial (writeRecord s v) v now) = slotImage s (1 - s.tr.active) :=
    congrArg (fun t : Trestle => tget [] t.flash (1 - t.active)) hw
  have hrec : HoldsPlain (s.module * 2 ^ 41 + Config.handoverBase % 2 ^ 39 + k) b (onTrial (writeRecord s v) v now) :=
    (holdsPlain_stored w hk false :)
  exact (holdsPlain_enterImage hrec (himg ▸ ha)).1

theorem firmwareUpdate_does (hf : s.tr.fw = .running) (hs : s.tr.spdm = .ready) (hb : submitting s = false) :
    Does .firmwareUpdate s fun t =>
      let img := slotImage s (1 - s.tr.active)
      let bs := Config.handoverBytes (recordContents s (hover (activeImage s)))
      if imgOk s img then t.tr.fw = .trial ∧ t.tr.active = 1 - s.tr.active ∧ t.tr.quiesce = true ∧
        t.tr.handover = some (hover (activeImage s)) ∧ t.tr.trialAt = s.cycle ∧ (∀ q, (getCq t q).st ≠ .waiting) ∧
        (Memory.wf s.mem = true → ∀ k b, bs[k]? = some b → let a := s.module * 2 ^ 41 + Config.handoverBase % 2 ^ 39 + k
          a < Config.fwBase ∨ Config.fwBase + (imgBody img).length ≤ a → memGet t.mem a = b)
      else t = s := by
  cases hi : imgOk s (slotImage s (1 - s.tr.active)) with
  | false => exact ⟨s, congrArg Host.Outcome.next (if_pos (by simp [hi])), by simp [hi]⟩
  | true =>
    have hw : (writeRecord s (hover (activeImage s))).tr = s.tr := putBytes_tr ..
    obtain ⟨hfw, hactive, hquiesce, hhand, hat, hst⟩ := trial_tr (v := hover (activeImage s)) hw s.cycle
    refine ⟨_, exec_firmwareUpdate hf hs hb hi, ?_⟩
    beta_reduce
    rw [if_pos hi]
    exact ⟨hfw, hactive, hquiesce, hhand, hat, hst, fun w k b hk ha => trial_record w s.cycle hk ha⟩

theorem firmwareUpdate_refused (h : s.tr.fw ≠ .running ∨ s.tr.spdm ≠ .ready) : exec .firmwareUpdate s = .next s := by
  refine congrArg Host.Outcome.next (if_pos ?_)
  rcases h with h | h <;> simp [h]

theorem svnfloorRaise_does {v : Nat} (hu : s.tr.updated = true) (hf : s.tr.fw = .running) (hv : s.tr.svn < v) (h64 : v < 64) :
    exec (.svnfloorRaise v) s = .next (modTr s fun x => { x with svn := v }) :=
  congrArg Host.Outcome.next (if_pos (by simp [hu, hf, hv, h64]))

theorem svnfloorRaise_refused {v : Nat} (h : s.tr.updated = false ∨ s.tr.fw ≠ .running ∨ v ≤ s.tr.svn) :
    exec (.svnfloorRaise v) s = .next s := by
  refine congrArg Host.Outcome.next (if_neg ?_)
  simp only [Bool.and_eq_true, decide_eq_true_eq]
  rintro ⟨⟨⟨hu, hf⟩, hv⟩, -⟩
  rcases h with h | h | h
  · rw [hu] at h; cases h
  · exact h hf
  · omega

theorem reset_does : Does .reset s fun t => t.mem = [] ∧ t.slots = State.reset.slots ∧ t.ks = State.reset.ks ∧
    t.cycle = State.reset.cycle ∧ t.module = s.module ∧ t.tr.flash = s.tr.flash ∧ t.tr.active = s.tr.active ∧
    t.tr.svn = s.tr.svn ∧ t.tr.booted = false :=
  ⟨_, rfl, rfl, rfl, rfl, rfl, rfl, rfl, rfl, rfl, rfl⟩

theorem firmware_bootSlot (n : Nat) : (bootSlot s n).tr.firmware = (.running, n, s.tr.updated, false, true) :=
  (firmware_mapQueues ..).trans (firmware_enterImage _)

theorem bootSlot_does (n : Nat) : (bootSlot s n).tr.booted = true ∧ (bootSlot s n).tr.fw = .running ∧ (bootSlot s n).tr.active = n := by
  obtain ⟨hfw, h⟩ := Prod.ext_iff.1 (firmware_bootSlot (s := s) n)
  obtain ⟨hactive, h⟩ := Prod.ext_iff.1 h
  obtain ⟨-, h⟩ := Prod.ext_iff.1 h
  obtain ⟨-, hbooted⟩ := Prod.ext_iff.1 h
  exact ⟨hbooted, hfw, hactive⟩

theorem secureBoot_does (h : s.tr.booted = false ∨ s.tr.fw = .recovery) : Does .secureBoot s fun t => t.tr.booted = true ∧
    if imgOk s (slotImage s s.tr.active) then t.tr.fw = .running ∧ t.tr.active = s.tr.active
    else if imgOk s (slotImage s (1 - s.tr.active)) then t.tr.fw = .running ∧ t.tr.active = 1 - s.tr.active
    else t.tr.fw = .recovery ∧ t.mem = s.mem := by
  refine ⟨_, congrArg Host.Outcome.next (if_neg ?_), ?_⟩
  · rcases h with h | h <;> simp [h]
  split
  · exact bootSlot_does _
  split
  · exact bootSlot_does _
  · exact ⟨rfl, rfl, rfl⟩

end

end Sys2Proof.Machine
end

section
namespace Sys2Proof.Machine
/-! SPDM, secured messages and Trestle's turn (R393, R417), and the firmware's events together (O54). -/

section
variable {s : State}

/-! SPDM (R417). -/

/-- What an SPDM request leaves: an answer in order and a request that verifies move the responder on, and anything else is
answered by an error. -/
def Answers (s : State) (i : Instr) (code : Nat) (inOrder : Bool) (ans : SpdmAnswer) (next : SpdmSt) (said msg : List Byte) : Prop :=
  (requestOf code msg = true → inOrder = true → Config.spdmAccepts msg s.tr.transcript = true → Does i s fun t =>
    t.tr.cpOut = s.tr.cpOut ++ [.answer ans] ∧ t.tr.spdm = next ∧ t.tr.transcript = said ++ msg ∧ t.mem = s.mem ∧
    t.slots = s.slots) ∧
  (requestOf code msg = false ∨ inOrder = false ∨ Config.spdmAccepts msg s.tr.transcript = false →
    exec i s = .next (cpSend s (.answer .error)))

theorem spdm_answers {i : Instr} {code : Nat} {msg : List Byte} {ok : SpdmSt → Bool} {ans : SpdmAnswer} {f : Trestle → Trestle}
    {next : SpdmSt} {said : List Byte} (he : exec i s = .next (spdm s code msg ok ans f)) (hout : ∀ t, (f t).cpOut = t.cpOut)
    (hn : (f (cpSend s (.answer ans)).tr).spdm = next) (ht : (f (cpSend s (.answer ans)).tr).transcript = said) :
    Answers s i code (ok s.tr.spdm) ans next said msg := by
  refine ⟨fun hr ho ha => ⟨_, he.trans (congrArg _ (if_pos (by simp [hr, ho, ha]))), ?_, hn, congrArg (· ++ msg) ht, rfl, rfl⟩,
    fun h => he.trans (congrArg _ (if_neg ?_))⟩
  · exact hout _
  · rcases h with h | h | h <;> simp [h]

theorem rank_ready (x : SpdmSt) : decide (3 ≤ x.rank) = decide (x = .algs ∨ x = .session ∨ x = .ready) := by
  cases x <;> rfl

theorem spdmQuery_answers {i : Instr} {code : Nat} {msg : List Byte} {ans : SpdmAnswer}
    (he : exec i s = .next (spdmQuery s code msg ans)) :
    Answers s i code (decide (s.tr.spdm = .algs ∨ s.tr.spdm = .session ∨ s.tr.spdm = .ready)) ans s.tr.spdm s.tr.transcript msg :=
  rank_ready s.tr.spdm ▸ spdm_answers he (fun _ => rfl) rfl rfl

/-! Secured messages (R417). -/

theorem securedMessage_closed {key : Bool} {n : Nat} {data : List Byte} (h : openSecured s data = none) :
    exec (.securedMessage key n data) s = .next s := by
  change execSecuredMessage key n data s = _
  rw [execSecuredMessage, h]

theorem openSecured_some {data bs : List Byte} (h : openSecured s data = some bs) : s.tr.spdm = .ready ∧
    gcmOpen (Config.sessionKey s.tr.secret) (beBytes 12 (Config.sessionNonce s.tr.secret ^^^ s.tr.secSeq)) [] data = some bs := by
  rw [openSecured] at h
  split at h
  · cases h
  next hs => exact ⟨not_not.1 hs, h⟩

theorem securedKey_does {n : Nat} {data bs : List Byte} (h : openSecured s data = some bs) (hl : bs.length = 64) (h1 : 1 ≤ n)
    (h2 : n ≤ 8191) (hk : s.tr.keyCmd = none) (hf : s.tr.fw ≠ .recovery) : Does (.securedMessage true n data) s fun t =>
      t.tr.keyCmd = some (n, (span 0 8).map fun i => ofBytes ((bs.drop (8 * i)).take 8)) ∧ t.tr.secSeq = s.tr.secSeq + 1 ∧
      t.mem = s.mem ∧ t.slots = s.slots := by
  have he : exec (.securedMessage true n data) s = .next (modTr (modTr s fun t => { t with secSeq := t.secSeq + 1 }) fun t =>
      { t with keyCmd := some (n, (span 0 8).map fun i => ofBytes ((bs.drop (8 * i)).take 8)) }) := by
    change execSecuredMessage true n data s = _
    rw [execSecuredMessage, h]
    refine congrArg _ ((if_neg (by decide)).trans (if_neg ?_))
    simp [hl, hk, hf, Nat.ne_of_gt h1, h2]
  exact ⟨_, he, rfl, rfl, rfl, rfl⟩

theorem drop_take_patched {old bs : List Byte} {n : Nat} (h : n ≤ old.length) :
    ((old.take n ++ bs ++ old.drop (n + bs.length)).drop n).take bs.length = bs := by
  rw [List.append_assoc, List.drop_left' (List.length_take_of_le h), List.take_left]

theorem securedFlash_does {n : Nat} {data bs : List Byte} (h : openSecured s data = some bs) (hn : n + bs.length ≤ 0x1000200) :
    Does (.securedMessage false n data) s fun t =>
      ((slotImage t (1 - s.tr.active)).drop n).take bs.length = bs ∧ slotImage t s.tr.active = slotImage s s.tr.active ∧
      t.tr.secSeq = s.tr.secSeq + 1 ∧ t.mem = s.mem := by
  have he : exec (.securedMessage false n data) s = .next (flashWrite (modTr s fun t => { t with secSeq := t.secSeq + 1 }) n bs) := by
    change execSecuredMessage false n data s = _
    rw [execSecuredMessage, h]
    exact congrArg _ (if_pos rfl)
  refine ⟨_, he, ?_⟩
  rw [flashWrite, if_neg (by omega)]
  have hne : s.tr.active ≠ 1 - s.tr.active := by omega
  refine ⟨?_, ?_, rfl, rfl⟩
  · rw [slotImage, modTr_tr]
    refine (congrArg (fun l : List Byte => (l.drop n).take bs.length) (tget_tput_self ..)).trans (drop_take_patched ?_)
    rw [List.length_append, List.length_replicate]
    omega
  · exact tget_tput_ne _ _ _ hne

/-! Trestle's turn (R393). -/

/-- What a thread's turn counts before its instruction (R393). -/
def counted (s : State) (k : Nat) : State := modThread s k fun x => { x with csr := tmod 0 0xB02 (· + 1) x.csr }

theorem getThread_modThread_self (k : Nat) (f : Thread → Thread) : getThread (modThread s k f) k = f (getThread s k) := by
  simp [getThread, modThread, tmod]

theorem getThread_modThread_ne {k j : Nat} (f : Thread → Thread) (h : j ≠ k) : getThread (modThread s k f) j = getThread s j := by
  simp [getThread, modThread, tmod, tget_tput_ne _ _ _ h]

theorem csrOf_counted {k c : Nat} (h : c ≠ 0xB02) : csrOf (counted s k) k c = csrOf s k c := by
  rw [csrOf, counted, getThread_modThread_self]
  exact tget_tput_ne _ _ _ h

theorem pmpRange_counted {k i : Nat} (h : i < 16) : pmpRange (counted s k) k i = pmpRange s k i := by
  have haddr : ∀ j, j ≤ i → pmpAddr (counted s k) k j = pmpAddr s k j := fun j hj => by
    rw [pmpAddr, csrOf_counted (by omega), pmpAddr]
  have hcfg : pmpCfg (counted s k) k i = pmpCfg s k i := by rw [pmpCfg, csrOf_counted (by omega), pmpCfg]
  simp only [pmpRange, haddr i le_rfl, haddr (i - 1) (Nat.sub_le ..), hcfg]

/-- Does region `i` hold a byte of an access? -/
def pmpHit (s : State) (k pa n i : Nat) : Bool :=
  (pmpRange s k i).1 < (pmpRange s k i).2 && (pmpRange s k i).1 < pa + n && pa < (pmpRange s k i).2

theorem pmpOk_eq (k : Nat) (user : Bool) (right pa n : Nat) :
    pmpOk s k user right pa n = (((span 0 16).find? (pmpHit s k pa n)).map fun i =>
      (pmpRange s k i).1 ≤ pa && pa + n ≤ (pmpRange s k i).2 &&
      ((!user && !(pmpCfg s k i).testBit 7) || (pmpCfg s k i).testBit right)).getD (!user) := by
  change (match (span 0 16).find? (pmpHit s k pa n) with
    | none => _
    | some i => _) = _
  cases (span 0 16).find? (pmpHit s k pa n) <;> rfl

theorem pmpOk_counted (k : Nat) (user : Bool) (right pa n : Nat) : pmpOk (counted s k) k user right pa n = pmpOk s k user right pa n := by
  have hfind : (span 0 16).find? (pmpHit (counted s k) k pa n) = (span 0 16).find? (pmpHit s k pa n) :=
    List.find?_congr fun i hi => by
      rw [pmpHit, pmpHit, pmpRange_counted (by have := mem_span.1 hi; omega)]
  rw [pmpOk_eq, pmpOk_eq, hfind]
  cases hi : (span 0 16).find? (pmpHit s k pa n) with
  | none => rfl
  | some i =>
    have h16 : i < 16 := by have := mem_span.1 (List.mem_of_find?_eq_some hi); omega
    have hcfg : pmpCfg (counted s k) k i = pmpCfg s k i := by rw [pmpCfg, csrOf_counted (by omega), pmpCfg]
    rw [Option.map_some, Option.map_some, pmpRange_counted h16, hcfg]

theorem rvParcel_counted (k : Nat) (pc : Word) : rvParcel (counted s k) k pc = rvParcel s k pc := by
  have hu : (getThread (counted s k) k).user = (getThread s k).user := by rw [counted, getThread_modThread_self]
  rw [rvParcel, rvParcel, pmpOk_counted, hu]
  rfl

theorem rx_modThread {k : Nat} {f : Thread → Thread} (h : ∀ t, (f t).x = t.x) (r : Nat) : rx (modThread s k f) k r = rx s k r := by
  rw [rx, rx, getThread_modThread_self, h]

/-- The state after an ADDI: the register written, and the thread at the next instruction. -/
def afterAddi (s : State) (k w : Nat) : State :=
  goTo (setRx s k (bits w 7 5) (rx s k (bits w 15 5) + sext 12 (bits w 20 12))) k ((getThread s k).pc + 4)

theorem rvExec_addi {k w : Nat} (hop : w % 128 = 0x13) (hfn : bits w 12 3 = 0) (ill : RvTrap) :
    rvExec s k w ((getThread s k).pc + 4) ill = .ok (afterAddi s k w) := by
  unfold rvExec
  rw [hop, hfn]
  rfl

theorem rvStep_addi {k lo hi : Nat} (hlo : rvParcel s k (getThread s k).pc = .ok lo)
    (hhi : rvParcel s k ((getThread s k).pc + 2) = .ok hi) (h4 : lo % 4 = 3) (hop : (hi * 65536 + lo) % 128 = 0x13)
    (hfn : bits (hi * 65536 + lo) 12 3 = 0) : rvStep s k = .ok (afterAddi s k (hi * 65536 + lo)) := by
  unfold rvStep
  simp only [hlo, hhi, h4, ne_eq, not_true_eq_false, if_false]
  exact rvExec_addi hop hfn _

theorem rx_setRx (k r d : Nat) (v : Word) : rx (setRx s k d v) k r = if r = d ∧ r ≠ 0 then v else rx s k r := by
  by_cases h0 : r = 0
  · simp [rx, h0]
  by_cases hd : d = 0
  · rw [setRx, if_pos hd, if_neg (by omega)]
  rw [setRx, if_neg hd, rx, if_neg h0, getThread_modThread_self]
  by_cases h : r = d
  · subst h
    simp [h0]
  · rw [if_neg (by tauto), rx, if_neg h0]
    exact tget_tput_ne _ _ _ h

theorem setRx_kept (k d : Nat) (v : Word) : (setRx s k d v).mem = s.mem ∧ (setRx s k d v).slots = s.slots ∧
    ∀ j, j ≠ k → getThread (setRx s k d v) j = getThread s j := by
  rw [setRx]
  split
  · exact ⟨rfl, rfl, fun _ _ => rfl⟩
  · exact ⟨rfl, rfl, fun _ h => getThread_modThread_ne _ h⟩

theorem afterAddi_does (k w : Nat) : (∀ r, rx (afterAddi s k w) k r = if r = bits w 7 5 ∧ r ≠ 0 then
      rx s k (bits w 15 5) + sext 12 (bits w 20 12) else rx s k r) ∧
    (getThread (afterAddi s k w) k).pc = ((getThread s k).pc + 4) &&& (BitVec.allOnes 64 - 1) ∧
    (afterAddi s k w).mem = s.mem ∧ (∀ j, j ≠ k → getThread (afterAddi s k w) j = getThread s j) ∧
    (afterAddi s k w).slots = s.slots := by
  obtain ⟨hm, hsl, hj⟩ := setRx_kept (s := s) k (bits w 7 5) (rx s k (bits w 15 5) + sext 12 (bits w 20 12))
  refine ⟨fun r => ?_, ?_, hm, fun j h => ?_, hsl⟩
  · rw [afterAddi, goTo, rx_modThread (by exact fun _ => rfl), rx_setRx]
  · rw [afterAddi, goTo, getThread_modThread_self]
  · rw [afterAddi, goTo, getThread_modThread_ne _ h, hj j h]

theorem exec_trestleInstruction {k : Nat} {u : State} (hb : s.tr.booted = true) (hf : s.tr.fw ≠ .recovery) (ht : s.tr.turn = k)
    (hu : rvStep (counted s k) k = .ok u) :
    exec (.trestleInstruction k) s = .next (modTr u fun x => { x with turn := (k + 1) % 32 }) := by
  have hc : ¬ (k ≠ s.tr.turn || !s.tr.booted || s.tr.fw = .recovery) = true := by simp [hb, hf, ht]
  refine congrArg Host.Outcome.next ((if_neg hc).trans ?_)
  change modTr (match rvStep (counted s k) k with
    | .error e => rvTrap s k e
    | .ok s' => s') _ = _
  rw [hu]

theorem trestleInstruction_addi {k lo hi : Nat} (hb : s.tr.booted = true) (hf : s.tr.fw ≠ .recovery) (ht : s.tr.turn = k)
    (hlo : rvParcel s k (getThread s k).pc = .ok lo) (hhi : rvParcel s k ((getThread s k).pc + 2) = .ok hi) (h4 : lo % 4 = 3)
    (hop : (hi * 65536 + lo) % 128 = 0x13) (hfn : bits (hi * 65536 + lo) 12 3 = 0) : Does (.trestleInstruction k) s fun t =>
      (∀ r, r < 32 → rx t k r = if r = bits (hi * 65536 + lo) 7 5 ∧ r ≠ 0 then
        rx s k (bits (hi * 65536 + lo) 15 5) + sext 12 (bits (hi * 65536 + lo) 20 12) else rx s k r) ∧
      (getThread t k).pc = ((getThread s k).pc + 4) &&& (BitVec.allOnes 64 - 1) ∧ t.tr.turn = (k + 1) % 32 ∧ t.mem = s.mem ∧
      (∀ j, j ≠ k → getThread t j = getThread s j) ∧ t.slots = s.slots := by
  have hpc : (getThread (counted s k) k).pc = (getThread s k).pc := by rw [counted, getThread_modThread_self]
  have hstep : rvStep (counted s k) k = .ok (afterAddi (counted s k) k (hi * 65536 + lo)) :=
    rvStep_addi (by rw [hpc, rvParcel_counted, hlo]) (by rw [hpc, rvParcel_counted, hhi]) h4 hop hfn
  obtain ⟨hx, hp, hm, hj, hsl⟩ := afterAddi_does (s := counted s k) k (hi * 65536 + lo)
  have hrx : ∀ r, rx (counted s k) k r = rx s k r := fun r => by rw [counted, rx_modThread (by exact fun _ => rfl)]
  refine ⟨_, exec_trestleInstruction hb hf ht hstep, fun r _ => ?_, ?_, rfl, hm, fun j h => ?_, hsl⟩
  · rw [← hrx, ← hrx r]
    exact hx r
  · rw [← hpc]
    exact hp
  · exact (hj j h).trans (getThread_modThread_ne _ h)

end

/-- Settles O54: each event of the firmware by its lemma. -/
theorem firmwareEvents : Obligations.FirmwareEvents := by
  unfold Obligations.FirmwareEvents
  intro s
  refine ⟨firmwareUpdate_does, firmwareUpdate_refused, fun v => svnfloorRaise_does, fun v => svnfloorRaise_refused, reset_does,
    secureBoot_does, fun msg => ?_, fun key n data => securedMessage_closed, fun n data bs h =>
      ⟨(openSecured_some h).1, (openSecured_some h).2, securedKey_does h, securedFlash_does h⟩,
    fun k lo hi hb hf ht => trestleInstruction_addi hb hf ht⟩
  refine ⟨?_, ?_, ?_, spdmQuery_answers rfl, spdmQuery_answers rfl, spdmQuery_answers rfl, spdmQuery_answers rfl, ?_, ?_⟩
  · exact spdm_answers (ok := fun _ => true) (f := fun t => { t with spdm := .version, transcript := [] }) rfl (fun _ => rfl) rfl rfl
  · exact spdm_answers (ok := (· == .version)) (f := fun t => { t with spdm := .caps }) rfl (fun _ => rfl) rfl rfl
  · have h := spdm_answers (i := .negotiateAlgorithms msg) (s := s)
      (ok := fun x => x == .caps && (msgByte msg 8).testBit 7 && (msgByte msg 12).testBit 1)
      (f := fun t => { t with spdm := .algs }) rfl (fun _ => rfl) rfl rfl
    rw [Bool.and_assoc] at h
    exact h
  · have h := spdm_answers (i := .keyExchange msg) (s := s) (ok := fun x => 3 ≤ x.rank)
      (f := fun t => { t with spdm := .session, secret := Config.spdmSecret msg s.tr.transcript, secSeq := 0 })
      rfl (fun _ => rfl) rfl rfl
    rw [rank_ready] at h
    exact h
  · exact spdm_answers (ok := (· == .session)) (f := fun t => { t with spdm := .ready }) rfl (fun _ => rfl) rfl rfl

end Sys2Proof.Machine
end

section
namespace Sys2Proof.Machine

/-! The copy engine: what a write of bytes leaves of a cluster (R169). -/

/-- A write of bytes leaves of every cluster all but a counter and the array's notices. -/
theorem getCluster_putBytes (s : State) (key : Nat) (cells : List (Nat × Byte)) (psn : Bool) (c : Nat) :
    { getCluster (putBytes s key cells psn) c with
        cnt := [], arr := { (getCluster (putBytes s key cells psn) c).arr with notices := [] } } =
    { getCluster s c with cnt := [], arr := { (getCluster s c).arr with notices := [] } } := by
  obtain ⟨u, e, hu⟩ := putBytes_offMem s key cells psn
  have hc : u.clusters = s.clusters := (congrArg State.clusters hu :)
  have hg : getCluster u c = getCluster s c := by rw [getCluster, getCluster, hc]
  rw [e, ← hg]
  exact (unitsKept_markStale u _).2.1 c

theorem jobs_putBytes (s : State) (key : Nat) (cells : List (Nat × Byte)) (psn : Bool) (c : Nat) :
    (getCluster (putBytes s key cells psn) c).jobs = (getCluster s c).jobs :=
  (congrArg Cluster.jobs (getCluster_putBytes s key cells psn c) :)

theorem lines_putBytes (s : State) (key : Nat) (cells : List (Nat × Byte)) (psn : Bool) (c : Nat) :
    (getCluster (putBytes s key cells psn) c).lines = (getCluster s c).lines :=
  (congrArg Cluster.lines (getCluster_putBytes s key cells psn c) :)

theorem jobs_putKeyed (s : State) (cells : List ((Nat × Nat) × Byte)) (psn : Bool) (c : Nat) :
    (getCluster (putKeyed s cells psn) c).jobs = (getCluster s c).jobs :=
  foldl_keeps (P := fun u : State => (getCluster u c).jobs = (getCluster s c).jobs) _ _ _ rfl
    fun u _ _ hu => (jobs_putBytes u _ _ _ c).trans hu

/-! Engine accesses at plain places (R169): they are served at once, and nothing but storage decides them. -/

theorem fifoPort_plain {s : State} {pas : List Nat} (h : ∀ a ∈ pas, fifoPort s [a] = none) : fifoPort s pas = none := by
  cases pas with
  | nil => rfl
  | cons a l => exact h a List.mem_cons_self

theorem engWay_plain {s : State} {pas : List Nat} (h : PlainAt s pas) (j : Job) (write : Bool) : engWay s j pas write = .go := by
  obtain ⟨hc, ho, hf⟩ := h
  have hany : (pas.any fun a => (fifoPort s [a]).isSome) = false := by
    rw [List.any_eq_false]; intro a ha; simp [hf a ha]
  rw [engWay, hc]
  simp only [ho, fifoPort_plain hf, hany, Bool.not_true, Bool.false_eq_true, if_false]

/-- Bytes at no FIFO port are one run. -/
theorem portRuns_plain {s : State} {cells : List (Nat × Nat)} (h : ∀ c ∈ cells, fifoPort s [c.1] = none) :
    portRuns s cells = if cells = [] then [] else [(none, cells)] := by
  induction cells with
  | nil => rfl
  | cons c l ih =>
    rw [portRuns, ih fun d hd => h d (List.mem_cons_of_mem _ hd), h c List.mem_cons_self, if_neg (List.cons_ne_nil c l)]
    cases l with
    | nil => rfl
    | cons d r => rfl

theorem readRuns_plain {s : State} {cells : List (Nat × Nat)} (h : ∀ c ∈ cells, fifoPort s [c.1] = none) :
    readRuns (portRuns s cells) s [] false = (getKeyed s cells, anyPsn s (cells.map (·.1)), s) := by
  rw [portRuns_plain h]
  cases cells with
  | nil => rfl
  | cons c l => simp [readRuns]

theorem writeRuns_plain {s : State} {cells : List (Nat × Nat)} (h : ∀ c ∈ cells, fifoPort s [c.1] = none) (bs : List Byte) (psn : Bool) :
    writeRuns psn (portRuns s cells) s bs = putKeyed s (cells.zip bs) psn := by
  rw [portRuns_plain h]
  cases cells with
  | nil => rfl
  | cons c l => rfl

theorem plain_cells {s : State} {cells : List (Nat × Nat)} (h : PlainAt s (cells.map (·.1))) : ∀ c ∈ cells, fifoPort s [c.1] = none :=
  fun _ hc => h.2.2 _ (List.mem_map_of_mem hc)

/-- An engine's read of plain bytes gives them and changes nothing. -/
theorem engRead_plain {s : State} {j : Job} {va n : Nat} {ps : List (Nat × Nat)} (hp : jobPas j.pages va n = some ps)
    (h : PlainAt s (ps.map (·.1))) : engRead s j va n = (.ok (getKeyed s ps) (anyPsn s (ps.map (·.1))), s) := by
  rw [engRead, hp]
  dsimp only
  rw [engWay_plain h, readRuns_plain (plain_cells h)]

/-- Bytes of a job whose harts are of one core are in no other scratchpad (R311). -/
theorem mirror_one {j : Job} (h : ∀ e ∈ j.issuers, coreOf e.1 = j.core) (s : State) (va : Nat) (cells : List (Nat × Nat)) (bs : List Byte)
    (psn : Bool) : mirror s j va cells bs psn = s := by
  have hnil : (((j.issuers.map fun e => coreOf e.1).eraseDups).filter (· ≠ j.core)) = [] := by
    rw [List.filter_eq_nil_iff]
    intro c hc
    obtain ⟨e, he, rfl⟩ := List.mem_map.mp (List.mem_eraseDups.mp hc)
    simpa using h e he
  rw [mirror, hnil]
  split <;> rfl

/-- Dropping a core's copies changes no byte and no job. -/
theorem dropCopiesAll_kept (s : State) (es : List (Nat × Nat)) (pas : List Nat) (c : Nat) :
    (es.foldl (fun s e => dropCopies s (coreOf e.1) pas) s).mem = s.mem ∧
    (getCluster (es.foldl (fun s e => dropCopies s (coreOf e.1) pas) s) c).jobs = (getCluster s c).jobs := by
  refine foldl_keeps (P := fun u : State => u.mem = s.mem ∧ (getCluster u c).jobs = (getCluster s c).jobs) _ _ _ ⟨rfl, rfl⟩ ?_
  rintro u e - ⟨hm, hj⟩
  refine ⟨hm, Eq.trans ?_ hj⟩
  rw [dropCopies]
  by_cases hc : c = clusterOf (coreOf e.1)
  · subst hc; rw [getCluster_modCluster_self]; rfl
  · rw [getCluster_modCluster_ne _ _ hc]; rfl

/-- An engine's write of plain bytes puts them. -/
theorem engWrite_plain {s : State} {j : Job} {va : Nat} {bs : List Byte} {ps : List (Nat × Nat)} (hp : jobPas j.pages va bs.length = some ps)
    (h : PlainAt s (ps.map (·.1))) (hi : ∀ e ∈ j.issuers, coreOf e.1 = j.core) (psn : Bool) :
    ∃ u, engWrite s j va bs psn = (.ok [] false, u) ∧ u.mem = (putKeyed s (ps.zip bs) psn).mem ∧
      ∀ c, (getCluster u c).jobs = (getCluster s c).jobs := by
  have hw : engWrite s j va bs psn = (.ok [] false,
      j.issuers.foldl (fun s e => dropCopies s (coreOf e.1) (ps.map (·.1))) (putKeyed s (ps.zip bs) psn)) := by
    rw [engWrite, hp]
    simp only [engWay_plain h, writeRuns_plain (plain_cells h), mirror_one hi]
  obtain ⟨v, hv⟩ : ∃ v, v = putKeyed s (ps.zip bs) psn := ⟨_, rfl⟩
  have hjobs : ∀ c, (getCluster v c).jobs = (getCluster s c).jobs := fun c => hv ▸ jobs_putKeyed ..
  rw [hw, ← hv]
  exact ⟨_, rfl, (dropCopiesAll_kept v _ _ 0).1, fun c => (dropCopiesAll_kept v _ _ c).2.trans (hjobs c)⟩

end Sys2Proof.Machine
end

section
namespace Sys2Proof.Machine

/-! One step of a job at plain places (R169). -/

theorem noteErr_kept (j : Job) (n i : Nat) : (noteErr j n i).uid = j.uid ∧ (noteErr j n i).buf = j.buf ∧
    (noteErr j n i).next = j.next ∧ (noteErr j n i).wr = j.wr := ⟨rfl, rfl, rfl, rfl⟩

theorem seePsn_kept (j : Job) (i : Nat) (psn : Bool) : (seePsn j i psn).uid = j.uid ∧ (seePsn j i psn).buf = j.buf ∧
    (seePsn j i psn).next = j.next ∧ (seePsn j i psn).wr = j.wr := by
  cases psn <;> exact ⟨rfl, rfl, rfl, rfl⟩

theorem endTiles_kept (s : State) (j : Job) (va n : Nat) (bs : List Byte) :
    (endTiles s j va n bs).mem = s.mem ∧ (endTiles s j va n bs).clusters = s.clusters := by
  refine foldl_keeps (P := fun u : State => u.mem = s.mem ∧ u.clusters = s.clusters) _ _ _ ⟨rfl, rfl⟩ ?_
  intro u e _ hu
  split <;> exact hu

/-- A job step that brings source bytes: storage and jobs as before, and the bytes joined to the job's. -/
def Fetched (s : State) (j : Job) (bs : List Byte) (r : State × Job) : Prop :=
  r.1.mem = s.mem ∧ r.1.clusters = s.clusters ∧ r.2.uid = j.uid ∧ r.2.buf = j.buf ++ bs ∧ r.2.next = j.next ∧ r.2.wr = j.wr ∧
    r.2.stand = none

/-- The job once these source bytes are read, and the end of an element's read (R81, R93). -/
def Job.took (j : Job) (bs : List Byte) (psn : Bool) : Job := { seePsn j j.next psn with buf := j.buf ++ bs, stand := none }
def tookBytes (s : State) (j : Job) (src : Nat) (bs : List Byte) (psn : Bool) : State × Job :=
  (if (j.took bs psn).buf.length < (j.took bs psn).elen then s else endTiles s (j.took bs psn) src (j.took bs psn).elen (j.took bs psn).buf,
    j.took bs psn)

theorem fetched_took (s : State) (j : Job) (src : Nat) (bs : List Byte) (psn : Bool) : Fetched s j bs (tookBytes s j src bs psn) := by
  obtain ⟨hu, -, hn, hw⟩ := seePsn_kept j j.next psn
  obtain ⟨hm, hc⟩ := endTiles_kept s (j.took bs psn) src (j.took bs psn).elen (j.took bs psn).buf
  rw [tookBytes]
  split
  · exact ⟨rfl, rfl, hu, rfl, hn, hw, rfl⟩
  · exact ⟨hm, hc, hu, rfl, hn, hw, rfl⟩

theorem elemRead_plain {s : State} {j : Job} {src : Nat} {ps : List (Nat × Nat)} (cl : Nat) (hs : s.sched.choices.head? ≠ some true)
    (hp : jobPas j.pages (src + j.buf.length) (pieceLen (src + j.buf.length) (j.elen - j.buf.length)) = some ps)
    (h : PlainAt s (ps.map (·.1))) : Fetched s j (getKeyed s ps) (elemRead s cl j src) := by
  obtain ⟨u, hu⟩ : ∃ u, u = (if j.buf.length = 0 && j.stand.isNone then beginTiles s j src j.elen else s) := ⟨_, rfl⟩
  obtain ⟨l, hl⟩ : ∃ l, u = { s with tileReads := l } := by
    rw [hu]; split <;> exact ⟨_, rfl⟩
  have hskip : skipTile u j (src + j.buf.length) (j.elen - j.buf.length) = none := by
    rw [skipTile, if_pos]; rw [hl]; simp [hs]
  have hplain : PlainAt u (ps.map (·.1)) := hl ▸ h
  have hkeyed : getKeyed s ps = getKeyed u ps := by rw [hl]; rfl
  have he : elemRead s cl j src = tookBytes u j src (getKeyed u ps) (anyPsn u (ps.map (·.1))) := by
    unfold elemRead
    dsimp only
    rw [← hu, hskip]
    dsimp only
    rw [engRead_plain hp hplain]
    rfl
  obtain ⟨hm, hc, hrest⟩ := fetched_took u j src (getKeyed u ps) (anyPsn u (ps.map (·.1)))
  rw [he, hkeyed]
  exact ⟨hm.trans (hl ▸ rfl), hc.trans (hl ▸ rfl), hrest⟩

/-- A job step that puts bytes of its element. -/
def Put (s v : State) (j : Job) (n : Nat) (r : State × Job) : Prop :=
  r.1.mem = v.mem ∧ (∀ c, (getCluster r.1 c).jobs = (getCluster s c).jobs) ∧ r.2.uid = j.uid ∧ r.2.stand = none ∧
    if j.wr + n < j.len then r.2.next = j.next ∧ r.2.wr = j.wr + n else r.2.next = j.next + 1

theorem jobs_bumpCl (s : State) (cl off n c : Nat) : (getCluster (bumpCl s cl off n) c).jobs = (getCluster s c).jobs := by
  rw [bumpCl]
  by_cases hc : c = cl
  · subst hc; rw [getCluster_modCluster_self]
  · rw [getCluster_modCluster_ne _ _ hc]

theorem elemWrite_plain {s : State} {j : Job} {dst : Nat} {ps : List (Nat × Nat)} (cl : Nat)
    (hb : j.len ≤ j.buf.length) (hw : j.wr < j.len) (ho : j.opc ≠ 3) (hr : j.wr = 0 → rangeWay s j dst j.len = .go)
    (hi : ∀ e ∈ j.issuers, coreOf e.1 = j.core)
    (hp : jobPas j.pages (dst + j.wr) (pieceLen (dst + j.wr) (j.len - j.wr)) = some ps) (h : PlainAt s (ps.map (·.1))) :
    Put s (putKeyed s (ps.zip ((j.buf.drop j.wr).take (pieceLen (dst + j.wr) (j.len - j.wr)))) (j.hot.contains j.next)) j
      (pieceLen (dst + j.wr) (j.len - j.wr)) (elemWrite s cl j dst) := by
  have hlen : ((j.buf.drop j.wr).take (pieceLen (dst + j.wr) (j.len - j.wr))).length = pieceLen (dst + j.wr) (j.len - j.wr) := by
    rw [List.length_take, List.length_drop, pieceLen]; omega
  have hway : (if j.wr = 0 then rangeWay s j dst j.len else .go) = .go := by
    split
    · next h0 => exact hr h0
    · rfl
  obtain ⟨n, hn⟩ : ∃ n, n = pieceLen (dst + j.wr) (j.len - j.wr) := ⟨_, rfl⟩
  rw [← hn] at hlen hp ⊢
  rw [← hlen] at hp
  obtain ⟨u, he, hm, hj⟩ := engWrite_plain hp h hi (j.hot.contains j.next)
  rw [elemWrite, hway]
  simp only [ho, if_false, ← hn, he]
  split
  · next hlt =>
    refine ⟨hm, hj, rfl, rfl, ?_⟩
    rw [if_pos (show j.wr + n < j.len from hlt)]; exact ⟨rfl, rfl⟩
  · next hge =>
    refine ⟨hm, fun c => (jobs_bumpCl ..).trans (hj c), rfl, rfl, ?_⟩
    rw [if_neg (show ¬ j.wr + n < j.len from hge)]; rfl

/-- The element's step, once its index is known and its places are within bounds (R171). -/
theorem jobStep_placed {s : State} {j : Job} {x src dst : Nat} (cl : Nat) (hc : j.next < j.count) (ho : j.opc ≠ 4)
    (hv : j.overlaps = false) (hx : j.opc = 0 ∨ ∃ p, j.ix = some (x, p)) (hpl : j.place x j.next = some (src, dst)) :
    jobStep s cl j = if j.buf.length < j.len then elemRead s cl j src else elemWrite s cl j dst := by
  rw [jobStep, if_neg (by omega), if_neg ho, hv, if_neg (by decide), elemStep]
  by_cases h0 : j.opc = 0
  · have hzero : j.place 0 j.next = some (src, dst) := by
      rw [← hpl, Job.place, Job.place, h0]; rfl
    simp only [h0, if_true, hzero]
  · obtain ⟨p, hp⟩ := hx.resolve_left h0
    simp only [h0, if_false, hp, hpl]

/-- A job that a step leaves at no bank stands in its cluster as the step left it. -/
theorem runJob_moved {s u : State} {cl : Nat} {j k : Job} (h : jobStep s cl { j with started := true } = (u, k)) (hu : k.uid = j.uid)
    (hk : k.stand = none) :
    runJob s cl j = modCluster u cl fun c => { c with jobs := c.jobs.map fun i => if i.uid = j.uid then k else i } := by
  have hat : ∀ v, Job.atPort v k = false := fun v => by rw [Job.atPort, hk]
  rw [runJob, h]
  simp only [hat, Bool.not_false, if_true, hu]

theorem mem_runJob {s u : State} {cl : Nat} {j k : Job} (h : jobStep s cl { j with started := true } = (u, k)) (hu : k.uid = j.uid)
    (hk : k.stand = none) (hj : j ∈ (getCluster u cl).jobs) :
    (runJob s cl j).mem = u.mem ∧ k ∈ (getCluster (runJob s cl j) cl).jobs := by
  rw [runJob_moved h hu hk, getCluster_modCluster_self]
  exact ⟨rfl, List.mem_map.mpr ⟨j, hj, if_pos rfl⟩⟩

end Sys2Proof.Machine
end

section
namespace Sys2Proof.Machine

/-! The finish of a job, and its line (R173, R181). -/

theorem getCluster_dropOuts (s : State) (h c : Nat) (pas : List Nat) : getCluster (dropOuts s h pas) c = getCluster s c := by
  obtain e | e := dropOuts_or s h pas <;> rw [e]
  rfl

theorem getCluster_writeReg (s : State) (h n : Nat) (v : Word) (psn : Bool) (c : Nat) :
    (getCluster (writeReg s h n v psn) c).jobs = (getCluster s c).jobs ∧
    (getCluster (writeReg s h n v psn) c).lines = (getCluster s c).lines := by
  rw [writeReg]
  split
  · exact ⟨rfl, rfl⟩
  · rw [getCluster_dropOuts, put64]
    exact ⟨jobs_putBytes .., lines_putBytes ..⟩

theorem tget_tmod_self {α : Type} (d : α) (k : Nat) (f : α → α) (t : Tbl α) : tget d (tmod d k f t) k = f (tget d t k) :=
  tget_tput_self ..

/-- A line read and cleared (R173). -/
theorem takeLine_cluster (s : State) (h d line : Nat) :
    (getCluster (takeLine s h d line) (clusterOf (coreOf h))).jobs = (getCluster s (clusterOf (coreOf h))).jobs ∧
    getLine (takeLine s h d line) (clusterOf (coreOf h)) line = { getLine s (clusterOf (coreOf h)) line with err := 0, bad := none } := by
  obtain ⟨hj, hl⟩ := getCluster_writeReg s h d (lineWord (getLine s (clusterOf (coreOf h)) line)) false (clusterOf (coreOf h))
  obtain ⟨v, hv⟩ : ∃ v, v = writeReg s h d (lineWord (getLine s (clusterOf (coreOf h)) line)) false := ⟨_, rfl⟩
  rw [← hv] at hj hl
  have hc : getCluster (takeLine s h d line) (clusterOf (coreOf h)) = { getCluster v (clusterOf (coreOf h)) with
      lines := tmod {} line (fun x => { x with err := 0, bad := none }) (getCluster v (clusterOf (coreOf h))).lines } := by
    rw [takeLine, ← hv, acquire, getCluster_modSlot, getCluster_modCore, getCluster_modCluster_self]
  refine ⟨by rw [hc, hj], ?_⟩
  rw [getLine, hc, hl]
  exact tget_tmod_self (d := ({} : EvLine)) (f := fun x => { x with err := 0, bad := none }) ..

/-- An acquire at device scope changes of the hart when it was made (R203). -/
theorem acquire_device_slot (u : State) (h : Nat) :
    getSlot (acquire u h .device) h = { getSlot u h with acqAt := some u.cycle } ∧
    ∀ k, k ≠ h → getSlot (acquire u h .device) k = getSlot u k :=
  ⟨getSlot_modSlot_self .., fun _ hk => getSlot_modSlot_ne _ _ hk⟩

/-- Taking a line changes of the hart its results and when it acquired, and no other hart. -/
theorem takeLine_slot (s : State) (h d line : Nat) :
    (∃ l q, getSlot (takeLine s h d line) h = { getSlot s h with outs := l, acqAt := q }) ∧
    ∀ k, k ≠ h → getSlot (takeLine s h d line) k = getSlot s k := by
  obtain ⟨v, hv⟩ : ∃ v, v = writeReg s h d (lineWord (getLine s (clusterOf (coreOf h)) line)) false := ⟨_, rfl⟩
  obtain ⟨l, hl⟩ := getSlot_writeWs s h d (lineWord (getLine s (clusterOf (coreOf h)) line))
  have hne : ∀ k, k ≠ h → getSlot v k = getSlot s k := fun k hk => hv ▸ getSlot_writeWs_ne s d _ hk
  rw [writeWs, ← hv] at hl
  rw [takeLine, ← hv]
  obtain ⟨hs, hne'⟩ := acquire_device_slot (modCluster v (clusterOf (coreOf h)) fun c => { c with
    lines := tmod {} line (fun x => { x with err := 0, bad := none }) c.lines }) h
  refine ⟨⟨l, some v.cycle, ?_⟩, fun k hk => ?_⟩
  · rw [hs, getSlot_modCluster, hl]; rfl
  · rw [hne' k hk, getSlot_modCluster, hne k hk]

theorem readReg_acquire_device (u : State) (h k n : Nat) : readReg (acquire u h .device) k n = readReg u k n := by
  rw [acquire]
  refine (readReg_modSlot _ _ _ _ ?_).trans rfl
  exact fun _ => rfl

theorem readReg_takeLine (s : State) (h d line n : Nat) :
    readReg (takeLine s h d line) h n = readReg (writeReg s h d (lineWord (getLine s (clusterOf (coreOf h)) line)) false) h n := by
  obtain ⟨v, hv⟩ : ∃ v, v = writeReg s h d (lineWord (getLine s (clusterOf (coreOf h)) line)) false := ⟨_, rfl⟩
  rw [takeLine, ← hv, readReg_acquire_device]
  rfl

/-- A hart served at its line (R173). -/
def serveHart (line : Nat) (s : State) (h : Nat) : State :=
  if (getSlot s h).st = .waiting (.event line) then
    retireH (modSlot (takeLine s h ((getSlot s h).latch.headD 0).toNat line) h fun x => { x with st := .ready }) h true ((getSlot s h).pc + 4)
  else s

theorem serveLine_eq (s : State) (cl line : Nat) :
    serveLine s cl line = if (getLine s cl line).pend ≠ 0 then s else (span (64 * cl) 64).foldl (serveHart line) s := rfl

theorem serveHart_of_not {s : State} {line h : Nat} (hw : ¬ (getSlot s h).st = .waiting (.event line)) : serveHart line s h = s := by
  rw [serveHart, if_neg hw]

/-- A hart that waits for its line takes it and goes on. -/
theorem serveHart_served {s : State} {line h : Nat} (hw : (getSlot s h).st = .waiting (.event line)) (p : Placed s h)
    (m : Memory.wf s.mem = true) (hd : ((getSlot s h).latch.headD 0).toNat < 64) :
    let cl := clusterOf (coreOf h)
    let d := ((getSlot s h).latch.headD 0).toNat
    let t := serveHart line s h
    readReg t h d = (if d = 0 then 0 else lineWord (getLine s cl line)) ∧ (getSlot t h).pc = (getSlot s h).pc + 4 ∧
    (getSlot t h).st = .parked .results none ∧ getLine t cl line = { getLine s cl line with err := 0, bad := none } ∧
    (getCluster t cl).jobs = (getCluster s cl).jobs ∧ ∀ k, k ≠ h → getSlot t k = getSlot s k := by
  intro _ d t
  obtain ⟨v, hv⟩ : ∃ v, v = takeLine s h d line := ⟨_, rfl⟩
  obtain ⟨hjobs, hline⟩ := takeLine_cluster s h d line
  obtain ⟨-, hne⟩ := takeLine_slot s h d line
  have hreg : readReg v h d = if d = 0 then 0 else lineWord (getLine s (clusterOf (coreOf h)) line) := by
    rw [hv, readReg_takeLine, readReg_writeReg_self p m hd]
  have ht : t = retireH (modSlot v h fun x => { x with st := .ready }) h true ((getSlot s h).pc + 4) := by
    rw [hv]; exact if_pos hw
  rw [← hv] at hjobs hline hne
  rw [ht]
  refine ⟨?_, ?_, ?_, hline, hjobs, fun k hk => ?_⟩
  · rw [readReg_retireH, readReg_modSlot v h h d (f := fun x => { x with st := .ready }) fun _ => rfl, hreg]
  · rw [retireH, getSlot_modSlot_self]
  · rw [retireH, getSlot_modSlot_self]; rfl
  · rw [retireH, getSlot_modSlot_ne _ _ hk, getSlot_modSlot_ne _ _ hk, hne k hk]

/-- A fold that changes something at one member alone. -/
theorem foldl_only {α β : Type} {f : β → α → β} {l : List α} {h : α} {b : β} (hn : l.Nodup) (hm : h ∈ l) (hb : ∀ x ∈ l, x ≠ h → f b x = b)
    (ha : ∀ x ∈ l, x ≠ h → f (f b h) x = f b h) : l.foldl f b = f b h := by
  induction l with
  | nil => exact absurd hm List.not_mem_nil
  | cons x l ih =>
    obtain ⟨hx, hn⟩ := List.nodup_cons.mp hn
    rw [List.foldl_cons]
    by_cases e : x = h
    · subst e
      exact foldl_keeps (P := fun c => c = f b x) _ _ _ rfl fun c y hy hc =>
        hc ▸ ha y (List.mem_cons_of_mem _ hy) fun e => hx (e ▸ hy)
    · rw [hb x List.mem_cons_self e]
      exact ih hn ((List.mem_cons.mp hm).resolve_left (Ne.symm e)) (fun y hy => hb y (List.mem_cons_of_mem _ hy))
        fun y hy => ha y (List.mem_cons_of_mem _ hy)

/-- The line once a finished job's harts and errors have joined it (R173). -/
def EvLine.joined (l : EvLine) (j : Job) : EvLine :=
  { l with pend := l.pend - j.issuers.length, err := l.err ||| j.errs,
           bad := if l.err &&& 0b111101 = 0 && j.errs &&& 0b111101 ≠ 0 then j.bad else l.bad }

/-- The machine once a finished job has left its cluster and joined its line, before the line serves a hart. -/
def jobLeft (s : State) (cl : Nat) (j : Job) : State :=
  let u := modCluster s cl fun c => { c with
    jobs := c.jobs.filter (·.uid ≠ j.uid), lines := tmod {} j.evt (fun l => l.joined j) c.lines }
  bumpCl { u with tileReads := u.tileReads.filter (·.1 ≠ j.uid) } cl 0x580 j.issuers.length

theorem finishJob_eq (s : State) (cl : Nat) (j : Job) : finishJob s cl j = serveLine (jobLeft s cl j) cl j.evt := rfl

theorem jobLeft_kept (s : State) (cl : Nat) (j : Job) : (jobLeft s cl j).mem = s.mem ∧ (jobLeft s cl j).slots = s.slots ∧
    (getCluster (jobLeft s cl j) cl).jobs = (getCluster s cl).jobs.filter (·.uid ≠ j.uid) ∧
    getLine (jobLeft s cl j) cl j.evt = (getLine s cl j.evt).joined j := by
  obtain ⟨u, hu⟩ : ∃ u, u = modCluster s cl fun c => { c with
      jobs := c.jobs.filter (·.uid ≠ j.uid), lines := tmod {} j.evt (fun l => l.joined j) c.lines } := ⟨_, rfl⟩
  have hc : getCluster u cl = _ := hu ▸ getCluster_modCluster_self ..
  have hleft : jobLeft s cl j = bumpCl { u with tileReads := u.tileReads.filter (·.1 ≠ j.uid) } cl 0x580 j.issuers.length := by
    rw [hu]; rfl
  have hsame : getCluster { u with tileReads := u.tileReads.filter (·.1 ≠ j.uid) } cl = getCluster u cl := rfl
  refine ⟨by rw [hleft, hu]; rfl, by rw [hleft, hu]; rfl, ?_, ?_⟩
  · rw [hleft, bumpCl, getCluster_modCluster_self, hsame, hc]
  · rw [hleft, getLine, bumpCl, getCluster_modCluster_self, hsame, hc]
    exact tget_tmod_self (d := ({} : EvLine)) (f := fun l => l.joined j) ..

/-- A line that no hart waits for, or that jobs are still pending on, serves none. -/
theorem serveLine_none {s : State} {cl line : Nat} (h : (getLine s cl line).pend ≠ 0 ∨ ∀ h, ¬ (getSlot s h).st = .waiting (.event line)) :
    serveLine s cl line = s := by
  rw [serveLine_eq]
  split
  · rfl
  · next hp =>
    have hw := h.resolve_left hp
    exact foldl_keeps (P := fun u => u = s) _ _ _ rfl fun u x _ hu => hu ▸ serveHart_of_not (hu ▸ hw x)

/-- A line that one hart waits for serves it. -/
theorem serveLine_one {s : State} {cl line h : Nat} (hp : (getLine s cl line).pend = 0) (hh : h / 64 = cl)
    (ho : ∀ k, k ≠ h → ¬ (getSlot s k).st = .waiting (.event line))
    (hk : ∀ k, k ≠ h → getSlot (serveHart line s h) k = getSlot s k) : serveLine s cl line = serveHart line s h := by
  rw [serveLine_eq, if_neg (by simp [hp])]
  refine foldl_only (span_nodup _ _) (mem_span.mpr (by omega)) (fun x _ hx => serveHart_of_not (ho x hx)) fun x _ hx => ?_
  exact serveHart_of_not (by rw [hk x hx]; exact ho x hx)

end Sys2Proof.Machine
end

section
namespace Sys2Proof.Machine

/-! EVWAIT and IDEM (R175, R176, R328, R329). -/

/-- A unit accepts the instruction of a hart whose slot changed in its results, its region and when it acquired alone. -/
theorem accepted_retire_region {s u : State} {mode : Nat} (hi : MayIssue s .none mode) (hc : u.cur = s.cur) {l : List Outst} {q : Option Nat}
    {r : Option Word} (hx : getSlot u s.cur = { getSlot s s.cur with outs := l, acqAt := q, region := r }) : Accepted s (retire u true) := by
  have hb : bit (getSlot s s.cur).hsw 40 = false := pfxOf_of_may hi
  rw [Accepted, retire, retireH, hc, getSlot_modSlot_self, hx]
  simp only [hb, Bool.false_eq_true, if_false, if_true, pcOf, implies_true, and_self]

theorem takeLine_cur {s : State} (p : Placed s s.cur) {d : Nat} (hd : d < 64) (line : Nat) : (takeLine s s.cur d line).cur = s.cur :=
  writeReg_cur p hd ..

/-- A line without pending jobs is given and cleared at once (R329). -/
theorem evwait_taken {s : State} {sw : Bool} {a line l : Fin 32} (hi : MayIssue s .none 0) (o : Ordinary s)
    (hp : (getLine s (clusterOf (coreOf s.cur)) line.val).pend = 0) :
    Does (.evwait sw a line l) s fun t => Accepted s t ∧
      readReg t s.cur a.val = (if a.val = 0 then 0 else lineWord (getLine s (clusterOf (coreOf s.cur)) line.val)) ∧
      (∀ y, y ∉ regBytes s s.cur a.val → memGet t.mem y = memGet s.mem y) ∧
      getLine t (clusterOf (coreOf s.cur)) line.val = { getLine s (clusterOf (coreOf s.cur)) line.val with err := 0, bad := none } := by
  obtain ⟨p, m⟩ := o
  have ha : a.val < 64 := by omega
  have he : exec (.evwait sw a line l) s = .next (retire (takeLine s s.cur a.val line.val) true) := by
    change execEvwait sw a line l s = _
    rw [execEvwait, issue_of_may hi, hp]; rfl
  have hcur := takeLine_cur p ha line.val
  obtain ⟨x, q, hx⟩ := (takeLine_slot s s.cur a.val line.val).1
  obtain ⟨-, hline⟩ := takeLine_cluster s s.cur a.val line.val
  have hreg := readReg_takeLine s s.cur a.val line.val a.val
  have hmem : (takeLine s s.cur a.val line.val).mem =
      (writeReg s s.cur a.val (lineWord (getLine s (clusterOf (coreOf s.cur)) line.val)) false).mem := by
    rw [takeLine, (acquire_kept ..).2]; rfl
  refine ⟨_, he, accepted_retire_region hi hcur hx, ?_, fun y hy => ?_, hline⟩
  · rw [retire_eq, readReg_retireH, hreg, readReg_writeReg_self p m ha]
  · change memGet (takeLine s s.cur a.val line.val).mem y = _
    rw [hmem]
    apply writeReg_mem_frame p ha
    unfold regBytes at hy
    by_cases h0 : a.val = 0
    · exact .inl h0
    · rw [if_neg h0, mem_span] at hy; omega

/-- A line with pending jobs is waited for (R329). -/
theorem evwait_waits {s : State} {sw : Bool} {a line l : Fin 32} (hi : MayIssue s .none 0)
    (hp : (getLine s (clusterOf (coreOf s.cur)) line.val).pend ≠ 0) :
    Does (.evwait sw a line l) s fun t => (getSlot t s.cur).st = .waiting (.event line.val) ∧
      (getSlot t s.cur).limit = (if l.val = 31 then none else some (2 ^ (l.val + 6))) ∧ (getSlot t s.cur).pc = pcOf s ∧ t.mem = s.mem := by
  refine ⟨waitFor s (.event line.val) [wd a.val] (if l.val = 31 then none else some (2 ^ (l.val + 6))), ?_, ?_, ?_, ?_, rfl⟩
  · change execEvwait sw a line l s = _
    rw [execEvwait, issue_of_may hi, if_pos hp]
  all_goals rw [waitFor, getSlot_modSlot_self]
  rfl

/-- IDEM and its close, with no job of the hart unfinished, open and end the region (R176). -/
theorem idemGo_done {s : State} {i : Instr} {point : Bool} (hi : MayIssue s .none 0) (hj : jobsPending s s.cur = false) :
    Accepted s (idemGo i point s) ∧ (getSlot (idemGo i point s) s.cur).region = (if point then some (pcOf s) else none) ∧
    (idemGo i point s).mem = s.mem := by
  obtain ⟨u, hu⟩ : ∃ u, u = modSlot s s.cur fun x => { x with region := if point then some x.pc else none } := ⟨_, rfl⟩
  have he : idemGo i point s = retire u true := by
    rw [idemGo, issue_of_may hi, hu]
    simp only [hj, Bool.false_eq_true, if_false]
  have hc : u.cur = s.cur := hu ▸ rfl
  have hx : getSlot u s.cur = { getSlot s s.cur with region := if point then some (pcOf s) else none } := by
    rw [hu, getSlot_modSlot_self]; rfl
  rw [he]
  refine ⟨accepted_retire_region hi hc hx, ?_, hu ▸ rfl⟩
  rw [retire, retireH, hc, getSlot_modSlot_self, hx]

/-- With jobs unfinished both park for them (R176). -/
theorem idemGo_parks {s : State} {i : Instr} {point : Bool} (hi : MayIssue s .none 0) (hj : jobsPending s s.cur = true) :
    (getSlot (idemGo i point s) s.cur).st = .parked .jobs none ∧ (getSlot (idemGo i point s) s.cur).pc = pcOf s ∧
    (idemGo i point s).mem = s.mem := by
  rw [idemGo, issue_of_may hi]
  simp only [hj, if_true, parkFor, getSlot_modSlot_self]
  exact ⟨trivial, rfl, rfl⟩

/-! The clauses of O41. -/

/-- A job's start or next step (R82, R169). -/
theorem jobStart_does {s : State} {cl i : Nat} {j : Job} (hj : (getCluster s cl).jobs[i]? = some j)
    (hs : if j.started then j.next < j.count ∧ j.stand = none else mayStart s cl j = true) (hp : pagesHeld s j.pages = false) :
    exec (.jobStart cl i) s = .next (runJob s cl j) := by
  have hs' : (if j.started then j.next < j.count && j.stand.isNone else mayStart s cl j) = true := by
    split at hs
    · next h => rw [if_pos h]; simp [hs]
    · next h => rw [if_neg h]; exact hs
  change execJobStart cl i s = _
  rw [execJobStart, hj]
  simp only [hp, hs', Bool.false_eq_true, if_false, if_true]

/-- A read step at plain places brings its bytes to the job (R169). -/
theorem runJob_reads {s : State} {cl : Nat} {j : Job} (hj : j ∈ (getCluster s cl).jobs) {x src dst : Nat} (hc : j.next < j.count)
    (ho : j.opc ≠ 4) (hv : j.overlaps = false) (hx : j.opc = 0 ∨ ∃ p, j.ix = some (x, p)) (hpl : j.place x j.next = some (src, dst))
    {ps : List (Nat × Nat)} (hb : j.buf.length < j.elen) (hs : s.sched.choices.head? ≠ some true)
    (hp : jobPas j.pages (src + j.buf.length) (pieceLen (src + j.buf.length) (j.elen - j.buf.length)) = some ps)
    (h : PlainAt s (ps.map (·.1))) :
    (runJob s cl j).mem = s.mem ∧ ∃ k ∈ (getCluster (runJob s cl j) cl).jobs, k.uid = j.uid ∧ k.buf = j.buf ++ getKeyed s ps ∧
      k.next = j.next ∧ k.wr = j.wr := by
  have hlen : ({ j with started := true } : Job).len = j.elen := if_neg ho
  have hstep := jobStep_placed (s := s) (j := { j with started := true }) cl hc ho hv hx hpl
  rw [hlen, if_pos (show ({ j with started := true } : Job).buf.length < j.elen from hb)] at hstep
  obtain ⟨hm, hcl, hu, hbuf, hn, hw, hst⟩ := elemRead_plain (j := { j with started := true }) cl hs hp h
  obtain ⟨⟨u, k⟩, hr⟩ : ∃ r, r = elemRead s cl { j with started := true } src := ⟨_, rfl⟩
  rw [← hr] at hstep hm hcl hu hbuf hn hw hst
  have hj' : j ∈ (getCluster u cl).jobs := by
    rw [getCluster, show u.clusters = s.clusters from hcl]; exact hj
  obtain ⟨hmem, hk⟩ := mem_runJob hstep hu hst hj'
  exact ⟨hmem.trans hm, k, hk, hu, hbuf, hn, hw⟩

/-- A write step at plain places puts its bytes (R169). -/
theorem runJob_writes {s : State} {cl : Nat} {j : Job} (hj : j ∈ (getCluster s cl).jobs) {x src dst : Nat} (hc : j.next < j.count)
    (ho : j.opc ≠ 4) (hv : j.overlaps = false) (hx : j.opc = 0 ∨ ∃ p, j.ix = some (x, p)) (hpl : j.place x j.next = some (src, dst))
    {ps : List (Nat × Nat)} (hb : ¬ j.buf.length < j.elen) (hwr : j.wr < j.elen) (h3 : j.opc ≠ 3)
    (hgo : j.wr = 0 → rangeWay s j dst j.elen = .go) (hi : ∀ e ∈ j.issuers, coreOf e.1 = j.core)
    (hp : jobPas j.pages (dst + j.wr) (pieceLen (dst + j.wr) (j.elen - j.wr)) = some ps) (h : PlainAt s (ps.map (·.1))) :
    let n := pieceLen (dst + j.wr) (j.elen - j.wr)
    (runJob s cl j).mem = (putKeyed s (ps.zip ((j.buf.drop j.wr).take n)) (j.hot.contains j.next)).mem ∧
    ∃ k ∈ (getCluster (runJob s cl j) cl).jobs, k.uid = j.uid ∧
      if j.wr + n < j.elen then k.next = j.next ∧ k.wr = j.wr + n else k.next = j.next + 1 := by
  intro n
  have hlen : ({ j with started := true } : Job).len = j.elen := if_neg ho
  have hstep := jobStep_placed (s := s) (j := { j with started := true }) cl hc ho hv hx hpl
  rw [hlen, if_neg (show ¬ ({ j with started := true } : Job).buf.length < j.elen from hb)] at hstep
  have hput := elemWrite_plain (s := s) (j := { j with started := true }) (dst := dst) (ps := ps) cl (by rw [hlen]; exact Nat.not_lt.mp hb)
    (by rw [hlen]; exact hwr) h3 (by rw [hlen]; exact hgo) hi (by rw [hlen]; exact hp) h
  rw [hlen] at hput
  obtain ⟨⟨u, k⟩, hr⟩ : ∃ r, r = elemWrite s cl { j with started := true } dst := ⟨_, rfl⟩
  rw [← hr] at hstep hput
  obtain ⟨hm, hcl, hu, hst, hend⟩ := hput
  rw [hlen] at hend
  have hj' : j ∈ (getCluster u cl).jobs := by rw [show (getCluster u cl).jobs = _ from hcl cl]; exact hj
  obtain ⟨hmem, hk⟩ := mem_runJob hstep hu hst hj'
  exact ⟨hmem.trans hm, k, hk, hu, hend⟩

/-- A job with its elements behind it leaves, and its line serves the hart that waits for it (R173, R181). -/
theorem jobFinish_does {s : State} {cl i : Nat} {j : Job} (hj : (getCluster s cl).jobs[i]? = some j) (hs : j.started = true)
    (hc : j.count ≤ j.next) (hn : noticesPending s = false) : exec (.jobFinish cl i) s = .next (serveLine (jobLeft s cl j) cl j.evt) := by
  change execJobFinish cl i s = _
  rw [execJobFinish, hj, ← finishJob_eq]
  simp only [hs, hc, hn, decide_true, Bool.not_false, Bool.and_self, if_true]

/-- Where no hart is served, or where one is, the line is as R173 says. -/
theorem serveLine_jobLeft {s : State} {cl : Nat} {j : Job} (hu : (getLine (jobLeft s cl j) cl j.evt).pend ≠ 0 ∨
    ∀ h, ¬ (getSlot s h).st = .waiting (.event j.evt)) : serveLine (jobLeft s cl j) cl j.evt = jobLeft s cl j := by
  refine serveLine_none (hu.imp_right fun hw h => ?_)
  rw [getSlot, (jobLeft_kept s cl j).2.1]
  exact hw h

/-- A finished job is in its cluster no more, whichever harts its line serves. -/
theorem jobs_serveLine (s : State) (cl line : Nat) : (getCluster (serveLine s cl line) cl).jobs = (getCluster s cl).jobs := by
  rw [serveLine_eq]
  split
  · rfl
  · refine foldl_keeps (P := fun u : State => (getCluster u cl).jobs = (getCluster s cl).jobs) _ _ _ rfl fun u h hh hu => ?_
    have hcl : clusterOf (coreOf h) = cl := by
      have := mem_span.mp hh
      rw [clusterOf, coreOf]; omega
    rw [serveHart]
    split
    · rw [retireH, getCluster_modSlot, getCluster_modSlot, ← hcl, (takeLine_cluster u h _ line).1, hcl, hu]
    · exact hu

/-- Settles O41. -/
theorem engineProgress : Obligations.EngineProgress := by
  unfold Obligations.EngineProgress
  refine ⟨fun s cl i j hj => ⟨fun hs hp => ?_, fun hs hc hn => ?_⟩, fun s cl b n => ⟨fun h => ?_, fun k j h => ?_, fun a u v p h hp => ?_⟩, ?_⟩
  · have hmem := List.mem_of_getElem? hj
    refine ⟨_, jobStart_does hj hs hp, rfl, fun x src dst hc ho hv hx hpl => ⟨fun ps hb hsc hps h => ?_, fun ps hb hw h3 hgo hi hps h => ?_⟩⟩
    · exact runJob_reads hmem hc ho hv hx hpl hb hsc hps h
    · exact runJob_writes hmem hc ho hv hx hpl hb hw h3 hgo hi hps h
  · obtain ⟨hm, hsl, hjobs, hline⟩ := jobLeft_kept s cl j
    have hslot : ∀ h, getSlot (jobLeft s cl j) h = getSlot s h := fun h => by rw [getSlot, getSlot, hsl]
    refine ⟨_, jobFinish_does hj hs hc hn, (jobs_serveLine ..).trans hjobs, fun h => ?_, fun h hp hcl hpl hwf hw ho hd => ?_⟩
    · rw [serveLine_jobLeft (h.imp_left fun h => by rw [hline]; exact h)]
      exact ⟨hline, hm, hsl⟩
    · obtain ⟨u, hu⟩ : ∃ u, u = jobLeft s cl j := ⟨_, rfl⟩
      rw [← hu] at hm hslot hline ⊢
      have hcl' : clusterOf (coreOf h) = cl := by rw [clusterOf, coreOf]; omega
      have hplaced : Placed u h := by rw [Placed, hslot]; exact hpl
      have hserve := serveHart_served (s := u) (line := j.evt) (h := h) (by rw [hslot]; exact hw) hplaced (by rw [hm]; exact hwf)
        (by rw [hslot]; exact Nat.lt_trans hd (by decide))
      dsimp only at hserve
      rw [hcl', hline, hslot] at hserve
      obtain ⟨hr, hpc, hst, hl, -, hne⟩ := hserve
      rw [serveLine_one (by rw [hline]; exact hp) hcl (fun k hk => by rw [hslot]; exact ho k hk) hne]
      exact ⟨hr, hpc, hst, hl⟩
  · change execFifoAccessResume cl b s = _
    rw [execFifoAccessResume, h]; rfl
  · change execFifoAccessResume cl b s = _
    rw [execFifoAccessResume, h]; rfl
  · change execFifoAccessResume cl b s = _
    rw [execFifoAccessResume, h]
    simp only [List.foldl_cons, List.foldl_nil, hp]
  · intro s sw a line l hi cl ev
    refine ⟨fun hp _ => evwait_waits hi hp, fun hp o => evwait_taken hi o hp, fun hj => ⟨?_, ?_⟩, fun hj i hi' => ?_⟩
    · exact ⟨_, rfl, idemGo_done hi hj⟩
    · exact ⟨_, rfl, idemGo_done hi hj⟩
    · rcases List.mem_pair.mp hi' with rfl | rfl
      · exact ⟨_, rfl, idemGo_parks hi hj⟩
      · exact ⟨_, rfl, idemGo_parks hi hj⟩

end Sys2Proof.Machine
end

section
namespace Sys2Proof.Machine

/-! Accesses at their targets (R197, R198): packets, copies, and the byte-wise and whole performance of an access. -/

theorem accAt_of {s : State} {i : Nat} {a : Access} (ha : s.flight[i]? = some a) {ok : Access → Bool} (h : ok a = true) :
    accAt s i ok = some a := by
  rw [accAt, ha, Option.filter_some, if_pos h]

theorem sendPacket_eq (s : State) (m n : Nat) : ∃ l d, sendPacket s m n = { s with
    fab := { s.fab with links := l }, sched := { s.sched with fresh := d } } := by
  rw [sendPacket]
  split
  · exact ⟨_, _, rfl⟩
  · dsimp only
    split
    · exact ⟨_, _, rfl⟩
    · exact ⟨_, _, rfl⟩

/-- A packet on its way changes the links and takes of the free values, and nothing else (R421). -/
theorem packetOut_eq (s : State) (a : Access) : ∃ l d, packetOut s a = { s with
    fab := { s.fab with links := l }, sched := { s.sched with fresh := d } } := by
  rw [packetOut]
  split
  · exact ⟨_, _, rfl⟩
  · exact sendPacket_eq ..

/-- The machine with other links and another place in the schedule. -/
def relinked (f : Fabric) (d : Sched) (s : State) : State := { s with fab := f, sched := d }

theorem retag_relinked (f : Fabric) (d : Sched) (s : State) (key pa : Nat) :
    retag (relinked f d s) key pa = relinked f d (retag s key pa) := by
  have h : ∀ (c : Bool) (m : List Host.Cell) (k : Tbl Nat), (if c then { relinked f d s with mem := m, keytag := k } else relinked f d s) =
      relinked f d (if c then { s with mem := m, keytag := k } else s) := by
    intro c m k; cases c <;> rfl
  exact h ..

/-- The storage that a write leaves does not depend on the links. -/
theorem putBytes_packetOut (s : State) (a : Access) (key : Nat) (cells : List (Nat × Byte)) (psn : Bool) :
    (putBytes (packetOut s a) key cells psn).mem = (putBytes s key cells psn).mem := by
  obtain ⟨l, d, e⟩ := packetOut_eq s a
  obtain ⟨u, hu⟩ : ∃ u, u = (cells.map (·.1)).foldl (fun s a => retag s key a) s := ⟨_, rfl⟩
  have hf : (cells.map (·.1)).foldl (fun s a => retag s key a) (packetOut s a) =
      relinked { s.fab with links := l } { s.sched with fresh := d } u := by
    rw [e, hu]
    exact List.foldl_hom (relinked _ _) fun x y => retag_relinked _ _ x key y
  rw [putBytes, putBytes, markStale_mem, markStale_mem, hf, ← hu]
  rfl

/-- Two states that differ in their cores, clusters and poison alone. -/
def SameButCopies (s t : State) : Prop :=
  { t with cores := s.cores, clusters := s.clusters, poison := s.poison, washed := s.washed } = s

theorem SameButCopies.refl (s : State) : SameButCopies s s := rfl

theorem SameButCopies.trans {s t u : State} (h : SameButCopies s t) (k : SameButCopies t u) : SameButCopies s u := by
  unfold SameButCopies at *; rw [← h, ← k]

theorem sameButCopies_wash (s : State) (pa : Nat) : SameButCopies s (wash s pa) := by
  rw [wash]
  split
  · rfl
  · dsimp only; split <;> rfl

theorem sameButCopies_fillFrom (s : State) (core key : Nat) (pas : List Nat) : SameButCopies s (fillFrom s core key pas) := by
  rw [fillFrom]
  refine foldl_keeps (P := SameButCopies s) _ _ _ ?_ fun _ _ _ hu => hu
  split
  · rfl
  · exact foldl_keeps (P := SameButCopies s) _ _ _ rfl fun _ _ _ hu => hu

theorem sameButCopies_cleanCopies (s : State) (a : Access) : SameButCopies s (cleanCopies s a) := by
  rw [cleanCopies]
  dsimp only
  split <;> rfl

/-- What an access does to cached copies changes cores, clusters and poison alone (R80, R84, R95). -/
theorem sameButCopies_copiesAfter (s : State) (a : Access) : SameButCopies s (copiesAfter s a) := by
  have hdrop : ∀ (u : State) (core : Nat) (pas : List Nat), SameButCopies u (dropCopies u core pas) := fun _ _ _ => rfl
  have hstore : ∀ (core key : Nat) (cells : List (Nat × Byte)) (psn : Bool), SameButCopies s (storeCopies s core key cells psn) :=
    fun _ _ _ _ => rfl
  rw [copiesAfter]
  generalize (if a.whole s then a else a.byte) = b
  dsimp only
  split
  · rfl
  · split
    · split
      · exact sameButCopies_fillFrom ..
      · split
        · exact ((hstore ..).trans (sameButCopies_wash ..)).trans (sameButCopies_cleanCopies ..)
        · exact hstore ..
      · exact hdrop ..
    · split
      · exact (sameButCopies_wash ..).trans (hdrop ..)
      · exact hdrop ..

section
variable {s t : State} (h : SameButCopies s t)
include h

theorem SameButCopies.mem_eq : t.mem = s.mem := (congrArg State.mem h :)
theorem SameButCopies.slots_eq : t.slots = s.slots := (congrArg State.slots h :)
theorem SameButCopies.flight_eq : t.flight = s.flight := (congrArg State.flight h :)
theorem SameButCopies.keytag_eq : t.keytag = s.keytag := (congrArg State.keytag h :)
theorem SameButCopies.empty_eq : t.empty = s.empty := (congrArg State.empty h :)
theorem SameButCopies.tr_eq : t.tr = s.tr := (congrArg State.tr h :)
theorem SameButCopies.module_eq : t.module = s.module := (congrArg State.module h :)

end

/-- What a packet leaves (R421). -/
theorem packetOut_kept (s : State) (a : Access) : (packetOut s a).mem = s.mem ∧ (packetOut s a).slots = s.slots ∧
    (packetOut s a).flight = s.flight ∧ (packetOut s a).keytag = s.keytag ∧ (packetOut s a).tr = s.tr ∧
    (packetOut s a).module = s.module ∧ (packetOut s a).empty = s.empty ∧ (packetOut s a).poison = s.poison ∧
    (packetOut s a).uid = s.uid := by
  obtain ⟨l, d, e⟩ := packetOut_eq s a
  rw [e]
  exact ⟨rfl, rfl, rfl, rfl, rfl, rfl, rfl, rfl, rfl⟩

/-- Bytes read depend on storage, its tags and the keys. -/
theorem rdBytes_congr {s t : State} (hm : t.mem = s.mem) (hk : t.keytag = s.keytag) (ht : t.tr = s.tr) (key : Nat) (pas : List Nat) :
    rdBytes t key pas = rdBytes s key pas := by
  have hmat : keyMat t key = keyMat s key := by rw [keyMat, keyMat, ht]
  rw [rdBytes, rdBytes]
  refine List.map_congr_left fun pa _ => ?_
  rw [rdByte, rdByte, hmat, hm, hk]

/-- An access that its target serves now, at no FIFO port: nothing refuses it, no bank or key slot that changes holds it back. -/
structure Served (s : State) (a : Access) : Prop where
  past    : a.past = none
  refused : refusal s a = none
  bank    : bankOf (a.pas.headD 0) = none
  pend    : pendBank s a.pas = none
  held    : keyHeld s a.keyed = false

/-- Where a sync access that may be performed leaves the word, before its full bit (R88). -/
def syncPut (s : State) (a : Access) (v : Option Word) : State :=
  match v with
  | some w => putBytes s a.key (a.pas.zip (wBytes w)) a.psn
  | none => s

section
variable {s : State} {a : Access} (h : Served s a)
include h

theorem Served.packetOut : Served (packetOut s a) a := by
  obtain ⟨hp, hr, hb, hq, hk⟩ := h
  obtain ⟨l, d, e⟩ := packetOut_eq s a
  rw [e]
  exact ⟨hp, hr, hb, hq, hk⟩

theorem Served.fifoPort : fifoPort s a.pas = none := by
  rw [Sys2Proof.Machine.fifoPort, h.bank]; rfl

theorem Served.readPas : readPas s a = a.pas := by
  rw [Sys2Proof.Machine.readPas, h.fifoPort]

theorem Served.read : a.read s = rdBytes s a.key a.pas := by
  rw [Access.read, h.past]

theorem Served.put (u : State) (bs : List Byte) (psn : Bool) : a.put u bs psn = putBytes u a.key (a.pas.zip bs) psn := by
  rw [Access.put, h.past]

/-- Its bytes one by one are at no port either: a port would have refused an access that crosses into it (R82). -/
theorem Served.fifoPort_byte {bs : List Byte} (ho : a.op = .store bs) {pa : Nat} (hm : pa ∈ a.pas) : Sys2Proof.Machine.fifoPort s [pa] = none := by
  have hr : refusalAt s a pa = none := List.findSome?_eq_none_iff.mp h.refused pa hm
  rw [Sys2Proof.Machine.fifoPort, List.headD_cons, Option.filter_eq_none_iff]
  rintro ⟨cl, b⟩ hb
  simp only [decide_eq_true_eq, Bool.and_eq_true, not_and]
  intro hmod hmode
  have hcross : fifoCrosses s cl b a.pas = true := by
    cases hl : a.pas with
    | nil => rw [hl] at hm; exact absurd hm List.not_mem_nil
    | cons c l =>
      have hc : bankOf c = none := by have := h.bank; rwa [hl] at this
      rw [fifoCrosses, List.any_cons, hc]
      rfl
  obtain ⟨c, ht⟩ : ∃ c, targetOf (offsetOf pa) = .sram c := by
    rw [bankOf] at hb
    split at hb
    · next c ht => exact ⟨c, ht⟩
    · exact absurd hb (by simp)
  rw [refusalAt, ht] at hr
  cases hans : answers s s.module <;> cases hsc : a.sc <;> simp [hmod, hb, hmode, ho, hcross, hsc, hans] at hr

/-- A served access that is ready, stops at no poison and goes whole is performed. -/
theorem Served.perform_whole (hr : accReady s a = true) (hs : poisonStop s a = false) (hw : a.whole s = true) :
    perform s a = ((effect s a).1, .done (effect s a).2.1 (effect s a).2.2) := by
  rw [perform, h.pend, h.held, h.refused]
  simp only [hr, hs, hw, Option.isSome_none, Bool.or_self, Bool.not_true, Bool.false_eq_true, if_false, if_true]

/-- A store is performed whole where its bytes are an aligned unit (R197). -/
theorem Served.perform_store {bs : List Byte} (ho : a.op = .store bs) (hal : aligned a.pas = true) :
    perform s a = (putBytes s a.key (a.pas.zip bs) a.psn, .done [] false) := by
  have hready : accReady s a = true := by rw [accReady, h.pend, h.fifoPort, ho]; rfl
  have hstop : poisonStop s a = false := by
    rw [poisonStop, show a.storeOnly = true by rw [Access.storeOnly, ho]]
    simp
  have hwhole : a.whole s = true := by rw [Access.whole, hal]; rfl
  have he : effect s a = (putBytes s a.key (a.pas.zip bs) a.psn, [], false) := by
    rw [effect, h.fifoPort, ho]
    simp only [h.put]
  rw [h.perform_whole hready hstop hwhole, he]

/-- Else its next byte is, and the rest stay in flight. -/
theorem Served.perform_byte {bs : List Byte} (ho : a.op = .store bs) (hal : aligned a.pas = false) (hlt : a.part + 1 < a.pas.length) :
    let u := putBytes s a.key [(a.pas.getD a.part 0, bs.getD a.part 0)] a.psn
    ∃ b : Access, b.part = a.part + 1 ∧ b.st = a.st ∧ b.uid = a.uid ∧
      perform s a = ({ u with flight := u.flight.map fun c => if c.uid = a.uid then b else c }, .part) := by
  intro u
  have hready : accReady s a = true := by rw [accReady, h.pend, h.fifoPort, ho]; rfl
  have hstop : poisonStop s a = false := by
    rw [poisonStop, show a.storeOnly = true by rw [Access.storeOnly, ho]]
    simp
  have hwhole : a.whole s = false := by rw [Access.whole, hal, h.fifoPort, ho]; rfl
  have hmem : a.pas.getD a.part 0 ∈ a.pas := by
    rw [List.getD_eq_getElem _ _ (by omega)]; exact List.getElem_mem _
  have he : effect s a.byte = (u, [], false) := by
    have hb : a.byte = { a with pas := [a.pas.getD a.part 0], past := none, op := .store [bs.getD a.part 0] } := by
      rw [Access.byte, h.past, ho]
    rw [hb, effect, h.fifoPort_byte ho hmem]
    rfl
  refine ⟨{ a with part := a.part + 1, got := a.got ++ [], gotPsn := a.gotPsn || false }, rfl, rfl, rfl, ?_⟩
  rw [perform, h.pend, h.held, h.refused]
  simp only [hready, hstop, hwhole, he, hlt, Option.isSome_none, Bool.or_self, Bool.not_true, Bool.false_eq_true, if_false, if_true]

/-- A load reads its bytes. -/
theorem Served.perform_load (ho : a.op = .load) (hd : a.dest = .result) (hal : aligned a.pas = true) :
    perform s a = (s, .done (rdBytes s a.key a.pas) (anyPsn s a.pas)) := by
  have hready : accReady s a = true := by rw [accReady, h.pend, h.fifoPort, ho]; rfl
  have hstop : poisonStop s a = false := by
    rw [poisonStop, show a.waited = false by rw [Access.waited, hd]]
    simp
  have hwhole : a.whole s = true := by rw [Access.whole, hal]; rfl
  have he : effect s a = (s, rdBytes s a.key a.pas, anyPsn s a.pas) := by
    rw [effect, h.fifoPort, ho]
    simp only [h.read, h.readPas]
  rw [h.perform_whole hready hstop hwhole, he]

/-- A sync access whose word is not as its mode wants waits (R88). -/
theorem Served.perform_sync_wait {m : SyncMode} {v : Option Word} (ho : a.op = .sync m v)
    (hm : syncMet m (isFull s (a.pas.headD 0)) = false) : perform s a = (s, .wait) := by
  have hready : accReady s a = false := by rw [accReady, h.pend, h.fifoPort, ho]; exact hm
  rw [perform, h.pend, h.held, h.refused]
  simp only [hready, Option.isSome_none, Bool.or_self, Bool.not_false, Bool.false_eq_true, if_false, if_true]

/-- Else it is performed, and its full bit is left as its mode says (R88). -/
theorem Served.perform_sync {m : SyncMode} {v : Option Word} (ho : a.op = .sync m v) (hn : m ≠ .probe)
    (hm : syncMet m (isFull s (a.pas.headD 0)) = true) (hp : anyPsn s a.pas = false) :
    perform s a = (setFull (syncPut s a v) (a.pas.headD 0) (syncBit m (isFull s (a.pas.headD 0))),
      .done (rdBytes s a.key a.pas) false) := by
  have hready : accReady s a = true := by rw [accReady, h.pend, h.fifoPort, ho]; exact hm
  have hstop : poisonStop s a = false := by
    rw [poisonStop, h.readPas, hp]; simp
  have hwhole : a.whole s = true := by rw [Access.whole, h.fifoPort, ho]; simp
  have he : effect s a = (setFull (syncPut s a v) (a.pas.headD 0) (syncBit m (isFull s (a.pas.headD 0))),
      rdBytes s a.key a.pas, false) := by
    rw [effect, h.fifoPort, ho]
    simp only [h.read, h.readPas, hp, hn, if_false]
    cases v with
    | none => rfl
    | some w => simp only [h.put, syncPut]
  rw [h.perform_whole hready hstop hwhole, he]

end

end Sys2Proof.Machine
end

section
namespace Sys2Proof.Machine

/-! Arrivals (R81, R88, R197, R198). -/

/-- A write of bytes leaves what is in flight and the full bits. -/
theorem putBytes_kept (s : State) (key : Nat) (cells : List (Nat × Byte)) (psn : Bool) :
    (putBytes s key cells psn).flight = s.flight ∧ (putBytes s key cells psn).empty = s.empty := by
  obtain ⟨u, e, hu⟩ := putBytes_offMem s key cells psn
  rw [e, markStale_flight, markStale_empty]
  exact ⟨(congrArg State.flight hu :), (congrArg State.empty hu :)⟩

theorem exec_remoteAccessArrival {s : State} {i : Nat} {a : Access} (ha : s.flight[i]? = some a) (hf : a.st = .flying)
    (hy : isSync a = false) (hs : isSend a = false) (hh : heldBack s i a = false) :
    exec (.remoteAccessArrival i) s = .next (arrive (packetOut s a) a) := by
  change execRemoteAccessArrival i s = _
  rw [execRemoteAccessArrival, accAt_of ha (by simp [hf, hy, hs, hh])]

theorem exec_syncAccessArrival {s : State} {i : Nat} {a : Access} {m : SyncMode} {v : Option Word} (ha : s.flight[i]? = some a)
    (hf : a.st = .flying) (ho : a.op = .sync m v) (hh : heldBack s i a = false) (hr : m = .probe ∨ releaseHeld s i a = false) :
    exec (.syncAccessArrival i) s = .next (arrive (packetOut s a) a) := by
  have hy : isSync a = true := by rw [isSync, ho]
  have hm : ((match a.op with | .sync .probe _ => true | _ => false) || !releaseHeld s i a) = true := by
    rcases hr with rfl | hr
    · rw [ho]; rfl
    · rw [hr, Bool.not_false, Bool.or_true]
  change execSyncAccessArrival i s = _
  rw [execSyncAccessArrival, accAt_of ha (Bool.and_eq_true_iff.mpr ⟨by simp [hf, hy, hh], hm⟩)]

/-- An access that is performed on its arrival is delivered. -/
theorem arrive_done {s u : State} {a : Access} {v : List Byte} {p : Bool} (hk : keyHeld s a.keyed = false)
    (hp : perform s a = (u, .done v p)) (hs : isSync a = false) : arrive s a = deliver (copiesAfter u a) a v p := by
  rw [arrive, hk, hp]
  cases ho : a.op with
  | sync m v => rw [isSync, ho] at hs; exact absurd hs (by simp)
  | _ => simp only [Bool.false_eq_true, if_false]

theorem setAcc_flight (s : State) (uid : Nat) (st : AccSt) :
    (setAcc s uid st).flight = s.flight.map fun b => if b.uid = uid then { b with st := st } else b := rfl

section
variable {s : State} {i : Nat} {a : Access} {bs : List Byte} (ha : s.flight[i]? = some a) (hf : a.st = .flying)
  (hh : heldBack s i a = false) (h : Served s a)
include ha hf hh h

/-- A plain store is performed whole where its bytes are an aligned unit (R197, R198). -/
theorem storeArrival_whole {pool frame entry : Nat} (ho : a.op = .store bs) (hd : a.dest = .journal pool frame entry) (hq : a.acq = none)
    (hal : aligned a.pas = true) : Does (.remoteAccessArrival i) s fun t =>
      t.mem = (putBytes s a.key (a.pas.zip bs) a.psn).mem ∧ t.slots = s.slots ∧
      t.flight = s.flight.map fun b => if b.uid = a.uid then { b with st := .done [] false } else b := by
  have hy : isSync a = false := by rw [isSync, ho]
  have hs : isSend a = false := by rw [isSend, ho]
  obtain ⟨-, hslots, hflight, -⟩ := packetOut_kept s a
  obtain ⟨u, hu⟩ : ∃ u, u = putBytes (packetOut s a) a.key (a.pas.zip bs) a.psn := ⟨_, rfl⟩
  have hum : u.mem = (putBytes s a.key (a.pas.zip bs) a.psn).mem := hu ▸ putBytes_packetOut ..
  have hus : u.slots = s.slots := (hu ▸ putBytes_slots ..).trans hslots
  have huf : u.flight = s.flight := (hu ▸ (putBytes_kept ..).1).trans hflight
  have hp := h.packetOut.perform_store ho hal
  rw [← hu] at hp
  have hc := sameButCopies_copiesAfter u a
  have hdel : deliver (copiesAfter u a) a [] false = setAcc (copiesAfter u a) a.uid (.done [] false) := by
    rw [deliver, ho, hd, accAcquire, hq]
  refine ⟨_, exec_remoteAccessArrival ha hf hy hs hh, ?_⟩
  rw [arrive_done h.packetOut.held hp hy, hdel]
  beta_reduce
  rw [setAcc_flight]
  exact ⟨hc.mem_eq.trans hum, hc.slots_eq.trans hus, by rw [hc.flight_eq, huf]⟩

/-- Else byte by byte (R197). -/
theorem storeArrival_byte (ho : a.op = .store bs) (hal : aligned a.pas = false) (hlt : a.part + 1 < a.pas.length) :
    Does (.remoteAccessArrival i) s fun t =>
      t.mem = (putBytes s a.key [(a.pas.getD a.part 0, bs.getD a.part 0)] a.psn).mem ∧ t.slots = s.slots ∧
      ∀ b ∈ t.flight, b.uid = a.uid → b.part = a.part + 1 ∧ b.st = .flying := by
  have hy : isSync a = false := by rw [isSync, ho]
  have hs : isSend a = false := by rw [isSend, ho]
  obtain ⟨-, hslots, -⟩ := packetOut_kept s a
  obtain ⟨b, hbp, hbs, hbu, hp⟩ := h.packetOut.perform_byte ho hal hlt
  obtain ⟨u, hu⟩ : ∃ u, u = putBytes (packetOut s a) a.key [(a.pas.getD a.part 0, bs.getD a.part 0)] a.psn := ⟨_, rfl⟩
  have hum : u.mem = (putBytes s a.key [(a.pas.getD a.part 0, bs.getD a.part 0)] a.psn).mem := hu ▸ putBytes_packetOut ..
  have hus : u.slots = s.slots := (hu ▸ putBytes_slots ..).trans hslots
  rw [← hu] at hp
  obtain ⟨w, hw⟩ : ∃ w, w = { u with flight := u.flight.map fun c : Access => if c.uid = a.uid then b else c } := ⟨_, rfl⟩
  have hwm : w.mem = u.mem := hw ▸ rfl
  have hws : w.slots = u.slots := hw ▸ rfl
  have hwf : w.flight = u.flight.map fun c : Access => if c.uid = a.uid then b else c := hw ▸ rfl
  rw [← hw] at hp
  have hc := sameButCopies_copiesAfter w a
  refine ⟨_, exec_remoteAccessArrival ha hf hy hs hh, ?_⟩
  rw [arrive, h.packetOut.held, hp]
  refine ⟨hc.mem_eq.trans (hwm.trans hum), hc.slots_eq.trans (hws.trans hus), fun c hm he => ?_⟩
  change c ∈ (copiesAfter w a).flight at hm
  rw [hc.flight_eq, hwf] at hm
  obtain ⟨c', -, rfl⟩ := List.mem_map.mp hm
  split at he
  · next hc' => rw [if_pos hc']; exact ⟨hbp, hbs.trans hf⟩
  · next hc' => exact absurd he hc'

/-- A load brings its bytes to the result that waits for it (R16, R198). -/
theorem loadArrival (ho : a.op = .load) (hd : a.dest = .result) (hq : a.acq = none) (hal : aligned a.pas = true) :
    Does (.remoteAccessArrival i) s fun t => t.mem = s.mem ∧ (∀ k, k ≠ a.hart → getSlot t k = getSlot s k) ∧
      (getSlot t a.hart).outs = (getSlot s a.hart).outs.map fun o => if o.src = some a.uid then { o with
        val := some (extOut o.ext (rdBytes s a.key a.pas)), psn := o.psn || anyPsn s a.pas } else o := by
  have hy : isSync a = false := by rw [isSync, ho]
  have hs : isSend a = false := by rw [isSend, ho]
  obtain ⟨hm, hslots, -, hk, ht, -, -, hpsn, -⟩ := packetOut_kept s a
  have hp := h.packetOut.perform_load ho hd hal
  have hany : anyPsn (packetOut s a) a.pas = anyPsn s a.pas := by
    rw [anyPsn, anyPsn]; congr 1; funext pa; rw [isPsn, isPsn, hpsn]
  rw [rdBytes_congr hm hk ht, hany] at hp
  obtain ⟨u, hu⟩ : ∃ u, u = packetOut s a := ⟨_, rfl⟩
  have hc := sameButCopies_copiesAfter u a
  have hsl : ∀ k, getSlot (copiesAfter u a) k = getSlot s k := fun k => by rw [getSlot, getSlot, hc.slots_eq, hu, hslots]
  have hdel : deliver (copiesAfter u a) a (rdBytes s a.key a.pas) (anyPsn s a.pas) =
      modSlot (setAcc (copiesAfter u a) a.uid (.done (rdBytes s a.key a.pas) (anyPsn s a.pas))) a.hart fun x =>
        { x with outs := x.outs.map (fillOut a.uid (rdBytes s a.key a.pas) (anyPsn s a.pas)) } := by
    rw [deliver, ho, hd]
    dsimp only
    rw [accAcquire, hq]
  refine ⟨_, exec_remoteAccessArrival ha hf hy hs hh, ?_⟩
  rw [arrive_done h.packetOut.held hp hy, ← hu, hdel]
  refine ⟨hc.mem_eq.trans (hu ▸ hm), fun k e => ?_, ?_⟩
  · rw [getSlot_modSlot_ne _ _ e]; exact hsl k
  · rw [getSlot_modSlot_self]
    change (getSlot (copiesAfter u a) a.hart).outs.map _ = _
    rw [hsl]
    rfl

end

end Sys2Proof.Machine
end

section
namespace Sys2Proof.Machine

/-! Bytes written under a key and read under it (R75, R411). -/

theorem keytag_retag_key {s : State} {key pa a : Nat} (h : a / 32 = pa / 32 ∨ tget 0 s.keytag (a / 32) = keyMat s key)
    (hb : isHbm a = true) : tget 0 (retag s key pa).keytag (a / 32) = keyMat s key := by
  simp only [retag]
  split
  · by_cases hs : a / 32 = pa / 32
    · rw [hs]
      dsimp only
      split
      · next h0 => rw [h0]; exact tget_tdel_self ..
      · exact tget_tput_self ..
    · have ht := h.resolve_left hs
      dsimp only
      split
      · exact (tget_tdel_ne _ _ hs).trans ht
      · exact (tget_tput_ne _ _ _ hs).trans ht
  · next hc =>
    rcases h with hs | h
    · rw [isHbm_sector hs] at hb
      simpa [hb, ← hs] using hc
    · exact h

theorem keyMat_retag (s : State) (key pa k : Nat) : keyMat (retag s key pa) k = keyMat s k := by
  have h : (retag s key pa).tr = s.tr := (congrArg State.tr (offMem_retag s key pa) :)
  rw [keyMat, keyMat, h]

theorem keyMat_retags (s : State) (key k : Nat) (l : List Nat) : keyMat (l.foldl (fun s a => retag s key a) s) k = keyMat s k :=
  foldl_keeps (P := fun u => keyMat u k = keyMat s k) _ _ _ rfl fun _ _ _ hu => (keyMat_retag ..).trans hu

theorem keytag_retags_key {l : List Nat} {s : State} {key a : Nat} (h : a ∈ l ∨ tget 0 s.keytag (a / 32) = keyMat s key)
    (hb : isHbm a = true) : tget 0 (l.foldl (fun s a => retag s key a) s).keytag (a / 32) = keyMat s key := by
  induction l generalizing s with
  | nil => exact h.resolve_left List.not_mem_nil
  | cons p l ih =>
    rw [List.foldl_cons, ← keyMat_retag s key p key]
    refine ih ?_
    rw [keyMat_retag]
    rcases h with h | h
    · rcases List.mem_cons.mp h with rfl | h
      · exact .inr (keytag_retag_key (.inl rfl) hb)
      · exact .inl h
    · exact .inr (keytag_retag_key (.inr h) hb)

/-- Bytes written at different addresses are read there. -/
theorem map_memGet_zip {pas : List Nat} {bs : List Byte} (hn : pas.Nodup) (hl : pas.length = bs.length) {m : List Host.Cell}
    (w : Memory.wf m = true) : pas.map (memGet (memSetAll (pas.zip bs) m)) = bs := by
  induction pas generalizing bs m with
  | nil => exact (List.length_eq_zero_iff.mp hl.symm).symm
  | cons p pas ih =>
    cases bs with
    | nil => exact absurd hl (by simp)
    | cons b bs =>
      obtain ⟨hp, hn⟩ := List.nodup_cons.mp hn
      simp only [List.zip_cons_cons, memSetAll, List.map_cons, List.cons.injEq]
      refine ⟨?_, ih hn (by simpa using hl) (memSet_wf p b w)⟩
      rw [memGet_memSetAll_ne _ _ fun e he (hpe : e.1 = p) => hp (hpe ▸ (List.of_mem_zip he).1), memGet_memSet_self w]

/-- Bytes of HBM that are written under a key are read under it. -/
theorem rdBytes_putBytes {s : State} (w : Memory.wf s.mem = true) {pas : List Nat} {bs : List Byte} (hn : pas.Nodup)
    (hl : pas.length = bs.length) (hb : ∀ a ∈ pas, isHbm a = true) (key : Nat) (psn : Bool) :
    rdBytes (putBytes s key (pas.zip bs) psn) key pas = bs := by
  obtain ⟨u, hu⟩ : ∃ u, u = pas.foldl (fun s a => retag s key a) s := ⟨_, rfl⟩
  have hz : (pas.zip bs).map (·.1) = pas := List.map_fst_zip hl.le
  have hw : Memory.wf u.mem = true := hu ▸ foldl_keeps (P := fun u : State => Memory.wf u.mem = true) _ _ _ w
    fun u a _ hu => retag_wf hu key a
  have hm : (putBytes s key (pas.zip bs) psn).mem = memSetAll (pas.zip bs) u.mem := by
    rw [putBytes, markStale_mem, hz, hu]
  have hk : (putBytes s key (pas.zip bs) psn).keytag = u.keytag := by
    rw [putBytes, markStale_keytag, hz, hu]
  have hmat : keyMat (putBytes s key (pas.zip bs) psn) key = keyMat s key := by rw [keyMat, keyMat, putBytes_tr]
  refine Eq.trans ?_ (map_memGet_zip hn hl hw)
  rw [rdBytes]
  refine List.map_congr_left fun a ha => ?_
  have htag : tget 0 u.keytag (a / 32) = keyMat s key := hu ▸ keytag_retags_key (.inl ha) (hb a ha)
  rw [rdByte, hm, hk, hmat, htag]
  simp

/-- A register write leaves what HBM holds. -/
theorem rdBytes_writeReg {s : State} {h : Nat} (p : Placed s h) {n : Nat} (hn : n < 64) (v : Word) (psn : Bool) {pas : List Nat}
    (hb : ∀ a ∈ pas, isHbm a = true) (key : Nat) : rdBytes (writeReg s h n v psn) key pas = rdBytes s key pas := by
  have hu := writeReg_units p hn v psn
  have hk : (writeReg s h n v psn).keytag = s.keytag := (congrArg State.keytag hu :)
  have ht : (writeReg s h n v psn).tr = s.tr := (congrArg State.tr hu :)
  have hmat : keyMat (writeReg s h n v psn) key = keyMat s key := by rw [keyMat, keyMat, ht]
  have hmem : ∀ a, isHbm a = true → memGet (writeReg s h n v psn).mem a = memGet s.mem a := fun a ha => by
    refine writeReg_mem_frame p hn v psn ?_
    by_contra hc
    have := reg_plain p hn a (mem_span.mpr (by omega))
    rw [this] at ha
    exact absurd ha (by decide)
  rw [rdBytes, rdBytes]
  refine List.map_congr_left fun a ha => ?_
  have hsec : (span (a / 32 * 32) 32).map (memGet (writeReg s h n v psn).mem) = (span (a / 32 * 32) 32).map (memGet s.mem) :=
    List.map_congr_left fun b hb' => hmem b ((isHbm_sector (by have := mem_span.mp hb'; omega)).trans (hb a ha))
  rw [rdByte, rdByte, hk, hmat, hsec, hmem a (hb a ha)]

/-! Sync accesses on their arrival (R88, R90). -/

/-- One that may not be performed stands in the retry list. -/
theorem syncArrival_retry {s : State} {i : Nat} {a : Access} {m : SyncMode} {v : Option Word} (ha : s.flight[i]? = some a)
    (hf : a.st = .flying) (hh : heldBack s i a = false) (h : Served s a) (ho : a.op = .sync m v)
    (hr : m = .probe ∨ releaseHeld s i a = false) (hm : syncMet m (isFull s (a.pas.headD 0)) = false)
    (hroom : retryCount s (sliceOf (a.pas.headD 0)) < 4096) :
    Does (.syncAccessArrival i) s fun t => t.mem = s.mem ∧ t.slots = s.slots ∧ t.uid = s.uid + 1 ∧
      t.flight = s.flight.map fun b => if b.uid = a.uid then { b with st := .retry s.uid } else b := by
  obtain ⟨hmem, hslots, hflight, -, -, -, hempty, -, huid⟩ := packetOut_kept s a
  have hfull : isFull (packetOut s a) (a.pas.headD 0) = isFull s (a.pas.headD 0) := by rw [isFull, isFull, hempty]
  have hcount : retryCount (packetOut s a) (sliceOf (a.pas.headD 0)) = retryCount s (sliceOf (a.pas.headD 0)) := by
    rw [retryCount, retryCount, hflight]
  have hp := h.packetOut.perform_sync_wait ho (hfull ▸ hm)
  refine ⟨_, exec_syncAccessArrival ha hf ho hh hr, ?_⟩
  beta_reduce
  rw [arrive, h.packetOut.held, hp]
  simp only [Bool.false_eq_true, if_false]
  rw [enterRetry, ho, hcount]
  simp only [Nat.not_le.mpr hroom, decide_false, Bool.false_eq_true, if_false]
  refine ⟨hmem, hslots, congrArg (· + 1) huid, ?_⟩
  rw [setAcc_flight, hflight, huid]

theorem readReg_acquire (u : State) (h k n : Nat) (sc : Scope) : readReg (acquire u h sc) k n = readReg u k n := by
  cases sc with
  | hart | core | cluster => rfl
  | device | group => exact readReg_acquire_device ..

theorem pc_acquire (u : State) (h : Nat) (sc : Scope) : (getSlot (acquire u h sc) h).pc = (getSlot u h).pc := by
  cases sc with
  | hart | core | cluster => rfl
  | device | group => exact (congrArg Slot.pc (acquire_device_slot u h).1 :)

/-- What an access's acquire and the end of its hart's wait leave (R88, R203). -/
theorem completeWait_kept (z : State) (a : Access) (sw : Bool) :
    let h := a.hart
    let t := completeWait (accAcquire z a) h sw
    t.mem = z.mem ∧ t.keytag = z.keytag ∧ t.tr = z.tr ∧ t.empty = z.empty ∧ t.flight = z.flight ∧
    (getSlot t h).pc = (getSlot z h).pc + 4 ∧ (getSlot t h).st = (if sw then .parked .results none else .ready) ∧
    ∀ k n, readReg t k n = readReg z k n := by
  intro h t
  obtain ⟨u, hu⟩ : ∃ u, u = accAcquire z a := ⟨_, rfl⟩
  have hkept : u.mem = z.mem ∧ u.keytag = z.keytag ∧ u.tr = z.tr ∧ u.empty = z.empty ∧ u.flight = z.flight := by
    rw [hu, accAcquire]
    cases a.acq with
    | none => exact ⟨rfl, rfl, rfl, rfl, rfl⟩
    | some sc => cases sc <;> exact ⟨rfl, rfl, rfl, rfl, rfl⟩
  have hpc : (getSlot u h).pc = (getSlot z h).pc := by
    rw [hu, accAcquire]
    cases a.acq with
    | none => rfl
    | some sc => exact pc_acquire ..
  have hreg : ∀ k n, readReg u k n = readReg z k n := fun k n => by
    rw [hu, accAcquire]
    cases a.acq with
    | none => rfl
    | some sc => exact readReg_acquire ..
  obtain ⟨hm, hk, ht, he, hfl⟩ := hkept
  have htu : t = retireH (modSlot u h fun x => { x with st := .ready }) h sw ((getSlot u h).pc + 4) := by rw [hu]; rfl
  rw [htu]
  refine ⟨hm, hk, ht, he, hfl, ?_, ?_, fun k n => ?_⟩
  · rw [retireH, getSlot_modSlot_self, hpc]
  · rw [retireH, getSlot_modSlot_self, getSlot_modSlot_self]
  · rw [readReg_retireH, readReg_modSlot u h k n (f := fun x => { x with st := .ready }) fun _ => rfl, hreg]

/-- A retry list without a word's waiters is scanned in vain (R90). -/
theorem retryScan_idle {n : Nat} {s : State} {pa : Nat} (h : ∀ b ∈ s.flight, ∀ k, b.st ≠ .retry k) : retryScan n s pa = s := by
  cases n with
  | zero => rfl
  | succ n =>
    have hnil : wordWaiters s pa = [] := by
      rw [wordWaiters, List.filter_eq_nil_iff.mpr]
      · rfl
      · intro b hb hc
        have := h b hb
        cases hst : b.st with
        | retry k => exact this k hst
        | _ => simp [hst] at hc
    rw [retryScan, hnil]
    rfl

theorem isFull_setFull (s : State) (pa : Nat) (full : Bool) : isFull (setFull s pa full) pa = full := by
  rw [isFull, setFull]
  cases full
  · simp [mem_sIns]
  · simp [mem_sDel]

/-- The bytes of a sync word once it may have been written (R88). -/
def syncWord (v : Option Word) (old : List Byte) : List Byte :=
  match v with
  | some w => wBytes w
  | none => old

/-- Where a sync access that has been performed stands, before its acquire and the end of the wait: the word read is in its
register, and it is in flight no more (R88). -/
def syncBrought (z : State) (a : Access) (d : Nat) (v : Option Word) (old : List Byte) : State :=
  match v with
  | some _ => dropAcc z a.uid
  | none => writeReg (dropAcc z a.uid) a.hart d (ofBytes old) false

theorem bringWord_sync {z : State} {a : Access} {m : SyncMode} {v : Option Word} (ho : a.op = .sync m v) (hp : a.psn = false)
    (he : a.ext = none) (d : Nat) {old : List Byte} (hl : old.length = 8) :
    bringWord z a d old false = syncBrought z a d v old := by
  obtain ⟨u, hu⟩ : ∃ u, u = dropAcc z a.uid := ⟨_, rfl⟩
  rw [bringWord, notePsn, if_neg Bool.false_ne_true, ← hu]
  cases v with
  | some x =>
    rw [syncBrought, ← hu]
    exact if_pos (by rw [Access.isWrite, ho])
  | none =>
    have hw : ¬ a.isWrite = true := by rw [Access.isWrite, ho]; exact Bool.false_ne_true
    rw [syncBrought, ← hu]
    refine (if_neg hw).trans ?_
    rw [he, hp, List.take_of_length_le hl.le, extOut, Bool.false_or]

/-- The storage, the flight and the registers where it stands. -/
theorem syncBrought_kept {z : State} {a : Access} (p : Placed z a.hart) (w : Memory.wf z.mem = true) {d : Nat} (hd : d < 64) (v : Option Word)
    (old : List Byte) (hb : ∀ pa ∈ a.pas, isHbm pa = true) :
    let t := syncBrought z a d v old
    t.flight = z.flight.filter (·.uid ≠ a.uid) ∧ t.empty = z.empty ∧ (getSlot t a.hart).pc = (getSlot z a.hart).pc ∧
    rdBytes t a.key a.pas = rdBytes z a.key a.pas ∧ (v = none → readReg t a.hart d = if d = 0 then 0 else ofBytes old) := by
  intro t
  obtain ⟨u, hu⟩ : ∃ u, u = dropAcc z a.uid := ⟨_, rfl⟩
  have pu : Placed u a.hart := hu ▸ p
  have wu : Memory.wf u.mem = true := hu ▸ w
  have hfu : u.flight = z.flight.filter (·.uid ≠ a.uid) := hu ▸ rfl
  have heu : u.empty = z.empty := hu ▸ rfl
  have hpu : (getSlot u a.hart).pc = (getSlot z a.hart).pc := hu ▸ rfl
  have hru : rdBytes u a.key a.pas = rdBytes z a.key a.pas := hu ▸ rfl
  cases v with
  | some x =>
    have ht : t = u := hu ▸ rfl
    rw [ht]
    exact ⟨hfu, heu, hpu, hru, fun h => absurd h (by simp)⟩
  | none =>
    have ht : t = writeReg u a.hart d (ofBytes old) false := hu ▸ rfl
    have hk := writeReg_units pu hd (ofBytes old) false
    rw [ht]
    refine ⟨(congrArg State.flight hk :).trans hfu, (congrArg State.empty hk :).trans heu, (pc_writeReg pu hd ..).trans hpu,
      (rdBytes_writeReg pu hd _ _ hb _).trans hru, fun _ => readReg_writeReg_self pu wu hd ..⟩

theorem syncPut_kept (s : State) (a : Access) (v : Option Word) : (syncPut s a v).slots = s.slots ∧ (syncPut s a v).flight = s.flight := by
  cases v with
  | none => exact ⟨rfl, rfl⟩
  | some w => exact ⟨putBytes_slots .., (putBytes_kept ..).1⟩

theorem syncPut_wf {s : State} (w : Memory.wf s.mem = true) (a : Access) (v : Option Word) : Memory.wf (syncPut s a v).mem = true := by
  cases v with
  | none => exact w
  | some x => exact canon_putBytes w

/-- What the word holds once a sync access has been performed (R88). -/
theorem rdBytes_syncPut {s : State} (w : Memory.wf s.mem = true) {a : Access} (v : Option Word) (hl : a.pas.length = 8) (hn : a.pas.Nodup)
    (hb : ∀ pa ∈ a.pas, isHbm pa = true) : rdBytes (syncPut s a v) a.key a.pas = syncWord v (rdBytes s a.key a.pas) := by
  cases v with
  | none => rfl
  | some x => exact rdBytes_putBytes w hn (by rw [hl, wBytes_length]) hb ..

/-- One that may be performed reads and writes its word, leaves the full bit as its mode says and ends its hart's wait. -/
theorem syncArrival_done {s : State} {i : Nat} {a : Access} {m : SyncMode} {v : Option Word} (ha : s.flight[i]? = some a)
    (hf : a.st = .flying) (hh : heldBack s i a = false) (h : Served s a) (ho : a.op = .sync m v)
    (hr : m = .probe ∨ releaseHeld s i a = false) {d : Nat} {sw : Bool} (hm : syncMet m (isFull s (a.pas.headD 0)) = true)
    (hdest : a.dest = .wait d sw) (hd : d < 32) (hprobe : m ≠ .probe) (hpsn : a.psn = false) (hany : anyPsn s a.pas = false)
    (hext : a.ext = none) (hb : a.pas.all isHbm = true) (hl : a.pas.length = 8) (hn : a.pas.Nodup) (p : Placed s a.hart)
    (w : Memory.wf s.mem = true) (hre : ∀ b ∈ s.flight, b.uid ≠ a.uid → ∀ n, b.st ≠ .retry n) :
    Does (.syncAccessArrival i) s fun t => t.flight = s.flight.filter (·.uid ≠ a.uid) ∧
      (getSlot t a.hart).pc = (getSlot s a.hart).pc + 4 ∧ (getSlot t a.hart).st = (if sw then .parked .results none else .ready) ∧
      isFull t (a.pas.headD 0) = syncBit m (isFull s (a.pas.headD 0)) ∧
      rdBytes t a.key a.pas = syncWord v (rdBytes s a.key a.pas) ∧
      (v = none → readReg t a.hart d = if d = 0 then 0 else ofBytes (rdBytes s a.key a.pas)) := by
  have hb' : ∀ pa ∈ a.pas, isHbm pa = true := List.all_eq_true.mp hb
  obtain ⟨hmem, hslots, hflight, htag, htr, -, hempty, hpo, -⟩ := packetOut_kept s a
  obtain ⟨u, hu⟩ : ∃ u, u = packetOut s a := ⟨_, rfl⟩
  rw [← hu] at hmem hslots hflight htag htr hempty hpo
  have hfull : isFull u (a.pas.headD 0) = isFull s (a.pas.headD 0) := by rw [isFull, isFull, hempty]
  have hanyu : anyPsn u a.pas = false := by
    rw [← hany, anyPsn, anyPsn]; congr 1; funext pa; rw [isPsn, isPsn, hpo]
  have hold : rdBytes u a.key a.pas = rdBytes s a.key a.pas := rdBytes_congr hmem htag htr ..
  have hserved : Served u a := hu ▸ h.packetOut
  have wu : Memory.wf u.mem = true := hmem ▸ w
  have hp := hserved.perform_sync ho hprobe (hfull ▸ hm) hanyu
  obtain ⟨q, hq⟩ : ∃ q, q = setFull (syncPut u a v) (a.pas.headD 0) (syncBit m (isFull s (a.pas.headD 0))) := ⟨_, rfl⟩
  rw [hfull, ← hq, hold] at hp
  have hqf : isFull q (a.pas.headD 0) = syncBit m (isFull s (a.pas.headD 0)) := hq ▸ isFull_setFull ..
  have hqr : rdBytes q a.key a.pas = syncWord v (rdBytes s a.key a.pas) := by
    rw [hq, ← hold]
    exact rdBytes_syncPut wu v hl hn hb'
  obtain ⟨hps, hpf⟩ := syncPut_kept u a v
  have hqs : q.slots = s.slots := by rw [hq]; exact hps.trans hslots
  have hqfl : q.flight = s.flight := by rw [hq]; exact hpf.trans hflight
  have wq : Memory.wf q.mem = true := hq ▸ syncPut_wf wu a v
  have hc := sameButCopies_copiesAfter q a
  obtain ⟨z, hz⟩ : ∃ z, z = copiesAfter q a := ⟨_, rfl⟩
  rw [← hz] at hc
  have hzs : ∀ k, getSlot z k = getSlot s k := fun k => by rw [getSlot, getSlot, hc.slots_eq, hqs]
  have pz : Placed z a.hart := by rw [Placed, hzs]; exact p
  have wz : Memory.wf z.mem = true := hc.mem_eq ▸ wq
  have hd64 : d < 64 := by omega
  obtain ⟨hbf, hbe, hbpc, hbr, hbv⟩ := syncBrought_kept pz wz hd64 v (rdBytes s a.key a.pas) hb'
  obtain ⟨b, hbdef⟩ : ∃ b, b = syncBrought z a d v (rdBytes s a.key a.pas) := ⟨_, rfl⟩
  rw [← hbdef] at hbf hbe hbpc hbr hbv
  obtain ⟨htm, htk, htt, hte, htf, htpc, htst, htreg⟩ := completeWait_kept b a sw
  obtain ⟨t, ht⟩ : ∃ t, t = completeWait (accAcquire b a) a.hart sw := ⟨_, rfl⟩
  rw [← ht] at htm htk htt hte htf htpc htst htreg
  have hdel : deliver z a (rdBytes s a.key a.pas) false = t := by
    have hlen : (rdBytes s a.key a.pas).length = 8 := by rw [rdBytes, List.length_map, hl]
    rw [ht, hbdef, ← bringWord_sync ho hpsn hext d hlen, deliver, ho, hdest]
  have hflight' : t.flight = s.flight.filter (·.uid ≠ a.uid) := by rw [htf, hbf, hc.flight_eq, hqfl]
  have hexec : exec (.syncAccessArrival i) s = .next t := by
    rw [exec_syncAccessArrival ha hf ho hh hr, ← hu, arrive, hserved.held, hp]
    simp only [Bool.false_eq_true, if_false]
    rw [← hz, hdel, ho]
    refine congrArg _ (retryScan_idle fun b hb => ?_)
    rw [hflight'] at hb
    obtain ⟨hb1, hb2⟩ := List.mem_filter.mp hb
    exact hre b hb1 (by simpa using hb2)
  refine ⟨t, hexec, hflight', ?_, htst, ?_, ?_, fun hv => ?_⟩
  · rw [htpc, hbpc, hzs]
  · rw [← hqf, isFull, isFull, hte, hbe, hc.empty_eq]
  · rw [rdBytes_congr htm htk htt, hbr, rdBytes_congr hc.mem_eq hc.keytag_eq hc.tr_eq, hqr]
  · rw [htreg, hbv hv]

end Sys2Proof.Machine
end

section
namespace Sys2Proof.Machine

/-! Messages, replies and acknowledgements (R183, R184, R223, R224, R233). -/

theorem put64_kept (s : State) (pa : Nat) (v : Word) (psn : Bool) :
    (put64 s pa v psn).flight = s.flight ∧ (put64 s pa v psn).slots = s.slots :=
  ⟨(putBytes_kept ..).1, putBytes_slots ..⟩

theorem late_put64 (s : State) (pa : Nat) (v : Word) (psn : Bool) (c : Nat) :
    (getCore (put64 s pa v psn) c).late = (getCore s c).late := by
  rw [put64]
  obtain ⟨u, e, hu⟩ := putBytes_offMem s 0 ((span pa 8).zip (wBytes v)) psn
  have hc : u.cores = s.cores := (congrArg State.cores hu :)
  rw [e, (congrArg Core.late ((unitsKept_markStale u _).1 c) :), getCore, getCore, hc]

theorem putMsg_flight (s : State) (core frame n : Nat) (v : Word) (nan : Bool) (sender : Option Nat) (psn : Bool) :
    (putMsg s core frame n v nan sender psn).flight = s.flight :=
  (put64_kept ..).1.trans (put64_kept ..).1

/-- A message at a slot that is free, full with room among the held, or full without (R183, R184). -/
theorem arriveMsg_free {s : State} {core frame n : Nat} (h : bit (rd64 s (framePa s core frame 56)) n = false) (v : Word) (nan : Bool)
    (sender : Option Nat) (psn : Bool) : arriveMsg s core frame n v nan sender psn = some (putMsg s core frame n v nan sender psn) := by
  rw [arriveMsg, h]; rfl

theorem arriveMsg_held {s : State} {core frame n : Nat} (h : bit (rd64 s (framePa s core frame 56)) n = true)
    (hr : (getCore s core).held.length < 32) (v : Word) (nan : Bool) (sender : Option Nat) (psn : Bool) :
    arriveMsg s core frame n v nan sender psn =
      some (modCore s core fun c => { c with held := c.held ++ [⟨frame, n, v, nan, sender, psn⟩] }) := by
  rw [arriveMsg, h, if_neg (by decide), if_pos hr]

theorem arriveMsg_turned {s : State} {core frame n : Nat} (h : bit (rd64 s (framePa s core frame 56)) n = true)
    (hr : 32 ≤ (getCore s core).held.length) (v : Word) (nan : Bool) (sender : Option Nat) (psn : Bool) :
    arriveMsg s core frame n v nan sender psn = none := by
  rw [arriveMsg, h, if_neg (by decide), if_neg (by omega)]

/-- The arrival of a message in its module. -/
theorem exec_messageArrival {s : State} {i : Nat} {a : Access} (ha : s.flight[i]? = some a) {c f n : Nat} {v : Word} {nan : Bool}
    {sender : Nat} (hf : a.st = .flying) (ho : a.op = .send c f n v nan sender) (hr : releaseHeld s i a = false)
    (hm : moduleOf (a.pas.headD 0) = s.module) (hp : s.populated.contains s.module = true) :
    (∀ u, arriveMsg s (frameCore s c f) f n v nan (some sender) a.psn = some u →
      exec (.messageArrival i) s = .next (setAcc u a.uid (.done [] false))) ∧
    (arriveMsg s (frameCore s c f) f n v nan (some sender) a.psn = none →
      exec (.messageArrival i) s = .next (bumpKs (setAcc s a.uid (.resend s.cycle)) 0x1120)) := by
  have hout : packetOut s a = s := by rw [packetOut, if_pos hm]
  have hans : answers s s.module = true := by rw [answers, hp]; simp
  change (∀ u, _ → execMessageArrival i s = _) ∧ (_ → execMessageArrival i s = _)
  rw [execMessageArrival, accAt_of ha (by simp [hf, hr])]
  simp only [ho, hout, hm, hans, Bool.not_true, Bool.false_eq_true, if_false, ne_eq, not_true_eq_false]
  exact ⟨fun u hu => by rw [hu], fun hu => by rw [hu]⟩

section
variable {s : State} {i : Nat} {a : Access} (ha : s.flight[i]? = some a) {c f n : Nat} {v : Word} {nan : Bool} {sender : Nat}
  (hf : a.st = .flying) (ho : a.op = .send c f n v nan sender) (hr : releaseHeld s i a = false)
  (hm : moduleOf (a.pas.headD 0) = s.module) (hp : s.populated.contains s.module = true)
include ha hf ho hr hm hp

/-- A message that its slot or the held ones take is done. -/
theorem messageArrival_taken {u : State} (hu : arriveMsg s (frameCore s c f) f n v nan (some sender) a.psn = some u) :
    Does (.messageArrival i) s fun t => t.mem = u.mem ∧ t.cores = u.cores ∧
      t.flight = u.flight.map fun b => if b.uid = a.uid then { b with st := .done [] false } else b :=
  ⟨_, (exec_messageArrival ha hf ho hr hm hp).1 u hu, rfl, rfl, rfl⟩

/-- A message fills its slot, if that is free (R183). -/
theorem messageArrival_free (hb : bit (rd64 s (framePa s (frameCore s c f) f 56)) n = false) :
    Does (.messageArrival i) s fun t => t.mem = (putMsg s (frameCore s c f) f n v nan (some sender) a.psn).mem ∧
      t.flight = s.flight.map fun b => if b.uid = a.uid then { b with st := .done [] false } else b := by
  obtain ⟨t, he, hm, -, hf⟩ := messageArrival_taken ha hf ho hr hm hp (arriveMsg_free hb v nan (some sender) a.psn)
  exact ⟨t, he, hm, hf.trans (congrArg (List.map _) (putMsg_flight ..))⟩

/-- Else it is held, where there is room (R184). -/
theorem messageArrival_held (hb : bit (rd64 s (framePa s (frameCore s c f) f 56)) n = true)
    (hl : (getCore s (frameCore s c f)).held.length < 32) :
    Does (.messageArrival i) s fun t => (getCore t (frameCore s c f)).held = (getCore s (frameCore s c f)).held ++
        [⟨f, n, v, nan, some sender, a.psn⟩] ∧ t.mem = s.mem ∧
      t.flight = s.flight.map fun b => if b.uid = a.uid then { b with st := .done [] false } else b := by
  obtain ⟨t, he, hm, hc, hf⟩ := messageArrival_taken ha hf ho hr hm hp (arriveMsg_held hb hl v nan (some sender) a.psn)
  refine ⟨t, he, ?_, hm, hf⟩
  rw [getCore, hc]
  exact (congrArg Core.held (getCore_modCore_self s (frameCore s c f) fun x =>
    { x with held := x.held ++ [⟨f, n, v, nan, some sender, a.psn⟩] }) :)

/-- Else it is turned away (R184). -/
theorem messageArrival_turned (hb : bit (rd64 s (framePa s (frameCore s c f) f 56)) n = true)
    (hl : 32 ≤ (getCore s (frameCore s c f)).held.length) :
    Does (.messageArrival i) s fun t => t.mem = s.mem ∧
      t.flight = s.flight.map fun b => if b.uid = a.uid then { b with st := .resend s.cycle } else b :=
  ⟨_, (exec_messageArrival ha hf ho hr hm hp).2 (arriveMsg_turned hb hl v nan (some sender) a.psn), rfl, rfl⟩

end

/-- What was turned away is sent again once 64 cycles have passed (R90, R184). -/
theorem exec_resend {s : State} {i : Nat} {a : Access} (ha : s.flight[i]? = some a) {c : Nat} (hst : a.st = .resend c)
    (hc : c + 64 ≤ s.cycle) : (isSync a = true → exec (.accessResend i) s = .next (setAcc s a.uid .flying)) ∧
    (isSend a = true → exec (.messageResend i) s = .next (setAcc s a.uid .flying)) := by
  have hdue : resendDue s a = true := by rw [resendDue, hst]; exact decide_eq_true hc
  refine ⟨fun hy => ?_, fun hs => ?_⟩
  · change execAccessResend i s = _
    rw [execAccessResend, accAt_of ha (Bool.and_eq_true_iff.mpr ⟨hdue, hy⟩)]
  · change execMessageResend i s = _
    rw [execMessageResend, accAt_of ha (Bool.and_eq_true_iff.mpr ⟨hdue, hs⟩)]

/-- The results of a hart that wait for no answer of this access are as they were (R223). -/
theorem postAnswered_none {u : State} {a : Access} (h : ∀ o ∈ (getSlot u a.hart).outs, o.src ≠ some a.uid) : postAnswered u a = u := by
  rw [postAnswered, if_neg]
  rw [List.any_eq_true]
  rintro ⟨o, ho, he⟩
  exact h o ho (of_decide_eq_true he)

/-- The branch of a reply to a slot, whatever it does. -/
theorem match_slotReply {f : Nat → Nat → Bool → List Byte → Bool → State} {z : State} {d : AccDest} {r : Option (List Byte × Bool)}
    {frame n : Nat} {nan p : Bool} {val : List Byte} (hd : d = .slot frame n nan) (hr : r = some (val, p)) :
    (match (generalizing := false) d, r with
      | .slot frame n nan, some (val, psn) => f frame n nan val psn
      | _, _ => z) = f frame n nan val p := by
  subst hd hr; rfl

section
variable {s : State} {i : Nat} {a : Access} (ha : s.flight[i]? = some a)
include ha

/-- A remote load's reply arrives as a message does, and its outstanding bit is cleared (R183). -/
theorem remoteLoadReply_spec {frame n : Nat} {nan : Bool} (hd : a.dest = .slot frame n nan) {val : List Byte} {p : Bool}
    (hn : replyNow s a = some (val, p)) {c : Nat} {w : State} (hc : frameCore s (coreOf a.hart) frame = c)
    (hw : (if p then framePoisoned s c frame else s) = w) :
    (∀ u, arriveMsg w c frame n (ofBytes (val.take 8)) nan none (p || a.psn) = some u →
      exec (.remoteLoadReply i) s = .next (clearReply (dropAcc u a.uid) c frame n)) ∧
    (arriveMsg w c frame n (ofBytes (val.take 8)) nan none (p || a.psn) = none →
      exec (.remoteLoadReply i) s = .next (bumpKs (setAcc s a.uid (.again val p s.cycle)) 0x1120)) := by
  change (∀ u, _ → execRemoteLoadReply i s = _) ∧ (_ → execRemoteLoadReply i s = _)
  rw [execRemoteLoadReply, accAt_of ha rfl]
  -- The kernel is not to evaluate the message's arrival when it compares the branches.
  generalize arriveMsg = arr
  dsimp only
  refine ⟨fun u hu => ?_, fun hu => ?_⟩
  · refine congrArg _ ((match_slotReply hd hn).trans ?_)
    rw [hc, hw, hu]
  · refine congrArg _ ((match_slotReply hd hn).trans ?_)
    rw [hc, hw, hu]

theorem remoteLoadReply_does {frame n : Nat} {nan : Bool} (hd : a.dest = .slot frame n nan) {val : List Byte} {p : Bool}
    (hn : replyNow s a = some (val, p)) {c : Nat} {w : State} (hc : frameCore s (coreOf a.hart) frame = c)
    (hw : (if p then framePoisoned s c frame else s) = w) :
    (∀ u, arriveMsg w c frame n (ofBytes (val.take 8)) nan none (p || a.psn) = some u →
      exec (.remoteLoadReply i) s = .next (clearReply (dropAcc u a.uid) c frame n)) ∧
    (arriveMsg w c frame n (ofBytes (val.take 8)) nan none (p || a.psn) = none →
      Does (.remoteLoadReply i) s fun t => t.mem = s.mem ∧ t.slots = s.slots ∧
        t.flight = s.flight.map fun b => if b.uid = a.uid then { b with st := .again val p s.cycle } else b) := by
  obtain ⟨h1, h2⟩ := remoteLoadReply_spec ha hd hn hc hw
  exact ⟨h1, fun hu => ⟨_, h2 hu, rfl, rfl, rfl⟩⟩

/-- A refused one becomes a pending fault of its frame (R224). -/
theorem remoteLoadRefusal_does {frame n : Nat} {nan : Bool} (hd : a.dest = .slot frame n nan) {why : RefuseReason}
    (hst : a.st = .refused why) (hg : a.grp = none) :
    let c := frameCore s (coreOf a.hart) frame
    Does (.remoteLoadRefusal i) s fun t => t.flight = s.flight.filter (·.uid ≠ a.uid) ∧
      (getCore t c).late = (getCore s c).late ++ [⟨frame, ⟨.accessFault, 3, true, a.va⟩, none⟩] := by
  intro c
  obtain ⟨u, hu⟩ : ∃ u, u = clearReply (dropAcc s a.uid) c frame n := ⟨_, rfl⟩
  have hflight : u.flight = s.flight.filter (·.uid ≠ a.uid) := by
    rw [hu, clearReply]; exact (put64_kept ..).1.trans rfl
  have hlate : (getCore u c).late = (getCore s c).late := by
    rw [hu, clearReply]; exact (late_put64 ..).trans rfl
  refine ⟨lateFault u c a, ?_, hflight, ?_⟩
  · change execRemoteLoadRefusal i s = _
    rw [execRemoteLoadRefusal, accAt_of ha rfl]
    dsimp only
    rw [hd, hst, hu]
  · rw [lateFault, addLate, getCore_modCore_self, Access.frame, Access.refusedSub, hd, hg]
    simp only [Option.isSome_none, Bool.false_and, Bool.false_eq_true, if_false, hlate]

/-- An acknowledgement frees the journal entry once it is the last (R223). -/
theorem postedStoreAck_does {pool frame entry : Nat} (hd : a.dest = .journal pool frame entry)
    (ho : ∀ o ∈ (getSlot s a.hart).outs, o.src ≠ some a.uid) {val : List Byte} {p : Bool} (hst : a.st = .done val p)
    (hn : noticesPending s = false) :
    Does (.postedStoreAck i) s fun t => t.mem = s.mem ∧ t.slots = s.slots ∧ t.flight = s.flight.filter (·.uid ≠ a.uid) ∧
      ((∀ e ∈ (getCore s pool).journal, e.of a = true → e.left = 1 ∧ e.refused = none) →
        (getCore t pool).journal = (getCore s pool).journal.filter fun e => !e.of a) ∧
      ((∀ e ∈ (getCore s pool).journal, e.of a = true → 1 < e.left) →
        (getCore t pool).journal = (getCore s pool).journal.map fun e => if e.of a then { e with left := e.left - 1 } else e) := by
  obtain ⟨u, hu⟩ : ∃ u, u = dropAcc s a.uid := ⟨_, rfl⟩
  have hj : (getCore u pool).journal = (getCore s pool).journal := hu ▸ rfl
  have hexec : exec (.postedStoreAck i) s = .next (postAnswered
      (if lastPart u pool a then freeEntry u pool a else modEntry u pool a fun e => { e with left := e.left - 1 }) a) := by
    change execPostedStoreAck i s = _
    rw [execPostedStoreAck, accAt_of ha rfl]
    dsimp only
    rw [hd, hst, hn, ← hu]
    rfl
  have hfree : Does (.postedStoreAck i) s fun t => t = if lastPart u pool a then freeEntry u pool a else
      modEntry u pool a fun e => { e with left := e.left - 1 } := by
    refine ⟨_, hexec, postAnswered_none fun o hm => ?_⟩
    have hm' : o ∈ (getSlot u a.hart).outs := by split at hm <;> exact hm
    rw [hu] at hm'
    exact ho o hm'
  obtain ⟨t, ht, rfl⟩ := hfree
  refine ⟨_, ht, ?_⟩
  by_cases hl : lastPart u pool a = true
  · rw [if_pos hl]
    refine ⟨hu ▸ rfl, hu ▸ rfl, hu ▸ rfl, fun _ => ?_, fun h => ?_⟩
    · rw [freeEntry, getCore_modCore_self, hj]
    · rw [lastPart, List.any_eq_true, hj] at hl
      obtain ⟨e, he, hc⟩ := hl
      simp only [Bool.and_eq_true, decide_eq_true_eq] at hc
      exact absurd (h e he hc.1.1) (by omega)
  · rw [if_neg hl]
    refine ⟨hu ▸ rfl, hu ▸ rfl, hu ▸ rfl, fun h => ?_, fun _ => ?_⟩
    · have hnone : ∀ e ∈ (getCore s pool).journal, e.of a = false := fun e he => by
        by_contra hc
        obtain ⟨h1, h2⟩ := h e he (by simpa using hc)
        refine hl ?_
        rw [lastPart, List.any_eq_true, hj]
        exact ⟨e, he, by simp [h1, h2, show e.of a = true by simpa using hc]⟩
      rw [modEntry, getCore_modCore_self, hj, List.filter_eq_self.mpr fun e he => by rw [hnone e he]; rfl]
      exact (List.map_congr_left fun e he => if_neg (by rw [hnone e he]; decide)).trans (List.map_id' _)
    · rw [modEntry, getCore_modCore_self, hj]

/-- A refusal leaves the entry marked with its first reason (R224). -/
theorem postedStoreRefusal_does {pool frame entry : Nat} (hd : a.dest = .journal pool frame entry)
    (ho : ∀ o ∈ (getSlot s a.hart).outs, o.src ≠ some a.uid) {why : RefuseReason} (hst : a.st = .refused why) :
    Does (.postedStoreRefusal i) s fun t => t.mem = s.mem ∧ t.slots = s.slots ∧ t.flight = s.flight.filter (·.uid ≠ a.uid) ∧
      (getCore t pool).journal = (getCore s pool).journal.map fun e =>
        if e.of a then { e with refused := some (e.refused.getD why), left := e.left - 1 } else e := by
  obtain ⟨u, hu⟩ : ∃ u, u = dropAcc s a.uid := ⟨_, rfl⟩
  have hj : (getCore u pool).journal = (getCore s pool).journal := hu ▸ rfl
  obtain ⟨t, ht⟩ : ∃ t, t = modEntry u pool a fun e => { e with refused := some (e.refused.getD why), left := e.left - 1 } := ⟨_, rfl⟩
  have hans : postAnswered t a = t := postAnswered_none fun o hm => ho o (by rw [ht, hu] at hm; exact hm)
  refine ⟨t, ?_, by rw [ht, hu]; rfl, by rw [ht, hu]; rfl, by rw [ht, hu]; rfl, ?_⟩
  · change execPostedStoreRefusal i s = _
    rw [execPostedStoreRefusal, accAt_of ha rfl]
    dsimp only
    rw [hd, hst, ← hu]
    exact congrArg _ ((congrArg (postAnswered · a) ht.symm).trans hans)
  · rw [ht, modEntry, getCore_modCore_self, hj]

/-- A refused load of a hart that issues becomes a pending fault of its frame (R224). -/
theorem loadRefusal_does {why : RefuseReason} (hd : a.dest = .result) (hst : a.st = .refused why) (ho : a.op = .load) (hg : a.grp = none)
    (hi : (getSlot s a.hart).st = .issuing) :
    Does (.loadRefusal i) s fun t => t.mem = s.mem ∧ t.flight = s.flight.filter (·.uid ≠ a.uid) ∧
      (getSlot t a.hart).outs = (getSlot s a.hart).outs.filter (fun o => o.src ≠ some a.uid) ∧
      (getCore t (coreOf a.hart)).late = (getCore s (coreOf a.hart)).late ++
        [⟨(getSlot s a.hart).wp / 512, ⟨.accessFault, 1, true, a.va⟩, none⟩] := by
  obtain ⟨u, hu⟩ : ∃ u, u = lateFault (dropAcc s a.uid) (coreOf a.hart) a := ⟨_, rfl⟩
  have hslot : getSlot u a.hart = getSlot s a.hart := hu ▸ rfl
  have hlate : (getCore u (coreOf a.hart)).late = (getCore s (coreOf a.hart)).late ++
      [⟨(getSlot s a.hart).wp / 512, ⟨.accessFault, 1, true, a.va⟩, none⟩] := by
    rw [hu, lateFault, addLate, getCore_modCore_self, Access.frame, Access.refusedSub, hd, ho, hg]
    rfl
  obtain ⟨t, ht⟩ : ∃ t, t = modSlot u a.hart fun x => { x with outs := x.outs.filter fun o => o.src ≠ some a.uid } := ⟨_, rfl⟩
  have hself : getSlot t a.hart = { getSlot s a.hart with outs := (getSlot s a.hart).outs.filter fun o => o.src ≠ some a.uid } := by
    rw [ht, getSlot_modSlot_self, hslot]
  have hset : settleH t a.hart = t := settleH_of_issuing (by rw [hself]; exact hi)
  refine ⟨t, ?_, by rw [ht, hu]; rfl, by rw [ht, hu]; rfl, by rw [hself], by rw [ht]; exact hlate⟩
  change execLoadRefusal i s = _
  rw [execLoadRefusal, accAt_of ha rfl]
  dsimp only
  rw [hd, hst, ← hu]
  exact congrArg _ ((congrArg (settleH · a.hart) ht.symm).trans hset)

end

/-- Settles O47. -/
theorem accessEventsHold : Obligations.AccessEvents := by
  unfold Obligations.AccessEvents
  intro s i a ha
  refine ⟨fun hf hpast hh href hbank hpend hheld => ?_, fun c hst hc => exec_resend ha hst hc,
    fun c f n v nan sender hf ho hr hm hp => ?_, fun frame n nan hd => ⟨fun val p hn => ?_, fun why hst hg => ?_⟩,
    fun pool frame entry hd ho => ⟨fun val p hst hn => postedStoreAck_does ha hd ho hst hn, fun why hst => postedStoreRefusal_does ha hd ho hst⟩,
    fun why hd hst ho hg hi => loadRefusal_does ha hd hst ho hg hi⟩
  · have h : Served s a := ⟨hpast, href, hbank, hpend, hheld⟩
    refine ⟨fun bs pool frame entry ho hd hq => ⟨storeArrival_whole ha hf hh h ho hd hq, storeArrival_byte ha hf hh h ho⟩,
      fun ho hd hq _ hal => loadArrival ha hf hh h ho hd hq hal, fun m v ho hr => ⟨fun hm hroom => ?_, fun d sw hm hdest hd hprobe hpsn hany
        hext hb hl hn p w hre => ?_⟩⟩
    · exact syncArrival_retry ha hf hh h ho hr hm hroom
    · exact syncArrival_done ha hf hh h ho hr hm hdest hd hprobe hpsn hany hext hb hl hn p w hre
  · exact ⟨messageArrival_free ha hf ho hr hm hp, messageArrival_held ha hf ho hr hm hp, messageArrival_turned ha hf ho hr hm hp⟩
  · exact remoteLoadReply_does ha hd hn rfl rfl
  · exact remoteLoadRefusal_does ha hd hst hg

end Sys2Proof.Machine
end

section
namespace Sys2Proof.Machine

/-! Poison in the operand of a load of two pages (R82, R96, R260): the hart waits for the FIFO port of the second page. -/

/-- The machine of `straddling` with word 2, the base of the load, poisoned (R94). -/
def straddlingPoisoned : State := { straddling with poison := [0x10000000810] }

/-- The indexed load reaches the same bytes, and every check lets it pass. -/
theorem straddlingPoisoned_reaches :
    Reaches straddlingPoisoned (rg straddlingPoisoned 2 + rg straddlingPoisoned 0).toNat 8 .read straddlingPas straddlingXl := by
  unfold Reaches; decide +kernel

/-- The hart marks itself poisoned, but it stays at the load and waits for the access. -/
theorem straddlingPoisoned_waits {t : State} (h : exec (.lxd false 1 2 0 .plain) straddlingPoisoned = .next t) :
    (getSlot t 0).pc = pcOf straddlingPoisoned := by
  have key : (match exec (.lxd false 1 2 0 .plain) straddlingPoisoned with
      | .next t => decide ((getSlot t 0).pc = pcOf straddlingPoisoned)
      | _ => false) = true := by decide +kernel
  rw [h] at key
  exact of_decide_eq_true key

/-- Refutes O26: a load with a poisoned base whose first byte is in HBM and whose last is at a FIFO port of cluster SRAM, on the next
page, has not gone on when POISONED is set: without PTE its hart waits for the port at the same PC (R82, R96, R260). -/
theorem not_poisonedOperands : ¬ Obligations.PoisonedOperands := by
  unfold Obligations.PoisonedOperands
  intro h
  have ordinary : Ordinary straddlingPoisoned := by unfold Ordinary Placed; decide +kernel
  have fresh : Fresh straddlingPoisoned := by unfold Fresh; decide +kernel
  have may : MayIssue straddlingPoisoned .none 0 := by unfold MayIssue; decide +kernel
  obtain ⟨-, -, -, -, remote, -⟩ := h straddlingPoisoned false 1 2 0 0 ordinary fresh
  obtain ⟨reaching, -⟩ := remote straddlingPas straddlingXl may
  obtain ⟨consumes, -⟩ := reaching straddlingPoisoned_reaches
  obtain ⟨t, ht, -, on⟩ := (consumes 2 (by decide +kernel)).2 (by decide +kernel)
  have stays : (getSlot t 0).pc = pcOf straddlingPoisoned := straddlingPoisoned_waits ht
  have went : (getSlot t 0).pc = pcOf straddlingPoisoned + 4 := on
  rw [stays] at went
  exact absurd went (by decide +kernel)

end Sys2Proof.Machine
end

section
namespace Sys2Proof.Machine

/-! Fields of a status word after a field of it is replaced, and the words FMT, REP and LIX (R113, R222, R245, R254). -/

/-- A replaced field has its new value. -/
theorem fld_setFld_self {w : Word} {hi lo v : Nat} (h : lo ≤ hi) (hh : hi < 64) (hv : v < 2 ^ (hi - lo + 1)) :
    fld (setFld w hi lo v) hi lo = v := by
  refine Nat.eq_of_testBit_eq fun i => ?_
  rw [testBit_fld, getLsbD_setFld h hh, Nat.add_sub_cancel_left]
  by_cases hi' : i < hi - lo + 1
  · simp [hi', show lo + i ≤ hi by omega]
  · rw [Nat.testBit_lt_two_pow (hv.trans_le (Nat.pow_le_pow_right Nat.two_pos (Nat.le_of_not_lt hi')))]
    simp [hi']

/-- A bit outside a replaced field stays. -/
theorem getLsbD_setFld_ne (w : Word) {hi lo k : Nat} (h : lo ≤ hi) (hh : hi < 64) (v : Nat) (hk : k < lo ∨ hi < k) :
    (setFld w hi lo v).getLsbD k = w.getLsbD k := by
  rw [getLsbD_setFld h hh, if_neg (by omega)]

/-- A field of words that agree on its bits. -/
theorem fld_congr {w x : Word} {hi lo : Nat} (h : ∀ k, lo ≤ k → k < lo + (hi - lo + 1) → w.getLsbD k = x.getLsbD k) :
    fld w hi lo = fld x hi lo := by
  refine Nat.eq_of_testBit_eq fun i => ?_
  rw [testBit_fld, testBit_fld]
  by_cases hi' : i < hi - lo + 1
  · rw [h (lo + i) (by omega) (by omega)]
  · simp [hi']

/-- A field above or below a replaced one stays. -/
theorem fld_setFld_ne (w : Word) {hi lo a b : Nat} (h : lo ≤ hi) (hh : hi < 64) (v : Nat) (hb : b ≤ a) (hk : a < lo ∨ hi < b) :
    fld (setFld w hi lo v) a b = fld w a b :=
  fld_congr fun k h1 h2 => getLsbD_setFld_ne w h hh v (by omega)

theorem restKept_modSlot (s : State) (f : Slot → Slot) : RestKept s (modSlot s s.cur f) :=
  ⟨rfl, rfl, rfl, rfl, rfl, rfl, rfl, rfl, rfl, rfl, rfl, rfl, rfl, fun _ hk => getSlot_modSlot_ne _ _ hk⟩

/-- A FMT, REP or LIX moves the PC on and changes the status word and nothing else, also of a machine in which only what the slot holds
beside its registers has changed (R245). -/
theorem prefixDone_kept {s u : State} (hr : RestKept s u) (hm : u.mem = s.mem)
    (hs : SlotRegsKept (getSlot s s.cur) (getSlot u s.cur)) (hpc : (getSlot u s.cur).pc = pcOf s)
    (hw : (getSlot u s.cur).hsw = (getSlot s s.cur).hsw) (f : Word → Word) :
    let t := prefixDone u f
    (getSlot t s.cur).hsw = f (getSlot s s.cur).hsw ∧ (getSlot t s.cur).pc = pcOf s + 4 ∧ t.mem = s.mem ∧
      SlotRegsKept (getSlot s s.cur) (getSlot t s.cur) ∧ RestKept s t := by
  obtain ⟨h1, h2, h3, h4, h5, h6, h7, h8, h9, h10, h11, h12, h13, h14⟩ := hr
  have e : getSlot (prefixDone u f) s.cur = { getSlot u s.cur with
      hsw := f (getSlot s s.cur).hsw, pc := pcOf s + 4, inside := false, latch := [] } := by
    rw [prefixDone, h4, getSlot_modSlot_self, hpc, hw]
  refine ⟨by rw [e], by rw [e], hm, by rw [e]; exact hs, h1, h2, h3, h4, h5, h6, h7, h8, h9, h10, h11, h12, h13,
    fun k hk => ?_⟩
  rw [prefixDone, h4, getSlot_modSlot_ne _ _ hk, h14 k hk]

/-- The machine as a REP starts a sequence: no earlier result is one of it (R295). -/
def repBegun (s : State) : State :=
  modSlot s s.cur fun x => { x with outs := x.outs.map fun o => { o with rep := false }, repped := false }

theorem repBegun_slot (s : State) : SlotRegsKept (getSlot s s.cur) (getSlot (repBegun s) s.cur) ∧
    (getSlot (repBegun s) s.cur).pc = pcOf s ∧ (getSlot (repBegun s) s.cur).hsw = (getSlot s s.cur).hsw := by
  rw [repBegun, getSlot_modSlot_self]
  exact ⟨slotRegsKept_refl _, rfl, rfl⟩

theorem exec_fmt {s : State} (h : MayIssue s .fmtWord 0) (st dt : Option ElemType) (nm : NmSel) (ftz sat : Bool) :
    exec (.fmt st dt nm ftz sat) s = .next (prefixDone s fun w =>
      setFld (setFld w 41 40 1) 39 18 (encodeNat (.fmt st dt nm ftz sat) % 2 ^ 22)) :=
  congrArg Host.Outcome.next (issue_of_may h)

theorem exec_rep {s : State} (h : MayIssue s .none 0) (n : BitVec 16) :
    exec (.rep n) s = .next (prefixDone (repBegun s) fun w => setFld (setFld w 63 48 n.toNat) 42 42 0) :=
  congrArg Host.Outcome.next (issue_of_may h)

theorem exec_lix {s : State} (h : MayIssue s .none 0) (hi : BitVec 22) :
    exec (.lix hi) s = .next (prefixDone s fun w => setFld (setFld w 41 40 3) 39 18 hi.toNat) :=
  congrArg Host.Outcome.next (issue_of_may h)

theorem restKept_refl (s : State) : RestKept s s :=
  ⟨rfl, rfl, rfl, rfl, rfl, rfl, rfl, rfl, rfl, rfl, rfl, rfl, rfl, fun _ _ => rfl⟩

/-- The status word under a pending FMT or LIX, told apart by `kind` (R245). -/
theorem payload_word (w : Word) {kind p : Nat} (hp : p < 2 ^ 22) :
    let u := setFld (setFld w 41 40 kind) 39 18 p
    fld u 39 18 = p ∧ u.getLsbD 40 = kind.testBit 0 ∧ u.getLsbD 41 = kind.testBit 1 ∧
      ∀ k, (k < 18 ∨ 42 ≤ k) → u.getLsbD k = w.getLsbD k := by
  have h40 : ∀ k, 40 ≤ k → (setFld (setFld w 41 40 kind) 39 18 p).getLsbD k = (setFld w 41 40 kind).getLsbD k := fun k hk =>
    getLsbD_setFld_ne _ (by omega) (by omega) p (by omega)
  refine ⟨fld_setFld_self (by omega) (by omega) hp, ?_, ?_, fun k hk => ?_⟩
  · rw [h40 40 (by omega), getLsbD_setFld (by omega) (by omega)]; rfl
  · rw [h40 41 (by omega), getLsbD_setFld (by omega) (by omega)]; rfl
  · rw [getLsbD_setFld_ne _ (by omega) (by omega) p (by omega), getLsbD_setFld_ne _ (by omega) (by omega) kind (by omega)]

/-- The status word under a pending REP (R245). -/
theorem rep_word (w : Word) (n : BitVec 16) :
    let u := setFld (setFld w 63 48 n.toNat) 42 42 0
    fld u 63 48 = n.toNat ∧ u.getLsbD 42 = false ∧ ∀ k, k < 48 → k ≠ 42 → u.getLsbD k = w.getLsbD k := by
  refine ⟨?_, ?_, fun k hk hne => ?_⟩
  · rw [fld_setFld_ne _ (by omega) (by omega) _ (by omega) (by omega)]
    exact fld_setFld_self (by omega) (by omega) n.isLt
  · rw [getLsbD_setFld (by omega) (by omega)]; rfl
  · rw [getLsbD_setFld_ne _ (by omega) (by omega) _ (by omega), getLsbD_setFld_ne _ (by omega) (by omega) _ (by omega)]

/-- Settles O23: each of FMT, REP and LIX rewrites its own fields of the hart status word (R113, R222, R254). -/
theorem prefixes : Obligations.Prefixes := by
  unfold Obligations.Prefixes
  intro s st dt nm ftz sat n hi
  have same := prefixDone_kept (restKept_refl s) rfl (slotRegsKept_refl _) rfl rfl
  obtain ⟨hr, hpc, hw⟩ := repBegun_slot s
  have rep := prefixDone_kept (u := repBegun s) (restKept_modSlot ..) rfl hr hpc hw
  refine ⟨fun h => ⟨_, exec_fmt h .., ?_, (same _).2⟩, fun h => ⟨⟨_, exec_rep h n, ?_, (rep _).2⟩, ⟨_, exec_lix h hi, ?_, (same _).2⟩⟩⟩
  · rw [(same _).1]; exact payload_word _ (Nat.mod_lt _ (by positivity))
  · rw [(rep _).1]; exact rep_word _ n
  · rw [(same _).1]; exact payload_word _ hi.isLt

end Sys2Proof.Machine
end

section
namespace Sys2Proof.Machine

/-! Operands of a vector instruction in the own scratchpad: place, checks and words (R73, R197, R259, R286, R288, R290). -/

/-- The translation of `n` bytes of the own scratchpad from offset `o` (R73, R260). -/
def ownXl (s : State) (o n : Nat) : Xl :=
  { pa := scratchPa s (coreOf s.cur) o, key := 0, cache := false, sealed := false, own := true, win := true
    past := if n ≤ 65536 - o % 65536 then none else some ⟨65536 - o % 65536, 0, false⟩ }

@[simp] theorem ownXl_own (s : State) (o n : Nat) : (ownXl s o n).own = true := rfl

theorem ownXl_sealedPas (s : State) (o n : Nat) (pas : List Nat) : (ownXl s o n).sealedPas pas = [] := by
  simp only [ownXl, Xl.sealedPas]
  by_cases h : n ≤ 65536 - o % 65536 <;> simp [h]

/-- The translation of one address of the own scratchpad. -/
def ownPage (s : State) (o : Nat) : Xl :=
  { pa := scratchPa s (coreOf s.cur) o, key := 0, cache := false, sealed := false, own := true, win := true }

@[simp] theorem ownPage_pa (s : State) (o : Nat) : (ownPage s o).pa = scratchPa s (coreOf s.cur) o := rfl

theorem vecPage_scratch (s : State) (va : Nat) (k : AccKind) (pas : List Nat) {x : Xl} {c : Nat}
    (h : targetOf (offsetOf x.pa) = .scratch c) : vecPage s va k x pas = .ok x := by
  rw [vecPage, h]

theorem xlate_own {s : State} {w : Who} {o : Nat} (ho : o < 0x30000) (k : AccKind) : xlate s w (window0 + o) k =
    .ok { pa := scratchPa s w.core o, key := 0, cache := false, sealed := false, own := true, win := true } := by
  have h56 : ¬ 2 ^ 56 ≤ window0 + o := by unfold window0; omega
  rw [xlate, if_neg h56, if_pos (Nat.le_add_right ..), Nat.add_sub_cancel_left]
  simp only [xlWindow, ho, if_true]

theorem scratchPa_add (s : State) (c o i : Nat) : scratchPa s c o + i = scratchPa s c (o + i) := by
  unfold scratchPa; omega

theorem moduleOf_scratch (s : State) {c o : Nat} (hc : c < 2048) (ho : o < 0x30000) : moduleOf (scratchPa s c o) = s.module := by
  unfold moduleOf scratchPa scratch0; omega

theorem span_add (a m n : Nat) : span a (m + n) = span a m ++ span (a + m) n := by
  induction m generalizing a with
  | zero => simp [span]
  | succ m ih => rw [Nat.succ_add, span, ih, span, Nat.add_right_comm, List.cons_append, Nat.add_assoc, Nat.add_comm m 1, ← Nat.add_assoc]

/-- An operand on one page. -/
theorem vecPlace_near {s : State} {va n : Nat} {k : AccKind} {x : Xl} (hx : xlate s (who s s.cur) va k = .ok x)
    (hp : ∀ m, vecPage s va k x (span x.pa m) = .ok x) (hl : n ≤ 65536 - va % 65536) : vecPlace s va n k = .ok (span x.pa n, x) := by
  simp only [vecPlace, hx, hp, hl, if_true]

/-- An operand on two pages of one storage unit. -/
theorem vecPlace_far {s : State} {va n left : Nat} {k : AccKind} {x y : Xl} (hx : xlate s (who s s.cur) va k = .ok x)
    (hp : ∀ m, vecPage s va k x (span x.pa m) = .ok x) (hleft : left = 65536 - va % 65536) (hl : ¬ n ≤ left)
    (hy : xlate s (who s s.cur) (va + left) k = .ok y) (hq : ∀ m, vecPage s (va + left) k y (span y.pa m) = .ok y)
    (ht : targetOf (offsetOf x.pa) = targetOf (offsetOf y.pa)) :
    vecPlace s va n k = .ok (span x.pa left ++ span y.pa (n - left), x.join y left) := by
  simp only [vecPlace, ← hleft, hx, hp, hl, hy, hq, ht, if_false, ne_eq, not_true_eq_false, decide_false, Bool.and_false,
    Bool.false_eq_true]

/-- The bytes of an operand in the own scratchpad are places in it. -/
theorem mem_homePas {s : State} {o n a : Nat} : a ∈ homePas s o n ↔ ∃ i, i < n ∧ a = scratchPa s (coreOf s.cur) (o + i) := by
  rw [homePas, mem_span]
  refine ⟨fun h => ⟨a - scratchPa s (coreOf s.cur) o, by omega, ?_⟩, ?_⟩
  · rw [← scratchPa_add]; omega
  · rintro ⟨i, hi, rfl⟩
    rw [← scratchPa_add]; omega

section
variable {s : State} (hc : s.cur < 8192) {o n : Nat} (hn : o + n ≤ 0x30000)
include hc hn

theorem targetOf_home {a : Nat} (ha : a ∈ homePas s o n) : targetOf (offsetOf a) = .scratch (coreOf s.cur) := by
  obtain ⟨i, hi, rfl⟩ := mem_homePas.mp ha
  exact targetOf_scratch s _ _ (by unfold coreOf; omega) (by omega)

theorem isHbm_home {a : Nat} (ha : a ∈ homePas s o n) : isHbm a = false := by
  rw [isHbm, targetOf_home hc hn ha]; rfl

theorem moduleOf_home {a : Nat} (ha : a ∈ homePas s o n) : moduleOf a = s.module := by
  obtain ⟨i, hi, rfl⟩ := mem_homePas.mp ha
  exact moduleOf_scratch s (by unfold coreOf; omega) (by omega)

theorem bankOf_home {a : Nat} (ha : a ∈ homePas s o n) : bankOf a = none := by
  rw [bankOf, targetOf_home hc hn ha]

/-- An operand in the own scratchpad has its place there, also across a page (R286, R288). -/
theorem vecPlace_own (h0 : 0 < n) (k : AccKind) : vecPlace s (window0 + o) n k = .ok (homePas s o n, ownXl s o n) := by
  have hc' : coreOf s.cur < 2048 := by unfold coreOf; omega
  have hleft : 65536 - (window0 + o) % 65536 = 65536 - o % 65536 := by unfold window0; omega
  have hp (a m : Nat) (ha : a < 0x30000) : vecPage s (window0 + a) k (ownPage s a) (span (ownPage s a).pa m) = .ok (ownPage s a) :=
    vecPage_scratch s _ k _ (targetOf_scratch s _ a hc' ha)
  have hx (a : Nat) (ha : a < 0x30000) : xlate s (who s s.cur) (window0 + a) k = .ok (ownPage s a) := xlate_own ha k
  by_cases hl : n ≤ 65536 - o % 65536
  · rw [vecPlace_near (hx o (by omega)) (fun m => hp o m (by omega)) (hleft ▸ hl), ownXl, if_pos hl]; rfl
  · have h2 : o + (65536 - o % 65536) < 0x30000 := by omega
    have ht (a : Nat) (ha : a < 0x30000) : targetOf (offsetOf (ownPage s a).pa) = .scratch (coreOf s.cur) :=
      targetOf_scratch s _ a hc' ha
    rw [vecPlace_far (hx o (by omega)) (fun m => hp o m (by omega)) hleft.symm hl (by rw [Nat.add_assoc]; exact hx _ h2)
      (fun m => by rw [Nat.add_assoc]; exact hp _ m h2) ((ht o (by omega)).trans (ht _ h2).symm), ownXl, if_neg hl]
    rw [ownPage_pa, ownPage_pa, ← scratchPa_add, ← span_add, Nat.add_sub_cancel' (Nat.le_of_not_le hl)]
    rfl

omit hc in
/-- A write to the own scratchpad passes every check of a write (R45, R60, R339). -/
theorem wrCheck_own (va : Nat) : wrCheck s s.cur va (ownXl s o n) (homePas s o n) = none := by
  have home : (homePas s o n).all (inScratch s (coreOf s.cur)) = true := by
    refine List.all_eq_true.mpr fun a ha => ?_
    obtain ⟨i, hi, rfl⟩ := mem_homePas.mp ha
    unfold inScratch scratchPa
    rw [Bool.and_eq_true, decide_eq_true_eq, decide_eq_true_eq]
    omega
  simp only [wrCheck, home, ownXl_sealedPas]
  simp

end

end Sys2Proof.Machine
end

section
namespace Sys2Proof.Machine

/-! Lists grouped by a key that rises along them: the words of an operand and of a result (R197, R289, R290). -/

theorem filter_least {α : Type} {g : α → Nat} {m : Nat} {l : List α} (hm : ∀ b ∈ l, m ≤ g b) (h : l.Pairwise (fun a b => g a ≤ g b)) :
    l.filter (fun b => g b = m) ++ l.filter (fun b => g b ≠ m) = l := by
  induction l with
  | nil => rfl
  | cons b l ih =>
    obtain ⟨hb, hl⟩ := List.pairwise_cons.mp h
    by_cases e : g b = m
    · simpa [e] using ih (fun c hc => hm c (List.mem_cons_of_mem _ hc)) hl
    · have above : ∀ c ∈ b :: l, g c ≠ m := by
        intro c hc
        have := hm b List.mem_cons_self
        rcases List.mem_cons.mp hc with rfl | hc
        · exact e
        · have := hb c hc; omega
      rw [List.filter_eq_nil_iff.mpr (fun c hc => by simpa using above c hc),
        List.filter_eq_self.mpr (fun c hc => by simpa using above c hc), List.nil_append]

/-- The groups of a rising list, in order, are the list. -/
theorem flatMap_groups {α : Type} (g : α → Nat) {l : List α} (h : l.Pairwise (fun a b => g a ≤ g b)) :
    ((l.map g).eraseDups).flatMap (fun w => l.filter fun a => g a = w) = l := by
  match l, h with
  | [], _ => simp
  | a :: l, h =>
    obtain ⟨ha, hl⟩ := List.pairwise_cons.mp h
    have rest : (l.map g).filter (fun b => !b == g a) = (l.filter fun b => g b ≠ g a).map g := by
      rw [List.filter_map]; congr 1; exact List.filter_congr fun b _ => by rw [Bool.eq_iff_iff]; simp
    have ih := flatMap_groups g (hl.sublist (List.filter_sublist (p := fun b => g b ≠ g a)))
    have tail : ∀ w ∈ ((l.filter fun b => g b ≠ g a).map g).eraseDups,
        (a :: l).filter (fun b => g b = w) = (l.filter fun b => g b ≠ g a).filter fun b => g b = w := by
      intro w hw
      obtain ⟨b, hb, rfl⟩ := List.mem_map.mp (List.mem_eraseDups.mp hw)
      have hne : g b ≠ g a := by simpa using (List.mem_filter.mp hb).2
      rw [List.filter_cons, if_neg (by simpa using hne.symm), List.filter_filter]
      refine List.filter_congr fun c _ => ?_
      by_cases e : g c = g b <;> simp [e, hne]
    rw [List.map_cons, List.eraseDups_cons, List.flatMap_cons, rest, List.flatMap_congr tail, ih, List.filter_cons]
    simpa using filter_least ha hl
termination_by l.length
decreasing_by
  simp only [List.length_cons]
  exact Nat.lt_succ_of_le (List.length_filter_le ..)

theorem nodup_eraseDups (l : List Nat) : l.eraseDups.Nodup := by
  match l with
  | [] => simp
  | a :: l =>
    rw [List.eraseDups_cons, List.nodup_cons]
    refine ⟨fun h => ?_, nodup_eraseDups _⟩
    simpa using (List.mem_filter.mp (List.mem_eraseDups.mp h)).2
termination_by l.length
decreasing_by
  simp only [List.length_cons]
  exact Nat.lt_succ_of_le (List.length_filter_le ..)

theorem span_sorted (a n : Nat) : (span a n).Pairwise (· ≤ ·) := by
  induction n generalizing a with
  | zero => exact .nil
  | succ n ih =>
    refine List.pairwise_cons.mpr ⟨fun b hb => ?_, ih (a + 1)⟩
    have := mem_span.mp hb
    omega

theorem rising_div {pas : List Nat} (h : pas.Pairwise (· ≤ ·)) (z : Nat) : pas.Pairwise fun a b => a / z ≤ b / z :=
  h.imp fun h => Nat.div_le_div_right h

/-- The places of the words of an operand: its bytes by aligned 8-byte word (R290). -/
theorem vecWords_pas (va : Nat) (pas : List Nat) (x : Xl) :
    (vecWords va pas x).map (·.pas) = ((pas.map (· / 8)).eraseDups).map fun w => pas.filter fun a => a / 8 = w := by
  have hz : (pas.zip (span 0 pas.length)).map (·.1) = pas := List.map_fst_zip (by simp)
  have hf (w : Nat) : ((pas.zip (span 0 pas.length)).filter fun e => e.1 / 8 = w).map (·.1) = pas.filter fun a => a / 8 = w := by
    conv_rhs => rw [← hz, List.filter_map]
    rfl
  rw [vecWords, List.map_filterMap]
  refine (List.filterMap_congr fun w hw => ?_).trans
    (congrFun (List.filterMap_eq_map (f := fun w => pas.filter fun a => decide (a / 8 = w))) _)
  obtain ⟨a, ha, rfl⟩ := List.mem_map.mp (List.mem_eraseDups.mp hw)
  have hne : pas.filter (fun b => b / 8 = a / 8) ≠ [] := List.ne_nil_of_mem (List.mem_filter.mpr ⟨ha, by simp⟩)
  rw [← hf] at hne
  show _ = some (pas.filter fun b => b / 8 = a / 8)
  rw [← hf]
  generalize (pas.zip (span 0 pas.length)).filter (fun e => e.1 / 8 = a / 8) = l at hne ⊢
  cases l with
  | nil => exact absurd rfl hne
  | cons e es => rfl

/-- The words of an operand in order are its bytes. -/
theorem vecWords_flat {pas : List Nat} (h : pas.Pairwise (· ≤ ·)) (va : Nat) (x : Xl) : (vecWords va pas x).flatMap (·.pas) = pas := by
  rw [List.flatMap_def, vecWords_pas, ← List.flatMap_def]
  exact flatMap_groups (· / 8) (rising_div h 8)

theorem mem_vecWords {va : Nat} {pas : List Nat} {x : Xl} {w : VWord} (h : w ∈ vecWords va pas x) :
    ∃ a ∈ pas, w.pas = pas.filter fun b => b / 8 = a / 8 := by
  have := List.mem_map_of_mem (f := (·.pas)) h
  rw [vecWords_pas] at this
  obtain ⟨k, hk, e⟩ := List.mem_map.mp this
  obtain ⟨a, ha, rfl⟩ := List.mem_map.mp (List.mem_eraseDups.mp hk)
  exact ⟨a, ha, e.symm⟩

/-- A word of an operand that is itself one aligned word is the operand (R197). -/
theorem vecWords_aligned {va a n : Nat} {x : Xl} {w : VWord} (h : w ∈ vecWords va (span a n) x) (hal : aligned (span a n) = true) :
    w.pas = span a n := by
  obtain ⟨b, hb, e⟩ := mem_vecWords h
  rw [e, List.filter_eq_self]
  intro c hc
  have hb := mem_span.mp hb
  have hc := mem_span.mp hc
  have hd : (span a n).headD 0 = a := by cases n with | zero => omega | succ n => rfl
  simp only [aligned, span_length, hd, Bool.and_eq_true, Bool.or_eq_true, decide_eq_true_eq] at hal
  rw [decide_eq_true_eq]
  rcases hal with ⟨((rfl | rfl) | rfl) | rfl, h0⟩ <;> omega

end Sys2Proof.Machine
end

section
namespace Sys2Proof.Machine

/-! Reading sources in the own scratchpad (R94, R175, R198, R272, R289). -/

theorem chunkBusy_mono {fl : List Access} {h : Nat} {ps qs : List Nat} (hs : ∀ a ∈ ps, a ∈ qs) (hq : chunkBusy fl h qs = false) :
    chunkBusy fl h ps = false := by
  simp only [chunkBusy, List.any_eq_false, Bool.and_eq_true, Bool.or_eq_true, List.any_eq_true, decide_eq_true_eq] at hq ⊢
  rintro a ha ⟨hh, hb⟩
  refine hq a ha ⟨hh, hb.imp_right ?_⟩
  rintro ⟨p, hp, h⟩
  exact ⟨p, hs p hp, h⟩

theorem jobOverlap_mono {s : State} {h : Nat} {ps qs : List Nat} {write : Bool} (hs : ∀ a ∈ ps, a ∈ qs)
    (hq : jobOverlap s h qs write = false) : jobOverlap s h ps write = false := by
  simp only [jobOverlap, List.any_eq_false, Bool.and_eq_true, List.any_eq_true] at hq ⊢
  rintro j hj ⟨hb, r, hr, hw, p, hp, h⟩
  exact hq j hj ⟨hb, r, hr, hw, p, hs p hp, h⟩

theorem pendBank_mono {s : State} {ps qs : List Nat} (hs : ∀ a ∈ ps, a ∈ qs) (hq : pendBank s qs = none) : pendBank s ps = none := by
  rw [pendBank, List.findSome?_eq_none_iff] at hq ⊢
  exact fun a ha => hq a (hs a ha)

/-- Where an operand may be read at once, so may each of its words (R175, R198). -/
theorem atOnce_word {s : State} {h va a n : Nat} {x : Xl} {w : VWord} (hat : atOnce s h (span a n) false = true)
    (hw : w ∈ vecWords va (span a n) x) : atOnce s h w.pas false = true := by
  have hsub : ∀ b ∈ w.pas, b ∈ span a n := by
    obtain ⟨c, -, e⟩ := mem_vecWords hw
    exact fun b hb => List.mem_of_mem_filter (e ▸ hb)
  have hat' := hat
  simp only [atOnce, Bool.and_eq_true, Bool.not_eq_true', Option.isNone_iff_eq_none] at hat ⊢
  obtain ⟨⟨⟨h1, h2⟩, h3⟩, h4⟩ := hat
  refine ⟨⟨⟨chunkBusy_mono hsub h1, jobOverlap_mono hsub h2⟩, pendBank_mono hsub h3⟩, ?_⟩
  by_cases hal : aligned (span a n) = true
  · rw [vecWords_aligned hw hal]; exact h4
  · simp only [splits, hal, Bool.not_false, Bool.true_and] at h4 ⊢
    rw [h4, Bool.and_false]

/-- What a word of the own storage reads as. -/
def plainWord (s : State) (w : VWord) : Option Nat × List Byte × List Bool := (none, w.pas.map (memGet s.mem), w.pas.map (isPsn s))

theorem wordNow_own {s : State} {x : Xl} {w : VWord} (hx : x.own = true) (hat : atOnce s s.cur w.pas false = true)
    (hp : ∀ a ∈ w.pas, isHbm a = false) : wordNow s x w = some ((plainWord s w).2.1, (plainWord s w).2.2, s) := by
  have : rdBytes s 0 w.pas = w.pas.map (memGet s.mem) := List.map_congr_left fun a ha => rdByte_plain (hp a ha) 0
  simp only [wordNow, hat, hx, this, Bool.not_true, Bool.false_eq_true, if_false, if_true, plainWord]

theorem vecRead_own {s : State} {x : Xl} {grp : Nat} {ws : List VWord}
    (h : ∀ w ∈ ws, wordNow s x w = some ((plainWord s w).2.1, (plainWord s w).2.2, s)) :
    vecRead x grp ws s = (ws.map (plainWord s), s) := by
  induction ws with
  | nil => rfl
  | cons w ws ih =>
    have hw : wordGet s x grp w = (plainWord s w, s) := by rw [wordGet, h w List.mem_cons_self]; rfl
    simp only [vecRead, hw, ih fun v hv => h v (List.mem_cons_of_mem _ hv), List.map_cons]

/-- A source in the own scratchpad with its place: its field, address, bytes and translation. -/
def ownSrc (s : State) (x : SRef × Nat × Nat) : VOp × Nat × List Nat × Xl :=
  (⟨x.1, x.2.2⟩, window0 + x.2.1, homePas s x.2.1 x.2.2, ownXl s x.2.1 x.2.2)

/-- The words of a source in the own scratchpad. -/
def ownWords (s : State) (x : SRef × Nat × Nat) : List VWord :=
  vecWords (window0 + x.2.1) (homePas s x.2.1 x.2.2) (ownXl s x.2.1 x.2.2)

/-- A source that lies in the own scratchpad and may be read at once. -/
def SrcHome (s : State) (x : SRef × Nat × Nat) : Prop :=
  x.2.1 + x.2.2 ≤ 0x30000 ∧ atOnce s s.cur (homePas s x.2.1 x.2.2) false = true

theorem wordNow_home {s : State} (hc : s.cur < 8192) {x : SRef × Nat × Nat} (hx : SrcHome s x) {w : VWord} (hw : w ∈ ownWords s x) :
    wordNow s (ownXl s x.2.1 x.2.2) w = some ((plainWord s w).2.1, (plainWord s w).2.2, s) := by
  refine wordNow_own rfl (atOnce_word hx.2 hw) fun a ha => isHbm_home hc hx.1 ?_
  obtain ⟨c, -, e⟩ := mem_vecWords hw
  exact List.mem_of_mem_filter (e ▸ ha)

theorem homePas_sorted (s : State) (o n : Nat) : (homePas s o n).Pairwise (· ≤ ·) := span_sorted ..

/-- A source in the own scratchpad as read: its bytes, each with its poison. -/
theorem srcOf_home (s : State) (x : SRef × Nat × Nat) : srcOf ((ownWords s x).map (plainWord s)) =
    ⟨homeBytes s x.2.1 x.2.2, (homePas s x.2.1 x.2.2).map (isPsn s)⟩ := by
  have h := vecWords_flat (homePas_sorted s x.2.1 x.2.2) (window0 + x.2.1) (ownXl s x.2.1 x.2.2)
  have hm {β : Type} (f : Nat → β) : (ownWords s x).flatMap (fun w => w.pas.map f) = (homePas s x.2.1 x.2.2).map f := by
    conv_rhs => rw [← h, List.map_flatMap]
    rfl
  simp only [srcOf, List.flatMap_map, plainWord, hm, homeBytes]

/-- The sources in the own scratchpad are read at once, and nothing else of the machine changes. -/
theorem vecReads_home {s : State} (hc : s.cur < 8192) {grp : Nat} {srcs : List (SRef × Nat × Nat)} (h : ∀ x ∈ srcs, SrcHome s x) :
    vecReads grp (srcs.map (ownSrc s)) s = (srcs.map fun x => (ownWords s x).map (plainWord s), s) := by
  induction srcs with
  | nil => rfl
  | cons x xs ih =>
    have hx : vecRead (ownXl s x.2.1 x.2.2) grp (ownWords s x) s = ((ownWords s x).map (plainWord s), s) :=
      vecRead_own fun w hw => wordNow_home hc (h x List.mem_cons_self) hw
    rw [List.map_cons, vecReads, show vecRead (ownSrc s x).2.2.2 grp (vecWords (ownSrc s x).2.1 (ownSrc s x).2.2.1 (ownSrc s x).2.2.2) s = _
      from hx]
    simp only [ih fun y hy => h y (List.mem_cons_of_mem _ hy), List.map_cons]

end Sys2Proof.Machine
end

section
namespace Sys2Proof.Machine

/-! What performing the earlier writes of a REP sequence leaves (R295). -/

/-- Is an outstanding result one of the sequence, there, and to one of these bytes? -/
def repHits (pas : List Nat) (o : Outst) : Bool := o.rep && o.val.isSome && o.dest.any fun d => pas.contains d.1

/-- One earlier result of hart `h` performed. -/
def repPerform (h : Nat) (s : State) (o : Outst) : State :=
  match o.val with
  | some v => putBytes (notePsn s h o.psn) 0 (outCells o v) o.psn
  | none => s

theorem repFlush_off {s : State} (h : repOn s s.cur = false) (pas : List Nat) : repFlush s pas = s := by
  simp only [repFlush, h, Bool.false_eq_true, if_false]

theorem repFlush_on {s : State} (h : repOn s s.cur = true) (pas : List Nat) :
    repFlush s pas = modSlot (((getSlot s s.cur).outs.filter (repHits pas)).foldl (repPerform s.cur) s) s.cur fun x =>
      { x with outs := x.outs.filter fun o => !repHits pas o } := by
  rw [repFlush]
  simp only [h, if_true]
  rfl

/-- Status words that agree but for the bits below 8, among them POISONED (R245). -/
def SameAbove (w x : Word) : Prop := ∀ k, 8 ≤ k → x.getLsbD k = w.getLsbD k

/-- The executing hart's slot is as before but for its status word below bit 8. -/
def SlotNoted (s t : State) : Prop :=
  ∃ w, SameAbove (getSlot s s.cur).hsw w ∧ getSlot t s.cur = { getSlot s s.cur with hsw := w }

theorem slotNoted_refl (s : State) : SlotNoted s s := ⟨_, fun _ _ => rfl, rfl⟩

theorem slotNoted_notePsn {s t : State} (h : SlotNoted s t) (psn : Bool) : SlotNoted s (notePsn t s.cur psn) := by
  obtain ⟨w, hw, e⟩ := h
  cases psn with
  | false => exact ⟨w, hw, e⟩
  | true =>
    refine ⟨setBit w 7 true, fun k hk => ?_, ?_⟩
    · rw [setBit, getLsbD_setFld_ne _ (by omega) (by omega) _ (by omega), hw k hk]
    · simp only [notePsn, if_true, setPoisoned, modHsw, getSlot_modSlot_self, e]

/-- What every byte that earlier results do not write, outside HBM, and the rest of the machine are once those results are
performed. -/
theorem repPerform_all {s : State} {l : List Outst} :
    setting (l.foldl (repPerform s.cur) s) = setting s ∧ SlotNoted s (l.foldl (repPerform s.cur) s) ∧
      ∀ a, isHbm a = false → (∀ o ∈ l, a ∉ o.dest.map (·.1)) → memGet (l.foldl (repPerform s.cur) s).mem a = memGet s.mem a := by
  refine foldl_keeps (P := fun t => setting t = setting s ∧ SlotNoted s t ∧
    ∀ a, isHbm a = false → (∀ o ∈ l, a ∉ o.dest.map (·.1)) → memGet t.mem a = memGet s.mem a) _ _ _
    ⟨rfl, slotNoted_refl s, fun _ _ _ => rfl⟩ fun t o ho ⟨h1, h2, h3⟩ => ?_
  rw [repPerform]
  cases o.val with
  | none => exact ⟨h1, h2, h3⟩
  | some v =>
    have hset : setting (notePsn t s.cur o.psn) = setting t := by cases o.psn <;> simp [notePsn, setPoisoned, modHsw]
    have hmem : (notePsn t s.cur o.psn).mem = t.mem := by cases o.psn <;> rfl
    refine ⟨by rw [setting_putBytes, hset, h1], ?_, fun a ha hn => ?_⟩
    · obtain ⟨w, hw, e⟩ := slotNoted_notePsn h2 o.psn
      exact ⟨w, hw, by rw [getSlot_putBytes, e]⟩
    · have hp : HoldsPlain a (memGet t.mem a) (notePsn t s.cur o.psn) := ⟨by rw [hmem], fun hb => absurd hb (by simp [ha])⟩
      have := (holdsPlain_putBytes hp (cells := outCells o v) (fun e he hea => hn o ho ?_) o.psn).1
      · exact this.trans (h3 a ha hn)
      · rw [← outCells_fst o v, ← hea]; exact List.mem_map_of_mem he

/-- The rest of the machine, and the slot but for its status word below bit 8 and its results, once results of the sequence are
performed. -/
structure RepKept (s t : State) : Prop where
  setting : setting t = setting s
  slot : ∃ w l, SameAbove (getSlot s s.cur).hsw w ∧ getSlot t s.cur = { getSlot s s.cur with hsw := w, outs := l }

theorem repKept_repFlush (s : State) (pas : List Nat) : RepKept s (repFlush s pas) := by
  by_cases h : repOn s s.cur = true
  · obtain ⟨h1, ⟨w, hw, e⟩, -⟩ := repPerform_all (s := s) (l := (getSlot s s.cur).outs.filter (repHits pas))
    rw [repFlush_on h]
    exact ⟨by rw [setting_modSlot, h1], w, _, hw, by rw [getSlot_modSlot_self, e]⟩
  · rw [repFlush_off (by simpa using h)]
    exact ⟨rfl, _, (getSlot s s.cur).outs, fun _ _ => rfl, rfl⟩

section
variable {s t : State} (h : RepKept s t)
include h

theorem RepKept.cur_eq : t.cur = s.cur := (congrArg State.cur h.setting :)
theorem RepKept.module_eq : t.module = s.module := (congrArg State.module h.setting :)
theorem RepKept.flight_eq : t.flight = s.flight := (congrArg State.flight h.setting :)

theorem RepKept.wp_eq : (getSlot t s.cur).wp = (getSlot s s.cur).wp := by obtain ⟨_, _, -, e⟩ := h.slot; rw [e]

theorem RepKept.bit_eq {k : Nat} (hk : 8 ≤ k) : bit (getSlot t s.cur).hsw k = bit (getSlot s s.cur).hsw k := by
  obtain ⟨w, l, hw, e⟩ := h.slot
  rw [e]; exact hw k hk

theorem RepKept.fld_eq {hi lo : Nat} (hk : 8 ≤ lo) : fld (getSlot t s.cur).hsw hi lo = fld (getSlot s s.cur).hsw hi lo :=
  fld_congr fun _ h1 _ => h.bit_eq (hk.trans h1)

theorem RepKept.repOn_eq : repOn t s.cur = repOn s s.cur := by
  rw [repOn, repOn, repcnt, repcnt, mres, mres, h.fld_eq (by omega), h.bit_eq (by omega)]

theorem RepKept.prefixOk_eq (g : Gov) : prefixOk t s.cur g = prefixOk s s.cur g := by
  have hp : payloadOk t s.cur = payloadOk s s.cur := by rw [payloadOk, payloadOk, payload, payload, h.fld_eq (by omega)]
  have h40 : pfxOf t s.cur = pfxOf s s.cur := h.bit_eq (by omega)
  have h41 : pfxLix t s.cur = pfxLix s s.cur := h.bit_eq (by omega)
  cases g <;> simp only [prefixOk, h.repOn_eq, h40, h41, hp]

theorem RepKept.scratchPa_eq (c o : Nat) : scratchPa t c o = scratchPa s c o := by rw [scratchPa, scratchPa, h.module_eq]

theorem RepKept.regPa_eq (n : Nat) : regPa t s.cur n = regPa s s.cur n := by
  rw [regPa, regPa, h.scratchPa_eq, h.wp_eq]

theorem RepKept.homePas_eq (o n : Nat) : homePas t o n = homePas s o n := by rw [homePas, homePas, h.cur_eq, h.scratchPa_eq]

theorem RepKept.ownXl_eq (o n : Nat) : ownXl t o n = ownXl s o n := by rw [ownXl, ownXl, h.cur_eq, h.scratchPa_eq]

theorem RepKept.ownSrc_eq : ownSrc t = ownSrc s := by funext x; rw [ownSrc, ownSrc, h.homePas_eq, h.ownXl_eq]

theorem RepKept.placed (p : Placed t s.cur) : Placed s s.cur := by rw [Placed, h.wp_eq] at p; exact p

theorem RepKept.frameBusy_eq : frameBusy t s.cur = frameBusy s s.cur := by
  simp only [frameBusy, h.flight_eq, h.regPa_eq]

end

/-- What an execution waits for is not changed by performing results that are there (R295). -/
theorem repWaits_repFlush (s : State) (ps qs : List Nat) : repWaits (repFlush s ps) qs = repWaits s qs := by
  have hk := repKept_repFlush s ps
  by_cases h : repOn s s.cur = true
  · obtain ⟨-, ⟨w, -, e⟩, -⟩ := repPerform_all (s := s) (l := (getSlot s s.cur).outs.filter (repHits ps))
    have ho : (getSlot (repFlush s ps) s.cur).outs = (getSlot s s.cur).outs.filter fun o => !repHits ps o := by
      rw [repFlush_on h, getSlot_modSlot_self, e]
    simp only [repWaits, hk.cur_eq, hk.repOn_eq, ho, h, Bool.true_and, List.any_filter]
    congr 1
    funext o
    cases hr : o.rep <;> cases hv : o.val <;> simp [repHits, hr, hv]
  · rw [repFlush_off (by simpa using h)]

theorem repWaits_mono {s : State} {ps qs : List Nat} (hs : ∀ a ∈ ps, a ∈ qs) (h : repWaits s qs = false) : repWaits s ps = false := by
  by_cases hr : repOn s s.cur = true
  · simp only [repWaits, hr, Bool.true_and, List.any_eq_false, Bool.and_eq_true, List.any_eq_true, List.contains_eq_mem,
      decide_eq_true_eq] at h ⊢
    rintro o ho ⟨hv, d, hd, hp⟩
    exact h o ho ⟨hv, d, hd, hs _ hp⟩
  · rw [repWaits, Bool.not_eq_true _ |>.mp hr, Bool.false_and]

/-- Bytes outside HBM to which results of the sequence were performed first keep their values when it is the turn of others
(R295). -/
theorem memGet_repFlush_twice {s : State} {ps qs : List Nat} {a : Nat} (ha : a ∈ ps) (hb : isHbm a = false) :
    memGet (repFlush (repFlush s ps) qs).mem a = memGet (repFlush s ps).mem a := by
  have hk := repKept_repFlush s ps
  by_cases h : repOn s s.cur = true
  · have h2 : repOn (repFlush s ps) (repFlush s ps).cur = true := by rw [hk.cur_eq, hk.repOn_eq, h]
    obtain ⟨-, ⟨w, -, e⟩, -⟩ := repPerform_all (s := s) (l := (getSlot s s.cur).outs.filter (repHits ps))
    have ho : (getSlot (repFlush s ps) s.cur).outs = (getSlot s s.cur).outs.filter fun o => !repHits ps o := by
      rw [repFlush_on h, getSlot_modSlot_self, e]
    rw [repFlush_on h2, modSlot_mem]
    refine (repPerform_all (s := repFlush s ps)).2.2 a hb fun o hm hin => ?_
    obtain ⟨hm, hq⟩ := List.mem_filter.mp hm
    rw [hk.cur_eq, ho] at hm
    obtain ⟨d, hd, rfl⟩ := List.mem_map.mp hin
    have hp : repHits ps o = true := by
      simp only [repHits, Bool.and_eq_true] at hq ⊢
      exact ⟨hq.1, List.any_eq_true.mpr ⟨d, hd, by simpa using ha⟩⟩
    simp [hp] at hm
  · rw [repFlush_off (by rw [hk.cur_eq, hk.repOn_eq]; simpa using h)]

end Sys2Proof.Machine
end

section
namespace Sys2Proof.Machine

/-! Stepping pointers, and the end of an execution (R114, R222, R285, R295). -/

/-- Results that no longer write these bytes (R17). -/
def cutOuts (pas : List Nat) (l : List Outst) : List Outst :=
  l.map fun o => { o with dest := o.dest.filter fun d => !pas.contains d.1 }

theorem cutOuts_nil (l : List Outst) : cutOuts [] l = l := by
  simp [cutOuts]

theorem cutOuts_cutOuts (ps qs : List Nat) (l : List Outst) : cutOuts qs (cutOuts ps l) = cutOuts (ps ++ qs) l := by
  simp only [cutOuts, List.map_map]
  refine List.map_congr_left fun o _ => ?_
  simp only [Function.comp, List.filter_filter]
  congr 1
  refine List.filter_congr fun d _ => ?_
  simp [Bool.and_comm]

/-- A result keeps the bytes that are not cut. -/
theorem mem_cutOuts {pas : List Nat} {l : List Outst} {o : Outst} (h : o ∈ l) :
    { o with dest := o.dest.filter fun d => !pas.contains d.1 } ∈ cutOuts pas l := List.mem_map_of_mem h

theorem outs_dropOuts (s : State) (h : Nat) (pas : List Nat) :
    getSlot (dropOuts s h pas) h = { getSlot s h with outs := cutOuts pas (getSlot s h).outs } := getSlot_dropOuts_self ..

/-- One pointer stepped. -/
def stepPtr (s : State) (p : Nat) : State :=
  writeReg s s.cur (sWord p) (sStep (readReg s s.cur (sWord p))) (regPsn s s.cur (sWord p))

/-- The numbers of the pointers that an execution steps, each once. -/
def steppedPtrs (ops : List VOp) : List Nat := ((ops.filter (·.ref.inc)).map fun o => o.ref.ptr.val).eraseDups

theorem vecStep_eq (s : State) (ops : List VOp) : vecStep s ops = (steppedPtrs ops).foldl stepPtr s := rfl

/-- The bytes of these pointers. -/
def ptrPas (s : State) (ps : List Nat) : List Nat := ps.flatMap fun p => span (regPa s s.cur (sWord p)) 8

/-- These pointers have been stepped, and nothing else has changed but what they cut of older results. -/
structure PtrsStepped (s t : State) (ps : List Nat) : Prop where
  wf : Memory.wf t.mem = true
  rest : RestKept s t
  slot : getSlot t s.cur = { getSlot s s.cur with outs := cutOuts (ptrPas s ps) (getSlot s s.cur).outs }
  regs : ∀ p ∈ ps, readReg t s.cur (sWord p) = sStep (readReg s s.cur (sWord p))
  mem : ∀ a, a ∉ ptrPas s ps → memGet t.mem a = memGet s.mem a
  journal : ∀ c, (getCore t c).journal = (getCore s c).journal

section
variable {s : State} (o : Ordinary s) {p : Nat} (hp : p < 8)
include o hp

theorem ptrsStepped_one : PtrsStepped s (stepPtr s p) [p] := by
  obtain ⟨pl, w⟩ := o
  have h64 : sWord p < 64 := by unfold sWord; omega
  have h0 : sWord p ≠ 0 := by unfold sWord; omega
  have hpas : ptrPas s [p] = span (regPa s s.cur (sWord p)) 8 := List.flatMap_singleton ..
  refine ⟨writeReg_wf pl h64 _ _ w, restKept_writeReg pl h64 _ _, ?_, fun q hq => ?_, fun a ha => ?_, fun c => ?_⟩
  · rw [stepPtr, getSlot_writeReg_self pl h0 h64, hpas, cutOuts]
  · obtain rfl := List.mem_singleton.mp hq
    rw [stepPtr, readReg_writeReg_self pl w h64, if_neg h0]
  · rw [hpas, mem_span] at ha
    exact writeReg_mem_frame pl h64 _ _ (.inr (by omega))
  · exact (congrArg Core.journal ((unitsKept_writeReg pl h64 _ _).1 c) :)

end

/-- The pointers of the executing hart lie apart. -/
theorem ptrPas_apart {s : State} {p : Nat} {ps : List Nat} (h : p ∉ ps) : ∀ a ∈ span (regPa s s.cur (sWord p)) 8, a ∉ ptrPas s ps := by
  intro a ha hm
  obtain ⟨q, hq, hm⟩ := List.mem_flatMap.mp hm
  rw [mem_span] at ha hm
  have : p = q := by simp only [regPa, scratchPa, sWord] at ha hm; omega
  exact h (this ▸ hq)

section
variable {s t : State} {ps : List Nat} (h : PtrsStepped s t ps)
include h

theorem PtrsStepped.cur_eq : t.cur = s.cur := by obtain ⟨-, -, -, e, -⟩ := h.rest; exact e
theorem PtrsStepped.regPa_eq (n : Nat) : regPa t s.cur n = regPa s s.cur n := by
  obtain ⟨e, -⟩ := h.rest
  rw [regPa, regPa, scratchPa, scratchPa, e, h.slot]

theorem PtrsStepped.ordinary (o : Ordinary s) : Ordinary t := by
  refine ⟨?_, h.wf⟩
  rw [h.cur_eq]
  exact placed_of_outs o.1 ⟨_, h.slot⟩

theorem PtrsStepped.ptrPas_eq (qs : List Nat) : ptrPas t qs = ptrPas s qs := by
  simp only [ptrPas, h.cur_eq, h.regPa_eq]

/-- A pointer that is not among them keeps its word. -/
theorem PtrsStepped.readReg_eq (o : Ordinary s) {p : Nat} (hp : p < 8) (hn : p ∉ ps) :
    readReg t s.cur (sWord p) = readReg s s.cur (sWord p) := by
  have h64 : sWord p < 64 := by unfold sWord; omega
  have pt : Placed t s.cur := placed_of_outs o.1 ⟨_, h.slot⟩
  rw [readReg, readReg, h.regPa_eq, rd64_plain (h.regPa_eq _ ▸ reg_plain pt h64), rd64_plain (reg_plain o.1 h64)]
  congr 2
  exact List.map_congr_left fun a ha => h.mem a (ptrPas_apart hn a ha)

end

theorem PtrsStepped.cons {s t u : State} {p : Nat} {ps : List Nat} (o : Ordinary s) (hp : p < 8) (hps : ∀ q ∈ ps, q < 8)
    (hn : p ∉ ps) (h : PtrsStepped s t [p]) (k : PtrsStepped t u ps) : PtrsStepped s u (p :: ps) := by
  have hpas : ptrPas s (p :: ps) = ptrPas s [p] ++ ptrPas s ps := by simp [ptrPas]
  have hc := h.cur_eq
  obtain ⟨a1, a2, a3, a4, a5, a6, a7, a8, a9, a10, a11, a12, a13, a14⟩ := h.rest
  obtain ⟨b1, b2, b3, b4, b5, b6, b7, b8, b9, b10, b11, b12, b13, b14⟩ := k.rest
  refine ⟨k.wf, ⟨b1.trans a1, b2.trans a2, b3.trans a3, b4.trans a4, b5.trans a5, b6.trans a6, b7.trans a7, b8.trans a8,
    b9.trans a9, b10.trans a10, b11.trans a11, b12.trans a12, b13.trans a13,
    fun j hj => (b14 j (hc ▸ hj)).trans (a14 j hj)⟩, ?_, fun q hq => ?_, fun a ha => ?_, fun c => (k.journal c).trans (h.journal c)⟩
  · have := k.slot
    rw [hc, h.slot, h.ptrPas_eq] at this
    rw [this, hpas, ← cutOuts_cutOuts]
  · have hr : readReg u s.cur (sWord q) = readReg u t.cur (sWord q) := by rw [hc]
    rcases List.mem_cons.mp hq with rfl | hq
    · rw [hr, k.readReg_eq (h.ordinary o) hp hn, hc, h.regs _ (List.mem_singleton_self _)]
    · have hne : q ∉ [p] := fun e => hn (List.mem_singleton.mp e ▸ hq)
      rw [hr, k.regs q hq, hc, h.readReg_eq o (hps q hq) hne]
  · rw [hpas, List.mem_append, not_or] at ha
    exact (k.mem a (by rw [h.ptrPas_eq]; exact ha.2)).trans (h.mem a ha.1)

theorem ptrsStepped_foldl {ps : List Nat} {s : State} (o : Ordinary s) (hps : ∀ q ∈ ps, q < 8) (hn : ps.Nodup) :
    PtrsStepped s (ps.foldl stepPtr s) ps := by
  induction ps generalizing s with
  | nil =>
    have hslot : getSlot s s.cur = { getSlot s s.cur with outs := cutOuts (ptrPas s []) (getSlot s s.cur).outs } := by
      rw [ptrPas, List.flatMap_nil, cutOuts_nil]
    exact ⟨o.2, restKept_refl s, hslot, fun _ h => absurd h List.not_mem_nil, fun _ _ => rfl, fun _ => rfl⟩
  | cons p ps ih =>
    obtain ⟨hp, hn⟩ := List.nodup_cons.mp hn
    have h8 := hps p List.mem_cons_self
    have hrest := fun q hq => hps q (List.mem_cons_of_mem _ hq)
    have h1 := ptrsStepped_one o h8
    exact h1.cons o h8 hrest hp (ih (h1.ordinary o) hrest hn)

/-- The pointers of an execution are stepped, each once (R285). -/
theorem ptrsStepped_vecStep {s : State} (o : Ordinary s) (ops : List VOp) : PtrsStepped s (vecStep s ops) (steppedPtrs ops) := by
  rw [vecStep_eq]
  refine ptrsStepped_foldl o (fun q hq => ?_) (nodup_eraseDups _)
  obtain ⟨r, -, rfl⟩ := List.mem_map.mp (List.mem_eraseDups.mp hq)
  exact r.ref.ptr.isLt

theorem mem_steppedPtrs {ops : List VOp} {p : Nat} : p ∈ steppedPtrs ops ↔ ∃ r ∈ ops.map (·.ref), r.inc = true ∧ r.ptr.val = p := by
  simp [steppedPtrs, List.mem_eraseDups, and_assoc]

/-- The bytes that stepping writes are those of the pointers that the fields step. -/
theorem mem_stepPas {s : State} {ops : List VOp} {a : Nat} : a ∈ ptrPas s (steppedPtrs ops) ↔ StepsAt s (ops.map (·.ref)) a := by
  simp only [ptrPas, List.mem_flatMap, mem_steppedPtrs, StepsAt]
  constructor
  · rintro ⟨_, ⟨r, hr, hi, rfl⟩, ha⟩
    exact ⟨r, hr, hi, ha⟩
  · rintro ⟨r, hr, hi, ha⟩
    exact ⟨_, ⟨r, hr, hi, rfl⟩, ha⟩

/-! The end of an execution. -/

/-- The slot of a hart that has made an execution: it stands where `VecWentOn` says. -/
structure VecEnded (s t : State) : Prop where
  went : VecWentOn s t
  regs : SlotRegsKept (getSlot s s.cur) (getSlot t s.cur)
  outs : (getSlot t s.cur).outs = (getSlot s s.cur).outs
  vpend : (getSlot t s.cur).vpend = (getSlot s s.cur).vpend
  harts : ∀ k, k ≠ s.cur → getSlot t k = getSlot s k
  rest : { t with slots := s.slots } = s

theorem vecRetire_again {s : State} (h : repOn s s.cur = true ∧ repcnt s s.cur ≠ 1) (sw : Bool) :
    vecRetire s sw = modSlot s s.cur fun x =>
      { x with hsw := setFld x.hsw 63 48 (fld x.hsw 63 48 - 1), inside := false, latch := [], repped := true } := by
  simp only [vecRetire, h.1, h.2, ne_eq, not_false_eq_true, decide_true, Bool.and_self, if_true]

theorem vecRetire_last {s : State} (h : ¬ (repOn s s.cur = true ∧ repcnt s s.cur ≠ 1)) (sw : Bool) :
    vecRetire s sw = retire (if repOn s s.cur then modHsw s s.cur fun w => setFld w 63 48 0 else s) sw := by
  have hc : (repOn s s.cur && decide (repcnt s s.cur ≠ 1)) = false := by
    rw [Bool.and_eq_false_iff, decide_eq_false_iff_not]
    by_cases hr : repOn s s.cur = true
    · exact .inr fun e => h ⟨hr, e⟩
    · exact .inl (by simpa using hr)
  simp only [vecRetire, hc, Bool.false_eq_true, if_false]

/-- The machine with REPCNT of the executing hart clear where a REP is pending (R222). -/
def repCleared (s : State) : State := if repOn s s.cur then modHsw s s.cur fun w => setFld w 63 48 0 else s

/-- The status word without the count of a pending REP. -/
def repClearedHsw (s : State) : Word := if repOn s s.cur then setFld (getSlot s s.cur).hsw 63 48 0 else (getSlot s s.cur).hsw

theorem repCleared_slot (s : State) : getSlot (repCleared s) s.cur = { getSlot s s.cur with hsw := repClearedHsw s } := by
  unfold repCleared repClearedHsw
  split
  · rw [modHsw, getSlot_modSlot_self]
  · rfl

theorem bit_repClearedHsw (s : State) : bit (repClearedHsw s) 40 = pfxOf s s.cur := by
  unfold repClearedHsw
  split
  · exact getLsbD_setFld_ne _ (by omega) (by omega) _ (by omega)
  · rfl

theorem repCleared_rest (s : State) : (repCleared s).cur = s.cur ∧ { repCleared s with slots := s.slots } = s ∧
    ∀ k, k ≠ s.cur → getSlot (repCleared s) k = getSlot s k := by
  unfold repCleared
  split
  · exact ⟨rfl, rfl, fun k hk => getSlot_modSlot_ne _ _ hk⟩
  · exact ⟨rfl, rfl, fun _ _ => rfl⟩

theorem vecEnded_vecRetire (s : State) (sw : Bool) : VecEnded s (vecRetire s sw) := by
  by_cases h : repOn s s.cur = true ∧ repcnt s s.cur ≠ 1
  · have e := getSlot_modSlot_self s s.cur fun x =>
      { x with hsw := setFld x.hsw 63 48 (fld x.hsw 63 48 - 1), inside := false, latch := [], repped := true }
    rw [← vecRetire_again h sw] at e
    refine ⟨?_, by rw [e]; exact ⟨rfl, rfl, rfl, rfl, rfl, rfl, rfl, rfl, rfl, rfl, rfl, rfl, rfl⟩, by rw [e], by rw [e],
      fun k hk => ?_, ?_⟩
    · rw [VecWentOn, if_pos h, e]
      exact ⟨rfl, rfl⟩
    · rw [vecRetire_again h]; exact getSlot_modSlot_ne _ _ hk
    · rw [vecRetire_again h]; rfl
  · obtain ⟨hc, hrest, hk⟩ := repCleared_rest s
    have e : vecRetire s sw = retireH (repCleared s) s.cur sw (pcOf s + 4) := by
      rw [vecRetire_last h, ← repCleared, retire, hc, repCleared_slot]; rfl
    have g : getSlot (vecRetire s sw) s.cur = { getSlot s s.cur with
        pc := pcOf s + 4, hsw := if pfxOf s s.cur then clearPfx (repClearedHsw s) else repClearedHsw s, inside := false, latch := [],
        kept := [], answer := none, limit := none, cancel := false, repped := false, arrCmd := false
        st := if sw then .parked .results none else (getSlot s s.cur).st } := by
      rw [e, retireH, getSlot_modSlot_self, repCleared_slot, ← bit_repClearedHsw]
    refine ⟨?_, by rw [g]; exact ⟨rfl, rfl, rfl, rfl, rfl, rfl, rfl, rfl, rfl, rfl, rfl, rfl, rfl⟩, by rw [g], by rw [g],
      fun k hne => ?_, ?_⟩
    · rw [VecWentOn, if_neg h, g]
      exact ⟨rfl, rfl⟩
    · rw [e, retireH, getSlot_modSlot_ne _ _ hne, hk k hne]
    · rw [e]; exact hrest

end Sys2Proof.Machine
end

section
namespace Sys2Proof.Machine

/-! One execution with its places known (R285, R287 to R291). -/

/-- The bytes of the pointers that an execution steps (R285). -/
def stepBytes (s : State) (ops : List VOp) : List Nat :=
  (ops.filter (·.ref.inc)).flatMap fun o => span (regPa s s.cur (sWord o.ref.ptr)) 8

theorem mem_stepBytes {s : State} {ops : List VOp} {a : Nat} : a ∈ stepBytes s ops ↔ StepsAt s (ops.map (·.ref)) a := by
  simp only [stepBytes, List.mem_flatMap, List.mem_filter, StepsAt, List.mem_map]
  constructor
  · rintro ⟨o, ⟨ho, hi⟩, ha⟩
    exact ⟨_, ⟨o, ho, rfl⟩, hi, ha⟩
  · rintro ⟨_, ⟨o, ho, rfl⟩, hi, ha⟩
    exact ⟨o, ⟨ho, hi⟩, ha⟩

/-- What an execution reads: of each source its words, each there or sent for. -/
abbrev VReads := List (List (Option Nat × List Byte × List Bool))

/-- Are all words of the sources there? -/
def allThere (q : VReads) : Bool := q.all (·.all (·.1.isNone))

/-- The machine with the result of an execution outstanding, and where its sources are still to come the execution waiting for
them (R289). -/
def vecPut (i : Instr) (uid : Nat) (dp : List Nat × Xl) (cells : List VCell) (q : VReads × State) (f : VFun) : State :=
  let h := q.2.cur
  let there := allThere q.1
  let r : VRes := if there then some (f (q.1.map srcOf)) else none
  let s := noteWrite (notePsn q.2 h (there && q.1.any fun l => (srcOf l).psn.any id)) h dp.1
  let w := if dp.2.own && atOnce s h dp.1 true then (vecOwn s uid cells r, []) else vecFar s dp.2.own dp.2.cache uid cells r
  if there then w.1
  else modSlot w.1 h fun x => { x with
    vpend := x.vpend ++ [⟨uid, i, x.hsw, q.1, w.2⟩]
    outs := if cells.isEmpty then x.outs ++ [{ dest := [], val := none, psn := false, src := none, vec := some uid }]
      else x.outs }

/-- The bytes of the sources of an execution, placed. -/
def placedPas (srcs : List (VOp × Nat × List Nat × Xl)) : List Nat := srcs.flatMap fun x => x.2.2.1

/-- The 64-byte chunks of the bytes of a destination that no stepped pointer takes (R289). -/
def destChunks (dp : List Nat × Xl) (steps : List Nat) : Nat := ((dp.1.filter fun p => !steps.contains p).map (· / 64)).eraseDups.length

/-- The words of the sources, read or sent for by an execution with the next number. -/
def readAll (u : State) (srcs : List (VOp × Nat × List Nat × Xl)) : VReads × State := vecReads u.uid srcs { u with uid := u.uid + 1 }

/-- Nothing holds up or refuses an execution whose operands have their places (R94, R175, R262, R287, R291). -/
structure VecFree (u : State) (ops : List VOp) (dp : List Nat × Xl) (srcs : List (VOp × Nat × List Nat × Xl)) : Prop where
  waits : repWaits u (placedPas srcs) = false
  bank : pendBank u (placedPas srcs ++ dp.1) = none
  answer : ∀ x ∈ srcs, noAnswer u x.2.1 x.2.2.1 = none
  ptrs : ∀ o ∈ ops, regPsn u u.cur (sWord o.ref.ptr) = false
  room : dp.2.own = true ∨ journalRooms u u.cur (destChunks dp (stepBytes u ops)) = true
  clean : ∀ x ∈ srcs, firstMark x.2.1 (vecMarks u x.2.1 x.2.2.1 x.2.2.2) = none
  cur : (readAll u srcs).2.cur = u.cur

/-- Such an execution reads, leaves its result outstanding, steps its pointers and ends. -/
theorem vecGo_free {i : Instr} {s : State} {sw : Bool} {d : VOp} {dva : Nat} {dp : List Nat × Xl}
    {srcs : List (VOp × Nat × List Nat × Xl)} {f : VFun} {u : State} (hu : u = repFlush s (placedPas srcs)) (hcur : u.cur = s.cur)
    (h : VecFree u (d :: srcs.map (·.1)) dp srcs) :
    vecGo i s sw d dva dp srcs f =
      vecRetire (vecStep (vecPut i u.uid dp (vecCells dva dp (stepBytes u (d :: srcs.map (·.1)))) (readAll u srcs) f)
        (d :: srcs.map (·.1))) sw := by
  obtain ⟨h1, h2, h3, h4, h5, h6, h7⟩ := h
  have h3' : (srcs.findSome? fun x => noAnswer u x.2.1 x.2.2.1) = none := List.findSome?_eq_none_iff.mpr h3
  have h4' : ((d :: srcs.map (·.1)).any fun o => regPsn u u.cur (sWord o.ref.ptr)) = false := by
    rw [List.any_eq_false]; exact fun o ho => by simp [h4 o ho]
  have h5' : (!dp.2.own && !journalRooms u u.cur (destChunks dp (stepBytes u (d :: srcs.map (·.1))))) = false := by
    rcases h5 with h | h <;> simp [h]
  have h6' : (srcs.findSome? fun x => firstMark x.2.1 (vecMarks u x.2.1 x.2.2.1 x.2.2.2)) = none := List.findSome?_eq_none_iff.mpr h6
  unfold placedPas at h1 h2 hu
  unfold destChunks stepBytes at h5'
  rw [vecGo]
  simp only [← hcur, ← hu, h1, h2, h3', h4', h5', h6', ite_self, Bool.false_eq_true, if_false]
  unfold vecPut
  rw [h7]
  rfl

end Sys2Proof.Machine
end

section
namespace Sys2Proof.Machine

/-! What an execution leaves once its result is outstanding: its pointers stepped, and the hart gone on (R114, R222, R285). -/

/-- Of the machine only what is on its way has changed, and in the executing hart's slot only what is outstanding. -/
structure OnlyOutstanding (u t : State) : Prop where
  mem : t.mem = u.mem
  cur : t.cur = u.cur
  module : t.module = u.module
  tr : t.tr = u.tr
  cycle : t.cycle = u.cycle
  slot : ∃ l v, getSlot t u.cur = { getSlot u u.cur with outs := l, vpend := v }
  harts : ∀ k, k ≠ u.cur → getSlot t k = getSlot u k

section
variable {u t : State} (h : OnlyOutstanding u t)
include h

theorem OnlyOutstanding.placed (p : Placed u u.cur) : Placed t t.cur := by
  obtain ⟨l, v, e⟩ := h.slot
  rw [h.cur, Placed, e]; exact p

theorem OnlyOutstanding.regPa_eq (n : Nat) : regPa t u.cur n = regPa u u.cur n := by
  obtain ⟨l, v, e⟩ := h.slot
  rw [regPa, regPa, scratchPa, scratchPa, h.module, e]

theorem OnlyOutstanding.stepsAt_iff (rs : List SRef) (a : Nat) : StepsAt t rs a ↔ StepsAt u rs a := by
  simp only [StepsAt, h.cur, h.regPa_eq]

theorem OnlyOutstanding.readReg_eq (p : Placed u u.cur) {n : Nat} (hn : n < 64) : readReg t u.cur n = readReg u u.cur n := by
  have pt := h.placed p
  rw [h.cur] at pt
  rw [readReg, readReg, rd64_plain (reg_plain pt hn), rd64_plain (reg_plain p hn), h.mem, h.regPa_eq]

end

/-- The outstanding results, the waiting executions, the accesses on their way and the journals of a machine in which an
execution ends. -/
structure StillOutstanding (t v : State) (rs : List SRef) : Prop where
  flight : v.flight = t.flight
  vpend : (getSlot v t.cur).vpend = (getSlot t t.cur).vpend
  outs : ∃ ps, (∀ a, a ∈ ps ↔ StepsAt t rs a) ∧ (getSlot v t.cur).outs = cutOuts ps (getSlot t t.cur).outs
  journal : ∀ c, (getCore v c).journal = (getCore t c).journal

/-- A result that is outstanding before the pointers are stepped still writes every byte that none of them takes. -/
theorem StillOutstanding.dest {t v : State} {rs : List SRef} (h : StillOutstanding t v rs) {e : Outst} (he : e ∈ (getSlot t t.cur).outs) :
    ∃ e' ∈ (getSlot v t.cur).outs, (e'.val = e.val ∧ e'.psn = e.psn ∧ e'.vec = e.vec) ∧ ∀ d ∈ e.dest, ¬ StepsAt t rs d.1 → d ∈ e'.dest := by
  obtain ⟨ps, hps, ho⟩ := h.outs
  have hm := mem_cutOuts (pas := ps) he
  rw [← ho] at hm
  refine ⟨_, hm, ⟨rfl, rfl, rfl⟩, fun d hd hn => ?_⟩
  rw [List.mem_filter]
  exact ⟨hd, by simpa [hps] using hn⟩

theorem stillOutstanding_end {t : State} (o : Ordinary t) (ops : List VOp) (sw : Bool) :
    StillOutstanding t (vecRetire (vecStep t ops) sw) (ops.map (·.ref)) := by
  have hs := ptrsStepped_vecStep o ops
  have he := vecEnded_vecRetire (vecStep t ops) sw
  have hc := hs.cur_eq
  have hrest := he.rest
  refine ⟨?_, ?_, ⟨ptrPas t (steppedPtrs ops), fun a => mem_stepPas, ?_⟩, fun c => ?_⟩
  · obtain ⟨-, -, -, -, -, -, -, e, -⟩ := hs.rest
    exact (congrArg State.flight hrest).trans e
  · rw [← hc, he.vpend, hc, hs.slot]
  · rw [← hc, he.outs, hc, hs.slot]
  · rw [← hs.journal c]
    exact (congrArg (fun x => (getCore x c).journal) hrest :)

theorem vecLeft_end {u t : State} (o : Ordinary u) (h : OnlyOutstanding u t) (ops : List VOp) (sw : Bool) :
    VecLeft u (vecRetire (vecStep t ops) sw) (ops.map (·.ref)) := by
  have ot : Ordinary t := ⟨h.placed o.1, h.mem ▸ o.2⟩
  have hs := ptrsStepped_vecStep ot ops
  have he := vecEnded_vecRetire (vecStep t ops) sw
  have hc : (vecStep t ops).cur = u.cur := hs.cur_eq.trans h.cur
  have hrest := he.rest
  obtain ⟨-, -, hcy, -, -, -, -, -, -, -, htr, -, -, hk⟩ := hs.rest
  have hslot : ∃ l v, getSlot (vecStep t ops) u.cur = { getSlot u u.cur with outs := l, vpend := v } := by
    obtain ⟨l, v, e⟩ := h.slot
    have := hs.slot
    rw [h.cur, e] at this
    exact ⟨_, _, this⟩
  obtain ⟨l, v, hslot⟩ := hslot
  have hmem : (vecRetire (vecStep t ops) sw).mem = (vecStep t ops).mem := (congrArg State.mem hrest :)
  have hpl : Placed (vecStep t ops) (vecStep t ops).cur := (hs.ordinary ot).1
  refine ⟨fun r hr hi => ?_, fun a ha => ?_, ?_, ?_, ?_, ?_, fun k hne => ?_⟩
  · have hp : r.ptr.val ∈ steppedPtrs ops := mem_steppedPtrs.mpr ⟨r, hr, hi, rfl⟩
    have h64 : 32 + r.ptr.val < 64 := by omega
    have hreg : regPa (vecRetire (vecStep t ops) sw) u.cur (32 + r.ptr.val) = regPa (vecStep t ops) u.cur (32 + r.ptr.val) := by
      have hw := he.regs.1
      rw [hc] at hw
      have hm : (vecRetire (vecStep t ops) sw).module = (vecStep t ops).module := (congrArg State.module hrest :)
      rw [regPa, regPa, scratchPa, scratchPa, hw, hm]
    have hrd : readReg (vecRetire (vecStep t ops) sw) u.cur (32 + r.ptr.val) = readReg (vecStep t ops) u.cur (32 + r.ptr.val) := by
      have hpl' := hc ▸ hpl
      rw [readReg, readReg, hreg, rd64_plain (reg_plain hpl' h64), rd64_plain (reg_plain hpl' h64), hmem]
    have := hs.regs _ hp
    rw [h.cur] at this
    rw [hrd, ← h.readReg_eq o.1 h64]
    exact this
  · rw [hmem, hs.mem a (fun hm => ha ((h.stepsAt_iff _ _).mp (mem_stepPas.mp hm))), h.mem]
  · exact (congrArg State.tr hrest).trans (htr.trans h.tr)
  · exact (congrArg State.cycle hrest).trans (hcy.trans h.cycle)
  · have := he.went
    simp only [VecWentOn, repOn, repcnt, mres, pfxOf, hc, hslot] at this ⊢
    exact this
  · have := he.regs
    rw [hc, hslot] at this
    exact this
  · rw [he.harts k (hc ▸ hne), hk k (h.cur ▸ hne), h.harts k hne]

end Sys2Proof.Machine
end

section
namespace Sys2Proof.Machine

/-! The result of an execution, outstanding in the own storage (R17, R289). -/

theorem onlyOutstanding_refl (s : State) : OnlyOutstanding s s := ⟨rfl, rfl, rfl, rfl, rfl, ⟨_, _, rfl⟩, fun _ _ => rfl⟩

theorem OnlyOutstanding.trans {s t u : State} (h : OnlyOutstanding s t) (k : OnlyOutstanding t u) : OnlyOutstanding s u := by
  obtain ⟨l, v, e⟩ := h.slot
  obtain ⟨l', v', e'⟩ := k.slot
  refine ⟨k.mem.trans h.mem, k.cur.trans h.cur, k.module.trans h.module, k.tr.trans h.tr, k.cycle.trans h.cycle, ⟨l', v', ?_⟩,
    fun j hj => (k.harts j (h.cur ▸ hj)).trans (h.harts j hj)⟩
  rw [h.cur] at e'
  rw [e', e]

theorem onlyOutstanding_modSlot {s : State} {f : Slot → Slot}
    (hf : ∃ l v, f (getSlot s s.cur) = { getSlot s s.cur with outs := l, vpend := v }) : OnlyOutstanding s (modSlot s s.cur f) := by
  obtain ⟨l, v, e⟩ := hf
  exact ⟨rfl, rfl, rfl, rfl, rfl, ⟨l, v, by rw [getSlot_modSlot_self, e]⟩, fun _ hk => getSlot_modSlot_ne _ _ hk⟩

theorem onlyOutstanding_dropOuts (s : State) (pas : List Nat) : OnlyOutstanding s (dropOuts s s.cur pas) := by
  unfold dropOuts
  split
  · exact onlyOutstanding_refl s
  · exact onlyOutstanding_modSlot ⟨_, _, rfl⟩

theorem onlyOutstanding_noteWrite (s : State) (h : Nat) (pas : List Nat) : OnlyOutstanding s (noteWrite s h pas) := by
  obtain ⟨k, e⟩ := noteWrite_eq s h pas
  rw [e]
  exact ⟨rfl, rfl, rfl, rfl, rfl, ⟨_, _, rfl⟩, fun _ _ => rfl⟩

theorem noteWrite_rest (s : State) (h : Nat) (pas : List Nat) :
    (noteWrite s h pas).flight = s.flight ∧ (noteWrite s h pas).cores = s.cores ∧ (noteWrite s h pas).slots = s.slots := by
  obtain ⟨k, e⟩ := noteWrite_eq s h pas
  rw [e]
  exact ⟨rfl, rfl, rfl⟩

/-- Whether an access may be performed at once does not depend on what Keystone has noted. -/
theorem atOnce_noteWrite (s : State) (h g : Nat) (ps pas : List Nat) (w : Bool) :
    atOnce (noteWrite s h ps) g pas w = atOnce s g pas w := by
  obtain ⟨k, e⟩ := noteWrite_eq s h ps
  rw [e]; rfl

/-- The outstanding result for the bytes of one word of a destination (R289). -/
def ownOut (s : State) (uid : Nat) (r : VRes) (g : List VCell) : Outst :=
  { dest := g.map fun c => (c.pa, c.i), val := r.map (·.1), psn := resPsn r (g.map (·.i)), src := none
    rep := repOn s s.cur, mem := some uid, seq := uid, vec := if r.isSome then none else some uid }

theorem vecOwn_eq (s : State) (uid : Nat) (cells : List VCell) (r : VRes) : vecOwn s uid cells r =
    modSlot (dropOuts s s.cur (cells.map (·.pa))) s.cur fun x => { x with outs := x.outs ++ (cellGroups 8 cells).map (ownOut s uid r) } := rfl

theorem onlyOutstanding_vecOwn (s : State) (uid : Nat) (cells : List VCell) (r : VRes) : OnlyOutstanding s (vecOwn s uid cells r) := by
  have hd := onlyOutstanding_dropOuts s (cells.map (·.pa))
  refine hd.trans ?_
  rw [vecOwn_eq]
  conv_rhs => arg 2; rw [← hd.cur]
  exact onlyOutstanding_modSlot ⟨_, _, rfl⟩

theorem vecOwn_outs (s : State) (uid : Nat) (cells : List VCell) (r : VRes) : (getSlot (vecOwn s uid cells r) s.cur).outs =
    cutOuts (cells.map (·.pa)) (getSlot s s.cur).outs ++ (cellGroups 8 cells).map (ownOut s uid r) := by
  rw [vecOwn_eq, getSlot_modSlot_self, outs_dropOuts]

theorem vecOwn_flight (s : State) (uid : Nat) (cells : List VCell) (r : VRes) : (vecOwn s uid cells r).flight = s.flight := by
  have : setting (vecOwn s uid cells r) = setting s := by rw [vecOwn_eq, setting_modSlot, setting_dropOuts]
  exact (congrArg State.flight this :)

/-- Each cell of a destination is in the group of its unit. -/
theorem mem_cellGroups {z : Nat} {cells : List VCell} {c : VCell} (h : c ∈ cells) :
    ∃ g ∈ cellGroups z cells, c ∈ g :=
  ⟨_, List.mem_map.mpr ⟨c.pa / z, by simpa [List.mem_eraseDups] using ⟨c, h, rfl⟩, rfl⟩, by simpa using h⟩

/-- Each byte of a destination that no stepped pointer takes is a cell of the result. -/
theorem mem_vecCells {va i pa : Nat} {d : List Nat × Xl} {steps : List Nat} (h : d.1[i]? = some pa) (hs : pa ∉ steps) :
    ⟨i, pa, va + i, d.2.keyOf i⟩ ∈ vecCells va d steps := by
  refine List.mem_filterMap.mpr ⟨(pa, i), ?_, by simp [hs]⟩
  have hi : i < d.1.length := (List.getElem?_eq_some_iff.mp h).1
  refine List.mem_iff_getElem?.mpr ⟨i, ?_⟩
  rw [List.getElem?_zip_eq_some]
  exact ⟨h, by rw [getElem?_span hi, Nat.zero_add]⟩

/-- Every byte of a destination that no stepped pointer takes has its outstanding result. -/
theorem vecOwn_cell {s : State} {uid : Nat} {va i pa : Nat} {d : List Nat × Xl} {steps : List Nat} (r : VRes) (h : d.1[i]? = some pa)
    (hs : pa ∉ steps) : ∃ e ∈ (getSlot (vecOwn s uid (vecCells va d steps) r) s.cur).outs, (pa, i) ∈ e.dest ∧
      e.val = r.map (·.1) ∧ (∃ is, e.psn = resPsn r is) ∧ e.vec = if r.isSome then none else some uid := by
  obtain ⟨g, hg, hc⟩ := mem_cellGroups (z := 8) (mem_vecCells (va := va) h hs)
  refine ⟨ownOut s uid r g, ?_, List.mem_map.mpr ⟨_, hc, rfl⟩, rfl, ⟨_, rfl⟩, rfl⟩
  rw [vecOwn_outs]
  exact List.mem_append_right _ (List.mem_map_of_mem hg)

/-- A result without poison leaves none. -/
theorem resPsn_clean {bs : List Byte} {ps : List Bool} (h : ∀ p ∈ ps, p = false) (is : List Nat) : resPsn (some (bs, ps)) is = false := by
  simp only [resPsn, Option.any_some, List.any_eq_false]
  intro i _
  rw [List.getD_eq_getElem?_getD]
  cases e : ps[i]? with
  | none => simp
  | some p => simp [h p (List.mem_of_getElem? e)]

end Sys2Proof.Machine
end

section
namespace Sys2Proof.Machine

/-! A vector instruction whose operands lie in the own scratchpad (R255, R284 to R291, R295). -/

/-- COUNT, places and write check passed: the execution goes on (R288). -/
theorem vecExec_go {i : Instr} {s : State} {sw : Bool} {d : VOp} {srcs : List VOp} {f : VFun} {dp : List Nat × Xl}
    {l : List (VOp × Nat × List Nat × Xl)} {s1 : State} (hs : s1 = repFlush s (ptrBytes s ((d :: srcs).map (·.ref))))
    (hc : s1.cur = s.cur)
    (hw : repWaits s1 (ptrBytes s ((d :: srcs).map (·.ref))) = false)
    (hn : ∀ o ∈ d :: srcs, fld (readReg s1 s1.cur (sWord o.ref.ptr)) 63 58 ≠ 0)
    (hd : vecPlace s1 (sAddr (readReg s1 s1.cur (sWord d.ref.ptr))) d.n .write = .ok dp)
    (hk : wrCheck s1 s1.cur (sAddr (readReg s1 s1.cur (sWord d.ref.ptr))) dp.2 dp.1 = none) (hl : vecSrcs s1 srcs = .ok l) :
    vecExec i s sw d srcs f = vecGo i s1 sw d (sAddr (readReg s1 s1.cur (sWord d.ref.ptr))) dp l f := by
  have hp : ((d :: srcs).flatMap fun o => span (regPa s s.cur (sWord o.ref.ptr)) 8) = ptrBytes s ((d :: srcs).map (·.ref)) := by
    rw [ptrBytes, List.flatMap_map]; rfl
  have hf : ((d :: srcs).find? fun o => fld (readReg s1 s1.cur (sWord o.ref.ptr)) 63 58 = 0) = none :=
    List.find?_eq_none.mpr fun o ho => by simpa using hn o ho
  rw [hc] at hf hd hk
  simp only [vecExec, hp, ← hs, hw, hf, hd, hk, hl, hc, Bool.false_eq_true, if_false]

/-- The operand of a source field. -/
def srcOp (x : SRef × Nat × Nat) : VOp := ⟨x.1, x.2.2⟩

/-- Sources in the own scratchpad have their places there. -/
theorem vecSrcs_home {s : State} (hc : s.cur < 8192) {srcs : List (SRef × Nat × Nat)}
    (h : ∀ x ∈ srcs, sAddr (readReg s s.cur (sWord x.1.ptr)) = window0 + x.2.1 ∧ x.2.1 + x.2.2 ≤ 0x30000 ∧ 0 < x.2.2) :
    vecSrcs s (srcs.map srcOp) = .ok (srcs.map (ownSrc s)) := by
  induction srcs with
  | nil => rfl
  | cons x xs ih =>
    obtain ⟨ha, hn, h0⟩ := h x List.mem_cons_self
    have hx : sAddr (readReg s s.cur (sWord (srcOp x).ref.ptr)) = window0 + x.2.1 := ha
    rw [List.map_cons, vecSrcs, hx]
    simp only [show vecPlace s (window0 + x.2.1) (srcOp x).n .read = _ from vecPlace_own hc hn h0 .read,
      ih fun y hy => h y (List.mem_cons_of_mem _ hy), List.map_cons]
    rfl

theorem noAnswer_home {s : State} (hc : s.cur < 8192) {o n : Nat} (hn : o + n ≤ 0x30000) (ha : answers s s.module = true) (va : Nat) :
    noAnswer s va (homePas s o n) = none := by
  rw [noAnswer, Option.map_eq_none_iff, List.findIdx?_eq_none_iff]
  intro a h
  simp [moduleOf_home hc hn h, targetOf_home hc hn h, ha]

/-- No mark stands on the words of a clean source. -/
theorem firstMark_clean {ps : List Bool} (h : ∀ p ∈ ps, p = false) (va : Nat) : firstMark va ps = none := by
  rw [firstMark, Option.map_eq_none_iff, List.findIdx?_eq_none_iff]
  exact h

theorem isPsn_clean {s : State} {pas : List Nat} (h : CleanAt s pas) {a : Nat} (ha : a ∈ pas) : isPsn s a = false :=
  (Bool.not_eq_true _).mp (List.any_eq_false.mp (show pas.any (isPsn s) = false from h) a ha)

/-- What the words of a source in the own scratchpad show is the poison of its bytes. -/
theorem vecMarks_home {s : State} (hc : s.cur < 8192) {x : SRef × Nat × Nat} (hx : SrcHome s x) :
    vecMarks s (window0 + x.2.1) (homePas s x.2.1 x.2.2) (ownXl s x.2.1 x.2.2) = (homePas s x.2.1 x.2.2).map (isPsn s) := by
  have hm : ∀ w ∈ ownWords s x, wordMarks s (ownXl s x.2.1 x.2.2) w = w.pas.map (isPsn s) := fun w hw => by
    rw [wordMarks, wordNow_home hc hx hw]; rfl
  conv_rhs => rw [← vecWords_flat (homePas_sorted s x.2.1 x.2.2) (window0 + x.2.1) (ownXl s x.2.1 x.2.2), List.map_flatMap]
  exact List.flatMap_congr hm

/-- A clean source in the own scratchpad as read. -/
def cleanSrc (s : State) (x : SRef × Nat × Nat) : VSrc := ⟨homeBytes s x.2.1 x.2.2, List.replicate x.2.2 false⟩

theorem srcOf_clean {s : State} {x : SRef × Nat × Nat} (h : CleanAt s (homePas s x.2.1 x.2.2)) :
    srcOf ((ownWords s x).map (plainWord s)) = cleanSrc s x := by
  rw [srcOf_home, cleanSrc, List.map_congr_left (g := fun _ => false) fun a ha => isPsn_clean h ha, List.map_const', homePas, span_length]

/-- Operands in the own scratchpad with nothing unfinished on them. -/
structure AtHome (u : State) (d : SRef) (od nd : Nat) (srcs : List (SRef × Nat × Nat)) : Prop where
  cur : u.cur < 8192
  waits : repWaits u (srcPas u srcs) = false
  dest : Home u od nd true
  destPtr : PtrClean u d
  src : ∀ x ∈ srcs, Home u x.2.1 x.2.2 false ∧ PtrClean u x.1 ∧ CleanAt u (homePas u x.2.1 x.2.2)

section
variable {u : State} {d : SRef} {od nd : Nat} {srcs : List (SRef × Nat × Nat)} (h : AtHome u d od nd srcs)
include h

theorem AtHome.srcHome : ∀ x ∈ srcs, SrcHome u x := fun x hx =>
  have ⟨⟨hn, _, ha⟩, _⟩ := h.src x hx
  ⟨hn, ha⟩

theorem AtHome.readAll_eq : readAll u (srcs.map (ownSrc u)) =
    (srcs.map fun x => (ownWords u x).map (plainWord u), { u with uid := u.uid + 1 }) :=
  vecReads_home (s := { u with uid := u.uid + 1 }) h.cur h.srcHome

theorem AtHome.free : VecFree u (⟨d, nd⟩ :: srcs.map srcOp) (homePas u od nd, ownXl u od nd) (srcs.map (ownSrc u)) := by
  have hp : placedPas (srcs.map (ownSrc u)) = srcPas u srcs := by rw [placedPas, List.flatMap_map]; rfl
  obtain ⟨hdn, -, -⟩ := h.dest
  refine ⟨hp ▸ h.waits, ?_, ?_, ?_, .inl rfl, ?_, by rw [h.readAll_eq]⟩
  · refine List.findSome?_eq_none_iff.mpr fun a ha => ?_
    rcases List.mem_append.mp ha with ha | ha
    · obtain ⟨x, hx, ha⟩ := List.mem_flatMap.mp (hp ▸ ha)
      rw [bankOf_home h.cur (h.srcHome x hx).1 ha]; rfl
    · rw [bankOf_home h.cur hdn ha]; rfl
  · intro y hy
    obtain ⟨x, hx, rfl⟩ := List.mem_map.mp hy
    obtain ⟨⟨hn, ha, -⟩, -⟩ := h.src x hx
    exact noAnswer_home h.cur hn ha _
  · intro o ho
    rcases List.mem_cons.mp ho with rfl | ho
    · exact h.destPtr
    · obtain ⟨x, hx, rfl⟩ := List.mem_map.mp ho
      exact (h.src x hx).2.1
  · intro y hy
    obtain ⟨x, hx, rfl⟩ := List.mem_map.mp hy
    refine firstMark_clean (fun p hp => ?_) _
    rw [show vecMarks u (ownSrc u x).2.1 (ownSrc u x).2.2.1 (ownSrc u x).2.2.2 = _ from vecMarks_home h.cur (h.srcHome x hx)] at hp
    obtain ⟨a, ha, rfl⟩ := List.mem_map.mp hp
    exact isPsn_clean (h.src x hx).2.2 ha

/-- The result is outstanding at once. -/
theorem AtHome.vecPut_eq {i : Instr} {cells : List VCell} {f : VFun} (hat : atOnce u u.cur (homePas u od nd) true = true) :
    vecPut i u.uid (homePas u od nd, ownXl u od nd) cells (readAll u (srcs.map (ownSrc u))) f =
      vecOwn (noteWrite { u with uid := u.uid + 1 } u.cur (homePas u od nd)) u.uid cells (some (f (srcs.map (cleanSrc u)))) := by
  have hsrc : (srcs.map fun x => (ownWords u x).map (plainWord u)).map srcOf = srcs.map (cleanSrc u) := by
    rw [List.map_map]
    exact List.map_congr_left fun x hx => srcOf_clean (h.src x hx).2.2
  have hthere : allThere (srcs.map fun x => (ownWords u x).map (plainWord u)) = true := by
    simp [allThere, List.all_eq_true, plainWord]
  have hpsn : ((srcs.map fun x => (ownWords u x).map (plainWord u)).any fun l => (srcOf l).psn.any id) = false := by
    have := congrArg (fun l => l.any fun y : VSrc => y.psn.any id) hsrc
    simp only [List.any_map] at this ⊢
    refine this.trans ?_
    simp [cleanSrc]
  have hat' : atOnce (noteWrite { u with uid := u.uid + 1 } u.cur (homePas u od nd)) u.cur (homePas u od nd) true = true := by
    rw [atOnce_noteWrite]; exact hat
  rw [h.readAll_eq, vecPut]
  simp only [hthere, hsrc, hpsn, Bool.and_false, notePsn, Bool.false_eq_true, if_false, if_true, ownXl_own, Bool.true_and, hat']

/-- The execution: the result bytes outstanding, and the rest of the machine but the pointers as it was. -/
theorem AtHome.vecDone {i : Instr} {sw : Bool} {s : State} {f : VFun} {bs : List Byte} (o : Ordinary u)
    (hu : u = repFlush s (srcPas u srcs)) (hcs : u.cur = s.cur) (hbs : (f (srcs.map (cleanSrc u))).1 = bs)
    (hcl : ∀ p ∈ (f (srcs.map (cleanSrc u))).2, p = false) (hlen : bs.length ≤ nd) :
    VecDone u (vecGo i s sw ⟨d, nd⟩ (window0 + od) (homePas u od nd, ownXl u od nd) (srcs.map (ownSrc u)) f)
      (d :: srcs.map (·.1)) od bs := by
  have hp : placedPas (srcs.map (ownSrc u)) = srcPas u srcs := by rw [placedPas, List.flatMap_map]; rfl
  have hops : (srcs.map (ownSrc u)).map (·.1) = srcs.map srcOp := by rw [List.map_map]; rfl
  have hrefs : ((⟨d, nd⟩ : VOp) :: srcs.map srcOp).map (·.ref) = d :: srcs.map (·.1) := by
    rw [List.map_cons, List.map_map]; rfl
  have hfree := h.free
  rw [← hops] at hfree
  rw [vecGo_free (by rw [hp]; exact hu) hcs hfree, h.vecPut_eq h.dest.2.2, hops]
  set n := noteWrite { u with uid := u.uid + 1 } u.cur (homePas u od nd) with hn
  have hnote := onlyOutstanding_noteWrite { u with uid := u.uid + 1 } u.cur (homePas u od nd)
  have hn0 : OnlyOutstanding u n := ⟨hnote.mem, hnote.cur, hnote.module, hnote.tr, hnote.cycle, hnote.slot, hnote.harts⟩
  set cells := vecCells (window0 + od) (homePas u od nd, ownXl u od nd) (stepBytes u (⟨d, nd⟩ :: srcs.map srcOp))
  set r : VRes := some (f (srcs.map (cleanSrc u))) with hr
  have hput : OnlyOutstanding u (vecOwn n u.uid cells r) := hn0.trans (onlyOutstanding_vecOwn ..)
  have oput : Ordinary (vecOwn n u.uid cells r) := ⟨hput.placed o.1, hput.mem ▸ o.2⟩
  have hend := stillOutstanding_end oput (⟨d, nd⟩ :: srcs.map srcOp) sw
  have hleft := vecLeft_end o hput (⟨d, nd⟩ :: srcs.map srcOp) sw
  rw [hrefs] at hend hleft
  refine ⟨fun k hk hns => ?_, ?_, hleft⟩
  · have hget : (homePas u od nd)[k]? = some (scratchPa u (coreOf u.cur) (od + k)) := by
      rw [homePas, getElem?_span (by omega), scratchPa_add]
    have hs : scratchPa u (coreOf u.cur) (od + k) ∉ stepBytes u (⟨d, nd⟩ :: srcs.map srcOp) := by
      rw [mem_stepBytes, hrefs]; exact hns
    obtain ⟨e, he, hd, hv, ⟨is, hps⟩, -⟩ := vecOwn_cell (s := n) (uid := u.uid) (va := window0 + od) r
      (d := (homePas u od nd, ownXl u od nd)) hget hs
    rw [hn0.cur, ← hput.cur] at he
    obtain ⟨e', he', ⟨hv', hp', -⟩, hd'⟩ := hend.dest he
    rw [hput.cur] at he'
    refine ⟨e', he', k, bs, hd' _ hd fun hm => hns ((hput.stepsAt_iff _ _).mp hm), ?_, rfl, ?_⟩
    · rw [hv', hv, hr, Option.map_some, hbs]
    · rw [hp', hps, hr]; exact resPsn_clean hcl is
  · rw [hend.flight, vecOwn_flight, hn, (noteWrite_rest ..).1]

end

end Sys2Proof.Machine
end

section
namespace Sys2Proof.Machine

/-! Pointers read before and after earlier results of a REP sequence are performed, and the whole instruction (R293, R295). -/

/-- A pointer reads the same once the results that the sources wait for have been performed too (R295). -/
theorem readReg_afterRep {s : State} {rs : List SRef} {ps : List Nat} (p : Placed s s.cur) {r : SRef} (hr : r ∈ rs) :
    readReg (afterRep s rs ps) s.cur (32 + r.ptr.val) = readReg (repFlush s (ptrBytes s rs)) s.cur (32 + r.ptr.val) := by
  have k1 := repKept_repFlush s (ptrBytes s rs)
  have k2 := repKept_repFlush (repFlush s (ptrBytes s rs)) ps
  have h64 : 32 + r.ptr.val < 64 := by omega
  have e1 := k1.regPa_eq (32 + r.ptr.val)
  have e2 := k2.regPa_eq (32 + r.ptr.val)
  rw [k1.cur_eq, e1] at e2
  have hp := reg_plain p h64
  rw [afterRep, readReg, readReg, e1, e2, rd64_plain hp, rd64_plain hp]
  congr 2
  refine List.map_congr_left fun a ha => memGet_repFlush_twice ?_ (hp a ha)
  exact List.mem_flatMap.mpr ⟨r, hr, ha⟩

theorem RepKept.trans {s t u : State} (h : RepKept s t) (k : RepKept t u) : RepKept s u := by
  obtain ⟨w, l, hw, e⟩ := h.slot
  obtain ⟨w', l', hw', e'⟩ := k.slot
  refine ⟨k.setting.trans h.setting, w', l', fun i hi => ?_, ?_⟩
  · rw [hw' i hi, h.cur_eq, e]; exact hw i hi
  · rw [h.cur_eq] at e'
    rw [e', e]

section
variable {s t : State} (h : RepKept s t)
include h

theorem RepKept.ptrBytes_eq (rs : List SRef) : ptrBytes t rs = ptrBytes s rs := by simp only [ptrBytes, h.cur_eq, h.regPa_eq]

theorem RepKept.srcPas_eq (srcs : List (SRef × Nat × Nat)) : srcPas t srcs = srcPas s srcs := by simp only [srcPas, h.homePas_eq]

end

/-- A vector instruction executes as its shape says. -/
theorem exec_of_vecShape {i : Instr} {v : VShape} (h : vecShape i = some v) (s : State) : ∃ sw, exec i s = .next (vec i sw v s) := by
  unfold vecShape at h
  split at h <;> cases h <;> exact ⟨_, rfl⟩

/-- What an instruction in vector form does, its operands at home: the bytes that its function gives of clean sources. -/
theorem vec_does {i : Instr} {s : State} {v : VShape} {t : ElemType} {d : SRef} {od nd : Nat}
    {srcs : List (SRef × Nat × Nat)} {f : VFun} {bs : State → List Byte} (hv : vecShape i = some v)
    (hty : v.ty (fmtOf s) = some t) (hgo : v.go t (fmtOf s) = (⟨d, nd⟩, srcs.map srcOp, f)) (hnd : 0 < nd)
    (h0 : ∀ x ∈ srcs, 0 < x.2.2) (hbs : ∀ u, (f (srcs.map (cleanSrc u))).1 = bs u)
    (hcl : ∀ u, ∀ p ∈ (f (srcs.map (cleanSrc u))).2, p = false) (hlen : ∀ u, (bs u).length ≤ nd) : VecDoes s i d od nd srcs bs := by
  unfold VecDoes
  intro rs u ⟨⟨o, hbusy, hpfx, hwaits, hdp, hdh, hsrc⟩, hdc, hsc⟩
  have hrefs : ((⟨d, nd⟩ : VOp) :: srcs.map srcOp).map (·.ref) = rs := by rw [List.map_cons, List.map_map]; rfl
  set s1 := repFlush s (ptrBytes s rs)
  have k1 : RepKept s s1 := repKept_repFlush ..
  have k2 : RepKept s1 u := repKept_repFlush ..
  have k : RepKept s u := k1.trans k2
  have hcu : u.cur = s.cur := k.cur_eq
  have pu : Placed u s.cur := hcu ▸ o.1
  have ps : Placed s s.cur := k.placed pu
  have hc : s1.cur < 8192 := by rw [k1.cur_eq]; exact ps.1
  have hu : u = repFlush s1 (srcPas u srcs) := by rw [k.srcPas_eq]; rfl
  have hreg : ∀ r ∈ rs, readReg s1 s1.cur (sWord r.ptr) = readReg u u.cur (32 + r.ptr.val) := fun r hr => by
    rw [hcu, k1.cur_eq]; exact (readReg_afterRep ps hr).symm
  have hat : AtHome u d od nd srcs := by
    refine ⟨hcu ▸ ps.1, repWaits_mono (fun a ha => List.mem_append_right _ ha) hwaits, hdh, hdc, fun x hx => ?_⟩
    exact ⟨(hsrc x hx).2, hsc x hx⟩
  have hw1 : repWaits s1 (ptrBytes s rs) = false := by
    rw [← repWaits_repFlush s1 (srcPas s srcs)]
    refine repWaits_mono (fun a ha => ?_) hwaits
    rw [k.ptrBytes_eq]
    exact List.mem_append_left _ ha
  have hmay : MayIssue s .vec 0 := by
    refine ⟨Nat.zero_le _, ?_, ?_⟩
    · rw [← k.prefixOk_eq, ← hcu]; exact hpfx
    · rw [← k.frameBusy_eq, ← hcu]; exact hbusy
  have hda : sAddr (readReg s1 s1.cur (sWord d.ptr)) = window0 + od := by
    rw [hreg d List.mem_cons_self]; exact hdp.2
  have hvs : vecSrcs s1 (srcs.map srcOp) = .ok (srcs.map (ownSrc s1)) := by
    refine vecSrcs_home hc fun x hx => ⟨?_, (hsrc x hx).2.1, h0 x hx⟩
    rw [hreg x.1 (List.mem_cons_of_mem _ (List.mem_map_of_mem hx))]
    exact (hsrc x hx).1.2
  have hcount : ∀ y ∈ (⟨d, nd⟩ : VOp) :: srcs.map srcOp, fld (readReg s1 s1.cur (sWord y.ref.ptr)) 63 58 ≠ 0 := by
    intro y hy
    rcases List.mem_cons.mp hy with rfl | hy
    · rw [hreg d List.mem_cons_self]; exact hdp.1
    · obtain ⟨x, hx, rfl⟩ := List.mem_map.mp hy
      rw [show (srcOp x).ref = x.1 from rfl, hreg x.1 (List.mem_cons_of_mem _ (List.mem_map_of_mem hx))]
      exact (hsrc x hx).1.1
  obtain ⟨sw, hi⟩ := exec_of_vecShape hv s
  have hgoes : exec i s = .next (vecGo i s1 sw ⟨d, nd⟩ (window0 + od) (homePas u od nd, ownXl u od nd) (srcs.map (ownSrc u)) f) := by
    rw [hi, vec, issue_of_may hmay, hty, k2.homePas_eq, k2.ownXl_eq, k2.ownSrc_eq]
    simp only [hgo]
    rw [vecExec_go (s1 := s1) (by rw [hrefs]) k1.cur_eq (by rw [hrefs]; exact hw1) hcount
      (dp := (homePas s1 od nd, ownXl s1 od nd)) (by rw [hda]; exact vecPlace_own hc hdh.1 hnd .write)
      (wrCheck_own hdh.1 _) hvs, hda]
  exact ⟨_, hgoes, hat.vecDone o hu (hcu.trans k1.cur_eq.symm) (hbs u) (hcl u) (hlen u)⟩

end Sys2Proof.Machine
end

section
namespace Sys2Proof.Machine

/-! Elements, and the elementwise forms (R113, R293, R295 to R300). -/

theorem eFloat_eq (t : ElemType) : eFloat t = t.isFloat := by cases t <;> rfl

theorem eInt_eq (t : ElemType) : eInt t = t.isInt := by cases t <;> rfl

theorem isFloat_of_isInt {t : ElemType} (h : t.isInt = true) : t.isFloat = false := by revert h; cases t <;> decide

theorem notLg_of_isInt {t : ElemType} (h : t.isInt = true) : notLg t = true := by revert h; cases t <;> decide

theorem notLg_of_isFloat {t : ElemType} (h : t.isFloat = true) : notLg t = true := by revert h; cases t <;> decide

theorem esize_pos (t : ElemType) : 0 < esize t := by cases t <;> decide

theorem esize_dvd (t : ElemType) : esize t ∣ 64 := by cases t <;> decide

/-- An exact integer narrowed is the statement's. -/
theorem eFit_eq (t : ElemType) (sat : Bool) (v : Int) : eFit t sat v = narrow t sat v := rfl

theorem vBytes_length (z : Nat) (vs : List Nat) : (vBytes z vs).length = vs.length * z := by
  simp [vBytes, List.length_flatMap]

theorem vElems_length (z : Nat) (bs : List Byte) : (vElems z bs).length = bs.length / z := by simp [vElems]

theorem homeBytes_length (s : State) (o n : Nat) : (homeBytes s o n).length = n := by simp [homeBytes, homePas]

theorem elemsAt_length (t : ElemType) (u : State) (o n : Nat) : (elemsAt t u o n).length = n / esize t := by
  rw [elemsAt, vElems_length, homeBytes_length]

/-- The element type in force: that of ST where a FMT names one, else the instruction's own (R113, R296). -/
abbrev tyIn (s : State) (ty : ElemType) : ElemType := (fmtOf s).st.getD ty

/-- The type in force where the function takes it and no DT is given (R296). -/
theorem tyOf_some {o : Fmt} {ty : ElemType} {ok : ElemType → Bool} (hdt : o.dt = none) (h : ok (o.st.getD ty) = true) :
    tyOf ty ok o = some (o.st.getD ty) := by
  simp [tyOf, hdt, h]

/-- A DT, or a type that the function does not take (R293, R296). -/
theorem tyOf_none {o : Fmt} {ty : ElemType} {ok : ElemType → Bool} (h : o.dt ≠ none ∨ ok (o.st.getD ty) = false) :
    tyOf ty ok o = none := by
  rcases h with h | h
  · simp [tyOf, h]
  · simp [tyOf, h]

/-- A vector instruction with no type in force is an ILLEGAL_INSTRUCTION. -/
theorem vec_illegal {i : Instr} {s : State} {v : VShape} (hv : vecShape i = some v) (h : MayIssue s .vec 0)
    (hty : v.ty (fmtOf s) = none) : exec i s = .next (raise s (illegal i)) := by
  obtain ⟨sw, hi⟩ := exec_of_vecShape hv s
  rw [hi, vec, issue_of_may h, hty]

/-- A function that poisons all it writes poisons nothing where its sources are clean (R291). -/
theorem vAll_clean (g : List (List Byte) → List Byte) (u : State) (srcs : List (SRef × Nat × Nat)) :
    (vAll g (srcs.map (cleanSrc u))).1 = g (srcs.map fun x => homeBytes u x.2.1 x.2.2) ∧
      ∀ p ∈ (vAll g (srcs.map (cleanSrc u))).2, p = false := by
  have hb : (srcs.map (cleanSrc u)).map (·.bytes) = srcs.map fun x => homeBytes u x.2.1 x.2.2 := by rw [List.map_map]; rfl
  have hp : ((srcs.map (cleanSrc u)).any fun x => x.psn.any id) = false := by simp [cleanSrc]
  refine ⟨by rw [vAll, hb], ?_⟩
  rw [vAll, hp]
  intro p hm
  obtain ⟨-, -, rfl⟩ := List.mem_map.mp hm
  rfl

/-- `vec_does` for a function of the sources' bytes. -/
theorem vec_does_all {i : Instr} {s : State} {v : VShape} {t : ElemType} {d : SRef} {od nd : Nat}
    {srcs : List (SRef × Nat × Nat)} {g : List (List Byte) → List Byte} {bs : State → List Byte}
    (hv : vecShape i = some v) (hty : v.ty (fmtOf s) = some t)
    (hgo : v.go t (fmtOf s) = (⟨d, nd⟩, srcs.map srcOp, vAll g)) (hnd : 0 < nd) (h0 : ∀ x ∈ srcs, 0 < x.2.2)
    (hbs : ∀ u, g (srcs.map fun x => homeBytes u x.2.1 x.2.2) = bs u) (hlen : ∀ u, (bs u).length ≤ nd) : VecDoes s i d od nd srcs bs :=
  vec_does hv hty hgo hnd h0 (fun u => (vAll_clean g u srcs).1.trans (hbs u)) (fun u => (vAll_clean g u srcs).2) hlen

section
variable {s : State} {i : Instr} {d a b c : SRef} {ty : ElemType} {od oa ob oc : Nat} {ok : ElemType → Bool}
  (hdt : (fmtOf s).dt = none) (hok : ok (tyIn s ty) = true)
include hdt hok

theorem shape1_does {f : ElemType → Fmt → Nat → Nat} (hv : vecShape i = some (shape1 d a ty ok f)) :
    VecDoes s i d od 64 [(a, oa, 64)] fun u => vBytes (esize (tyIn s ty))
      ((elemsAt (tyIn s ty) u oa 64).map (f (tyIn s ty) (fmtOf s))) := by
  refine vec_does_all hv (tyOf_some hdt hok) rfl (by decide) (by simp) (fun u => rfl) fun u => ?_
  rw [vBytes_length, List.length_map, elemsAt_length]
  exact Nat.div_mul_le_self ..

theorem shape2_does {f : ElemType → Fmt → Nat → Nat → Nat} (hv : vecShape i = some (shape2 d a b ty ok f)) :
    VecDoes s i d od 64 [(a, oa, 64), (b, ob, 64)] fun u => vBytes (esize (tyIn s ty))
      (((elemsAt (tyIn s ty) u oa 64).zip (elemsAt (tyIn s ty) u ob 64)).map fun p =>
        f (tyIn s ty) (fmtOf s) p.1 p.2) := by
  refine vec_does_all hv (tyOf_some hdt hok) rfl (by decide) (by simp) (fun u => rfl) fun u => ?_
  rw [vBytes_length, List.length_map, List.length_zip, elemsAt_length, elemsAt_length, min_self]
  exact Nat.div_mul_le_self ..

theorem shape3_does {f : ElemType → Fmt → Nat → Nat → Nat → Nat} (hv : vecShape i = some (shape3 d a b c ty ok f)) :
    VecDoes s i d od 64 [(a, oa, 64), (b, ob, 64), (c, oc, 64)] fun u => vBytes (esize (tyIn s ty))
      (((elemsAt (tyIn s ty) u oa 64).zip
        ((elemsAt (tyIn s ty) u ob 64).zip (elemsAt (tyIn s ty) u oc 64))).map fun p =>
          f (tyIn s ty) (fmtOf s) p.1 p.2.1 p.2.2) := by
  refine vec_does_all hv (tyOf_some hdt hok) rfl (by decide) (by simp) (fun u => rfl) fun u => ?_
  rw [vBytes_length, List.length_map, List.length_zip, List.length_zip, elemsAt_length, elemsAt_length, elemsAt_length, min_self, min_self]
  exact Nat.div_mul_le_self ..

end

end Sys2Proof.Machine
end

section
namespace Sys2Proof.Machine

/-! Elementwise integer arithmetic (R295 to R298). -/

section
variable {t : ElemType} (h : t.isInt = true)
include h

theorem ar1_int (ff : Num → Num) (fi : ElemType → Int → Int) (o : Fmt) (a : Nat) : ar1 ff fi t o a = narrow t o.sat (fi t (eVal t a)) := by
  rw [ar1, eFloat_eq, isFloat_of_isInt h]; rfl

theorem ar2_int (ff : Num → Num → Num) (fi : Int → Int → Int) (o : Fmt) (a b : Nat) :
    ar2 ff fi t o a b = narrow t o.sat (fi (eVal t a) (eVal t b)) := by
  rw [ar2, eFloat_eq, isFloat_of_isInt h]; rfl

theorem ar3_int (ff : Num → Num → Num → Num) (fi : Int → Int → Int → Int) (o : Fmt) (a b c : Nat) :
    ar3 ff fi t o a b c = narrow t o.sat (fi (eVal t a) (eVal t b) (eVal t c)) := by
  rw [ar3, eFloat_eq, isFloat_of_isInt h]; rfl

/-- Division by zero gives all ones (R297). -/
theorem divElem_int (o : Fmt) (a b : Nat) : divElem t o a b =
    if b = 0 then 2 ^ (8 * esize t) - 1 else narrow t o.sat ((eVal t a).tdiv (eVal t b)) := by
  rw [divElem, ar2_int h, eFloat_eq, isFloat_of_isInt h]
  simp

end

section
variable {s : State} {i : Instr} {d a b c : SRef} {ty : ElemType} {od oa ob oc : Nat}
  (hdt : (fmtOf s).dt = none) (ht : (tyIn s ty).isInt = true)
include hdt ht

theorem ar1_does_int {ff : Num → Num} (fi : ElemType → Int → Int) (hv : vecShape i = some (shape1 d a ty notLg (ar1 ff fi))) :
    VecDoes s i d od 64 [(a, oa, 64)] fun u => vBytes (esize (tyIn s ty))
      ((elemsAt (tyIn s ty) u oa 64).map fun p => narrow (tyIn s ty) (fmtOf s).sat (fi (tyIn s ty) (eVal (tyIn s ty) p))) := by
  have h := shape1_does (od := od) (oa := oa) hdt (notLg_of_isInt ht) hv
  rwa [funext (ar1_int ht ff fi (fmtOf s))] at h

theorem ar2_does_int {ff : Num → Num → Num} (fi : Int → Int → Int) (hv : vecShape i = some (shape2 d a b ty notLg (ar2 ff fi))) :
    VecDoes s i d od 64 [(a, oa, 64), (b, ob, 64)] fun u => vBytes (esize (tyIn s ty))
      (((elemsAt (tyIn s ty) u oa 64).zip (elemsAt (tyIn s ty) u ob 64)).map fun p =>
        narrow (tyIn s ty) (fmtOf s).sat (fi (eVal (tyIn s ty) p.1) (eVal (tyIn s ty) p.2))) := by
  simpa only [ar2_int ht] using shape2_does hdt (notLg_of_isInt ht) hv

theorem ar3_does_int {ff : Num → Num → Num → Num} (fi : Int → Int → Int → Int)
    (hv : vecShape i = some (shape3 d a b c ty notLg (ar3 ff fi))) :
    VecDoes s i d od 64 [(a, oa, 64), (b, ob, 64), (c, oc, 64)] fun u => vBytes (esize (tyIn s ty))
      (((elemsAt (tyIn s ty) u oa 64).zip ((elemsAt (tyIn s ty) u ob 64).zip (elemsAt (tyIn s ty) u oc 64))).map fun p =>
        narrow (tyIn s ty) (fmtOf s).sat (fi (eVal (tyIn s ty) p.1) (eVal (tyIn s ty) p.2.1) (eVal (tyIn s ty) p.2.2))) := by
  simpa only [ar3_int ht] using shape3_does hdt (notLg_of_isInt ht) hv

theorem div_does_int (hv : vecShape i = some (shape2 d a b ty notLg divElem)) :
    VecDoes s i d od 64 [(a, oa, 64), (b, ob, 64)] fun u => vBytes (esize (tyIn s ty))
      (((elemsAt (tyIn s ty) u oa 64).zip (elemsAt (tyIn s ty) u ob 64)).map fun p =>
        if p.2 = 0 then 2 ^ (8 * esize (tyIn s ty)) - 1
        else narrow (tyIn s ty) (fmtOf s).sat ((eVal (tyIn s ty) p.1).tdiv (eVal (tyIn s ty) p.2))) := by
  simpa only [divElem_int ht] using shape2_does hdt (notLg_of_isInt ht) hv

end

/-- A DT, or the LG6 type, is illegal for the functions that take every other type (R293, R296). -/
theorem tyOf_notLg_none {o : Fmt} {ty : ElemType} (h : o.dt ≠ none ∨ o.st.getD ty = .lg6) : tyOf ty notLg o = none := by
  refine tyOf_none (h.imp_right fun e => ?_)
  rw [e]; rfl

/-- Settles O17: each function of one, two or three sources, narrowed once (R113, R295 to R298). -/
theorem vectorIntegerArithmetic : Obligations.VectorIntegerArithmetic := by
  unfold Obligations.VectorIntegerArithmetic
  intro s sw d a b c ty od oa ob oc
  refine ⟨fun hdt ht => ?_, fun hm i hi h => ?_, fun hm h => ?_⟩
  · exact ⟨ar2_does_int hdt ht (· + ·) rfl, ar2_does_int hdt ht (· - ·) rfl, ar2_does_int hdt ht (· * ·) rfl,
      ar2_does_int hdt ht min rfl, ar2_does_int hdt ht max rfl, div_does_int hdt ht rfl,
      ar1_does_int hdt ht (fun _ v => v.natAbs) rfl, ar1_does_int hdt ht (fun _ v => -v) rfl,
      ar3_does_int hdt ht (fun x y z => x * y + z) rfl, ar3_does_int hdt ht (fun x y z => x * y - z) rfl,
      ar3_does_int hdt ht (fun x y z => -(x * y) + z) rfl, ar3_does_int hdt ht (fun x y z => -(x * y) - z) rfl⟩
  · have hty := tyOf_notLg_none h
    simp only [List.mem_cons, List.not_mem_nil, or_false] at hi
    rcases hi with rfl | rfl | rfl | rfl | rfl | rfl | rfl | rfl | rfl | rfl | rfl | rfl <;> exact vec_illegal rfl hm hty
  · exact vec_illegal rfl hm (tyOf_none (ok := eFloat) (by rwa [eFloat_eq]))

end Sys2Proof.Machine
end

section
namespace Sys2Proof.Machine

/-! Elementwise floating-point arithmetic (R99 to R102, R295 to R298). -/

section
variable {t : ElemType} (h : t.isFloat = true)
include h

theorem ar1_float (ff : Num → Num) (fi : ElemType → Int → Int) (o : Fmt) (a : Nat) : ar1 ff fi t o a = rnd o t (ff (flt o t a)) := by
  rw [ar1, eFloat_eq, h]; rfl

theorem ar2_float (ff : Num → Num → Num) (fi : Int → Int → Int) (o : Fmt) (a b : Nat) :
    ar2 ff fi t o a b = rnd o t (ff (flt o t a) (flt o t b)) := by
  rw [ar2, eFloat_eq, h]; rfl

theorem ar3_float (ff : Num → Num → Num → Num) (fi : Int → Int → Int → Int) (o : Fmt) (a b c : Nat) :
    ar3 ff fi t o a b c = rnd o t (ff (flt o t a) (flt o t b) (flt o t c)) := by
  rw [ar3, eFloat_eq, h]; rfl

theorem divElem_float (o : Fmt) (a b : Nat) : divElem t o a b = rnd o t (numDiv (flt o t a) (flt o t b)) := by
  rw [divElem, ar2_float h, eFloat_eq, h]; rfl

end

/-- The smaller and the larger of two numbers, as the statements write them (R298). -/
theorem numMin_eq (p q : Num) : numMin p q = if p = .nan ∨ q = .nan then .nan else if numLt true q p then q else p := by
  simp [numMin]

theorem numMax_eq (p q : Num) : numMax p q = if p = .nan ∨ q = .nan then .nan else if numLt true p q then q else p := by
  simp [numMax]

section
variable {s : State} {i : Instr} {d a b c : SRef} {ty : ElemType} {od oa ob oc : Nat}
  (hdt : (fmtOf s).dt = none) (ht : (tyIn s ty).isFloat = true)
include hdt ht

theorem ar1_does_float {ok : ElemType → Bool} (hok : ok (tyIn s ty) = true) (ff : Num → Num) {fi : ElemType → Int → Int}
    (hv : vecShape i = some (shape1 d a ty ok (ar1 ff fi))) :
    VecDoes s i d od 64 [(a, oa, 64)] fun u => vBytes (esize (tyIn s ty))
      (((elemsAt (tyIn s ty) u oa 64).map fun p => ff (flt (fmtOf s) (tyIn s ty) p)).map (rnd (fmtOf s) (tyIn s ty))) := by
  have h := shape1_does (od := od) (oa := oa) hdt hok hv
  rw [funext (ar1_float ht ff fi (fmtOf s))] at h
  simp only [List.map_map]
  exact h

/-- A function of two sources whose elements are those of `g`, rounded once. -/
theorem two_does_float {f : ElemType → Fmt → Nat → Nat → Nat} (g : Num → Num → Num) (hv : vecShape i = some (shape2 d a b ty notLg f))
    (hf : ∀ p q, f (tyIn s ty) (fmtOf s) p q =
      rnd (fmtOf s) (tyIn s ty) (g (flt (fmtOf s) (tyIn s ty) p) (flt (fmtOf s) (tyIn s ty) q))) :
    VecDoes s i d od 64 [(a, oa, 64), (b, ob, 64)] fun u => vBytes (esize (tyIn s ty))
      ((((elemsAt (tyIn s ty) u oa 64).zip (elemsAt (tyIn s ty) u ob 64)).map fun p =>
        g (flt (fmtOf s) (tyIn s ty) p.1) (flt (fmtOf s) (tyIn s ty) p.2)).map (rnd (fmtOf s) (tyIn s ty))) := by
  have h := shape2_does (od := od) (oa := oa) (ob := ob) hdt (notLg_of_isFloat ht) hv
  simp only [hf] at h
  simp only [List.map_map]
  exact h

theorem ar2_does_float (ff : Num → Num → Num) {fi : Int → Int → Int} (hv : vecShape i = some (shape2 d a b ty notLg (ar2 ff fi))) :
    VecDoes s i d od 64 [(a, oa, 64), (b, ob, 64)] fun u => vBytes (esize (tyIn s ty))
      ((((elemsAt (tyIn s ty) u oa 64).zip (elemsAt (tyIn s ty) u ob 64)).map fun p =>
        ff (flt (fmtOf s) (tyIn s ty) p.1) (flt (fmtOf s) (tyIn s ty) p.2)).map (rnd (fmtOf s) (tyIn s ty))) :=
  two_does_float hdt ht ff hv (ar2_float ht ff fi (fmtOf s))

theorem ar3_does_float (ff : Num → Num → Num → Num) {fi : Int → Int → Int → Int}
    (hv : vecShape i = some (shape3 d a b c ty notLg (ar3 ff fi))) :
    VecDoes s i d od 64 [(a, oa, 64), (b, ob, 64), (c, oc, 64)] fun u => vBytes (esize (tyIn s ty))
      ((((elemsAt (tyIn s ty) u oa 64).zip ((elemsAt (tyIn s ty) u ob 64).zip (elemsAt (tyIn s ty) u oc 64))).map fun p =>
        ff (flt (fmtOf s) (tyIn s ty) p.1) (flt (fmtOf s) (tyIn s ty) p.2.1) (flt (fmtOf s) (tyIn s ty) p.2.2)).map
          (rnd (fmtOf s) (tyIn s ty))) := by
  have h := shape3_does (od := od) (oa := oa) (ob := ob) (oc := oc) hdt (notLg_of_isFloat ht) hv
  simp only [ar3_float ht] at h
  simp only [List.map_map]
  exact h

end

/-- Settles O18: each function exact on the decoded elements, then rounded once (R99 to R102, R295 to R298). -/
theorem vectorFloatArithmetic : Obligations.VectorFloatArithmetic := by
  unfold Obligations.VectorFloatArithmetic
  intro s sw d a b c ty od oa ob oc o t e x V one two three hdt ht
  have hl := notLg_of_isFloat ht
  have hmin := ar2_does_float (i := .vmin sw d a b ty) (od := od) (oa := oa) (ob := ob) hdt ht numMin rfl
  have hmax := ar2_does_float (i := .vmax sw d a b ty) (od := od) (oa := oa) (ob := ob) hdt ht numMax rfl
  simp only [numMin_eq, numMax_eq] at hmin hmax
  refine ⟨ar2_does_float hdt ht numAdd rfl, ar2_does_float hdt ht (fun p q => numAdd p (numNeg q)) rfl, ar2_does_float hdt ht numMul rfl,
    two_does_float hdt ht numDiv rfl (divElem_float ht _), hmin, hmax, ar1_does_float hdt ht hl numAbs rfl, ar1_does_float hdt ht hl numNeg rfl,
    ar1_does_float hdt ht (ok := eFloat) (by rw [eFloat_eq]; exact ht) numSqrt rfl,
    ar3_does_float hdt ht (fun p q r => numAdd (numMul p q) r) rfl, ar3_does_float hdt ht (fun p q r => numAdd (numMul p q) (numNeg r)) rfl,
    ar3_does_float hdt ht (fun p q r => numAdd (numNeg (numMul p q)) r) rfl,
    ar3_does_float hdt ht (fun p q r => numAdd (numNeg (numMul p q)) (numNeg r)) rfl⟩
/-! Bitwise functions, shifts and compares (R299, R300). -/

theorem cmpElem_int {t : ElemType} (h : t.isInt = true) (ff : Num → Num → Bool) (fi : Int → Int → Bool) (o : Fmt) (a b : Nat) :
    cmpElem ff fi t o a b = if fi (eVal t a) (eVal t b) then 2 ^ (8 * esize t) - 1 else 0 := by
  rw [cmpElem, eFloat_eq, isFloat_of_isInt h]; rfl

theorem cmpElem_float {t : ElemType} (h : t.isFloat = true) (ff : Num → Num → Bool) (fi : Int → Int → Bool) (o : Fmt) (a b : Nat) :
    cmpElem ff fi t o a b = if ff (flt o t a) (flt o t b) then 2 ^ (8 * esize t) - 1 else 0 := by
  rw [cmpElem, eFloat_eq, h]; rfl

section
variable {s : State} {i : Instr} {d a b : SRef} {ty : ElemType} {od oa ob : Nat} (hdt : (fmtOf s).dt = none)
include hdt

theorem cmp_does_int (ht : (tyIn s ty).isInt = true) {ff : Num → Num → Bool} (fi : Int → Int → Bool)
    (hv : vecShape i = some (shape2 d a b ty notLg (cmpElem ff fi))) :
    VecDoes s i d od 64 [(a, oa, 64), (b, ob, 64)] fun u => vBytes (esize (tyIn s ty))
      (((elemsAt (tyIn s ty) u oa 64).zip (elemsAt (tyIn s ty) u ob 64)).map fun p =>
        if fi (eVal (tyIn s ty) p.1) (eVal (tyIn s ty) p.2) then 2 ^ (8 * esize (tyIn s ty)) - 1 else 0) := by
  simpa only [cmpElem_int ht] using shape2_does hdt (notLg_of_isInt ht) hv

theorem cmp_does_float (ht : (tyIn s ty).isFloat = true) (ff : Num → Num → Bool) {fi : Int → Int → Bool}
    (hv : vecShape i = some (shape2 d a b ty notLg (cmpElem ff fi))) :
    VecDoes s i d od 64 [(a, oa, 64), (b, ob, 64)] fun u => vBytes (esize (tyIn s ty))
      (((elemsAt (tyIn s ty) u oa 64).zip (elemsAt (tyIn s ty) u ob 64)).map fun p =>
        if ff (flt (fmtOf s) (tyIn s ty) p.1) (flt (fmtOf s) (tyIn s ty) p.2) then 2 ^ (8 * esize (tyIn s ty)) - 1 else 0) := by
  simpa only [cmpElem_float ht] using shape2_does hdt (notLg_of_isFloat ht) hv

end

/-- Settles O19: bitwise functions, shifts and compares, element by element (R299, R300). -/
theorem vectorLogicAndCompares : Obligations.VectorLogicAndCompares := by
  unfold Obligations.VectorLogicAndCompares
  intro s sw d a b ty od oa ob o t x k e V two cmp hdt
  have hany : anyTy t = true := rfl
  refine ⟨shape2_does (f := fun _ _ p q => p &&& q) hdt hany rfl, shape2_does (f := fun _ _ p q => p ||| q) hdt hany rfl,
    shape2_does (f := fun _ _ p q => p ^^^ q) hdt hany rfl,
    shape2_does (f := fun t _ p q => p &&& (2 ^ (8 * esize t) - 1 - q)) hdt hany rfl,
    shape1_does (f := fun t _ p => 2 ^ (8 * esize t) - 1 - p) hdt hany rfl, fun ht => ?_, fun ht => ?_⟩
  · have hok : eInt t = true := by rw [eInt_eq]; exact ht
    exact ⟨shape2_does (f := fun t _ p q => p * 2 ^ vCount t q % 2 ^ (8 * esize t)) hdt hok rfl,
      shape2_does (f := fun t _ p q => p / 2 ^ vCount t q) hdt hok rfl, shape2_does (f := fun t _ => vSra t) hdt hok rfl,
      cmp_does_int hdt ht (· == ·) rfl, cmp_does_int hdt ht (· != ·) rfl, cmp_does_int hdt ht (fun x y => decide (x < y)) rfl,
      cmp_does_int hdt ht (fun x y => decide (x ≤ y)) rfl⟩
  · exact ⟨cmp_does_float hdt ht numEq rfl, cmp_does_float hdt ht (fun x y => !numEq x y) rfl, cmp_does_float hdt ht (numLt false) rfl,
      cmp_does_float hdt ht (fun x y => numLt false x y || numEq x y) rfl⟩

end Sys2Proof.Machine
end

section
namespace Sys2Proof.Machine

/-! Conversions, and packing and unpacking of LG6 codes (R302 to R304). -/

theorem esize_le (t : ElemType) : esize t ≤ 8 := by cases t <;> decide

theorem div_esize_pos (t : ElemType) : 0 < 64 / esize t := Nat.div_pos (by have := esize_le t; omega) (esize_pos t)

/-- A conversion of one element, by the classes of the two types (R302). -/
theorem cvtElem_eq (st dt : ElemType) (o : Fmt) (p : Nat) : cvtElem st dt o p =
    if st.isFloat then (if dt.isFloat then rnd o dt (flt o st p) else narrow dt true (numInt (flt o st p)))
    else if dt.isFloat then rnd o dt (intNum (eVal st p)) else narrow dt o.sat (eVal st p) := by
  rw [cvtElem, eFloat_eq, eFloat_eq]; rfl

section
variable {s : State} {i : Instr} {d a b : SRef} {od oa ob : Nat}

theorem cvt_does {dty sty : ElemType} (hv : vecShape i = some (shapeVcvt d a dty sty)) (hd : (fmtOf s).dt.getD dty ≠ .lg6)
    (hs : (fmtOf s).st.getD sty ≠ .lg6) :
    let dt := (fmtOf s).dt.getD dty
    let st := (fmtOf s).st.getD sty
    let n := 64 / max (esize st) (esize dt)
    VecDoes s i d od (n * esize dt) [(a, oa, n * esize st)] fun u =>
      vBytes (esize dt) ((elemsAt st u oa (n * esize st)).map (cvtElem st dt (fmtOf s))) := by
  intro dt st n
  have hty : (shapeVcvt d a dty sty).ty (fmtOf s) = some dt := by simp [shapeVcvt, cvtTypes, hd, hs, dt]
  have hn : 0 < n := Nat.div_pos (max_le (by have := esize_le st; omega) (by have := esize_le dt; omega)) (lt_max_of_lt_left (esize_pos st))
  refine vec_does_all hv hty rfl (Nat.mul_pos hn (esize_pos dt)) ?_ (fun u => rfl) fun u => ?_
  · simpa using ⟨hn, esize_pos st⟩
  · rw [vBytes_length, List.length_map, elemsAt_length, Nat.mul_div_cancel _ (esize_pos st)]

theorem pack6_does {sty : ElemType} (hv : vecShape i = some (shapeVpack6 d a b sty)) (hs : (tyIn s sty).isFloat = true)
    (hd : (fmtOf s).dt = none ∨ (fmtOf s).dt = some .lg6) :
    VecDoes s i d od (64 / esize (tyIn s sty)) [(a, oa, 64), (b, ob, 4)] fun u => (elemsAt (tyIn s sty) u oa 64).map fun p =>
      BitVec.ofNat 8 (lgPack (fmtOf s).nan (fmtOf s).ftz (fpDec (tyIn s sty) false p) (fpDec .fp32 false (homeNat u ob 4))) := by
  have hty : (shapeVpack6 d a b sty).ty (fmtOf s) = some (tyIn s sty) := by simp [shapeVpack6, eFloat_eq, hs, hd]
  refine vec_does_all hv hty rfl (div_esize_pos _) (by simp) (fun u => rfl) fun u => ?_
  rw [List.length_map, elemsAt_length]

theorem unpk6_does {dty : ElemType} (hv : vecShape i = some (shapeVunpk6 d a b dty)) (hd : ((fmtOf s).dt.getD dty).isFloat = true)
    (hs : (fmtOf s).st = none ∨ (fmtOf s).st = some .lg6) :
    let dt := (fmtOf s).dt.getD dty
    VecDoes s i d od 64 [(a, oa, 64 / esize dt), (b, ob, 4)] fun u =>
      vBytes (esize dt) ((homeBytes u oa (64 / esize dt)).map fun q => rnd (fmtOf s) dt (fpDec .fp32 false
        (lgUnpack (fmtOf s).nan (fmtOf s).sat q.toNat (fpDec .fp32 false (homeNat u ob 4))))) := by
  intro dt
  have hty : (shapeVunpk6 d a b dty).ty (fmtOf s) = some dt := by simp [shapeVunpk6, eFloat_eq, hd, hs, dt]
  refine vec_does_all hv hty rfl (by decide) (by simpa using div_esize_pos dt) (fun u => rfl) fun u => ?_
  rw [vBytes_length, List.length_map, homeBytes_length]
  exact Nat.div_mul_le_self ..

end

/-- Settles O21: each conversion element by element, and the types that it refuses (R302 to R304). -/
theorem vectorConversions : Obligations.VectorConversions := by
  unfold Obligations.VectorConversions
  intro s sw d a b dty sty od oa ob
  refine ⟨fun hd hs => ?_, fun hs hd => pack6_does rfl hs hd, fun hd hs => unpk6_does rfl hd hs,
    fun hm => ⟨fun h => ?_, fun h => ?_, fun h => ?_⟩⟩
  · have h := cvt_does (i := .vcvt sw d a dty sty) (od := od) (oa := oa) rfl hd hs
    dsimp only at h
    rwa [funext (cvtElem_eq _ _ _)] at h
  · refine vec_illegal (v := shapeVcvt d a dty sty) rfl hm ?_
    rcases h with h | h <;> simp [shapeVcvt, cvtTypes, h]
  · refine vec_illegal (v := shapeVpack6 d a b sty) rfl hm ?_
    simp [shapeVpack6, eFloat_eq, h]
  · refine vec_illegal (v := shapeVunpk6 d a b dty) rfl hm ?_
    simp [shapeVunpk6, eFloat_eq, h]

end Sys2Proof.Machine
end

section
namespace Sys2Proof.Machine

/-! Reductions (R294, R309, R310). -/

theorem leNat_lt_pow (bs : List Byte) : leNat bs < 256 ^ bs.length := by
  induction bs with
  | nil => decide
  | cons b bs ih =>
    have := b.isLt
    rw [leNat, List.length_cons, Nat.pow_succ]
    omega

/-- The number of at most `z` bytes lies below the bound of an element of `z` bytes. -/
theorem leNat_lt_of_length {bs : List Byte} {z : Nat} (h : bs.length ≤ z) : leNat bs < 2 ^ (8 * z) := by
  rw [Nat.pow_mul]
  exact (leNat_lt_pow bs).trans_le (Nat.pow_le_pow_right (by decide) h)

theorem mem_vElems_lt {z : Nat} {bs : List Byte} {p : Nat} (h : p ∈ vElems z bs) : p < 2 ^ (8 * z) := by
  obtain ⟨i, -, rfl⟩ := List.mem_map.mp h
  exact leNat_lt_of_length (by simp)

theorem homeNat_lt (u : State) (o n : Nat) : homeNat u o n < 2 ^ (8 * n) := leNat_lt_of_length (by simp [homePas])

/-- A number in two's complement of `j + 1` bits. -/
theorem sint_range {j x : Nat} (h : x < 2 ^ (j + 1)) : -(2 ^ j : Int) ≤ sint (j + 1) x ∧ sint (j + 1) x ≤ 2 ^ j - 1 := by
  have h2 : (2 : Int) ^ (j + 1) = 2 * 2 ^ j := by ring
  have hx : (x : Int) < 2 * 2 ^ j := by rw [← h2]; exact_mod_cast h
  have hp : (0 : Int) < 2 ^ j := by positivity
  rw [sint, h2, Nat.add_sub_cancel]
  split
  · next hl =>
    have : (x : Int) < 2 ^ j := by exact_mod_cast hl
    omega
  · next hl =>
    have : (2 ^ j : Int) ≤ x := by exact_mod_cast Nat.le_of_not_lt hl
    omega

theorem sint_emod {j : Nat} {v : Int} (h1 : -(2 ^ j) ≤ v) (h2 : v ≤ 2 ^ j - 1) : sint (j + 1) (v % 2 ^ (j + 1)).toNat = v := by
  have hd : (2 : Int) ^ (j + 1) = 2 * 2 ^ j := by ring
  have hp : (0 : Int) < 2 ^ j := by positivity
  have hn : ((2 ^ j : Nat) : Int) = 2 ^ j := by norm_cast
  rw [sint, hd, Nat.add_sub_cancel]
  by_cases h0 : 0 ≤ v
  · rw [Int.emod_eq_of_lt h0 (by omega), if_pos (by omega)]
    omega
  · have e : v % (2 * 2 ^ j) = v + 2 * 2 ^ j := by
      rw [← Int.add_emod_right, Int.emod_eq_of_lt (by omega) (by omega)]
    rw [e, if_neg (by omega)]
    omega

/-- Does an integer lie in the range of a type (R97)? -/
def InRange (t : ElemType) (v : Int) : Prop := eMin t ≤ v ∧ v ≤ eMax t

theorem esize_bits (t : ElemType) : 8 * esize t = 8 * esize t - 1 + 1 := by have := esize_pos t; omega

/-- An element's value lies in its type's range. -/
theorem inRange_eVal {t : ElemType} {p : Nat} (h : p < 2 ^ (8 * esize t)) : InRange t (eVal t p) := by
  unfold InRange eMin eMax eVal
  by_cases hs : eSigned t = true
  · simp only [hs, if_true]
    rw [esize_bits t] at h ⊢
    exact sint_range h
  · have : (p : Int) < 2 ^ (8 * esize t) := by exact_mod_cast h
    simp only [hs, if_false, Bool.false_eq_true]
    omega

/-- An integer in range is narrowed to the element that stands for it, with or without SAT (R98). -/
theorem narrow_inRange {t : ElemType} {v : Int} (h : InRange t v) (sat : Bool) : narrow t sat v = (v % 2 ^ (8 * esize t)).toNat := by
  have hc : max (eMin t) (min (eMax t) v) = v := by rw [min_eq_right h.2, max_eq_right h.1]
  rw [← eFit_eq, eFit, hc, ite_self]

theorem eVal_narrow {t : ElemType} {v : Int} (h : InRange t v) (sat : Bool) : eVal t (narrow t sat v) = v := by
  rw [narrow_inRange h, eVal]
  unfold InRange eMin eMax at h
  by_cases hs : eSigned t = true
  · simp only [hs, if_true] at h ⊢
    rw [esize_bits t]
    exact sint_emod h.1 h.2
  · simp only [hs, if_false, Bool.false_eq_true] at h ⊢
    rw [Int.emod_eq_of_lt h.1 (by omega), Int.toNat_of_nonneg h.1]

/-- A fold that picks one of two values at each step stays in range, and so narrowing at each step is narrowing once (R309). -/
theorem foldl_narrow {t : ElemType} {fi : Int → Int → Int} (hf : ∀ x y, fi x y = x ∨ fi x y = y) (sat : Bool) {l : List Nat}
    (hl : ∀ p ∈ l, p < 2 ^ (8 * esize t)) {v : Int} (hv : InRange t v) :
    l.foldl (fun m p => narrow t sat (fi (eVal t m) (eVal t p))) (narrow t sat v) =
      narrow t false (l.foldl (fun m p => fi m (eVal t p)) v) := by
  induction l generalizing v with
  | nil => rw [List.foldl_nil, List.foldl_nil, narrow_inRange hv, narrow_inRange hv]
  | cons p l ih =>
    have hp := inRange_eVal (hl p List.mem_cons_self)
    have hr : InRange t (fi v (eVal t p)) := by rcases hf v (eVal t p) with e | e <;> rw [e] <;> assumption
    rw [List.foldl_cons, List.foldl_cons, eVal_narrow hv]
    exact ih (fun q hq => hl q (List.mem_cons_of_mem _ hq)) hr

section
variable {s : State} {i : Instr} {d a b c : SRef} {ty : ElemType} {od oa ob oc : Nat} (hdt : (fmtOf s).dt = none)
include hdt

/-- An extreme: the fold of the elements into the accumulator, each step rounded or narrowed. -/
theorem ext_does (ht : notLg (tyIn s ty) = true) {ff : Num → Num → Num} {fi : Int → Int → Int}
    (hv : vecShape i = some (shapeExt d a b ty ff fi)) :
    VecDoes s i d od (esize (tyIn s ty)) [(a, oa, 64), (b, ob, esize (tyIn s ty))] fun u =>
      leBytes (esize (tyIn s ty)) ((elemsAt (tyIn s ty) u oa 64).foldl (fun m p => ar2 ff fi (tyIn s ty) (fmtOf s) m p)
        (ar1 id (fun _ v => v) (tyIn s ty) (fmtOf s) (homeNat u ob (esize (tyIn s ty))))) :=
  vec_does_all hv (tyOf_some hdt ht) rfl (esize_pos _) (by simpa using esize_pos _) (fun _ => rfl) fun _ => (leBytes_length ..).le

theorem ext_does_int (ht : (tyIn s ty).isInt = true) {ff : Num → Num → Num} (fi : Int → Int → Int)
    (hf : ∀ x y, fi x y = x ∨ fi x y = y) (hv : vecShape i = some (shapeExt d a b ty ff fi)) :
    VecDoes s i d od (esize (tyIn s ty)) [(a, oa, 64), (b, ob, esize (tyIn s ty))] fun u =>
      leBytes (esize (tyIn s ty)) (narrow (tyIn s ty) false ((elemsAt (tyIn s ty) u oa 64).foldl
        (fun m p => fi m (eVal (tyIn s ty) p)) (eVal (tyIn s ty) (homeNat u ob (esize (tyIn s ty)))))) := by
  have h := ext_does (od := od) (oa := oa) (ob := ob) hdt (notLg_of_isInt ht) hv
  have hfold (u : State) := foldl_narrow (t := tyIn s ty) hf (fmtOf s).sat (l := elemsAt (tyIn s ty) u oa 64)
    (fun _ hp => mem_vElems_lt hp) (inRange_eVal (p := homeNat u ob (esize (tyIn s ty))) (homeNat_lt ..))
  simpa only [ar2_int ht, ar1_int ht, hfold] using h

theorem ext_does_float (ht : (tyIn s ty).isFloat = true) (ff : Num → Num → Num) {fi : Int → Int → Int}
    (hv : vecShape i = some (shapeExt d a b ty ff fi)) :
    VecDoes s i d od (esize (tyIn s ty)) [(a, oa, 64), (b, ob, esize (tyIn s ty))] fun u =>
      leBytes (esize (tyIn s ty)) ((elemsAt (tyIn s ty) u oa 64).foldl
        (fun m p => rnd (fmtOf s) (tyIn s ty) (ff (flt (fmtOf s) (tyIn s ty) m) (flt (fmtOf s) (tyIn s ty) p)))
        (rnd (fmtOf s) (tyIn s ty) (flt (fmtOf s) (tyIn s ty) (homeNat u ob (esize (tyIn s ty)))))) := by
  simpa only [ar2_float ht, ar1_float ht, id] using ext_does hdt (notLg_of_isFloat ht) hv

theorem rsum_does (ht : notLg (tyIn s ty) = true) (hv : vecShape i = some (shapeVrsum d a b ty)) :
    VecDoes s i d od (esize (redType (tyIn s ty))) [(a, oa, 64), (b, ob, esize (redType (tyIn s ty)))] fun u =>
      leBytes (esize (redType (tyIn s ty))) (redSum (tyIn s ty) (fmtOf s) (homeNat u ob (esize (redType (tyIn s ty))))
        ((elemsAt (tyIn s ty) u oa 64).map (flt (fmtOf s) (tyIn s ty))) ((elemsAt (tyIn s ty) u oa 64).map (eVal (tyIn s ty)))) :=
  vec_does_all hv (tyOf_some hdt ht) rfl (esize_pos _) (by simpa using esize_pos _) (fun _ => rfl) fun _ => (leBytes_length ..).le

theorem rdot_does (ht : notLg (tyIn s ty) = true) (hv : vecShape i = some (shapeVrdot d a b c ty)) :
    VecDoes s i d od (esize (redType (tyIn s ty))) [(a, oa, 64), (b, ob, 64), (c, oc, esize (redType (tyIn s ty)))] fun u =>
      leBytes (esize (redType (tyIn s ty))) (redSum (tyIn s ty) (fmtOf s) (homeNat u oc (esize (redType (tyIn s ty))))
        (((elemsAt (tyIn s ty) u oa 64).zip (elemsAt (tyIn s ty) u ob 64)).map fun p => dotNum (tyIn s ty) (fmtOf s) p.1 p.2)
        (((elemsAt (tyIn s ty) u oa 64).zip (elemsAt (tyIn s ty) u ob 64)).map fun p =>
          eVal (redType (tyIn s ty)) (narrow (redType (tyIn s ty)) (fmtOf s).sat (eVal (tyIn s ty) p.1 * eVal (tyIn s ty) p.2)))) :=
  vec_does_all hv (tyOf_some hdt ht) rfl (esize_pos _) (by simpa using esize_pos _) (fun _ => rfl) fun _ => (leBytes_length ..).le

end

/-- Settles O22: sums and dot products by their tree, extremes by a fold in element order (R309, R310). -/
theorem vectorReductions : Obligations.VectorReductions := by
  unfold Obligations.VectorReductions
  intro s sw d a b c ty od oa ob oc o t e r E hdt ht
  have hl : notLg t = true := decide_eq_true ht
  refine ⟨rsum_does hdt hl rfl, rdot_does hdt hl rfl,
    fun hi => ⟨ext_does_int hdt hi max max_choice rfl, ext_does_int hdt hi min min_choice rfl⟩, fun hf => ?_⟩
  have hmax := ext_does_float (i := .vrmax sw d a b ty) (od := od) (oa := oa) (ob := ob) hdt hf numMax rfl
  have hmin := ext_does_float (i := .vrmin sw d a b ty) (od := od) (oa := oa) (ob := ob) hdt hf numMin rfl
  simp only [numMax_eq, numMin_eq] at hmax hmin
  exact ⟨hmax, hmin⟩

end Sys2Proof.Machine
end

section
namespace Sys2Proof.Machine

/-! Functions that copy elements (R301, R305 to R308). -/

theorem homeBytes_add (u : State) (o m n : Nat) : homeBytes u o (m + n) = homeBytes u o m ++ homeBytes u (o + m) n := by
  simp only [homeBytes, homePas]
  rw [span_add, List.map_append, scratchPa_add]

/-- A part of an operand. -/
theorem homeBytes_part (u : State) (o : Nat) {n k m : Nat} (h : k + m ≤ n) : ((homeBytes u o n).drop k).take m = homeBytes u (o + k) m := by
  obtain ⟨r, rfl⟩ := Nat.exists_eq_add_of_le h
  rw [Nat.add_assoc, homeBytes_add, homeBytes_add, List.drop_left' (homeBytes_length ..), List.take_left' (homeBytes_length ..)]

/-- The elements of an operand, in order, are its bytes. -/
theorem flatMap_elements (u : State) (o m z : Nat) : (span 0 m).flatMap (fun i => homeBytes u (o + i * z) z) = homeBytes u o (m * z) := by
  induction m with
  | zero => simp [span, homeBytes, homePas]
  | succ m ih => rw [span_add, List.flatMap_append, ih, Nat.succ_mul, homeBytes_add, Nat.zero_add]; simp [span]

/-- Bytes without poison. -/
def unmarked (bs : List Byte) : List (Byte × Bool) := bs.map (·, false)

/-- An element of a clean source. -/
theorem vAt_clean (u : State) (x : SRef × Nat × Nat) {z i : Nat} (h : i * z + z ≤ x.2.2) :
    vAt z (cleanSrc u x) i = unmarked (homeBytes u (x.2.1 + i * z) z) := by
  have hz : (homeBytes u x.2.1 x.2.2).zip (List.replicate x.2.2 false) = unmarked (homeBytes u x.2.1 x.2.2) := by
    rw [unmarked]
    refine List.ext_getElem (by simp [homeBytes_length]) fun k h1 h2 => by simp
  rw [vAt, cleanSrc, hz, unmarked, ← List.map_drop, ← List.map_take, homeBytes_part u _ h, unmarked]

/-- Copying clean elements, none of them selected by poison. -/
theorem vCopy_clean {l : List Nat} {E : Nat → List (Byte × Bool) × Bool} {B : Nat → List Byte}
    (h : ∀ i ∈ l, E i = (unmarked (B i), false)) :
    (vCopy (l.map E)).1 = l.flatMap B ∧ ∀ p ∈ (vCopy (l.map E)).2, p = false := by
  have he : (l.map E).flatMap (fun x : List (Byte × Bool) × Bool => x.1.map fun y => (y.1, y.2 || x.2)) = unmarked (l.flatMap B) := by
    rw [List.flatMap_map, unmarked, List.map_flatMap]
    refine List.flatMap_congr fun i hi => ?_
    rw [h i hi]
    simp [unmarked]
  have hc : vCopy (l.map E) = ((unmarked (l.flatMap B)).map (·.1), (unmarked (l.flatMap B)).map (·.2)) := by rw [← he]; rfl
  rw [hc]
  simp [unmarked, Function.comp_def]

theorem esize_cover (t : ElemType) : 64 / esize t * esize t = 64 := Nat.div_mul_cancel (esize_dvd t)

theorem esize_cover_two (t : ElemType) : 128 / esize t = 2 * (64 / esize t) := by cases t <;> decide

/-- `vec_does` for a function that copies elements. -/
theorem copy_does {i : Instr} {s : State} {v : VShape} {t : ElemType} {d : SRef} {od nd m z : Nat} {srcs : List (SRef × Nat × Nat)}
    {f : VFun} {E : State → Nat → List (Byte × Bool) × Bool} {B : State → Nat → List Byte} (hv : vecShape i = some v)
    (hty : v.ty (fmtOf s) = some t) (hgo : v.go t (fmtOf s) = (⟨d, nd⟩, srcs.map srcOp, f)) (hnd : 0 < nd)
    (h0 : ∀ x ∈ srcs, 0 < x.2.2) (hf : ∀ u, f (srcs.map (cleanSrc u)) = vCopy ((span 0 m).map (E u)))
    (hE : ∀ u i, i < m → E u i = (unmarked (B u i), false)) (hB : ∀ u i, (B u i).length = z) (hm : m * z ≤ nd) :
    VecDoes s i d od nd srcs fun u => (span 0 m).flatMap (B u) := by
  have hc (u : State) := vCopy_clean fun i hi => hE u i ((mem_span.mp hi).2.trans_eq (Nat.zero_add m))
  refine vec_does hv hty hgo hnd h0 (fun u => by rw [hf]; exact (hc u).1) (fun u => by rw [hf]; exact (hc u).2) fun u => ?_
  rw [List.length_flatMap, List.map_congr_left fun i _ => hB u i]
  simpa using hm

section
variable {s : State} {i : Instr} {d a b c : SRef} {ty : ElemType} {od oa ob oc : Nat} (hdt : (fmtOf s).dt = none)
include hdt

/-- The element `i` of the type in force of an operand at offset `o`. -/
def elementAt (s : State) (ty : ElemType) (u : State) (o i : Nat) : List Byte :=
  homeBytes u (o + i * esize (tyIn s ty)) (esize (tyIn s ty))

omit hdt in
theorem elementAt_length (u : State) (o i : Nat) : (elementAt s ty u o i).length = esize (tyIn s ty) := homeBytes_length ..

omit hdt in
/-- An element of a clean source of at least `m` elements. -/
theorem vAt_element (u : State) {r : SRef} {o n m k : Nat} (hk : k < m) (hm : m * esize (tyIn s ty) ≤ n) :
    vAt (esize (tyIn s ty)) (cleanSrc u (r, o, n)) k = unmarked (elementAt s ty u o k) :=
  vAt_clean u _ (by
    have := Nat.mul_le_mul_right (esize (tyIn s ty)) (Nat.succ_le_of_lt hk)
    rw [Nat.succ_mul] at this
    exact this.trans hm)

theorem sel_does (hv : vecShape i = some (shapeVsel d a b c ty)) :
    VecDoes s i d od 64 [(a, oa, 64), (b, ob, 64), (c, oc, 64)] fun u => (span 0 (64 / esize (tyIn s ty))).flatMap fun k =>
      if (elementAt s ty u oa k).any (· ≠ 0) then elementAt s ty u ob k else elementAt s ty u oc k := by
  have hc := (esize_cover (tyIn s ty)).le
  refine copy_does hv (tyOf_some hdt rfl) rfl (by decide) (by simp) (fun u => rfl) (fun u k hk => ?_) (fun u k => ?_) hc
  · rw [vAt_element u hk hc, vAt_element u hk hc, vAt_element u hk hc]
    have h1 : ((unmarked (elementAt s ty u oa k)).any fun p => decide (p.1 ≠ 0)) = (elementAt s ty u oa k).any (· ≠ 0) := by
      simp only [unmarked, List.any_map]; rfl
    have h2 : ((unmarked (elementAt s ty u oa k)).any fun p => p.2) = false := by simp [unmarked]
    simp only [h1, h2]
    split <;> rfl
  · split <;> exact elementAt_length ..

omit hdt in
/-- An element of two clean sources, numbered through both (R305). -/
theorem vAt_of_two (u : State) {j : Nat} (hj : j < 2 * (64 / esize (tyIn s ty))) :
    (if j < 64 / esize (tyIn s ty) then vAt (esize (tyIn s ty)) (cleanSrc u (a, oa, 64)) j
      else vAt (esize (tyIn s ty)) (cleanSrc u (c, oc, 64)) (j - 64 / esize (tyIn s ty))) =
    unmarked (if j < 64 / esize (tyIn s ty) then elementAt s ty u oa j else elementAt s ty u oc (j - 64 / esize (tyIn s ty))) := by
  split
  · next h => exact vAt_element u h (esize_cover _).le
  · next h => exact vAt_element u (by omega) (esize_cover _).le

omit hdt in
/-- Interleaved elements are numbered through both halves (R307). -/
theorem unzip_index_lt {k n : Nat} (h : k < 2 * n) : (if k < n then 2 * k else 2 * (k - n) + 1) < 2 * n := by
  split <;> omega

theorem perm_does (hv : vecShape i = some (shapeVperm d a b c ty)) :
    VecDoes s i d od 64 [(a, oa, 64), (b, ob, 64 / esize (tyIn s ty)), (c, oc, 64)] fun u =>
      (span 0 (64 / esize (tyIn s ty))).flatMap fun k =>
        let j := ((homeBytes u ob (64 / esize (tyIn s ty))).getD k 0).toNat % (2 * (64 / esize (tyIn s ty)))
        if j < 64 / esize (tyIn s ty) then elementAt s ty u oa j else elementAt s ty u oc (j - 64 / esize (tyIn s ty)) := by
  have hc := (esize_cover (tyIn s ty)).le
  have hp := div_esize_pos (tyIn s ty)
  refine copy_does hv (tyOf_some hdt rfl) rfl (by decide) (by simpa using hp) (fun u => rfl) (fun u k hk => ?_) (fun u k => ?_) hc
  · have hpsn : (cleanSrc u (b, ob, 64 / esize (tyIn s ty))).psn.getD k false = false := by simp [cleanSrc, hk]
    exact Prod.ext (vAt_of_two u (Nat.mod_lt _ (Nat.mul_pos Nat.two_pos hp))) hpsn
  · dsimp only
    split <;> exact elementAt_length ..

theorem bcast_does (hv : vecShape i = some (shapeVbcast d a ty)) :
    VecDoes s i d od 64 [(a, oa, esize (tyIn s ty))] fun u => (span 0 (64 / esize (tyIn s ty))).flatMap fun _ => elementAt s ty u oa 0 :=
  copy_does hv (tyOf_some hdt rfl) rfl (by decide) (by simpa using esize_pos _) (fun u => rfl)
    (fun u k _ => congrArg (·, false) (vAt_element u Nat.zero_lt_one (Nat.one_mul _).le)) (fun u _ => elementAt_length ..)
    (esize_cover _).le

theorem rot_does (hv : vecShape i = some (shapeVrot d a b ty)) :
    VecDoes s i d od 64 [(a, oa, 64), (b, ob, 8)] fun u => (span 0 (64 / esize (tyIn s ty))).flatMap fun k =>
      elementAt s ty u oa ((k + homeNat u ob 8 % (64 / esize (tyIn s ty))) % (64 / esize (tyIn s ty))) := by
  refine copy_does hv (tyOf_some hdt rfl) rfl (by decide) (by simp) (fun u => rfl) (fun u k _ => ?_)
    (fun u _ => elementAt_length ..) (esize_cover _).le
  rw [vAt_element u (Nat.mod_lt _ (div_esize_pos _)) (esize_cover (tyIn s ty)).le]
  simp [cleanSrc, homeNat, homeBytes]

theorem zip_does (hv : vecShape i = some (shapeVzip d a b ty)) :
    VecDoes s i d od 128 [(a, oa, 64), (b, ob, 64)] fun u => (span 0 (2 * (64 / esize (tyIn s ty)))).flatMap fun k =>
      elementAt s ty u (if k % 2 = 0 then oa else ob) (k / 2) := by
  have hc := esize_cover (tyIn s ty)
  rw [← esize_cover_two]
  refine copy_does hv (tyOf_some hdt rfl) rfl (by decide) (by simp) (fun u => rfl) (fun u k hk => ?_) (fun u _ => elementAt_length ..)
    (Nat.div_mul_le_self ..)
  rw [esize_cover_two] at hk
  have h2 : k / 2 < 64 / esize (tyIn s ty) := by omega
  by_cases he : k % 2 = 0
  · rw [if_pos he, if_pos he, vAt_element u h2 hc.le]
  · rw [if_neg he, if_neg he, vAt_element u h2 hc.le]

theorem unzip_does (hv : vecShape i = some (shapeVunzip d a ty)) :
    VecDoes s i d od 128 [(a, oa, 128)] fun u => (span 0 (2 * (64 / esize (tyIn s ty)))).flatMap fun k =>
      elementAt s ty u oa (if k < 64 / esize (tyIn s ty) then 2 * k else 2 * (k - 64 / esize (tyIn s ty)) + 1) := by
  rw [← esize_cover_two]
  refine copy_does hv (tyOf_some hdt rfl) rfl (by decide) (by simp) (fun u => rfl) (fun u k hk => ?_) (fun u _ => elementAt_length ..)
    (Nat.div_mul_le_self ..)
  refine congrArg (·, false) (vAt_element u (m := 128 / esize (tyIn s ty)) ?_ (Nat.div_mul_le_self ..))
  rw [esize_cover_two] at hk ⊢
  exact unzip_index_lt hk

theorem mov_does (hv : vecShape i = some (shapeVmov d a ty)) :
    VecDoes s i d od 64 [(a, oa, 64)] fun u => (span 0 (64 / esize (tyIn s ty))).flatMap fun k => elementAt s ty u oa k := by
  have hb (u : State) : homeBytes u oa 64 = (span 0 (64 / esize (tyIn s ty))).flatMap fun k => elementAt s ty u oa k :=
    ((flatMap_elements u oa (64 / esize (tyIn s ty)) (esize (tyIn s ty))).trans (by rw [esize_cover])).symm
  refine vec_does hv (tyOf_some hdt rfl) rfl (by decide) (by simp) hb (fun u p hp => List.eq_of_mem_replicate hp) fun u => ?_
  rw [← hb, homeBytes_length]

theorem zero_does (hv : vecShape i = some (shapeVzero d ty)) :
    VecDoes s i d od 64 [] fun _ => (span 0 64).flatMap fun _ => [0] :=
  vec_does_all hv (tyOf_some hdt rfl) rfl (by decide) (by simp) (fun _ => rfl) fun _ => le_refl 64

end

end Sys2Proof.Machine
end

section
namespace Sys2Proof.Machine

/-! A VMOV whose source words have come (R289, R308). -/

/-- The words of these numbers have come with these bytes, clean. -/
def WordsCame (s : State) (us : List Nat) (vs : List (List Byte)) : Prop :=
  us.length = vs.length ∧ ∀ e ∈ us.zip vs, ∃ y, s.flight.find? (·.uid == e.1) = some y ∧ y.st = .done e.2 false

/-- A word on its way, as a source holds it. -/
def onItsWay (w : Nat) : Option Nat × List Byte × List Bool := (some w, [], [])

/-- A clean word as it has come. -/
def cameClean (v : List Byte) : List Byte × List Bool := (v, v.map fun _ => false)

/-- A source word of a waiting execution, if it is there. -/
def wordCame (s : State) (w : Option Nat × List Byte × List Bool) : Option (List Byte × List Bool) :=
  match w.1 with
  | none => some w.2
  | some u => (s.flight.find? (·.uid == u)).bind fun a =>
    match a.st with
    | .done v q => some (v, v.map fun _ => q)
    | _ => none

/-- The sources of a waiting execution, each the bytes of its words. -/
def cameSrcs (l : List (List (Option (List Byte × List Bool)))) : List VSrc :=
  l.map fun l => ⟨(l.filterMap id).flatMap (·.1), (l.filterMap id).flatMap (·.2)⟩

theorem vecResult_eq (s : State) (p : VPend) : vecResult s p =
    if (p.srcs.map fun l => l.map (wordCame s)).all (·.all Option.isSome) then
      (vecShape p.ins).bind fun v => (v.ty (fmtWord p.hsw)).map fun t =>
        (v.go t (fmtWord p.hsw)).2.2 (cameSrcs (p.srcs.map fun l => l.map (wordCame s)))
    else none := rfl

theorem wordCame_done {s : State} {w : Nat} {y : Access} {v : List Byte} (hy : s.flight.find? (·.uid == w) = some y)
    (hst : y.st = .done v false) : wordCame s (onItsWay w) = some (cameClean v) := by
  simp only [wordCame, onItsWay, hy, Option.bind_some, hst]
  rfl

/-- The result of a waiting VMOV all whose source words have come: their bytes (R289). -/
theorem vecResult_mov {s : State} {p : VPend} {sw : Bool} {d a : SRef} {ty : ElemType} {us : List Nat} {vs : List (List Byte)}
    (hi : p.ins = .vmov sw d a ty) (hdt : (fmtWord p.hsw).dt = none) (hsrc : p.srcs = [us.map onItsWay]) (h : WordsCame s us vs) :
    vecResult s p = some (vs.flatten, (vs.map cameClean).flatMap (·.2)) := by
  obtain ⟨hlen, hcame⟩ := h
  have hty : (shapeVmov d a ty).ty (fmtWord p.hsw) = some ((fmtWord p.hsw).st.getD ty) := tyOf_some hdt rfl
  have hword : (us.map onItsWay).map (wordCame s) = vs.map fun v => some (cameClean v) := by
    refine List.ext_getElem (by simpa using hlen) fun k h1 h2 => ?_
    rw [List.length_map] at h2
    rw [List.length_map, List.length_map] at h1
    obtain ⟨y, hy, hst⟩ := hcame (us[k], vs[k]) (List.mem_iff_getElem.mpr ⟨k, by simpa using ⟨h1, h2⟩, by simp⟩)
    rw [List.getElem_map, List.getElem_map, List.getElem_map, wordCame_done hy hst]
  have hsrcs : (p.srcs.map fun l => l.map (wordCame s)) = [vs.map fun v => some (cameClean v)] := by
    rw [hsrc, List.map_singleton, hword]
  have hbytes : cameSrcs [vs.map fun v => some (cameClean v)] = [⟨vs.flatten, (vs.map cameClean).flatMap (·.2)⟩] := by
    have hid : (vs.map fun v => some (cameClean v)).filterMap id = vs.map cameClean := by simp
    have hfst : (vs.map cameClean).flatMap (·.1) = vs.flatten := by
      rw [List.flatMap_map]; exact List.flatMap_id' ..
    rw [cameSrcs, List.map_singleton, hid, hfst]
  rw [vecResult_eq, hsrcs, hbytes, hi, if_pos (by simp)]
  simp only [vecShape, Option.bind_some, hty, Option.map_some]
  rfl

theorem notePsn_slot (s : State) (h : Nat) (psn : Bool) : (getSlot (notePsn s h psn) h).outs = (getSlot s h).outs ∧
    (getSlot (notePsn s h psn) h).vpend = (getSlot s h).vpend ∧ (notePsn s h psn).mem = s.mem ∧ (notePsn s h psn).flight = s.flight := by
  cases psn
  · exact ⟨rfl, rfl, rfl, rfl⟩
  · simp only [notePsn, if_true, setPoisoned, modHsw, getSlot_modSlot_self]
    exact ⟨trivial, trivial, rfl, rfl⟩

/-- Its result once made: every outstanding result of it has its bytes, and its loads have left (R289). -/
theorem vecMake_mov {s : State} {h : Nat} {p : VPend} {us : List Nat} {r : List Byte × List Bool} (hsrc : p.srcs = [us.map onItsWay])
    (hw : p.writes = []) (hr : ∀ b ∈ r.2, b = false) :
    let u := vecMake s h p r
    u.mem = s.mem ∧ (∀ y ∈ u.flight, y.uid ∉ us) ∧ (∀ q ∈ (getSlot u h).vpend, q.uid ≠ p.uid) ∧
      (getSlot u h).outs = (getSlot s h).outs.map fun e => if e.vec = some p.uid then
        (if e.src.isSome then { e with vec := none } else { e with vec := none, val := some r.1, psn := false }) else e := by
  have hus : (p.srcs.flatMap fun l => l.filterMap (·.1)) = us := by
    rw [hsrc, List.flatMap_singleton, List.filterMap_map]
    exact (congrFun (List.filterMap_eq_map (f := id)) us).trans (List.map_id us)
  simp only [vecMake, hus, hw, List.find?_nil, List.map_id', getSlot_modSlot_self]
  refine ⟨?_, fun y hy => ?_, fun q hq => ?_, ?_⟩
  · rw [modSlot_mem, (notePsn_slot ..).2.2.1]
  · rw [show ∀ t f, (modSlot t h f).flight = t.flight from fun _ _ => rfl, (notePsn_slot ..).2.2.2] at hy
    simpa using (List.mem_filter.mp hy).2
  · simpa using (List.mem_filter.mp hq).2
  · rw [(notePsn_slot ..).1]
    refine List.map_congr_left fun e _ => ?_
    rw [show resPsn (some r) _ = false from resPsn_clean hr _]

/-- Its return (R289). -/
theorem mov_returns {s : State} {h i : Nat} {p : VPend} {sw : Bool} {d a : SRef} {ty : ElemType} {us : List Nat} {vs : List (List Byte)}
    (hp : vecOf s h i = some p) (hi : p.ins = .vmov sw d a ty) (hdt : (fmtWord p.hsw).dt = none) (hsrc : p.srcs = [us.map onItsWay])
    (hw : p.writes = []) (hc : WordsCame s us vs) :
    Does (.resultReturn h i) s fun u => u.mem = s.mem ∧ (∀ y ∈ u.flight, y.uid ∉ us) ∧
      (∀ q ∈ (getSlot u h).vpend, q.uid ≠ p.uid) ∧
      (getSlot u h).outs = (getSlot s h).outs.map fun e => if e.vec = some p.uid then
        (if e.src.isSome then { e with vec := none } else { e with vec := none, val := some vs.flatten, psn := false }) else e := by
  have hx : exec (.resultReturn h i) s = .next (vecMake s h p (vs.flatten, (vs.map cameClean).flatMap (·.2))) := by
    change execResultReturn h i s = _
    rw [execResultReturn, hp]
    simp only [vecResult_mov hi hdt hsrc hc]
  refine ⟨_, hx, vecMake_mov hsrc hw fun b hb => ?_⟩
  obtain ⟨c, hcm, hb⟩ := List.mem_flatMap.mp hb
  obtain ⟨v, -, rfl⟩ := List.mem_map.mp hcm
  obtain ⟨-, -, rfl⟩ := List.mem_map.mp hb
  rfl

end Sys2Proof.Machine
end

section
namespace Sys2Proof.Machine

/-! Operands in HBM (R198, R272, R286, R289). -/

theorem isHbm_iff {a : Nat} : isHbm a = true ↔ offsetOf a < 0x9000000000 := by rw [isHbm, beq_iff_eq, targetOf_hbm]

/-- A 64-byte chunk lies in HBM as a whole, or not at all. -/
theorem isHbm_chunk {a b : Nat} (h : a / 64 = b / 64) : isHbm a = isHbm b := by
  rw [Bool.eq_iff_iff, isHbm_iff, isHbm_iff]
  unfold offsetOf
  omega

/-- The places of an operand: as many as its bytes, and in a row where it lies on one page (R286, R288). -/
theorem vecPlace_bytes {s : State} {va n : Nat} {k : AccKind} {pas : List Nat} {x : Xl} (h : vecPlace s va n k = .ok (pas, x)) :
    pas.length = n ∧ (x.past = none → pas = span x.pa n) := by
  simp only [vecPlace] at h
  split at h
  · contradiction
  · split at h
    · cases h
      exact ⟨span_length .., fun _ => rfl⟩
    · next hl =>
      split at h
      · contradiction
      · split at h
        · contradiction
        · cases h
          refine ⟨?_, fun e => absurd e (by simp [Xl.join])⟩
          rw [List.length_append, span_length, span_length]
          omega

/-- The machine with more accesses on their way, the next number `n`. -/
def withSent (s : State) (l : List Access) (n : Nat) : State := { s with flight := s.flight ++ l, uid := n }

/-- An access that may not be performed at once may not either when more is on its way. -/
theorem atOnce_sent {s : State} {h : Nat} {pas : List Nat} {w : Bool} (l : List Access) (n : Nat) (ha : atOnce s h pas w = false) :
    atOnce (withSent s l n) h pas w = false := by
  have hb : chunkBusy (s.flight ++ l) h pas = (chunkBusy s.flight h pas || chunkBusy l h pas) := List.any_append ..
  have e : atOnce (withSent s l n) h pas w = (!(chunkBusy s.flight h pas || chunkBusy l h pas) && !jobOverlap s h pas w &&
      (pendBank s pas).isNone && !splits s pas) := by rw [← hb]; rfl
  rw [e]
  cases chunkBusy l h pas with
  | true => simp
  | false => rw [Bool.or_false]; exact ha

/-- A read that no cache serves. -/
theorem cacheRead_none {s : State} {h key : Nat} {pas : List Nat} : cacheRead s h key pas = none ↔
    fromLines (dLine s (coreOf h) key (getSlot s h).acqAt) pas = none ∧
      fromLines (clLine s (clusterOf (coreOf h)) key (getSlot s h).acqAt) pas = none := by
  unfold cacheRead
  dsimp only
  cases fromLines (dLine s (coreOf h) key (getSlot s h).acqAt) pas with
  | some b => simp
  | none => cases fromLines (clLine s (clusterOf (coreOf h)) key (getSlot s h).acqAt) pas <;> simp

/-- A word that is not there is not there when more is on its way. -/
theorem wordNow_sent {s : State} {x : Xl} {w : VWord} (hx : x.own = false) (l : List Access) (n : Nat) (h : wordNow s x w = none) :
    wordNow (withSent s l n) x w = none := by
  by_cases ha : atOnce s s.cur w.pas false = true
  · by_cases hc : x.cache = true
    · simp only [wordNow, ha, hx, hc, Bool.not_true, Bool.false_eq_true, if_false, if_true] at h
      have hl := cacheRead_none.mp h
      have hn : cacheRead (withSent s l n) (withSent s l n).cur w.key w.pas = none := cacheRead_none.mpr hl
      simp only [wordNow, hx, hc, hn, Bool.false_eq_true, if_false, ite_self]
    · simp only [wordNow, hx, hc, Bool.false_eq_true, if_false, ite_self]
  · have hl : atOnce (withSent s l n) (withSent s l n).cur w.pas false = false := atOnce_sent (h := s.cur) l n ((Bool.not_eq_true _).mp ha)
    rw [wordNow, hl]
    rfl

/-- The load sent for a word of a source of hart `h` (R289). -/
def wordLoad (h : Nat) (tag : Option Nat) (x : Xl) (grp n : Nat) (w : VWord) : Access :=
  { uid := n, hart := h, va := wd w.va, pas := w.pas, key := w.key, cache := x.cache, op := .load, psn := false, dest := .vec
    st := .flying, grp := some grp, tag := tag }

/-- The loads sent for the words of a source, numbered from `n`. -/
def wordLoads (h : Nat) (tag : Option Nat) (x : Xl) (grp : Nat) : Nat → List VWord → List Access
  | _, [] => []
  | n, w :: ws => wordLoad h tag x grp n w :: wordLoads h tag x grp (n + 1) ws

theorem wordLoads_pas (h : Nat) (tag : Option Nat) (x : Xl) (grp n : Nat) (ws : List VWord) :
    (wordLoads h tag x grp n ws).map (·.pas) = ws.map (·.pas) := by
  induction ws generalizing n with
  | nil => rfl
  | cons w ws ih => rw [wordLoads, List.map_cons, List.map_cons, ih]; rfl

theorem mem_wordLoads {h : Nat} {tag : Option Nat} {x : Xl} {grp n : Nat} {ws : List VWord} {y : Access}
    (hy : y ∈ wordLoads h tag x grp n ws) : ∃ m, ∃ w ∈ ws, y = wordLoad h tag x grp m w := by
  induction ws generalizing n with
  | nil => contradiction
  | cons w ws ih =>
    rcases List.mem_cons.mp hy with rfl | hy
    · exact ⟨n, w, List.mem_cons_self, rfl⟩
    · obtain ⟨m, v, hv, e⟩ := ih hy
      exact ⟨m, v, List.mem_cons_of_mem _ hv, e⟩

/-- Where no word of a source is there, a load is sent for each of them (R272, R289). -/
theorem vecRead_sent {s : State} {x : Xl} {grp : Nat} {ws : List VWord} (hx : x.own = false) (h : ∀ w ∈ ws, wordNow s x w = none) :
    let l := wordLoads s.cur (tagOf s s.cur) x grp s.uid ws
    vecRead x grp ws s = (l.map fun y => onItsWay y.uid, withSent s l (s.uid + ws.length)) := by
  induction ws generalizing s with
  | nil => simp [vecRead, wordLoads, withSent]
  | cons w ws ih =>
    have hw : wordGet s x grp w = (onItsWay s.uid, withSent s [wordLoad s.cur (tagOf s s.cur) x grp s.uid w] (s.uid + 1)) := by
      rw [wordGet, h w List.mem_cons_self]; rfl
    have hr := ih (s := withSent s [wordLoad s.cur (tagOf s s.cur) x grp s.uid w] (s.uid + 1)) fun v hv =>
      wordNow_sent hx _ _ (h v (List.mem_cons_of_mem _ hv))
    dsimp only
    rw [vecRead, hw]
    simp only [hr]
    simp only [withSent, wordLoads, List.length_cons, List.append_assoc, List.singleton_append, List.map_cons, Nat.add_assoc,
      Nat.add_comm 1]
    rfl

end Sys2Proof.Machine
end

section
namespace Sys2Proof.Machine

/-! A VMOV of which one operand lies in HBM (R289, R308). -/

/-- A VMOV that its gate, its COUNTs and its places let pass goes on to its execution (R288). -/
theorem mov_goes {s : State} {sw : Bool} {d a : SRef} {ty : ElemType} {dp : List Nat × Xl} {pas : List Nat} {x : Xl} {dva va : Nat}
    (hm : MayIssue s .vec 0) (hdt : (fmtOf s).dt = none) (hr : repOn s s.cur = false)
    (hn : ∀ r ∈ [d, a], fld (readReg s s.cur (32 + r.ptr.val)) 63 58 ≠ 0) (hdva : sAddr (readReg s s.cur (32 + d.ptr.val)) = dva)
    (hva : sAddr (readReg s s.cur (32 + a.ptr.val)) = va) (hd : vecPlace s dva 64 .write = .ok dp)
    (hk : wrCheck s s.cur dva dp.2 dp.1 = none) (ha : vecPlace s va 64 .read = .ok (pas, x)) :
    exec (.vmov sw d a ty) s = .next (vecGo (.vmov sw d a ty) s sw ⟨d, 64⟩ dva dp [(⟨a, 64⟩, va, pas, x)] movF) := by
  have hty : (shapeVmov d a ty).ty (fmtOf s) = some (tyIn s ty) := tyOf_some hdt rfl
  have hi : exec (.vmov sw d a ty) s = .next (vec (.vmov sw d a ty) sw (shapeVmov d a ty) s) := rfl
  have hsrc : vecSrcs s [⟨a, 64⟩] = .ok [(⟨a, 64⟩, va, pas, x)] := by
    rw [vecSrcs, show sAddr (readReg s s.cur (sWord (⟨a, 64⟩ : VOp).ref.ptr)) = va from hva]
    simp only [ha, vecSrcs]
  subst hdva
  rw [hi, vec, issue_of_may hm, hty]
  refine congrArg _ (vecExec_go (repFlush_off hr _).symm rfl (by rw [repWaits, hr, Bool.false_and]) (fun o ho => ?_) hd hk hsrc)
  rcases List.mem_cons.mp ho with rfl | ho
  · exact hn d (by simp)
  · obtain rfl := List.mem_singleton.mp ho
    exact hn a (by simp)

/-- An operand in HBM of a module that answers. -/
def InHbm (s : State) (pas : List Nat) : Prop := ∀ p ∈ pas, isHbm p = true ∧ answers s (moduleOf p) = true

theorem pendBank_inHbm {s : State} {pas : List Nat} (h : InHbm s pas) : pendBank s pas = none :=
  pendBank_hbm fun a ha => beq_iff_eq.mp (h a ha).1

theorem pendBank_append {s : State} {ps qs : List Nat} (hp : pendBank s ps = none) (hq : pendBank s qs = none) :
    pendBank s (ps ++ qs) = none := by
  simp only [pendBank, List.findSome?_append, Option.or_eq_none_iff] at hp hq ⊢
  exact ⟨hp, hq⟩

theorem pendBank_home {s : State} (hc : s.cur < 8192) {o n : Nat} (hn : o + n ≤ 0x30000) : pendBank s (homePas s o n) = none :=
  List.findSome?_eq_none_iff.mpr fun a ha => by rw [bankOf_home hc hn ha]; rfl

theorem noAnswer_inHbm {s : State} {pas : List Nat} (h : InHbm s pas) (va : Nat) : noAnswer s va pas = none := by
  rw [noAnswer, Option.map_eq_none_iff, List.findIdx?_eq_none_iff]
  intro a ha
  rw [(h a ha).2, beq_iff_eq.mp (h a ha).1]
  rfl

/-- The words of an operand that is not empty. -/
theorem vecWords_ne_nil {va : Nat} {pas : List Nat} {x : Xl} (h : pas ≠ []) : vecWords va pas x ≠ [] := by
  intro e
  obtain ⟨p, l, rfl⟩ := List.exists_cons_of_ne_nil h
  have := vecWords_pas va (p :: l) x
  rw [e, List.map_nil, List.map_cons, List.eraseDups_cons, List.map_cons] at this
  contradiction

theorem vecMarks_away {s : State} {va : Nat} {pas : List Nat} {x : Xl} (h : ∀ w ∈ vecWords va pas x, wordNow s x w = none)
    (hc : CleanAt s pas) : ∀ p ∈ vecMarks s va pas x, p = false := by
  intro p hp
  obtain ⟨w, hw, hp⟩ := List.mem_flatMap.mp hp
  rw [wordMarks, h w hw] at hp
  obtain ⟨a, ha, rfl⟩ := List.mem_map.mp hp
  obtain ⟨b, -, e⟩ := mem_vecWords hw
  exact isPsn_clean hc (List.mem_of_mem_filter (e ▸ ha))

/-- Accesses to HBM do not hold up one to the own scratchpad. -/
theorem atOnce_withSent {s : State} (hc : s.cur < 8192) {o n : Nat} (hn : o + n ≤ 0x30000) {w : Bool} {l : List Access} (k : Nat)
    (hl : ∀ y ∈ l, y.acq = none ∧ ∀ q ∈ y.pas, isHbm q = true) (h : atOnce s s.cur (homePas s o n) w = true) :
    atOnce (withSent s l k) s.cur (homePas s o n) w = true := by
  have hb : chunkBusy l s.cur (homePas s o n) = false := by
    simp only [chunkBusy, List.any_eq_false, Bool.and_eq_true, Bool.or_eq_true, List.any_eq_true, decide_eq_true_eq]
    rintro y hy ⟨-, ⟨h, -⟩ | ⟨p, hp, q, hq, e⟩⟩
    · rw [(hl y hy).1] at h; contradiction
    · have := isHbm_chunk e
      rw [isHbm_home hc hn hp, (hl y hy).2 q hq] at this
      contradiction
  have hf : chunkBusy (s.flight ++ l) s.cur (homePas s o n) = chunkBusy s.flight s.cur (homePas s o n) := by
    rw [chunkBusy, List.any_append]
    exact (congrArg (_ || ·) hb).trans (Bool.or_false _)
  rw [atOnce, ← hf] at h
  exact h

/-! The source in HBM. -/

/-- The machine with an execution waiting for its source words, and its result outstanding in the own storage (R289). -/
def vecWait (s : State) (i : Instr) (uid : Nat) (cells : List VCell) (q : VReads) : State :=
  modSlot (vecOwn s uid cells none) s.cur fun x => { x with
    vpend := x.vpend ++ [⟨uid, i, x.hsw, q, []⟩]
    outs := if cells.isEmpty then x.outs ++ [{ dest := [], val := none, psn := false, src := none, vec := some uid }] else x.outs }

theorem vecPut_wait {i : Instr} {uid : Nat} {dp : List Nat × Xl} {cells : List VCell} {q : VReads × State} {f : VFun}
    (hq : allThere q.1 = false) (hown : dp.2.own = true) (hat : atOnce q.2 q.2.cur dp.1 true = true) :
    vecPut i uid dp cells q f = vecWait (noteWrite q.2 q.2.cur dp.1) i uid cells q.1 := by
  have hat' : atOnce (noteWrite q.2 q.2.cur dp.1) q.2.cur dp.1 true = true := by rw [atOnce_noteWrite]; exact hat
  rw [vecPut, vecWait, (onlyOutstanding_noteWrite ..).cur]
  simp only [hq, hown, hat', Bool.false_and, notePsn, Bool.false_eq_true, if_false, if_true, Bool.and_self]

theorem onlyOutstanding_vecWait (s : State) (i : Instr) (uid : Nat) (cells : List VCell) (q : VReads) :
    OnlyOutstanding s (vecWait s i uid cells q) := by
  have h := onlyOutstanding_vecOwn s uid cells none
  refine h.trans ?_
  rw [vecWait]
  conv_rhs => arg 2; rw [← h.cur]
  exact onlyOutstanding_modSlot ⟨_, _, rfl⟩

theorem vecWait_slot (s : State) (i : Instr) (uid : Nat) (cells : List VCell) (q : VReads) :
    (∃ w, ⟨uid, i, w, q, []⟩ ∈ (getSlot (vecWait s i uid cells q) s.cur).vpend) ∧
      ∀ e ∈ (getSlot (vecOwn s uid cells none) s.cur).outs, e ∈ (getSlot (vecWait s i uid cells q) s.cur).outs := by
  rw [vecWait, getSlot_modSlot_self]
  refine ⟨⟨_, List.mem_append_right _ (List.mem_singleton_self _)⟩, fun e he => ?_⟩
  dsimp only
  split
  · exact List.mem_append_left _ he
  · exact he

section
variable {s : State} {sw : Bool} {d a : SRef} {ty : ElemType} {od va : Nat} {pas : List Nat} {x : Xl}

/-- The loads that a VMOV sends for its source. -/
def movLoads (s : State) (va : Nat) (pas : List Nat) (x : Xl) : List Access :=
  wordLoads s.cur (tagOf s s.cur) x s.uid (s.uid + 1) (vecWords va pas x)

theorem mem_movLoads {y : Access} (h : y ∈ movLoads s va pas x) :
    (y.op = .load ∧ y.dest = .vec ∧ y.hart = s.cur ∧ y.st = .flying) ∧ y.acq = none ∧ ∀ q ∈ y.pas, q ∈ pas := by
  obtain ⟨m, w, hw, rfl⟩ := mem_wordLoads h
  obtain ⟨b, -, e⟩ := mem_vecWords hw
  exact ⟨⟨rfl, rfl, rfl, rfl⟩, rfl, fun q hq => List.mem_of_mem_filter (e ▸ (show q ∈ w.pas from hq))⟩

theorem readAll_away (hx : x.own = false) (hw : ∀ w ∈ vecWords va pas x, wordNow s x w = none) :
    readAll s [(⟨a, 64⟩, va, pas, x)] = ([(movLoads s va pas x).map fun y => onItsWay y.uid],
      withSent s (movLoads s va pas x) (s.uid + 1 + (vecWords va pas x).length)) := by
  have hnow : ∀ w ∈ vecWords va pas x, wordNow (withSent s [] (s.uid + 1)) x w = none := fun w h => wordNow_sent hx _ _ (hw w h)
  have he : withSent s [] (s.uid + 1) = { s with uid := s.uid + 1 } := by simp [withSent]
  rw [he] at hnow
  have h := vecRead_sent (grp := s.uid) hx hnow
  simp only [readAll, vecReads, h]
  rfl

theorem allThere_away (h : pas ≠ []) : allThere [(movLoads s va pas x).map fun y => onItsWay y.uid] = false := by
  have hne : movLoads s va pas x ≠ [] := fun e => vecWords_ne_nil (va := va) (x := x) h
    (List.map_eq_nil_iff.mp ((wordLoads_pas ..).symm.trans (congrArg (List.map (·.pas)) e)))
  obtain ⟨y, l, e⟩ := List.exists_cons_of_ne_nil hne
  rw [e]
  rfl

/-- Nothing holds up or refuses a VMOV from HBM to the own scratchpad. -/
theorem vecFree_from_hbm (hc : s.cur < 8192) (hn : od + 64 ≤ 0x30000) (hr : repOn s s.cur = false) (hx : x.own = false) (hh : InHbm s pas)
    (hdc : PtrClean s d) (hac : PtrClean s a) (hcl : CleanAt s pas) (hw : ∀ w ∈ vecWords va pas x, wordNow s x w = none) :
    VecFree s [⟨d, 64⟩, ⟨a, 64⟩] (homePas s od 64, ownXl s od 64) [(⟨a, 64⟩, va, pas, x)] := by
  have hp : placedPas [((⟨a, 64⟩ : VOp), va, pas, x)] = pas := by simp [placedPas]
  refine ⟨by rw [repWaits, hr, Bool.false_and], ?_, ?_, ?_, .inl rfl, ?_, by rw [readAll_away hx hw]; rfl⟩
  · rw [hp]; exact pendBank_append (pendBank_inHbm hh) (pendBank_home hc hn)
  · simpa using noAnswer_inHbm hh va
  · simpa using ⟨hdc, hac⟩
  · simpa using firstMark_clean (vecMarks_away hw hcl) va

/-- A VMOV from HBM sends its loads, and its result waits for them (R289, R308). -/
theorem mov_from_hbm (o : Ordinary s) (hm : MayIssue s .vec 0) (hdt : (fmtOf s).dt = none) (hr : repOn s s.cur = false)
    (hx : x.own = false) (hh : InHbm s pas) (hd : PtrAt s d od) (hhome : Home s od 64 true)
    (han : fld (readReg s s.cur (32 + a.ptr.val)) 63 58 ≠ 0) (hac : PtrClean s a)
    (hva : sAddr (readReg s s.cur (32 + a.ptr.val)) = va) (hpl : vecPlace s va 64 .read = .ok (pas, x)) (hcl : CleanAt s pas)
    (hw : ∀ w ∈ vecWords va pas x, wordNow s x w = none) :
    Does (.vmov sw d a ty) s fun u => VecLeft s u [d, a] ∧ ∃ (l : List Access) (p : VPend),
      u.flight = s.flight ++ l ∧ p ∈ (getSlot u s.cur).vpend ∧ l.map (·.pas) = (vecWords va pas x).map (·.pas) ∧
      (∀ y ∈ l, y.op = .load ∧ y.dest = .vec ∧ y.hart = s.cur ∧ y.st = .flying) ∧
      p.ins = .vmov sw d a ty ∧ p.srcs = [l.map fun y => (some y.uid, [], [])] ∧ p.writes = [] ∧
      ∀ i, i < 64 → ¬ StepsAt s [d, a] (scratchPa s (coreOf s.cur) (od + i)) → ∃ e ∈ (getSlot u s.cur).outs,
        (scratchPa s (coreOf s.cur) (od + i), i) ∈ e.dest ∧ e.val = none ∧ e.vec = some p.uid := by
  obtain ⟨⟨hdn, hdva⟩, hdc⟩ := hd
  obtain ⟨hn, -, hat⟩ := hhome
  have hc : s.cur < 8192 := o.1.1
  have hne : pas ≠ [] := fun e => by have := (vecPlace_bytes hpl).1; rw [e] at this; contradiction
  have hgo := mov_goes (sw := sw) (ty := ty) hm hdt hr (by simpa using ⟨hdn, han⟩) hdva hva (vecPlace_own hc hn (by decide) .write)
    (wrCheck_own hn _) hpl
  have hread := readAll_away (a := a) hx hw
  have hfree := vecFree_from_hbm (d := d) (a := a) hc hn hr hx hh hdc hac hcl hw
  have hat' := atOnce_withSent hc hn (s.uid + 1 + (vecWords va pas x).length) (l := movLoads s va pas x)
    (fun y hy => ⟨(mem_movLoads hy).2.1, fun q hq => (hh q ((mem_movLoads hy).2.2 q hq)).1⟩) hat
  rw [vecGo_free (repFlush_off hr _).symm rfl hfree, hread, vecPut_wait (allThere_away hne) rfl hat'] at hgo
  set t := withSent s (movLoads s va pas x) (s.uid + 1 + (vecWords va pas x).length)
  set n := noteWrite t t.cur (homePas s od 64) with hndef
  set cells := vecCells (window0 + od) (homePas s od 64, ownXl s od 64) (stepBytes s [⟨d, 64⟩, ⟨a, 64⟩])
  have hnote : OnlyOutstanding s n := (show OnlyOutstanding s t from ⟨rfl, rfl, rfl, rfl, rfl, ⟨_, _, rfl⟩, fun _ _ => rfl⟩).trans
    (onlyOutstanding_noteWrite ..)
  set v := vecWait n (.vmov sw d a ty) s.uid cells [(movLoads s va pas x).map fun y => onItsWay y.uid]
  have hput : OnlyOutstanding s v := hnote.trans (onlyOutstanding_vecWait ..)
  have oput : Ordinary v := ⟨hput.placed o.1, hput.mem ▸ o.2⟩
  have hend := stillOutstanding_end oput [⟨d, 64⟩, ⟨a, 64⟩] sw
  obtain ⟨⟨w, hpend⟩, houts⟩ := vecWait_slot n (.vmov sw d a ty) s.uid cells [(movLoads s va pas x).map fun y => onItsWay y.uid]
  have hgo : exec (.vmov sw d a ty) s = .next (vecRetire (vecStep v [⟨d, 64⟩, ⟨a, 64⟩]) sw) := hgo
  refine ⟨_, hgo, ?_⟩
  refine ⟨vecLeft_end o hput [⟨d, 64⟩, ⟨a, 64⟩] sw, movLoads s va pas x,
    ⟨s.uid, .vmov sw d a ty, w, [(movLoads s va pas x).map fun y => onItsWay y.uid], []⟩, ?_, ?_,
    wordLoads_pas .., fun y hy => (mem_movLoads hy).1, rfl, rfl, rfl, fun i hi hns => ?_⟩
  · rw [hend.flight, show v.flight = (vecOwn n s.uid cells none).flight from rfl, vecOwn_flight, hndef, (noteWrite_rest ..).1]
    rfl
  · rw [← hput.cur, hend.vpend, hput.cur, ← hnote.cur]
    exact hpend
  · have hget : (homePas s od 64)[i]? = some (scratchPa s (coreOf s.cur) (od + i)) := by
      rw [homePas, getElem?_span hi, scratchPa_add]
    have hs : scratchPa s (coreOf s.cur) (od + i) ∉ stepBytes s [⟨d, 64⟩, ⟨a, 64⟩] := fun hmem => hns (mem_stepBytes.mp hmem)
    obtain ⟨e, he, hdest, hval, -, hvec⟩ := vecOwn_cell (s := n) (uid := s.uid) (va := window0 + od) none
      (d := (homePas s od 64, ownXl s od 64)) hget hs
    have he' := houts e he
    rw [hnote.cur, ← hput.cur] at he'
    obtain ⟨e', hm', ⟨hv', -, hc'⟩, hd'⟩ := hend.dest he'
    rw [hput.cur] at hm'
    exact ⟨e', hm', hd' _ hdest fun hmem => hns ((hput.stepsAt_iff _ _).mp hmem), hv'.trans hval, hc'.trans hvec⟩

end

end Sys2Proof.Machine
end

section
namespace Sys2Proof.Machine

/-! The destination in HBM: its words posted under one journal entry for each chunk (R197, R289, R290, R308). -/

/-- The bytes that an access stores, each with its place. -/
def storedBytes (y : Access) : List (Nat × Byte) :=
  match y.op with
  | .store bs => y.pas.zip bs
  | _ => []

/-- The executing hart has sent these accesses, clean and under one key, and taken these journal entries; else only what is
outstanding has changed. -/
structure Posted (key : Nat) (s t : State) (l : List Access) (es : List JEnt) : Prop where
  only : OnlyOutstanding s t
  flight : t.flight = s.flight ++ l
  each : ∀ y ∈ l, y.hart = s.cur ∧ y.st = .flying ∧ y.key = key ∧ y.psn = false
  journal : (getCore t (coreOf s.cur)).journal = (getCore s (coreOf s.cur)).journal ++ es
  entries : ∀ e ∈ es, e.hart = s.cur ∧ e.refused = none

theorem posted_refl (key : Nat) (s : State) : Posted key s s [] [] :=
  ⟨onlyOutstanding_refl s, (List.append_nil _).symm, by simp, (List.append_nil _).symm, by simp⟩

theorem Posted.trans {key : Nat} {s t u : State} {l m : List Access} {es fs : List JEnt} (h : Posted key s t l es)
    (k : Posted key t u m fs) : Posted key s u (l ++ m) (es ++ fs) := by
  have hc := h.only.cur
  obtain ⟨ko, kf, ke, kj, kn⟩ := k
  rw [hc] at ke kj kn
  refine ⟨h.only.trans ko, by rw [kf, h.flight, List.append_assoc], fun y hy => ?_, by rw [kj, h.journal, List.append_assoc], fun e he => ?_⟩
  · exact (List.mem_append.mp hy).elim (h.each y) (ke y)
  · exact (List.mem_append.mp he).elim (h.entries e) (kn e)

/-- Groups posted in turn: their bytes in order, and the entries that each takes. -/
theorem posted_foldl {key k : Nat} {β γ : Type} {f : State × β → γ → State × β} {W : γ → List (Nat × Byte)} {gs : List γ}
    (step : ∀ q, ∀ g ∈ gs, ∃ l es, Posted key q.1 (f q g).1 l es ∧ l.flatMap storedBytes = W g ∧ es.length = k) (q : State × β) :
    ∃ l es, Posted key q.1 (gs.foldl f q).1 l es ∧ l.flatMap storedBytes = gs.flatMap W ∧ es.length = gs.length * k := by
  induction gs generalizing q with
  | nil => exact ⟨[], [], posted_refl .., rfl, by simp⟩
  | cons g gs ih =>
    obtain ⟨l, es, h, hl, hk⟩ := step q g List.mem_cons_self
    obtain ⟨m, fs, h', hm, hk'⟩ := ih (fun q x hx => step q x (List.mem_cons_of_mem _ hx)) (f q g)
    refine ⟨l ++ m, es ++ fs, h.trans h', by rw [List.flatMap_append, hl, hm, List.flatMap_cons], ?_⟩
    rw [List.length_append, hk, hk', List.length_cons, Nat.succ_mul, Nat.add_comm]

/-- The bytes that a result writes to cells. -/
def cellBytes (bs : List Byte) (g : List VCell) : List (Nat × Byte) := g.map fun c => (c.pa, bs.getD c.i 0)

/-- The groups of rising cells hold their bytes in order. -/
theorem cellGroups_bytes {cells : List VCell} (h : (cells.map (·.pa)).Pairwise (· ≤ ·)) (z : Nat) (bs : List Byte) :
    (cellGroups z cells).flatMap (cellBytes bs) = cellBytes bs cells := by
  have hr : cells.Pairwise fun c e : VCell => c.pa / z ≤ e.pa / z := (List.pairwise_map.mp h).imp fun h => Nat.div_le_div_right h
  have hg : (cellGroups z cells).flatMap id = cells := by
    rw [cellGroups, List.flatMap_map]; exact flatMap_groups (fun c : VCell => c.pa / z) hr
  conv_rhs => rw [← hg, cellBytes, List.map_flatMap]
  rfl

/-- A group has a cell, and is in order a part of the cells. -/
theorem mem_cellGroups_iff {z : Nat} {cells g : List VCell} (h : g ∈ cellGroups z cells) : g ≠ [] ∧ g.Sublist cells := by
  obtain ⟨w, hw, rfl⟩ := List.mem_map.mp h
  obtain ⟨c, hc, rfl⟩ := List.mem_map.mp (List.mem_eraseDups.mp hw)
  exact ⟨List.ne_nil_of_mem (List.mem_filter.mpr ⟨hc, by simp⟩), List.filter_sublist⟩

section
variable {cache : Bool} {uid key : Nat} {all : List VCell} {bs : List Byte} {ps : List Bool} (hps : ∀ p ∈ ps, p = false)
include hps

/-- A word of a clean result is posted. -/
theorem posted_vecWord {dest : AccDest} (q : State × List (Nat × List Nat)) {g : List VCell} (hg : g ≠ []) (hk : ∀ c ∈ g, c.key = key) :
    ∃ l es, Posted key q.1 (vecWord cache dest uid all (some (bs, ps)) q g).1 l es ∧ l.flatMap storedBytes = cellBytes bs g ∧
      es.length = 0 := by
  obtain ⟨c, g, rfl⟩ := List.exists_cons_of_ne_nil hg
  refine ⟨_, [], ⟨?_, rfl, fun y hy => ?_, (List.append_nil _).symm, by simp⟩, ?_, rfl⟩
  · exact ⟨rfl, rfl, rfl, rfl, rfl, ⟨_, _, getSlot_modSlot_self ..⟩, fun _ hk => getSlot_modSlot_ne _ _ hk⟩
  · obtain rfl := List.mem_singleton.mp hy
    exact ⟨rfl, rfl, hk c List.mem_cons_self, resPsn_clean hps _⟩
  · rw [List.flatMap_singleton, storedBytes, cellBytes]
    simp only [List.map_map, List.zip_map']
    rfl

/-- A chunk of a clean result is posted under one entry. -/
theorem posted_vecPost (q : State × List (Nat × List Nat)) {cs : List VCell} (hr : (cs.map (·.pa)).Pairwise (· ≤ ·))
    (hk : ∀ c ∈ cs, c.key = key) : ∃ l es, Posted key q.1 (vecPost cache uid all (some (bs, ps)) q cs).1 l es ∧
      l.flatMap storedBytes = cellBytes bs cs ∧ es.length = 1 := by
  have htake (a n : Nat) : ∃ e, Posted key q.1 (takeEntries q.1 q.1.cur false a n).1 [] [e] :=
    ⟨_, ⟨rfl, rfl, rfl, rfl, rfl, ⟨_, _, rfl⟩, fun _ _ => rfl⟩, (List.append_nil _).symm, by simp,
      by rw [takeEntries, getCore_modCore_self], by simp⟩
  obtain ⟨e, he⟩ := htake ((cs.headD ⟨0, 0, 0, 0⟩).va % 2 ^ 56) (cellGroups 8 cs).length
  obtain ⟨l, es, h, hl, hn⟩ := posted_foldl (k := 0) (gs := cellGroups 8 cs) (W := cellBytes bs)
    (fun r g hg => posted_vecWord (cache := cache) (uid := uid) (all := all) (bs := bs) hps
      (dest := .journal (coreOf q.1.cur) ((getSlot q.1 q.1.cur).wp / 512)
        (takeEntries q.1 q.1.cur false ((cs.headD ⟨0, 0, 0, 0⟩).va % 2 ^ 56) (cellGroups 8 cs).length).2) r
      (mem_cellGroups_iff hg).1 fun c hc => hk c ((mem_cellGroups_iff hg).2.subset hc))
    ((takeEntries q.1 q.1.cur false ((cs.headD ⟨0, 0, 0, 0⟩).va % 2 ^ 56) (cellGroups 8 cs).length).1, q.2)
  refine ⟨_, _, he.trans h, by rw [List.nil_append, hl, cellGroups_bytes hr], ?_⟩
  rw [List.length_append, hn]
  rfl

/-- A clean result is posted chunk by chunk (R289). -/
theorem posted_vecFar (s : State) {cells : List VCell} (hr : (cells.map (·.pa)).Pairwise (· ≤ ·)) (hk : ∀ c ∈ cells, c.key = key) :
    ∃ l es, Posted key s (vecFar s false cache uid cells (some (bs, ps))).1 l es ∧ l.flatMap storedBytes = cellBytes bs cells ∧
      es.length = (chunks (cells.map (·.pa))).length := by
  have hdrop : Posted key s (dropOuts s s.cur (cells.map (·.pa))) [] [] := by
    have hset : setting (dropOuts s s.cur (cells.map (·.pa))) = setting s := setting_dropOuts ..
    refine ⟨onlyOutstanding_dropOuts .., ?_, by simp, ?_, by simp⟩
    · rw [List.append_nil]; exact (congrArg State.flight hset :)
    · rw [List.append_nil]
      rcases dropOuts_or s s.cur (cells.map (·.pa)) with e | e
      · rw [e]
      · rw [e]; rfl
  obtain ⟨l, es, h, hl, hn⟩ := posted_foldl (k := 1) (gs := cellGroups 64 cells) (W := cellBytes bs)
    (fun q g hg => posted_vecPost (cache := cache) (uid := uid) (all := cells) (bs := bs) hps q
      (hr.sublist ((mem_cellGroups_iff hg).2.map _)) fun c hc => hk c ((mem_cellGroups_iff hg).2.subset hc))
    (dropOuts s s.cur (cells.map (·.pa)), [])
  refine ⟨l, es, hdrop.trans h, by rw [hl, cellGroups_bytes hr], ?_⟩
  rw [hn, Nat.mul_one, cellGroups, List.length_map, chunks, List.map_map]
  rfl

end

/-- The cells of a destination that no stepped pointer takes. -/
theorem vecCells_apart {va : Nat} {d : List Nat × Xl} {steps : List Nat} (h : ∀ p ∈ d.1, p ∉ steps) :
    vecCells va d steps = (d.1.zip (span 0 d.1.length)).map fun e => ⟨e.2, e.1, va + e.2, d.2.keyOf e.2⟩ := by
  rw [vecCells, ← List.filterMap_eq_map]
  refine List.filterMap_congr fun e he => ?_
  have := h e.1 (List.of_mem_zip he).1
  simp [this]

theorem vecCells_pas {va : Nat} {d : List Nat × Xl} {steps : List Nat} (h : ∀ p ∈ d.1, p ∉ steps) :
    (vecCells va d steps).map (·.pa) = d.1 := by
  rw [vecCells_apart h, List.map_map]
  exact List.map_fst_zip (by simp)

theorem vecCells_key {va : Nat} {d : List Nat × Xl} {steps : List Nat} (h : ∀ p ∈ d.1, p ∉ steps) (hp : d.2.past = none) :
    ∀ c ∈ vecCells va d steps, c.key = d.2.key := by
  rw [vecCells_apart h]
  intro c hc
  obtain ⟨e, -, rfl⟩ := List.mem_map.mp hc
  simp only [Xl.keyOf, hp]

theorem vecCells_bytes {va : Nat} {d : List Nat × Xl} {steps : List Nat} {bs : List Byte} (h : ∀ p ∈ d.1, p ∉ steps)
    (hl : bs.length = d.1.length) : cellBytes bs (vecCells va d steps) = d.1.zip bs := by
  rw [vecCells_apart h, cellBytes, List.map_map]
  refine List.ext_getElem (by simp [hl]) fun k h1 h2 => ?_
  have hk : k < d.1.length := by simpa using h1
  have hs : (span 0 d.1.length)[k]'(by simpa using hk) = k := by
    have := getElem?_span (a := 0) hk
    rw [List.getElem?_eq_getElem (by simpa using hk)] at this
    simpa using this
  simp [hs, List.getD_eq_getElem?_getD, hl, hk]

/-- A result that is there, with its destination elsewhere, is posted. -/
theorem vecPut_far {i : Instr} {uid : Nat} {dp : List Nat × Xl} {cells : List VCell} {q : VReads × State} {f : VFun} {l : List VSrc}
    (hq : allThere q.1 = true) (hsrc : q.1.map srcOf = l) (hclean : (l.any fun y => y.psn.any id) = false) (hown : dp.2.own = false) :
    vecPut i uid dp cells q f = (vecFar (noteWrite q.2 q.2.cur dp.1) false dp.2.cache uid cells (some (f l))).1 := by
  subst hsrc
  rw [List.any_map] at hclean
  have hclean' : (q.1.any fun l => (srcOf l).psn.any id) = false := hclean
  rw [vecPut]
  simp only [hq, hown, hclean', Bool.and_false, Bool.false_and, notePsn, Bool.false_eq_true, if_false, if_true]

section
variable {s : State} {sw : Bool} {d a : SRef} {ty : ElemType} {oa dva : Nat} {pas : List Nat} {x : Xl}

theorem stepBytes_plain (p : Placed s s.cur) (ops : List VOp) : ∀ q ∈ stepBytes s ops, isHbm q = false := by
  intro q hq
  obtain ⟨r, -, -, hm⟩ := mem_stepBytes.mp hq
  exact reg_plain p (by omega) q hm

theorem stepBytes_apart (p : Placed s s.cur) (hh : InHbm s pas) (ops : List VOp) : ∀ q ∈ pas, q ∉ stepBytes s ops := fun q hq hm => by
  have := stepBytes_plain p ops q hm
  rw [(hh q hq).1] at this
  contradiction

/-- Nothing holds up or refuses a VMOV from the own scratchpad to HBM. -/
theorem vecFree_to_hbm (p : Placed s s.cur) (hr : repOn s s.cur = false) (hh : InHbm s pas) (hhome : Home s oa 64 false)
    (hcl : CleanAt s (homePas s oa 64)) (hdc : PtrClean s d) (hac : PtrClean s a) (hj : journalRooms s s.cur (chunks pas).length = true) :
    VecFree s [⟨d, 64⟩, ⟨a, 64⟩] (pas, x) [ownSrc s (a, oa, 64)] := by
  obtain ⟨hn, hans, hat⟩ := hhome
  have hs : ∀ y ∈ [(a, oa, 64)], SrcHome s y := fun y hy => by
    obtain rfl := List.mem_singleton.mp hy
    exact ⟨hn, hat⟩
  have hp : placedPas [ownSrc s (a, oa, 64)] = homePas s oa 64 := by simp [placedPas, ownSrc]
  have hf : (pas.filter fun q => !(stepBytes s [⟨d, 64⟩, ⟨a, 64⟩]).contains q) = pas := List.filter_eq_self.mpr fun q hq => by
    simpa using stepBytes_apart p hh _ q hq
  have hread := vecReads_home (s := { s with uid := s.uid + 1 }) (grp := s.uid) p.1 hs
  refine ⟨by rw [repWaits, hr, Bool.false_and], ?_, ?_, ?_, .inr ?_, ?_, congrArg (fun q : VReads × State => q.2.cur) hread⟩
  · rw [hp]; exact pendBank_append (pendBank_home p.1 hn) (pendBank_inHbm hh)
  · rintro y hy
    obtain rfl := List.mem_singleton.mp hy
    exact noAnswer_home p.1 hn hans _
  · simpa using ⟨hdc, hac⟩
  · rw [destChunks, hf]; exact hj
  · simp only [List.mem_singleton, forall_eq]
    refine firstMark_clean (fun b hb => ?_) _
    rw [show vecMarks s (ownSrc s (a, oa, 64)).2.1 (ownSrc s (a, oa, 64)).2.2.1 (ownSrc s (a, oa, 64)).2.2.2 = _
      from vecMarks_home p.1 (hs _ (List.mem_singleton_self _))] at hb
    obtain ⟨q, hq, rfl⟩ := List.mem_map.mp hb
    exact isPsn_clean hcl hq

/-- A VMOV to HBM posts its words, those of a chunk under one journal entry (R289, R308). -/
theorem mov_to_hbm (o : Ordinary s) (hm : MayIssue s .vec 0) (hdt : (fmtOf s).dt = none) (hr : repOn s s.cur = false)
    (hx : x.own = false) (hh : InHbm s pas) (ha : PtrAt s a oa) (hhome : Home s oa 64 false) (hcl : CleanAt s (homePas s oa 64))
    (hdn : fld (readReg s s.cur (32 + d.ptr.val)) 63 58 ≠ 0) (hdc : PtrClean s d)
    (hdva : sAddr (readReg s s.cur (32 + d.ptr.val)) = dva) (hpl : vecPlace s dva 64 .write = .ok (pas, x)) (hpast : x.past = none)
    (hk : wrCheck s s.cur dva x pas = none) (hj : journalRooms s s.cur (chunks pas).length = true) :
    Does (.vmov sw d a ty) s fun u => VecLeft s u [d, a] ∧ ∃ (l : List Access) (es : List JEnt),
      u.flight = s.flight ++ l ∧ (∀ y ∈ l, y.hart = s.cur ∧ y.st = .flying ∧ y.key = x.key ∧ y.psn = false) ∧
      l.flatMap storedBytes = pas.zip (homeBytes s oa 64) ∧
      (getCore u (coreOf s.cur)).journal = (getCore s (coreOf s.cur)).journal ++ es ∧
      es.length = (chunks pas).length ∧ ∀ e ∈ es, e.hart = s.cur ∧ e.refused = none := by
  obtain ⟨⟨han, hva⟩, hac⟩ := ha
  obtain ⟨hlen, hrow⟩ := vecPlace_bytes hpl
  have hc : s.cur < 8192 := o.1.1
  have hgo := mov_goes (sw := sw) (ty := ty) hm hdt hr (by simpa using ⟨hdn, han⟩) hdva hva hpl hk
    (vecPlace_own hc hhome.1 (by decide) .read)
  have hread : readAll s [ownSrc s (a, oa, 64)] = ([(ownWords s (a, oa, 64)).map (plainWord s)], { s with uid := s.uid + 1 }) :=
    vecReads_home (s := { s with uid := s.uid + 1 }) (srcs := [(a, oa, 64)]) hc (by simpa using ⟨hhome.1, hhome.2.2⟩)
  have hfree := vecFree_to_hbm (x := x) o.1 hr hh hhome hcl hdc hac hj
  set n := noteWrite { s with uid := s.uid + 1 } s.cur pas
  have hap := stepBytes_apart o.1 hh [⟨d, 64⟩, ⟨a, 64⟩]
  set cells := vecCells dva (pas, x) (stepBytes s [⟨d, 64⟩, ⟨a, 64⟩]) with hcells
  have hput : vecPut (.vmov sw d a ty) s.uid (pas, x) cells (readAll s [ownSrc s (a, oa, 64)]) movF =
      (vecFar n false x.cache s.uid cells (some (homeBytes s oa 64, List.replicate 64 false))).1 := by
    rw [hread]
    exact vecPut_far (l := [cleanSrc s (a, oa, 64)]) (by simp [allThere, plainWord]) (congrArg (fun y => [y]) (srcOf_clean hcl))
      (by simp [cleanSrc]) hx
  have hgo : exec (.vmov sw d a ty) s = .next (vecRetire (vecStep (vecPut (.vmov sw d a ty) s.uid (pas, x) cells
      (readAll s [ownSrc s (a, oa, 64)]) movF) [⟨d, 64⟩, ⟨a, 64⟩]) sw) :=
    hgo.trans (congrArg _ (vecGo_free (repFlush_off hr _).symm rfl hfree))
  rw [hput] at hgo
  obtain ⟨l, es, h, hl, he⟩ := posted_vecFar (cache := x.cache) (uid := s.uid) (key := x.key) (bs := homeBytes s oa 64)
    (ps := List.replicate 64 false) (fun p hp => List.eq_of_mem_replicate hp) n (cells := cells)
    (by rw [hcells, vecCells_pas hap, hrow hpast]; exact span_sorted ..) (vecCells_key hap hpast)
  obtain ⟨hnf, hnc, hns⟩ := noteWrite_rest { s with uid := s.uid + 1 } s.cur pas
  have hnote := onlyOutstanding_noteWrite { s with uid := s.uid + 1 } s.cur pas
  have hn0 : OnlyOutstanding s n := ⟨hnote.mem, hnote.cur, hnote.module, hnote.tr, hnote.cycle, hnote.slot, hnote.harts⟩
  have hjn : (getCore n (coreOf s.cur)).journal = (getCore s (coreOf s.cur)).journal := by rw [getCore, getCore, hnc]
  have hall := hn0.trans h.only
  have oput : Ordinary _ := ⟨hall.placed o.1, hall.mem ▸ o.2⟩
  have hend := stillOutstanding_end oput [⟨d, 64⟩, ⟨a, 64⟩] sw
  obtain ⟨-, hf, hee, hje, hne⟩ := h
  rw [hn0.cur] at hee hje hne
  refine ⟨_, hgo, vecLeft_end o hall [⟨d, 64⟩, ⟨a, 64⟩] sw, l, es, ?_, hee, ?_, ?_, ?_, hne⟩
  · rw [hend.flight, hf, hnf]
  · rw [hl, vecCells_bytes hap (by rw [homeBytes_length, hlen])]
  · rw [hend.journal, hje, hjn]
  · rw [he, vecCells_pas hap]

end

end Sys2Proof.Machine
end

section
namespace Sys2Proof.Machine

/-- Settles O20: the copying functions element by element, and the two VMOVs that reach into HBM (R289, R301, R305 to R308). -/
theorem vectorPermutes : Obligations.VectorPermutes := by
  unfold Obligations.VectorPermutes
  intro s sw d a b c ty od oa ob oc
  refine ⟨fun hdt => ?_, fun pas x o hm hdt hr hx hh => ⟨?_, ?_⟩, fun h i p us vs hp hi hdt hsrc hw hlen hcame => ?_⟩
  · exact ⟨sel_does hdt rfl, perm_does hdt rfl, bcast_does hdt rfl, rot_does hdt rfl, zip_does hdt rfl, unzip_does hdt rfl,
      mov_does hdt rfl, zero_does hdt rfl⟩
  · rintro hd hhome ⟨han, hac, hpl⟩ hcl hw
    exact mov_from_hbm o hm hdt hr hx hh hd hhome han hac rfl hpl hcl hw
  · rintro ha hhome hcl ⟨hdn, hdc, hpl⟩ hpast hk hj
    exact mov_to_hbm o hm hdt hr hx hh ha hhome hcl hdn hdc rfl hpl hpast hk hj
  · exact mov_returns hp hi hdt hsrc hw ⟨hlen, hcame⟩

end Sys2Proof.Machine
end
